-- ==== Sys2Proof/Word.lean ====
section
/-! DEFINITION. The word types of the device: the widths that the manual states in bits (R3, R4). -/

namespace Sys2Proof

/-- One byte. -/
abbrev Byte := BitVec 8

/-- A 32-bit register or packet word (R359). -/
abbrev Word32 := BitVec 32

/-- A 64-bit value: an address, a cue count, a digest (R43, R159). -/
abbrev Word64 := BitVec 64

/-- A 16-bit value: an event code, a rank, a company number. -/
abbrev Word16 := BitVec 16

end Sys2Proof
end

