-- ==== Sys2Proof/Syntax.lean ====
section
/-!
DEFINITION. The commands that the block takes: one constructor of Instr for each row of
spec/opcode_table.json, and the data that the commands carry (message headers, frames, packets,
samples), field by field as the manual's tables lay them out.
-/

namespace Sys2Proof

/-- A device queue, 0 to 8,191 (R17). -/
abbrev QueueNo := Fin 8192
/-- A partition, 0 to 15 (R232). -/
abbrev PartNo := Fin 16
/-- A fold, 0 to 31 (R10). -/
abbrev FoldNo := Fin 32
/-- A compute die, its shared-cache slice and its Apron engine, 0 to 3 (R7). -/
abbrev DieNo := Fin 4
/-- An OXL port, 0 to 15 (R308). -/
abbrev PortNo := Fin 16
/-- A lane of a port: 0 to 7 data, 8 the understudy (R308). -/
abbrev LaneNo := Fin 9
/-- A virtual channel, 0 to 7 (R321). -/
abbrev VcNo := Fin 8
/-- A physical stacked-memory channel, 0 to 383 (R7). -/
abbrev ChanNo := Fin 384
/-- A physical cluster: 66 × fold + index within the fold (R10). -/
abbrev ClusterNo := Fin 2112
/-- A gate of a partition (R38). -/
abbrev GateNo := Fin 1024
/-- A hurdle of a partition (R41). -/
abbrev HurdleNo := Fin 256
/-- A PCIe function: 0 the physical function, 1 to 16 the virtual functions (R233, R332). -/
abbrev FnNo := Fin 17
/-- Bytes in increasing address order (R4). -/
abbrev Bytes := List Byte

/-- A requester of register accesses (R361): one PCIe function, the Prompter or the sideband port. -/
inductive Requester where
  | fn (f : FnNo)
  | prompter
  | sideband
  deriving DecidableEq, Repr

/-- A mailbox (R338): one per partition window, the global one, and the sideband's. -/
inductive Mailbox where
  | part (p : PartNo)
  | global
  | sideband
  deriving DecidableEq, Repr

/-- The ring header of R141, less TYPE, which the command's name gives. -/
structure RingHeader where
  bookDigest : Word64
  collSeq : Word64
  company : Word16
  srcRank : Word16
  sweep : Byte
  step : Word16
  owner : Word16
  reason : Word16
  ringDigest : Word32
  epoch : Word64
  tokens : Word32
  payloadLen : Word32
  absentRank : Word16
  slot : Word16
  sendCue : Word64
  deriving DecidableEq, Repr

/-- The collective header of R161, less TYPE, which the command's name gives. A BEACON (R160) uses
bookDigest, srcRank (the sender's NODE) and sendCue alone. -/
structure CollHeader where
  bookDigest : Word64
  collSeq : Word64
  company : Word16
  srcRank : Word16
  opcode : Byte
  dstRank : Word16
  node : Word16
  reason : Word16
  paramDigest : Word32
  epoch : Word64
  count : Word32
  payloadLen : Word32
  absentRank : Word16
  slot : Word16
  unit : Word32
  sendCue : Word64
  deriving DecidableEq, Repr

/-- What the scrub finds at a sector or a line (R214, R192). -/
inductive ScrubOutcome where
  | clean
  | corrected
  | uncorrectable
  deriving DecidableEq, Repr

/-- A repair that a stack reports (R193, R253). -/
inductive HbmRepair where
  | lane
  | row
  deriving DecidableEq, Repr

/-- What a row of a local store shows (R185, R186): an error that its piece's code cannot correct, or one corrected at a bit of the
row. -/
inductive RowError where
  | uncorrectable (piece : Fin 32)
  | corrected (bit : Fin 4096)
  deriving DecidableEq, Repr

/-- A row of a local store and the error that it shows (R186). -/
structure RowFault where
  row : Fin 1536
  error : RowError
  deriving DecidableEq, Repr

/-- The outcome of a Rehearsal run (R213, R215). traffic is GB/s per channel in units of 1/16 GB/s. -/
structure RehOutcome where
  failSectors : Nat
  firstChan : ChanNo
  firstPseudo : Bool
  firstBank : BitVec 6
  firstRow : Word16
  repairedLanes : List ChanNo
  repairedRows : List ChanNo
  unrepairable : List ChanNo
  traffic : Nat
  deriving DecidableEq, Repr

/-- A frame as it stands after FEC decoding (R311): header word, 256 payload bytes, CRC. -/
structure Frame where
  header : Word32
  payload : Bytes
  crc : Word32
  deriving DecidableEq, Repr

/-- The identity record of R315. -/
structure IdRecord where
  bookDigest : Word64
  node : Word16
  port : Byte
  stepping : Byte
  turnaround : Word32
  probe : Word64
  deriving DecidableEq, Repr

/-- A round-trip probe (R311, R325): a request to echo, or the echo with the measured round trip and the
far side's TURNAROUND, both in 1/64 ns. -/
inductive RttProbe where
  | request (stamp : Word64)
  | echo (roundTrip : Nat) (turnaround : Nat)
  deriving DecidableEq, Repr

/-- The cue report of R325 and its arrival, in 1/64 ns after this device's last cue edge. -/
structure CueReport where
  count : Word64
  elapsed : Nat
  depth : Nat
  arrival : Int
  deriving DecidableEq, Repr

/-- The fields that a LINK frame may carry (R311); its acknowledgement stands in the frame header. -/
structure LinkFields where
  nak : Option (BitVec 12)
  credits : List (VcNo × Nat)
  laneSwap : Option LaneNo
  probe : Option RttProbe
  identity : Option IdRecord
  cue : Option CueReport
  deriving DecidableEq, Repr

/-- The route header of R317. -/
structure RouteHeader where
  dst : Word16
  src : Word16
  pseq : Word32
  msgIdx : BitVec 22
  msgLast : Bool
  vc : BitVec 3
  esc : Bool
  cls : Bool
  kind : BitVec 3
  frames : BitVec 6
  hops : Byte
  part : BitVec 4
  deriving DecidableEq, Repr

/-- A packet of 1 to 64 DATA frames (R317): its route header and the bytes that follow it. -/
structure Packet where
  route : RouteHeader
  body : Bytes
  deriving DecidableEq, Repr

/-- Where a packet to be routed stands (R324): originated here, or received whole on a port. -/
inductive PacketOrigin where
  | own
  | port (p : PortNo)
  deriving DecidableEq, Repr

/-- The place that a PEER access names at its target: the partition of the roster entry and a device
address in stacked memory (R54, R235). -/
structure PeerAccess where
  target : PartNo
  addr : Nat
  deriving DecidableEq, Repr

/-- How the target served a PEER access: done, refused under R235 or R373, or, for a read, met poison (R195). -/
inductive PeerStatus where
  | done
  | outOfRange
  | poisoned
  deriving DecidableEq, Repr

/-- A temperature reading in quarters of a degree Celsius (R283, R306). -/
abbrev SensorReading := Int

/-- A rail with a comparator (R285). -/
inductive CurrentRail where
  | vcore (d : DieNo)
  | memory (d : DieNo)
  | link
  | io
  | shepherd
  deriving DecidableEq, Repr

/-- The current that a comparator reads on its rail, in mA (R285). -/
structure RailCurrent where
  rail : CurrentRail
  milliamps : Nat
  deriving DecidableEq, Repr

/-- A rail whose undervoltage triggers the Curtain save (R294). -/
inductive SavedRail where
  | vcore (d : DieNo)
  | vddcM
  | vddqM
  | vppM
  | vlink
  deriving DecidableEq, Repr

/-- The voltage of a saved rail, in mV (R294). -/
structure RailVoltage where
  rail : SavedRail
  millivolts : Nat
  deriving DecidableEq, Repr

/-- The two flow inputs (R286): FLOW_A in units of 0.01 L/min, and whether FLOW_B is closed. -/
structure FlowSample where
  flowA : Nat
  flowBClosed : Bool
  deriving DecidableEq, Repr

/-- A leak-sensing cable (R287). -/
inductive LeakCable where
  | a
  | b
  deriving DecidableEq, Repr

/-- A reading of the VHOLD bank (R298): volts in units of 10 mV, capacitance in units of 10 µF. -/
structure BankSample where
  volts : Nat
  cap : Nat
  deriving DecidableEq, Repr

/-- Where a pair of temperature sensors stands (R283): in a fold, in the hub die, in an HBM4 stack. -/
inductive HeatPlace where
  | fold (f : FoldNo)
  | hub
  | stack (k : Fin 12)
  deriving DecidableEq, Repr

/-- A setting that an adaptive loop requests (R290). -/
inductive LoopRequest where
  /-- A fold's clock in units of 10 MHz, at its measured voltage in mV. -/
  | clock (f : FoldNo) (tenMHz : Nat) (millivolts : Nat)
  /-- The placement loop: let a fold claim, or stop its claims (R80). -/
  | claims (f : FoldNo) (on : Bool)
  /-- An equaliser tap of a lane of a port. -/
  | tap (p : PortNo) (l : LaneNo) (value : Int)
  /-- A channel's refresh interval, in ns, with the temperature that its stack reports, in quarters of a degree. -/
  | refresh (c : ChanNo) (interval : Nat) (reported : Nat)
  deriving DecidableEq, Repr

/-- What the bring-up sequencer finds (R353): clusters that fail self-test and channels that stay
unrepairable. -/
structure BringupOutcome where
  failedClusters : List ClusterNo
  unrepairable : List ChanNo
  deriving DecidableEq, Repr

/-- An ABSENT header as it bears on a job (R146, R168, R258, R266): the company it came on, the rank it
declares absent, and its SEND_CUE. -/
structure AbsentHeader where
  company : Word16
  absentRank : Word16
  sendCue : Word64
  deriving DecidableEq, Repr

/-- The commands of the block: one constructor per row of spec/opcode_table.json, in the table's order.
The docstring of each constructor is the table's own summary of the step and the rule it cites. -/
inductive Instr where
  /-- R52. NOP retires at issue; with IMM[0] END set it is the queue's scene mark. -/
  | nop (q : QueueNo)
  /-- R25. SCENE.BEGIN checks the scene block named by its parameter descriptor and makes a new scene ready. -/
  | sceneBegin (q : QueueNo)
  /-- R26. A SCENE.BEGIN that waited at the ready-scene limit or at a boundary retires once it may. -/
  | sceneBeginRetire (q : QueueNo)
  /-- R27. SCENE.END issues in a control queue and waits for every queue of the scene to finish; with no scene open it retires with E_SCENE. -/
  | sceneEnd (q : QueueNo)
  /-- R27. SCENE.END retires once every listed queue has retired its scene mark or halted, and the device writes the scene account record. -/
  | sceneEndRetire (q : QueueNo)
  /-- R26. When no scene of a partition is running, the device runs its ready scene of highest priority, oldest first among equals. -/
  | sceneRun (p : PartNo)
  /-- R30. PREEMPT.OK marks a numbered point at which the running scene may be switched out. -/
  | preemptOk (q : QueueNo)
  /-- R36. CHAIN issues its next 2 to 8 packets as one overlapped instruction that hands tiles between stages through local store. -/
  | chain (q : QueueNo)
  /-- R37. Space or data arriving at a chain port lets the waiting writer stage or reader stage go on. -/
  | chainPortCredit (port : Word16)
  /-- R38. GATE.ACQ decrements a gate whose count is above 0, after the rank check of R39, or else waits. -/
  | gateAcq (q : QueueNo)
  /-- R38. A waiting GATE.ACQ acquires its gate once the count is above 0, taking E_BROKEN if the gate is marked broken. -/
  | gateAcqGrant (p : PartNo) (g : GateNo)
  /-- R38. GATE.REL increments the gate's count, saturating at 65,535, with release semantics. -/
  | gateRel (q : QueueNo)
  /-- R41. HURDLE counts one arrival at a hurdle generation, in the WAIT or the ARRIVE form. -/
  | hurdle (q : QueueNo)
  /-- R41. A generation holding n arrivals, with its writes visible, completes and retires its WAIT arrivals. -/
  | hurdleGenerationComplete (p : PartNo) (h : HurdleNo)
  /-- R43. CUE.STAMP writes the current cue and the reference fold's cycle count, 16 bytes. -/
  | cueStamp (q : QueueNo)
  /-- R70. PROP.READ writes the 64-bit value of the queried property. -/
  | propRead (q : QueueNo)
  /-- R24. QUEUE.RESUME resumes the halted queue named by an entry of the running scene block. -/
  | queueResume (q : QueueNo)
  /-- R72. MMA computes C = A·B + bias, or accumulates into C, with the chosen visit order and distribution. -/
  | mma (q : QueueNo)
  /-- R175. MMA.SEND computes a product and sends each finished tile to the ranks in DESTS. -/
  | mmaSend (q : QueueNo)
  /-- R176. MMA.RSUM sums one partial per virtual leaf in the fixed tree and scatters the sum by rows. -/
  | mmaRsum (q : QueueNo)
  /-- R178. GATHER.MMA gathers B's shards within a pen group and multiplies as they arrive. -/
  | gatherMma (q : QueueNo)
  /-- R179. A2A.MMA dispatches token rows to their expert hosts and multiplies them there. -/
  | a2aMma (q : QueueNo)
  /-- R181. MMA.A2A multiplies expert rows, returns them to their sources and combines them by gate weights. -/
  | mmaA2a (q : QueueNo)
  /-- R92. CONV computes a two-dimensional convolution in the mode that CONV.MODE selects. -/
  | conv (q : QueueNo)
  /-- R98. An Apron engine finishes an output tile and takes the next one from the waiting APRON instruction of highest priority. -/
  | apronTileEnd (die : DieNo)
  /-- R133. ATTN.FWD runs the bound, sum and normalise sweeps of attention around the drove ring. -/
  | attnFwd (q : QueueNo)
  /-- R147. ATTN.BWD computes the query, key and value gradients, sending the key and value gradients home on the drove return. -/
  | attnBwd (q : QueueNo)
  /-- R139. A ring step begins at the latest of its scheduled cue, the end of the previous step and the full arrival of its block. -/
  | ringStepBegin (q : QueueNo)
  /-- R138. A ring step ends when every pair has been computed and every accumulator has been written back to scratch. -/
  | ringStepEnd (q : QueueNo)
  /-- R138. A ring DATA message received whole is placed in a slot and forwarded when the receiver grants credit. -/
  | ringData (p : PartNo) (hdr : RingHeader) (payload : Bytes)
  /-- R140. A ring CREDIT header gives the sender one free receive slot. -/
  | ringCredit (p : PartNo) (hdr : RingHeader)
  /-- R136. A ring DONE header is relayed onward, and a member holding every DONE writes its outputs and retires. -/
  | ringDone (p : PartNo) (hdr : RingHeader)
  /-- R136. A ring POISON received before every DONE is held ends the instruction with outputs unchanged. -/
  | ringPoison (p : PartNo) (hdr : RingHeader)
  /-- R146. A ring ABSENT header makes the member retire with E_CUE_SLIP and relay the header. -/
  | ringAbsent (p : PartNo) (hdr : RingHeader)
  /-- R129. A ring ZERO header makes the member retire as success with COUNT 0 and relay the header. -/
  | ringZero (p : PartNo) (hdr : RingHeader)
  /-- R146. A wait for a ring neighbour that passes the slip allowance declares the neighbour absent. -/
  | ringSlipExpiry (q : QueueNo) (fromNext : Bool)
  /-- R162. A READY header from a child is counted, and the member sends READY upward, or the root sends GO or POISON. -/
  | collReady (p : PartNo) (hdr : CollHeader)
  /-- R162. On GO the member relays it to its children and sends OPEN to every member it sends to. -/
  | collGo (p : PartNo) (hdr : CollHeader)
  /-- R162. An OPEN header is answered with CREDIT and names the units that will arrive. -/
  | collOpen (p : PartNo) (hdr : CollHeader) (payload : Bytes)
  /-- R167. A collective CREDIT header lets the source send DATA into the units or slots it grants. -/
  | collCredit (p : PartNo) (hdr : CollHeader)
  /-- R162. A collective DATA message received whole is placed or combined, and for MMA.RSUM its slot is granted again. -/
  | collData (p : PartNo) (hdr : CollHeader) (payload : Bytes)
  /-- R162. A DONE from a child is counted, and the member sends DONE to its parent, or the root sends CLOSE. -/
  | collDone (p : PartNo) (hdr : CollHeader)
  /-- R162. On CLOSE the member relays it, writes its staged outputs and retires. -/
  | collClose (p : PartNo) (hdr : CollHeader)
  /-- R166. A POISON received before CLOSE is relayed, and the member stops sending and retires with E_PEER_POISON. -/
  | collPoison (p : PartNo) (hdr : CollHeader)
  /-- R165. A ZERO header is relayed, and the member retires as success with COUNT 0. -/
  | collZero (p : PartNo) (hdr : CollHeader)
  /-- R168. A collective ABSENT header ends the member with E_CUE_SLIP and is relayed. -/
  | collAbsent (p : PartNo) (hdr : CollHeader)
  /-- R168. A wait for GO, CLOSE, OPEN, CREDIT or DATA that passes the slip allowance declares the partner absent. -/
  | collSlipExpiry (q : QueueNo) (rank : Word16)
  /-- R160. A received BEACON with another book digest raises E_BOOK_SPLIT and records the port. -/
  | beacon (port : PortNo) (hdr : CollHeader)
  /-- R160. At every cue that is a multiple of 2^20 the device sends a BEACON on every trained port. -/
  | beaconSend
  /-- R88. VADD writes S1 + S2 element-wise. -/
  | vadd (q : QueueNo)
  /-- R88. VSUB writes S1 − S2 element-wise. -/
  | vsub (q : QueueNo)
  /-- R88. VMUL writes S1 × S2 element-wise. -/
  | vmul (q : QueueNo)
  /-- R88. VFMA writes S1 × S2 + S3 with one rounding. -/
  | vfma (q : QueueNo)
  /-- R88. VMAX writes the element-wise maximum. -/
  | vmax (q : QueueNo)
  /-- R88. VMIN writes the element-wise minimum. -/
  | vmin (q : QueueNo)
  /-- R107. VCVT converts S1 into S0's format, stochastically or into microscaling blocks where selected. -/
  | vcvt (q : QueueNo)
  /-- R88. VSCALE multiplies S1 by a BF16 immediate. -/
  | vscale (q : QueueNo)
  /-- R88. VRSUM writes the sum of each row. -/
  | vrsum (q : QueueNo)
  /-- R88. VRMAX writes the maximum of each row. -/
  | vrmax (q : QueueNo)
  /-- R88. VRSQSUM writes the sum of squares of each row. -/
  | vrsqsum (q : QueueNo)
  /-- R88. EXP writes e^x. -/
  | exp (q : QueueNo)
  /-- R88. EXP2 writes 2^x. -/
  | exp2 (q : QueueNo)
  /-- R88. LOG writes ln x. -/
  | log (q : QueueNo)
  /-- R88. RCP writes 1/x. -/
  | rcp (q : QueueNo)
  /-- R88. RSQRT writes 1/√x. -/
  | rsqrt (q : QueueNo)
  /-- R88. TANH writes tanh x. -/
  | tanh (q : QueueNo)
  /-- R88. SIGMOID writes 1/(1 + e^−x). -/
  | sigmoid (q : QueueNo)
  /-- R88. SILU writes x × sigmoid(x). -/
  | silu (q : QueueNo)
  /-- R88. GELU writes x × Φ(x) in error-function form. -/
  | gelu (q : QueueNo)
  /-- R88. SIN writes sin x. -/
  | sin (q : QueueNo)
  /-- R88. COS writes cos x. -/
  | cos (q : QueueNo)
  /-- R91. GLU.ACT writes act(gate) × up, in either operand form. -/
  | gluAct (q : QueueNo)
  /-- R89. SOFTMAX computes each row's softmax in three passes, optionally writing M and L. -/
  | softmax (q : QueueNo)
  /-- R88. RMSNORM scales each row by the rsqrt of its mean square plus ε and applies the gain. -/
  | rmsnorm (q : QueueNo)
  /-- R88. ROPE rotates element pairs by the position-dependent angle. -/
  | rope (q : QueueNo)
  /-- R83. A finished K-step is residue-checked, and is replayed once on the same cluster if the check fails. -/
  | kStepDone (q : QueueNo) (index : Word32) (cluster : ClusterNo) (ok : Bool)
  /-- R255. Once the understudy is clocked, checked and holds the copied local store, it restarts the tile in progress. -/
  | understudyRestart (failed : ClusterNo)
  /-- R202. MOVE copies S1 to S0 across tiers and layouts, packing or unpacking a packed stream. -/
  | move (q : QueueNo)
  /-- R202. FILL writes one immediate value into every element of S0. -/
  | fill (q : QueueNo)
  /-- R204. GATHER reads table rows by index, in sorted and merged windows of 256. -/
  | gather (q : QueueNo)
  /-- R204. SCATTER writes rows into a table by index. -/
  | scatter (q : QueueNo)
  /-- R202. PUSH places hand-over units into F0, F1 or F3. -/
  | push (q : QueueNo)
  /-- R202. POP takes hand-over units from F2 to a destination, or discards them. -/
  | pop (q : QueueNo)
  /-- R33. A hand-over unit begins once its FIFO has room or data for it, as the four reservation rules allow. -/
  | fifoUnitBegin (q : QueueNo)
  /-- R65. A waiting instruction's working area is placed once an earlier area has been freed. -/
  | workAreaPlace (q : QueueNo)
  /-- R202. PREFETCH requests a stacked-memory range into the shared cache. -/
  | prefetch (q : QueueNo)
  /-- R202. CLEAN writes back the dirty lines of a range, and invalidates them if INVAL is set. -/
  | clean (q : QueueNo)
  /-- R210. RUN.LOAD checks a running-order table and replaces the queue's running order with it. -/
  | runLoad (q : QueueNo)
  /-- R211. RUN.MARK starts the entries within LOOKAHEAD of its layer. -/
  | runMark (q : QueueNo)
  /-- R211. RUN.WAIT starts the COPY entries of its layer and retires when they are complete. -/
  | runWait (q : QueueNo)
  /-- R211. A background running-order entry completes, possibly with a memory or link event. -/
  | runEntryDone (q : QueueNo) (entry : Nat) (event : Word16)
  /-- R205. ATOM applies an atomic operation to each element in the shared cache or stacked memory. -/
  | atom (q : QueueNo)
  /-- R205. ATOM.CAS compares elements bitwise and writes the new values where they match. -/
  | atomCas (q : QueueNo)
  /-- R222. OPT.ADAMW updates weights and state by AdamW, with wings writes and a seal where set. -/
  | optAdamw (q : QueueNo)
  /-- R222. OPT.LION updates weights and state by Lion. -/
  | optLion (q : QueueNo)
  /-- R222. OPT.SGDM updates weights and state by SGD with momentum, optionally Nesterov. -/
  | optSgdm (q : QueueNo)
  /-- R226. Once its earlier PEER writes and its own wings writes are acknowledged, the instruction writes its seal record. -/
  | sealWrite (q : QueueNo)
  /-- R151. CAST.LOAD writes cast-table entries from its input. -/
  | castLoad (q : QueueNo)
  /-- R151. CAST.READ copies cast-table entries to its output. -/
  | castRead (q : QueueNo)
  /-- R153. DECODE.ATTN swaps entries in and out, appends the new keys and values, and attends each active entry. -/
  | decodeAttn (q : QueueNo)
  /-- R22. An instruction retires in ring order and its completion record is written after its writes are visible. -/
  | instructionRetire (q : QueueNo)
  /-- R42. A bounded wait reaches its wait budget and ends as R42 states for its kind. -/
  | waitBudgetExpiry (q : QueueNo)
  /-- R240. The hold budget runs out and the held-back scene is aborted, or else is aborted later as R239 states. -/
  | holdBudgetExpiry (p : PartNo)
  /-- R43. The cue count increments once every 1 µs. -/
  | cueTick
  /-- R325. A rising edge on CUE_IN advances the cue of a root with EXT set. -/
  | cueInEdge
  /-- R19. A doorbell write moves a queue's tail, or is ignored with E_DOORBELL. -/
  | doorbell (fn : FnNo) (number : Nat) (value : Word64)
  /-- R370. A write of 1 to QUE.QCTRL.EN reads the queue block and enables the queue, or refuses with E_DESC. -/
  | queueEnable (q : QueueNo)
  /-- R370. A write of 0 to QUE.QCTRL.EN stops issue at once. -/
  | queueDisable (q : QueueNo)
  /-- R370. A write of 1 to QUE.QCTRL.RESUME restarts a queue halted under HALT. -/
  | qctrlResume (q : QueueNo)
  /-- R234. A write of 1 to PAR.CTRL.EN reads the partition and resilience blocks and runs the enable checks. -/
  | parEnable (p : PartNo)
  /-- R234. After the local stores are zeroed, STATE becomes ENABLED. -/
  | parEnableDone (p : PartNo)
  /-- R245. A write of 0 to PAR.CTRL.EN while EN is 1 resets the partition and then disables it. -/
  | parDisable (p : PartNo)
  /-- R246. A write of 1 to PAR.CTRL.RESET starts a partition reset with the effects of R246. -/
  | parReset (p : PartNo)
  /-- R247. A partition reset completes, STATE returns to ENABLED or DISABLED, and E_PAR_RESET is raised. -/
  | parResetDone (p : PartNo)
  /-- R248. A write of 1 to PAR.LOCK.ACQ takes the partition's lock when it is free. -/
  | parLockAcq (p : PartNo) (agent : Requester)
  /-- R248. A COMMIT by the owner applies or rejects the staged values at one cue edge and frees the lock. -/
  | parLockCommit (p : PartNo) (agent : Requester)
  /-- R248. An ABORT by the owner discards the staging copy and frees the lock. -/
  | parLockAbort (p : PartNo) (agent : Requester)
  /-- R249. The 100 ms lease runs out, the staging copy is discarded and E_LOCK_LOST is raised. -/
  | lockLeaseExpiry (p : PartNo)
  /-- R245. A function-level reset resets every partition that the function owns, or every partition for the physical function. -/
  | functionLevelReset (fn : FnNo)
  /-- R331. A function entering D3hot from D0 resets its partitions as a function-level reset does. -/
  | d3hotEntry (fn : FnNo)
  /-- R245. A hot reset of the PCIe link resets every partition. -/
  | hotReset
  /-- R347. PERST_N low resets the PCIe interface and every partition, and keeps relaying and memory. -/
  | perstNAssert
  /-- R354. PERST_N rising starts PCIe link training. -/
  | perstNRise
  /-- R347. POR_N held low for at least 10 µs acts as an immediate safe stop and restarts the device at SHEPHERD. -/
  | porNAssert
  /-- R347. VSHP rising through its minimum starts the device and the cue counting from 0. -/
  | coldStart (straps : BitVec 2)
  /-- R347. TRST_N low resets the IEEE 1149.1 test logic only. -/
  | trstNAssert
  /-- R333. A BAR4 write goes through the shared cache with STREAM, or completes as an Unsupported Request. -/
  | bar4Write (fn : FnNo) (offset : Nat) (data : Bytes)
  /-- R333. A BAR4 read goes through the shared cache with STREAM, or completes as an Unsupported Request. -/
  | bar4Read (fn : FnNo) (offset : Nat) (len : Nat)
  /-- R360. A write to a register with no row of its own acts by the access codes and slot aliases, raising E_WIGN where ignored. -/
  | registerWrite (who : Requester) (offset : Nat) (value : Word32)
  /-- R363. A read of an RO or SHO _LO register latches its _HI half into the requester's shadow. -/
  | loReadLatch (who : Requester) (offset : Nat)
  /-- R357. A write of 1 to HUB.SNAP.GO requests a counter capture at the next cue edge. -/
  | snapGo
  /-- R357. The SNAP instruction of the test access port requests a counter capture. -/
  | tapSnap
  /-- R364. At the next cue edge every counter is copied into its holding register and the mirror, and DONE is set. -/
  | snapCapture
  /-- R372. A write to HUB.BOOK_CTRL.COMMIT runs the commit checks, or refuses with E_BOOK_REFUSED. -/
  | bookCommit
  /-- R372. The book is copied and digested, COMMITTED is set, and every ACTIVE port sends its identity record again. -/
  | bookCommitDone
  /-- R375. Setting CRC.CTRL.EN starts the configuration check in DIRTY. -/
  | crcEnable
  /-- R375. A write to CRC.CTRL.COMMIT takes CRC.REF as the reference and starts a fresh pass. -/
  | crcCommit
  /-- R375. A pass over the configuration image ends, giving MATCH, a second pass, or MISMATCH with E_CONFIG_DRIFT. -/
  | crcPassEnd
  /-- R354. Setting PCI.EVT_CTRL.EN enables the global event ring and writes the held start-up events into it. -/
  | evtRingEnable
  /-- R353. Setting HBC.CTRL.EN puts the channels in service and gives the stacked-memory properties their values. -/
  | hbcEnable
  /-- R392. Setting CAC.CTRL.EN enables the shared-cache slices with their directly addressed region. -/
  | cacEnable
  /-- R314. Setting OXL.CTRL.EN starts port training and relaying. -/
  | oxlEnable
  /-- R213. A Rehearsal run in PATTERN mode writes a pattern over the channel and checks it. -/
  | pattern
  /-- R213. A Rehearsal run in MARCH mode runs March C− over the channel. -/
  | march
  /-- R213. A Rehearsal run in TRAFFIC mode generates reads and writes for 1 ms and records the bytes moved. -/
  | traffic
  /-- R213. A Rehearsal run ends, recording its status and mapping out any channel it could not repair. -/
  | rehearsalDone (outcome : RehOutcome)
  /-- R214. The scrub reads a stacked-memory sector, corrects it or poisons it. -/
  | scrubSector (chan : ChanNo) (addr : Nat) (outcome : ScrubOutcome)
  /-- R214. The shared cache scrubs a line of its slices. -/
  | cacheScrub (slice : DieNo) (way : Fin 18) (addr : Nat) (outcome : ScrubOutcome)
  /-- R197. The hourly counts of corrected errors per channel and per way start again. -/
  | corrHourRollover
  /-- R186. At the cluster's next boundary between instructions a failing local-store row is copied into a spare. -/
  | lsRowReplace (cluster : ClusterNo) (fault : RowFault)
  /-- R186. A cluster without spare rows is declared failed at the next point where its partition has no running scene. -/
  | clusterDeclaredFailed (cluster : ClusterNo)
  /-- R192. A way that reaches WAY_CORR is replaced by an understudy way, or mapped out. -/
  | cacheWayReplace (slice : DieNo) (way : Fin 18)
  /-- R193. A failing HBM4 lane or row that the stack reports is repaired hitlessly. -/
  | hbmLaneRepair (chan : ChanNo) (kind : HbmRepair)
  /-- R197. A channel beyond repair enters DRAINING, lowering capacity and raising E_CHAN_MAPPED. -/
  | channelDrainStart (chan : ChanNo)
  /-- R197. The channel's granules have been copied and the channel becomes MAPPED_OUT. -/
  | channelDrainDone
  /-- R312. A DATA frame is decoded, checked and accepted in FSEQ order, or discarded and NAKed. -/
  | dataFrame (port : PortNo) (frame : Frame)
  /-- R311. A LINK frame is decoded and checked, and its fields are taken. -/
  | linkFrame (port : PortNo) (frame : Frame) (fields : LinkFields)
  /-- R311. An IDLE frame is received and carries nothing. -/
  | idleFrame (port : PortNo) (frame : Frame)
  /-- R312. An acknowledgement frees acknowledged frames from the replay buffer. -/
  | frameAck (port : PortNo) (fseq : BitVec 12)
  /-- R312. A NAK makes the sender resend from the NAKed frame onward. -/
  | frameNak (port : PortNo) (fseq : BitVec 12)
  /-- R312. A frame unacknowledged for 4 µs is sent again. -/
  | frameReplayTimeout (port : PortNo) (fseq : BitVec 12)
  /-- R323. A credit return in a LINK frame restores receive-buffer credits of a virtual channel. -/
  | linkCreditReturn (port : PortNo) (vc : VcNo) (frames : Nat)
  /-- R309. A lane-swap command agrees the swap of a failing data lane to the understudy lane. -/
  | laneSwapCommand (port : PortNo) (lane : LaneNo)
  /-- R309. After 64 duplicated frames the receiver changes over at a frame boundary. -/
  | laneSwapDone (port : PortNo)
  /-- R309. A data lane that loses lock or passes its corrected-symbol limit starts a swap, or takes the port DOWN if a second lane fails. -/
  | laneFault (port : PortNo) (lane : LaneNo)
  /-- R325. A round-trip probe is echoed, or its echo gives the delay measurement. -/
  | rttProbe (port : PortNo) (probe : RttProbe)
  /-- R325. Every 2^10 cues the one-way delay to the parent is measured again. -/
  | delayRemeasure
  /-- R315. An identity record is checked against PEER_NODE and PEER_PORT and the book digest, making the port ACTIVE or holding it. -/
  | identityRecord (port : PortNo) (record : IdRecord)
  /-- R325. A cue report from the parent sets or steers this device's cue edge and count. -/
  | cueReport (port : PortNo) (report : CueReport)
  /-- R327. After 16 cues without a report the device moves to BACKUP, becomes root, or enters HOLDOVER. -/
  | parentSilent
  /-- R314. Every 1 ms in DETECT the receiver looks for signal and goes to EQUALISE when it finds one. -/
  | portDetectPoll (port : PortNo) (signal : Bool)
  /-- R314. Equalisation meets its target and the port goes to LANE_CHECK. -/
  | equaliseDone (port : PortNo)
  /-- R314. Equalisation not done within 20 ms takes the port DOWN. -/
  | equaliseTimeout (port : PortNo)
  /-- R314. Eight data lanes are chosen and the port goes to IDENTIFY, or DOWN. -/
  | laneCheckDone (port : PortNo) (good : BitVec 9)
  /-- R314. An ACTIVE port that loses lock enters RETRAIN. -/
  | lossOfLock (port : PortNo)
  /-- R314. A retrained port returns to ACTIVE and replays its unacknowledged frames. -/
  | retrainDone (port : PortNo)
  /-- R314. A retrain not done within 5 ms takes the port DOWN, raising E_LINK_DOWN and routing its packets again. -/
  | retrainTimeout (port : PortNo)
  /-- R314. 100 ms after DOWN the port returns to DETECT. -/
  | downTimer (port : PortNo)
  /-- R324. A packet received whole is delivered locally or relayed by its routing entry, and dropped when HOPS runs out. -/
  | packetRoute (origin : PacketOrigin) (packet : Packet)
  /-- R322. A packet that has waited ESC_WAIT for credits moves to the escape channel VC1. -/
  | escWaitExpiry (origin : PacketOrigin) (packet : Packet)
  /-- R319. A PEER write packet is accepted once by PSEQ and written, or refused outside the window or in a read-only range. -/
  | peerWrite (src : Word16) (pseq : Word32) (part : PartNo) (access : PeerAccess) (data : Bytes)
  /-- R321. A PEER read request is served from the target's shared cache with a response. -/
  | peerReadRequest (src : Word16) (pseq : Word32) (part : PartNo) (access : PeerAccess) (len : Nat)
  /-- R321. A PEER read response delivers data into the reserved receive space. -/
  | peerReadResponse (src : Word16) (tag : Word32) (status : PeerStatus) (data : Bytes)
  /-- R319. An E2E ACK acknowledges every packet of a source–destination pair below its PSEQ. -/
  | e2eAck (src : Word16) (pseq : Word32) (status : PeerStatus)
  /-- R320. A PEER access unanswered within PEER_TIMEOUT retires with E_PEER_LOST. -/
  | peerTimeout (q : QueueNo) (index : Word32)
  /-- R339. A write to PMT.MBX_CTRL.GO submits a mailbox command, or is answered BUSY, HELD or OVERRUN at once. -/
  | mailboxGo (box : Mailbox)
  /-- R339. A command unclaimed 10 ms after GO is withdrawn and answered BUSY. -/
  | mailboxTimeout (box : Mailbox)
  /-- R341. IDENT returns serial, ordering number, stepping and active image. -/
  | ident (box : Mailbox)
  /-- R341. TELEM_CFG sets the telemetry page address and period. -/
  | telemCfg (box : Mailbox)
  /-- R341. LEDGER_READ copies a ledger record to BUF, or a 128-byte piece over the sideband. -/
  | ledgerRead (box : Mailbox)
  /-- R341. SHARES_SET stages and commits PAR.SHARES and PAR.PRIO as owner 17. -/
  | sharesSet (box : Mailbox)
  /-- R341. CHANNEL_REPORT returns a channel's repair history and post-package repairs left. -/
  | channelReport (box : Mailbox)
  /-- R341. PORT_MARGIN returns the eye height and width of each lane of a port. -/
  | portMargin (box : Mailbox)
  /-- R344. IMAGE_WRITE invalidates the inactive image copy, writes the body and then the header. -/
  | imageWrite (box : Mailbox)
  /-- R341. PROMPTER_LOG copies the Prompter's log ring to BUF. -/
  | prompterLog (box : Mailbox)
  /-- R343. Every telemetry period the Prompter writes each telemetry page. -/
  | telemWrite (box : Mailbox) (sampledAll : Bool)
  /-- R343. When no page has been written for two periods, the hub sets TELEM_STAT.STALE. -/
  | telemStale
  /-- R291. A write of 0x5A to PMT.KICK by the Prompter restarts the watchdog. -/
  | pmtKick (who : Requester) (value : Word32)
  /-- R291. A missed watchdog timeout holds the Prompter in reset, raises E_PMT_RESET and aborts its claimed command. -/
  | watchdogExpiry
  /-- R291. After 5 ms the Prompter cores are released to restart, unless held. -/
  | prompterResetRelease
  /-- R344. The Prompter finishes loading and checking its image and runs, or is held when no valid copy exists. -/
  | prompterBootDone
  /-- R283. A bipolar-junction sensor sample applies TARGET, ALARM and the range check. -/
  | tempSampleA (place : HeatPlace) (reading : SensorReading)
  /-- R283. A ring-oscillator sensor sample applies TARGET, ALARM and the range check. -/
  | tempSampleB (place : HeatPlace) (reading : SensorReading)
  /-- R284. Two sensors of a fold differing by more than 6 K for 10 ms raise E_SENSOR and lower that fold's limits. -/
  | sensorDisagree (fold : FoldNo)
  /-- R285. A rail at 95 % of its limit makes the loop lower the die's clocks. -/
  | currentWarn (reading : RailCurrent)
  /-- R285. A rail at its limit stops the die's folds' clocks and raises E_CURRENT. -/
  | currentLimit (reading : RailCurrent)
  /-- R285. 20 µs after a current stop the folds restart at 0.9 GHz. -/
  | currentRestart (die : DieNo)
  /-- R285. A rail above its limit for 50 µs with its folds stopped causes an immediate safe stop. -/
  | currentSustained (reading : RailCurrent)
  /-- R285. Every 10 minutes each comparator is tested by an injected offset. -/
  | comparatorTest (rail : CurrentRail) (pass : Bool)
  /-- R286. Flow below ALARM for 1 s caps every fold and raises E_FLOW. -/
  | flowAlarm (sample : FlowSample)
  /-- R286. Flow below TRIP for 2 s causes an orderly safe stop. -/
  | flowTrip (sample : FlowSample)
  /-- R286. FLOW_A zero for 200 ms with FLOW_B open causes an immediate safe stop. -/
  | flowZero (sample : FlowSample)
  /-- R286. FLOW_A zero for 1 s with FLOW_B closed counts as a failed meter. -/
  | flowMeterFail (sample : FlowSample)
  /-- R287. Each 50 µs sample of a leak cable is judged dry, leak or open. -/
  | leakSample (cable : LeakCable) (ohms : Nat)
  /-- R298. At start-up and every hour the VHOLD bank's capacitance is estimated, raising E_HOLD_LOW if it is short. -/
  | bankTest (sample : BankSample)
  /-- R298. VHOLD below 10.8 V for 1 ms raises E_HOLD_LOW. -/
  | vholdLow (sample : BankSample)
  /-- R292. A Shepherd core mismatch restarts both cores from ROM, or causes an orderly stop on the second within 24 hours. -/
  | lockstepMismatch
  /-- R292. The Shepherd cores run in lockstep again after a restart. -/
  | shepherdRestartDone
  /-- R288. The Shepherd supply falling below its minimum releases HEALTHY_N. -/
  | vshpLoss
  /-- R290. An adaptive loop's requested setting is clamped to the Shepherd's bounds. -/
  | loopSettingRequest (request : LoopRequest)
  /-- R282. After its withdrawal from every job, an orderly stop proceeds as an immediate stop. -/
  | orderlyStopWithdrawn
  /-- R293. PWRFAIL_N asserted triggers the Curtain save. -/
  | pwrfailNAssert
  /-- R293. A core, memory or link rail below its threshold for 2 µs triggers the Curtain save. -/
  | railUndervoltage (reading : RailVoltage)
  /-- R295. The Curtain record's commit word is written and HEALTHY_N is released. -/
  | curtainSaveDone
  /-- R296. VHOLD below 6.0 V stops the ledger controller issuing words. -/
  | vholdCollapse
  /-- R301. A ledger record's commit word is written, and any pending change begins the next record. -/
  | ledgerRecordDone
  /-- R351. The Shepherd's self-tests pass and the LEDGER phase begins. -/
  | shepherdSelfTestDone
  /-- R302. All 32 slots have been read, the current record is chosen and Curtain saves are enabled. -/
  | ledgerRecoveryDone
  /-- R352. With a committed slot and VHOLD at 10.8 V, the Shepherd drives HEALTHY_N and SEQ0_N low. -/
  | railsEntry
  /-- R352. VHOLD short of 10.8 V 1 s after LEDGER enters RAILS anyway with E_HOLD_LOW. -/
  | vholdWaitTimeout
  /-- R348. A rail group comes into range; after group 3 the bring-up sequencer starts. -/
  | railGroupInRange
  /-- R348. 1 ms after a group is in range, the next SEQ output is driven low. -/
  | railGroupNextEnable
  /-- R348. A group not in range within 5 ms releases every SEQ output and HEALTHY_N and raises E_RAIL. -/
  | railGroupTimeout
  /-- R348. 1 s after a first rail failure the sequence is retried once. -/
  | railRetry
  /-- R353. The bring-up sequencer finishes and the device enters READY, or FAILED. -/
  | bringupDone (outcome : BringupOutcome)
  /-- R266. An ABSENT of a job is relayed on the job company and to successors, and starts or joins a settle round. -/
  | absentReceived (p : PartNo) (absent : AbsentHeader)
  /-- R267. At D every device of the job computes successors, rewritten rosters and the replay epoch. -/
  | decisionCue (p : PartNo)
  /-- R269. At D + 64 the successor reads TARGET from its partner and starts copying the chosen wings generation. -/
  | wingsCopyStart (p : PartNo)
  /-- R269. The wings copy ends, moving to PROLOGUE, or suspends the job with E_WINGS. -/
  | wingsCopyDone (p : PartNo)
  /-- R270. At the replay epoch R_e the queues resume issue with the cue offset applied. -/
  | replayResume (p : PartNo)
  /-- R314. A write of 0 to OXL.CTRL.EN sends every port to DISABLED with its transmitters silent and stops relaying. -/
  | oxlDisable
  /-- R70. A write of 0 to HBC.CTRL.EN takes the channels out of service, and properties 0x000A and 0x000B then read 0. -/
  | hbcDisable
  /-- R375. A write of 0 to CRC.CTRL.EN stops the configuration check, and CRC.STATUS.STATE becomes OFF. -/
  | crcDisable
  /-- R337. The Prompter takes the oldest entry of its repair queue and does that unit's class 1 bookkeeping. -/
  | repairWork
  deriving DecidableEq, Repr

end Sys2Proof
end

