-- ==== Sys2Proof/Decode.lean ====
section
/-!
DEFINITION. The command that a table word spells. No row of spec/opcode_table.json gives bits: a command of
this block is an event with data, not a word, so no word spells one. The instruction packets that a device
queue fetches are read in Machine/Packets.lean (R49).
-/

namespace Sys2Proof

/-- The command of a word by the table's bits: the table gives none. -/
def decodeTableWord (_nbits _w : Nat) : Option Instr := none

end Sys2Proof
end

