-- ==== Sys2Proof/Config.lean ====
section
/-!
DEFINITION. What an implementation fixes and the manual leaves open: uninterpreted constants. None
has a body, so no proof can see a value of one, and a statement that holds of the model holds
whatever they are. Each is named in log entry 12 (DESIGN CHOICE).
-/

namespace Sys2Proof.Config

/-- The k-th byte that the device leaves undefined (R31, R85, R166, R185, R191, R198, R226, R240). -/
opaque freeByte : Nat → Byte

/-- The k-th number that the manual leaves open: cycles below one cue, busy cycles, measured times. -/
opaque freeNat : Nat → Nat

/-- The k-th choice that the manual leaves open: which of two SCATTER rows a sector keeps (R204). -/
opaque freeBool : Nat → Bool

/-- The special functions of R122, by name. -/
inductive Sfu where
  | exp | exp2 | log | rcp | rsqrt | tanh | sigmoid | silu | gelu | geluTanh | sin | cos
  deriving DecidableEq, Repr

/-- A special function on a finite FP32 input that the table of special inputs (R121) does not settle:
the FP32 code of the result (R122, R123). Fixed for a part, so a function of the input alone. -/
opaque sfu : Sfu → Word32 → Word32

/-- FP32 cosine and sine of p × β^(−2i / d) as ROPE forms them (R88, R122): position p, base β, pair i,
row length d. -/
opaque ropeCos : Nat → Nat → Nat → Nat → Word32
opaque ropeSin : Nat → Nat → Nat → Nat → Word32

/-- The set of a shared-cache slice in which a line is placed (R187: a hash fixed for the part). -/
opaque cacheSet : Nat → Nat

/-- The fused voltage curve: the highest clock, in units of 10 MHz, of a fold at a voltage in mV (R290). -/
opaque fusedCurve : Nat → Nat → Nat

/-- The slowest refresh interval, in ns, that a stack allows a channel at its reported temperature, in quarters of a degree (R290). -/
opaque refreshMax : Nat → Nat → Nat

/-- The equaliser tap range of a lane of a port (R290, R310): lowest and highest value. -/
opaque tapLow : Nat → Nat → Int
opaque tapHigh : Nat → Nat → Int

/-- The CRC-32C of ledger record n with its persistent image (R300, R304: the image's areas have no
byte layout beyond their sizes); the arguments number the record and digest its contents. -/
opaque recordCrc : Nat → List Byte → Word32

/-- Byte k of the persistent image in a record, by the image's contents: R304 gives the areas' sizes and no layout within them. -/
opaque imageByte : List Byte → Nat → Byte

/-- What a mailbox command reports, whose layout and length no rule gives (R341): its opcode, and the numbers it reports. -/
opaque report : Nat → List Nat → List Byte

/-- Byte k of a telemetry page, by what it reports and by what its samples missed (R343 gives its contents and no layout). -/
opaque telemByte : List Nat → Option Nat → Nat → Byte

/-- The version of a boot image, from its bytes (R344 gives the header's fields without offsets). -/
opaque imageVersion : List Byte → Nat

/-- The folds that lie next to a fold on its die (R284). -/
opaque foldNeighbours : Nat → List Nat

/-- Whether the ECDSA P-384 signature over a boot image's header and body digest verifies under the fused
key (R344). -/
opaque imageSigned : List Byte → Bool

/-- The Prompter's estimate in milliseconds of its class 2 wait, k-th reading (R346 PMT.LOAD). -/
opaque promptLoad : Nat → Nat

end Sys2Proof.Config
end

