-- ==== Sys2Proof/Machine/State.lean ====
section
/-!
DEFINITION. The state of the device as plain data: registers, memories, queues, scenes, partitions,
engines, links, the Prompter, the Shepherd and the ledger, and the queue of waiting commands. Each
field's docstring names the rule that gives the device this piece of state. A table is a list of
key and value pairs in one canonical form: keys strictly rising, and no entry equal to what an
unlisted key reads as (Machine/Ops.lean).
-/

namespace Sys2Proof.Machine

/-- The two ordering numbers (R1). -/
inductive Part where
  | l16
  | l12
  deriving DecidableEq, Repr

/-- An instruction packet, field by field (R49). -/
structure Pkt where
  opcode : Nat := 0
  md : Nat := 0
  cueq : Nat := 0
  irq : Bool := false
  rsv : Nat := 0
  ta : Nat := 0
  tb : Nat := 0
  tc : Nat := 0
  s0 : Nat := 0
  s1 : Nat := 0
  s2 : Nat := 0
  s3 : Nat := 0
  imm : Nat := 0
  cueOffset : Nat := 0
  deriving DecidableEq, Repr

/-- A tensor descriptor, field by field (R53). blockExp is none for 0x8000; rsvBad says that a reserved
bit is set. -/
structure Desc where
  base : Nat := 0
  cap : Nat := 0
  n0 : Nat := 1
  n1 : Nat := 1
  n2 : Nat := 1
  n3 : Nat := 1
  st1 : Nat := 0
  st2 : Nat := 0
  st3 : Nat := 0
  format : Nat := 0
  tier : Nat := 0
  kind : Nat := 0
  blockExp : Option Int := none
  layout : Nat := 0
  hint : Nat := 0
  rdonly : Bool := false
  packed : Bool := false
  rsvBad : Bool := false
  rank : Nat := 0
  deriving DecidableEq, Repr

/-- A range of bytes of one tier that an instruction writes: its output extent (R56). rank matters for
TIER PEER alone. -/
structure Extent where
  tier : Nat
  base : Nat
  len : Nat
  rank : Nat := 0
  deriving DecidableEq, Repr

/-- A queue block as read at enable (R18). -/
structure QueueBlock where
  ringBase : Nat := 0
  cplBase : Nat := 0
  sizeLog2 : Nat := 4
  kind : Nat := 0
  ringHost : Bool := false
  cplHost : Bool := false
  contin : Bool := false
  irqEach : Bool := false
  vector : Nat := 0
  deriving DecidableEq, Repr

/-- One burst of eight descriptors in a queue's descriptor buffer (R60): the table's base, the burst's
number, its 512 bytes, and its entries discarded since. -/
structure Burst where
  table : Nat
  number : Nat
  bytes : List Byte
  gone : List Nat := []
  deriving DecidableEq, Repr

/-- How far a running-order entry has come (R211). -/
inductive RunStatus where
  | waiting
  | started
  | complete
  | failed (event : Nat)
  deriving DecidableEq, Repr

/-- A read of peer memory that is awaited (R54, R321): tag, node, target partition, rank, address, length. -/
structure PeerRead where
  tag : Nat
  node : Nat
  target : Nat
  rank : Nat
  addr : Nat
  len : Nat
  deriving DecidableEq, Repr

/-- A running-order entry (R210) and its progress: the peer reads and the acknowledgements that it awaits (R211), and the event that
one of them met. -/
structure RunEntry where
  src : Nat
  dst : Nat
  bytes : Nat
  layer : Nat
  copy : Bool
  srcTier : Nat
  dstTier : Nat
  rank : Nat
  hint : Nat
  status : RunStatus := .waiting
  reads : List PeerRead := []
  acks : List (Nat × Nat × Nat) := []
  bad : Nat := 0
  deriving DecidableEq, Repr

/-- A hold on a gate (R38): the gate and the epoch tag under which it was acquired (R241). -/
structure Hold where
  gate : Nat
  epoch : Nat
  deriving DecidableEq, Repr

/-- A device queue (R17 to R28): its block, its ring counts, the base cue that a control queue uses outside
a scene, the scene it has open and those it has opened behind it, the gates it holds outside a scene (R393), its descriptor buffer (R60) and running order (R210).
Its QCTRL bits stand in the register file. -/
structure Queue where
  block : QueueBlock := {}
  head : Nat := 0
  tail : Nat := 0
  baseCue : Int := 0
  openScene : Option Nat := none
  nextScenes : List Nat := []
  held : List Hold := []
  buffer : List Burst := []
  runOrder : List RunEntry := []
  lookahead : Nat := 0
  descending : Bool := false
  areaWait : Bool := false
  deriving DecidableEq, Repr

/-- What an entry of F3 carries (R32, R34): a local-store-ready token, the claim of a tile, or a unit that a PUSH placed there. -/
inductive F3Entry where
  | token
  | claim (tile : Nat)
  | unit (bytes : List Byte)
  deriving DecidableEq, Repr

/-- What the FIFOs of a pair hold: hand-over units, oldest first (R32, R33). -/
structure PairFifos where
  f0 : List (List Byte) := []
  f1 : List (List Byte) := []
  f2 : List (List Byte) := []
  f3 : List F3Entry := []
  deriving DecidableEq, Repr

/-- A scene, ready or running (R25 to R31, R47, R239). entries are the sixteen of its block, queues those in use;
baseCue is its base cue less CUE_OFFSET (R270); begun says that it has run, issued that it has issued. -/
structure Scene where
  id : Nat
  ctrl : Nat
  running : Bool := false
  begun : Bool := false
  entries : List Nat
  queues : List Nat
  dtab : Nat
  baseRaw : Nat
  baseCue : Int := 0
  acct : Nat
  prio : Nat
  lsWindow : Nat
  holdBudget : Nat
  waitBudget : Nat
  marked : List Nat := []
  points : List (Nat × Nat) := []
  held : List Hold := []
  request : Option Nat := none
  holdSpent : Bool := false
  switchedOut : Option Nat := none
  fifos : List (Nat × PairFifos) := []
  rosters : List (Nat × Nat × Nat) := []
  issued : Bool := false
  beginCue : Nat := 0
  preemptedCues : Nat := 0
  preemptions : Nat := 0
  lateCount : Nat := 0
  firstEvent : Nat := 0
  deriving DecidableEq, Repr

/-- A gate (R38, R241, R242): count, rank, BROKEN flag, epoch tag, waiting queues oldest first. -/
structure Gate where
  count : Nat := 0
  rank : Nat := 0
  broken : Bool := false
  epoch : Nat := 0
  brokenEpoch : Nat := 0
  waiters : List Nat := []
  deriving DecidableEq, Repr

/-- A hurdle generation (R41): the scene that began it, its count, its arrivals so far (queue, ring index), and the
queues whose WAIT arrivals it holds. -/
structure HurdleGen where
  scene : Nat
  n : Nat
  arrivals : List (Nat × Nat)
  waiters : List Nat
  deriving DecidableEq, Repr

/-- The copy of a partition block that the device keeps (R233). -/
structure PartBlock where
  dtab : Nat := 0
  folds : Nat := 0
  fn : Nat := 0
  queueFirst : Nat := 0
  queueCount : Nat := 0
  vecBase : Nat := 0
  vecCount : Nat := 0
  vecFnBase : Nat := 0
  memBase : Nat := 0
  memSize : Nat := 0
  directBase : Nat := 0
  directSize : Nat := 0
  companyFirst : Nat := 0
  companyCount : Nat := 0
  castFirst : Nat := 0
  castCount : Nat := 0
  tagOff : Nat := 0
  inflightMax : Nat := 0
  holdDefault : Nat := 0
  waitDefault : Nat := 0
  raw : List Byte := []
  deriving DecidableEq, Repr

/-- The copy of a resilience block (R259). -/
structure ResBlock where
  rrec : Nat := 0
  succ : Nat := 0
  wmap : Nat := 0
  seal0 : Nat := 0
  seal1 : Nat := 0
  jobCompany : Nat := 0
  wingsCompany : Nat := 0
  wingsStride : Nat := 0
  stepQueue : Nat := 0
  prologueQueue : Nat := 0
  succCount : Nat := 0
  wmapCount : Nat := 0
  settle : Nat := 0
  load : Nat := 0
  standby : Bool := false
  noWings : Bool := false
  raw : List Byte := []
  deriving DecidableEq, Repr

/-- The staging copy of a locked sequence (R248, R272). -/
structure Staging where
  shares : Option Word32 := none
  prio : Option Word32 := none
  planLo : Option Word32 := none
  planHi : Option Word32 := none
  deriving DecidableEq, Repr

/-- A read of a wings copy (R269): its tag, the node asked, what it is for, where its bytes go when they are state, its length. -/
structure WingsRead where
  tag : Nat
  node : Nat
  what : Nat
  dst : Nat := 0
  len : Nat
  deriving DecidableEq, Repr

/-- A wings copy in progress (R269): reads out, what records have come, whether the generation has been chosen, and that it has
found none to take. -/
structure WingsCopy where
  reads : List WingsRead := []
  got : List (Nat × List Byte) := []
  chosen : Bool := false
  bad : Bool := false
  deriving DecidableEq, Repr

/-- The settling and replay of one job on this device (R262 to R271): absent nodes held with their SEND_CUEs; the decision cue, the
absent set and the successors (successor, absent node) of the round decided last; the replay epoch; the prologue's bounds at the
last boundary, and where a replay's prologue ends, when the device knows it; boundaries written; succession entries consumed; that
only the prologue may issue; the SEAL_CUE of its own seals by generation; a wings copy in progress. -/
structure Replay where
  absents : List (Nat × Nat) := []
  decided : Nat := 0
  lastSet : List Nat := []
  moved : List (Nat × Nat) := []
  epoch : Nat := 0
  proStart : Nat := 0
  proEnd : Nat := 0
  proTo : Option Nat := none
  seq : Nat := 0
  used : Nat := 0
  hold : Bool := false
  seals : List (Nat × Nat) := []
  copying : Option WingsCopy := none
  deriving DecidableEq, Repr

/-- A partition (R232): the parts of it that are no register. lockCue is the cue at which its lock was taken (R249). -/
structure Partition where
  block : Option PartBlock := none
  res : Option ResBlock := none
  gates : List (Nat × Gate) := []
  hurdles : List (Nat × List HurdleGen) := []
  scenes : List Scene := []
  nextScene : Nat := 0
  clusters : List Nat := []
  staging : Staging := {}
  lockCue : Nat := 0
  resetDisables : Bool := false
  depleted : Bool := false
  cueOffset : Nat := 0
  replay : Replay := {}
  claims : Nat := 0
  pool : Option (Nat × Nat) := none
  deriving DecidableEq, Repr

/-- RANK of a company entry whose partition a roster plan has removed: it holds no rank (R273). -/
def noRank : Nat := 65535

/-- A company entry (R155). -/
structure CompanyEntry where
  company : Nat := 65535
  size : Nat := 0
  rank : Nat := 0
  queue : Nat := 0
  leaves : Nat := 0
  slipAllow : Nat := 0
  roster : Nat := 0
  epoch : Nat := 0
  nextRoster : Nat := 0
  nextEpoch : Nat := 0
  collSeq : Nat := 0
  deriving DecidableEq, Repr

/-- A roster entry (R156). -/
structure RosterEntry where
  node : Nat := 0
  part : Nat := 0
  pen : Nat := 0
  penSlot : Nat := 0
  deriving DecidableEq, Repr

/-- A cast-table entry (R150). -/
structure CastEntry where
  state : Nat := 0
  priority : Nat := 0
  qrows : Nat := 0
  length : Nat := 0
  pageList : Nat := 0
  pages : Nat := 0
  maxPages : Nat := 0
  hostSwap : Nat := 0
  lastCue : Nat := 0
  tag : Nat := 0
  deriving DecidableEq, Repr

/-- A chain port (R37): the tiles it holds, and the partitions for which it stands BROKEN. -/
structure ChainPort where
  fill : List Byte := []
  brokenFor : List Nat := []
  deriving DecidableEq, Repr

/-- An anchored accumulator in its internal register, with its flags (R110, R112, R149). -/
structure Anch where
  sum : Int := 0
  nan : Bool := false
  pinf : Bool := false
  ninf : Bool := false
  ovf : Bool := false
  deriving DecidableEq, Repr

/-- What a ring instruction keeps for one query row (R133 to R135): the bound M as an FP32 code once a key
has been seen, the value anchor, L and V; and dQ for ATTN.BWD (R148). -/
structure RowAcc where
  bound : Option Nat := none
  ev : Int := -128
  bad : Bool := false
  l : Anch := {}
  v : List Anch := []
  deriving DecidableEq, Repr

/-- A visiting block as a ring message carries it (R141): positions, segments, per-key records or keys and
values as element codes, and the gradient accumulators of a backward message. -/
structure RingBlock where
  owner : Nat := 0
  keys : List Nat := []
  vals : List Nat := []
  records : List (Nat × Int × Int) := []
  pos : List Nat := []
  seg : List Nat := []
  dk : List Anch := []
  dv : List Anch := []
  deriving DecidableEq, Repr

/-- A receive slot in scratch (R140). -/
structure RingSlot where
  block : RingBlock := {}
  sweep : Nat := 0
  step : Nat := 0
  computed : Bool := false
  forwarded : Bool := false
  deriving DecidableEq, Repr

/-- A ring instruction in flight (R126 to R149). Sweep 0 bound, 1 sum, 2 backward, 3 homecoming. -/
structure Ring where
  bwd : Bool := false
  company : Nat := 0
  seq : Nat := 0
  ranks : List Nat := []
  pos : Nat := 0
  roster : List RosterEntry := []
  epoch : Nat := 0
  digest : Nat := 0
  origin : Nat := 0
  t : Nat := 0
  hq : Nat := 0
  hkv : Nat := 0
  d : Nat := 0
  causal : Bool := false
  segment : Bool := false
  scale : Nat := 0
  boundBudget : Nat := 0
  stepBudget : Nat := 0
  slipAllow : Nat := 0
  preemptPoint : Nat := 65535
  ringDigest : Nat := 0
  own : RingBlock := {}
  ownRecords : List (Nat × Int × Int) := []
  ownKeys8 : List Nat := []
  sweep : Nat := 0
  step : Nat := 0
  inStep : Bool := false
  finished : Bool := false
  slots : List (Nat × RingSlot) := []
  credits : List Nat := []
  toSend : List (Nat × Nat × RingBlock) := []
  rows : List RowAcc := []
  dRow : List Nat := []
  home : Option RingBlock := none
  doneFrom : List Nat := []
  firstCue : Nat := 0
  lastCue : Nat := 0
  maxSlip : Nat := 0
  totalSlip : Nat := 0
  waitData : Nat := 0
  waitCredit : Nat := 0
  pairsSkipped : Nat := 0
  stepsLate : Nat := 0
  preemptions : Nat := 0
  absentRank : Nat := 65535
  creditSince : Nat := 0
  heardNext : Nat := 0
  heardPrev : Nat := 0
  deriving DecidableEq, Repr

/-- A partial of the fixed tree of MMA.RSUM (R177): first leaf, leaves under it, one value per element of
the tile, as FP32 codes or as internal registers. -/
structure TreeNode where
  tile : Nat := 0
  first : Nat := 0
  leaves : Nat := 0
  fp : List Nat := []
  anch : List Anch := []
  deriving DecidableEq, Repr

/-- A unit of DATA that a member sends (R161, R162): receiver, UNIT, NODE, COUNT, SLOT asked, bytes. -/
structure CollUnit where
  dst : Nat
  unit : Nat
  node : Nat := 65535
  count : Nat := 0
  bytes : List Byte := []
  deriving DecidableEq, Repr

/-- A fused collective in flight (R161 to R181). -/
structure Coll where
  company : Nat := 0
  seq : Nat := 0
  opcode : Nat := 0
  rank : Nat := 0
  size : Nat := 0
  leaves : Nat := 0
  roster : List RosterEntry := []
  epoch : Nat := 0
  digest : Nat := 0
  paramDigest : Nat := 0
  dests : List Nat := []
  sources : List Nat := []
  experts : List Nat := []
  drop : Bool := false
  cap : Nat := 0
  budget : Nat := 0
  slipAllow : Nat := 0
  readyFrom : List Nat := []
  sendSum : Nat := 0
  recvSum : Nat := 0
  zeroHeld : Bool := false
  readySent : Bool := false
  go : Bool := false
  opens : List (Nat × Nat) := []
  counts : List (Nat × List Nat) := []
  credits : List (Nat × Nat) := []
  slots : List (Nat × List Nat) := []
  sent : List (Nat × Nat) := []
  toSend : List CollUnit := []
  got : List (Nat × Nat) := []
  nodes : List TreeNode := []
  computed : Bool := false
  staged : List (Nat × Nat × List Byte) := []
  ovf : Bool := false
  doneFrom : List Nat := []
  doneSent : Bool := false
  closed : Bool := false
  goCue : Nat := 0
  endCue : Nat := 0
  dropped : Nat := 0
  absentRank : Nat := 65535
  keep : List Extent := []
  heard : List (Nat × Nat) := []
  readyCue : Nat := 0
  doneCue : Nat := 0
  waitData : Nat := 0
  waitCredit : Nat := 0
  dataSince : Option Nat := none
  creditSince : Option Nat := none
  deriving DecidableEq, Repr

/-- What an instruction in flight waits for; none when it may retire in its turn (R22, R42). visible: earlier writes of
its queue (R40); stage: the next stage of a CHAIN is to start (R36). -/
inductive Wait where
  | none
  | gate (g : Nat)
  | hurdle (h : Nat)
  | runWait (layer : Nat)
  | sceneLimit
  | boundary
  | sceneEnd
  | chainPort (port : Nat)
  | preempt (point : Nat)
  | peer
  | exchange
  | ring
  | units
  | apron
  | sealAck
  | visible
  | stage
  deriving DecidableEq, Repr

/-- A stage of a CHAIN in flight (R36): its packet, its descriptors, its COUNT, and as a fused collective its part of the
exchange until it starts. -/
structure Stage where
  pkt : Pkt
  descs : List (Option Desc)
  auxDescs : List (Option Desc) := []
  params : List Byte := []
  count : Nat := 0
  coll : Option Coll := none
  deriving DecidableEq, Repr

/-- A chain port that a CHAIN reads for a slot (R37): bytes needed, and bytes taken so far. -/
structure PortUse where
  slot : Nat
  port : Nat
  need : Nat
  got : Nat := 0
  deriving DecidableEq, Repr

/-- Bytes to write: a descriptor's row, on a cluster, from a byte offset within the row. -/
structure Piece where
  d : Desc
  row : Nat
  cl : Nat
  off : Nat := 0
  bs : Bytes
  deriving DecidableEq, Repr

/-- An instruction in flight (R21): from its issue until its retirement. acks lists the packets it
waits to have acknowledged: node, first PSEQ, first PSEQ after them. immediate: it retires at issue. failedOn: the clusters whose
failed K step is still to be replayed (R83). Under DYNAMIC distribution claims is the draw that deals its tiles to the clusters, claimed how
many of them stand in F3 (R80). held are the outputs written at its retirement (R77).
params is its parameter block as read at issue, and auxDescs the descriptors that the block names. Of a CHAIN, pkt and
the operands are those of stage stageNo while it runs; chainIrq is the IRQ flag of the CHAIN packet; portIn are the chain
ports that it reads, portTo the one that it writes, and portOut the bytes still to be written there (R37). -/
structure Inst where
  queue : Nat
  index : Nat
  part : Nat
  pkt : Pkt
  level : Nat := 0
  scene : Option Nat := none
  issueCue : Nat := 0
  issueCycles : Nat := 0
  late : Bool := false
  broken : Bool := false
  immediate : Bool := false
  event : Nat := 0
  count : Nat := 0
  descs : List (Option Desc) := []
  auxDescs : List (Option Desc) := []
  params : List Byte := []
  outs : List Extent := []
  stages : List Stage := []
  stageNo : Nat := 0
  chainIrq : Bool := false
  portIn : List PortUse := []
  portTo : Option Nat := none
  portOut : List Byte := []
  wait : Wait := .none
  waitCue : Nat := 0
  acks : List (Nat × Nat × Nat) := []
  reads : List PeerRead := []
  area : Option (Nat × Nat) := none
  unitsLeft : Nat := 0
  unitNo : Nat := 0
  failedOn : List Nat := []
  claims : Option Nat := none
  claimed : Nat := 0
  held : List Piece := []
  apronTiles : List (Nat × Nat) := []
  coll : Option Coll := none
  ring : Option Ring := none
  deriving DecidableEq, Repr

/-- An Apron engine (R98): the instruction, by queue and ring index, whose tile it works on, and those that it has served, the
latest last. -/
structure Apron where
  current : Option (Nat × Nat) := none
  served : List (Nat × Nat) := []
  deriving DecidableEq, Repr

/-- A member that left a collective early and relays the tree until it ends (R166): partition, company,
sequence number, rank, size, roster, and what its children sent. -/
structure Relay where
  part : Nat
  company : Nat
  seq : Nat
  rank : Nat
  size : Nat
  opcode : Nat
  roster : List RosterEntry
  epoch : Nat
  paramDigest : Nat
  event : Nat
  readyFrom : List Nat := []
  zero : Bool := false
  sent : Bool := false
  poisoned : Bool := false
  deriving DecidableEq, Repr

/-- A header held for a collective that this member has not issued yet (R163): the type of R161, and the
message. -/
structure HeldHeader where
  part : Nat
  type : Nat
  hdr : CollHeader
  payload : List Byte := []
  deriving DecidableEq, Repr

/-- A ring message held for an instruction that this member has not issued yet (R163). -/
structure HeldRing where
  part : Nat
  type : Nat
  hdr : RingHeader
  payload : List Byte := []
  deriving DecidableEq, Repr

/-- A line of stacked memory in the shared cache (R187, R189): its line number, dirty and keep marks. -/
structure CacheLine where
  line : Nat
  dirty : Bool
  keep : Bool
  deriving DecidableEq, Repr

/-- A channel map-out in progress (R197, R198): the channel and the channels that wait for it. -/
structure Drain where
  chan : Nat
  waiting : List Nat := []
  deriving DecidableEq, Repr

/-- A cluster whose replacement is under way (R84, R255): the failed cluster, its understudy, and the
instruction's queue and ring index. -/
structure Restart where
  failed : Nat
  understudy : Nat
  queue : Nat
  index : Nat
  deriving DecidableEq, Repr

/-- An entry of the row-replacement area (R304): cluster, spare row, replaced row. -/
structure RowRepl where
  cluster : Nat
  spare : Nat
  row : Nat
  deriving DecidableEq, Repr

/-- The committed book (R371, R372): its bytes as copied into hub memory. -/
structure Book where
  bytes : List Byte
  deriving DecidableEq, Repr

/-- A packet that waits at a port or for a port (R322, R324): where it came from (none: its own), the packet as it came, and
whether it has left the receive buffer. -/
structure Queued where
  origin : Option Nat
  packet : Packet
  freed : Bool := false
  deriving DecidableEq, Repr

/-- A frame in a replay buffer (R312): its FSEQ, and the packet whose last frame it is, as it is to be routed again. -/
structure Replayed where
  fseq : Nat
  frame : Frame
  ends : Option Queued := none
  deriving DecidableEq, Repr

/-- Receive-buffer credits of the neighbour that a packet sent holds until its frames have left (R323, R244): its virtual
channel, its frames still there, and how much it takes of each share, by share number. -/
structure CreditUse where
  vc : Nat
  frames : Nat
  takes : List (Nat × Nat)
  deriving DecidableEq, Repr

/-- One OXL port (R309 to R316, R323): the parts of it that are no register. rxNext and txNext are the next FSEQ each way;
replay the frames sent and not acknowledged; credits what is held of the neighbour's buffer, oldest first; queue the packets
queued to the port; rxFrames the payloads of a packet received in part, rxPackets those received whole; swap a lane swap
under way; lanes the lanes in working order, as a mask; delay the one-way delay in 1/64 ns, measured last; probed that a
probe is out. -/
structure Port where
  rxNext : Nat := 0
  txNext : Nat := 0
  replay : List Replayed := []
  crcFails : Nat := 0
  credits : List CreditUse := []
  queue : List Queued := []
  rxFrames : List (List Byte) := []
  rxPackets : List Packet := []
  everActive : Bool := false
  swap : Option Nat := none
  lanes : Nat := 511
  probed : Bool := false
  delay : Nat := 0
  deriving DecidableEq, Repr

/-- What the Prompter's cores do (R291, R344). -/
inductive PromState where
  | off
  | booting
  | running
  | reset
  | restarting
  | held
  deriving DecidableEq, Repr

/-- A mailbox and its telemetry setting (R338 to R343): the command claimed, the cue of its GO, its telemetry page's address,
period, pages written, and the STALE bit in the last one's header. -/
structure Box where
  command : Nat := 0
  goCue : Nat := 0
  telemAddr : Nat := 0
  telemPeriod : Nat := 0
  telemSeq : Nat := 0
  pageStale : Bool := false
  deriving DecidableEq, Repr

/-- One copy of the boot image in flash (R344). -/
structure BootImage where
  valid : Bool := false
  seq : Nat := 0
  version : Nat := 0
  body : List Byte := []
  deriving DecidableEq, Repr

/-- A unit of the Prompter's repair queue (R337). -/
inductive RepairUnit where
  | cluster (c : Nat)
  | channel (c : Nat)
  | port (p : Nat)
  | slice (d : Nat)
  | stack (k : Nat)
  deriving DecidableEq, Repr

/-- A safety or sparing event of the history area (R304). -/
structure HistoryEntry where
  cue : Nat
  code : Nat
  unit : Nat
  detail : Nat
  deriving DecidableEq, Repr

/-- The Curtain area of the persistent image (R304): cause, cue, sensors, rail currents, VHOLD, flow,
restarts in progress, hub events, and the Prompter's log. -/
structure Curtain where
  cause : Nat := 0
  unit : Nat := 0
  cue : Nat := 0
  temps : List Word32 := []
  currents : List Nat := []
  vhold : Nat := 0
  flow : Nat := 0
  restarts : List Restart := []
  events : List HistoryEntry := []
  log : List HistoryEntry := []
  deriving DecidableEq, Repr

/-- The persistent image (R304). -/
structure Image where
  bootCount : Nat := 0
  curtainCount : Nat := 0
  folds : List (Nat × Word32) := []
  wayStatus : Word32 := 0xAA
  waysOut : List Nat := []
  mapped : List Nat := []
  laneMap : List (Nat × Nat) := []
  limits : List (Nat × Word32) := []
  rowRepl : List RowRepl := []
  failed : List Nat := []
  history : List HistoryEntry := []
  curtain : Curtain := {}
  deriving DecidableEq, Repr

/-- A ledger record as its slot holds it (R299, R300, R303): its header words, its payload as the image
it stands for, its CRC word and its commit word, each as two words of 32 bits. -/
structure LedgerSlot where
  seq : Nat := 0
  magic : Word32 := 0
  length : Nat := 0
  kind : Nat := 0
  cue : Nat := 0
  bookDigest : Word64 := 0
  part : Word64 := 0
  image : Image := {}
  crcLo : Word32 := 0
  crcHi : Word32 := 0
  commitLo : Word32 := 0
  commitHi : Word32 := 0
  deriving DecidableEq, Repr

/-- A ledger record being written (R295, R301): its slot number and its record. -/
structure LedgerWrite where
  slot : Nat
  record : LedgerSlot
  deriving DecidableEq, Repr

/-- How far a safe stop or a Curtain save has come (R282, R293, R295). -/
inductive Stop where
  | running
  | orderly (event : Nat) (unit : Nat)
  | saving
  | saved
  | halted
  deriving DecidableEq, Repr

/-- The board-facing outputs and inputs (R288, R348, R350): true is the asserted, low level. -/
structure Pins where
  healthy : Bool := false
  thermtrip : Bool := false
  pwrkill : Bool := false
  seq0 : Bool := false
  seq1 : Bool := false
  seq2 : Bool := false
  seq3 : Bool := false
  por : Bool := false
  perst : Bool := true
  pwrfail : Bool := false
  deriving DecidableEq, Repr

/-- Where the rail sequence stands (R348): groups in range, the group waited for, tries, and whether it is
held until the next power-on reset. -/
structure Rails where
  inRange : Nat := 0
  waiting : Bool := false
  tries : Nat := 0
  held : Bool := false
  deriving DecidableEq, Repr

/-- What the device sends out of itself, in order: interrupts, completions, messages, packets, frames. -/
inductive Out where
  /-- An MSI-X message of a function's table entry (R237, R334). -/
  | msix (fn : Nat) (entry : Nat)
  /-- An in-band interrupt of the sideband port (R345). -/
  | inband
  /-- A host access that completes as an Unsupported Request (R333, R359, R365). -/
  | unsupported (who : Requester)
  /-- The data of a read by a requester (R360). -/
  | readData (who : Requester) (value : Word32)
  /-- The data of a BAR4 read (R333). -/
  | bar4Data (fn : Nat) (data : List Byte)
  /-- A ring or collective message: destination node and partition, virtual channel (R321), and the bytes of its header and payload
  (R141, R161). -/
  | message (node : Nat) (part : Nat) (vc : Nat) (data : List Byte)
  /-- The bytes of a BEACON on VC0 of a port (R160). -/
  | beacon (port : Nat) (data : List Byte)
  /-- A PEER write: node, PSEQ, target partition, address, bytes (R319). -/
  | peerWrite (node : Nat) (pseq : Nat) (target : Nat) (addr : Nat) (data : List Byte)
  /-- A PEER read request (R321). -/
  | peerRead (node : Nat) (tag : Nat) (target : Nat) (addr : Nat) (len : Nat)
  /-- A PEER read response (R321). -/
  | peerResponse (node : Nat) (tag : Nat) (status : PeerStatus) (data : List Byte)
  /-- An E2E ACK: the lowest PSEQ not yet accepted (R319). -/
  | e2eAck (node : Nat) (pseq : Nat) (status : PeerStatus)
  /-- A packet handed to a port's transmitter on a virtual channel (R324). -/
  | packet (port : Nat) (packet : Packet)
  /-- A frame sent again from the replay buffer (R312). -/
  | frame (port : Nat) (fseq : Nat) (frame : Frame)
  /-- A NAK of a frame (R312). -/
  | nak (port : Nat) (fseq : Nat)
  /-- An acknowledgement of received frames (R312). -/
  | ack (port : Nat) (fseq : Nat)
  /-- Credits returned for a virtual channel (R323). -/
  | creditReturn (port : Nat) (vc : Nat) (frames : Nat)
  /-- An identity record sent in a LINK frame (R315). -/
  | identity (port : Nat) (record : IdRecord)
  /-- A round-trip probe sent, or echoed with this device's TURNAROUND (R311, R325). -/
  | probe (port : Nat) (stamp : Word64)
  | probeEcho (port : Nat) (stamp : Word64)
  /-- A cue report to the ports downstream (R325): the count at the last edge, the time since then in 1/64 ns, and DEPTH. -/
  | cueReport (port : Nat) (count : Word64) (elapsed : Nat) (depth : Nat)
  /-- A lane swap agreed with the neighbour (R309). -/
  | laneSwap (port : Nat) (lane : Nat)
  deriving DecidableEq, Repr

/-- The pair of this device and one other, by node (R319): the next PSEQ, the lowest PSEQ not yet
acknowledged, what waits because 1,024 packets are outstanding (first PSEQ, source partition, item), the
lowest PSEQ not yet accepted, and those accepted ahead of it. -/
structure Pair where
  nextPseq : Nat := 0
  acked : Nat := 0
  backlog : List (Nat × Nat × Out) := []
  accepted : Nat := 0
  ahead : List Nat := []
  deriving DecidableEq, Repr

/-- Registers. -/
structure RegState where
  /-- The register file: 32-bit registers by their offset in the physical function's BAR0 (R359, R365, R377);
  an unlisted offset holds its reset value. -/
  file : List (Nat × Word32) := []
  /-- The shadows of _HI halves, by requester × 2^32 + register offset (R363): none before a first latch. -/
  shadows : List (Nat × Option Word32) := []
  /-- The holding mirror (R364), by the offset it mirrors. -/
  mirror : List (Nat × Word32) := []
  deriving DecidableEq, Repr

/-- The memories, their poison, and the shared cache. -/
structure MemState where
  /-- The local stores: cluster × 786,432 + offset (R184). -/
  loc : List Host.Cell := []
  /-- The directly addressed region of the shared cache (R188). -/
  cache : List Host.Cell := []
  /-- Stacked memory, by device address (R194). -/
  stack : List Host.Cell := []
  /-- Host memory as the device reads and writes it, by function × 2^64 + address (R54). -/
  host : List Host.Cell := []
  /-- Peer memory received by PEER reads in flight: rank × 2^64 + address (R321). -/
  peer : List Host.Cell := []
  /-- What stages of a CHAIN in flight hand on, and what they have taken from a chain port: queue × 2^64 + place (R36,
  R37). -/
  hand : List Host.Cell := []
  /-- The host addresses that a function's translation refuses: function, base, length (R54). -/
  refused : List (Nat × Nat × Nat) := []
  /-- Poisoned 16-byte pieces of local store, 8-byte pieces of the cache region, 64-byte sectors of stacked
  memory (R185, R192, R195). -/
  locPoison : List Nat := []
  cachePoison : List Nat := []
  stackPoison : List Nat := []
  /-- Poisoned 8-byte pieces of dirty lines of stacked memory in the cache (R192), by device address / 8. -/
  linePoison : List Nat := []
  /-- Corrected errors of the local stores, by cluster (R185), and the bit of the earlier corrected error of a row, plus 1, by
  cluster × 1,536 + row (R186). -/
  locCorr : List (Nat × Nat) := []
  rowBit : List (Nat × Nat) := []
  /-- Stacked-memory lines in the shared cache, least recently used first (R187, R189). -/
  lines : List CacheLine := []
  /-- Corrected errors this hour per cache way: slice × 18 + way (R192). -/
  wayCorr : List (Nat × Nat) := []
  /-- Understudy ways in use and ways mapped out: slice × 18 + way (R192). -/
  waysOut : List Nat := []
  deriving DecidableEq, Repr

/-- Time: the cue and the folds' clocks. -/
structure TimeState where
  /-- The cue count (R43). -/
  cue : Nat := 0
  /-- The device holds its count until the parent reaches it (R356). -/
  holding : Bool := false
  /-- Cues since the cue source in use last reported (R327). -/
  silence : Nat := 0
  /-- The device's cue edge against the nominal edge, in 1/64 ns: the slewing of R325. -/
  slew : Int := 0
  /-- Cycle counts of the folds (R22, R43). -/
  cycles : List (Nat × Nat) := []
  /-- Fold clocks in units of 10 MHz; 160 is nominal (R13, R14). -/
  clock : List (Nat × Nat) := []
  /-- Dies whose folds a current trip has stopped (R285). -/
  diesStopped : List Nat := []
  /-- Folds whose dynamic claims the placement loop has stopped (R80). -/
  claimsStopped : List Nat := []
  deriving DecidableEq, Repr

/-- Sparing: rows, clusters, channels. -/
structure SpareState where
  /-- Spare local-store rows used per cluster (R186). -/
  rowsUsed : List (Nat × Nat) := []
  /-- Clusters to be declared failed when their partition has no running scene (R186, R305). -/
  failing : List Nat := []
  /-- Clusters that have failed (R84, R256). -/
  failed : List Nat := []
  /-- Replacements under way (R255). -/
  restarts : List Restart := []
  /-- Physical clusters lost without an understudy, in depleted folds (R256). -/
  lost : List Nat := []
  /-- A channel map-out in progress, channels that wait for it, and channels mapped out (R197, R199). -/
  drain : Option Drain := none
  mappedOut : List Nat := []
  deriving DecidableEq, Repr

/-- The book and the configuration check. -/
structure ConfigState where
  /-- The committed book (R372). -/
  book : Option Book := none
  /-- The book being committed, until the commit is done (R372). -/
  pending : Option Book := none
  /-- The reference of the configuration check, and whether the pass in progress is a second one (R375). -/
  crcRef : Option Nat := none
  crcSecond : Bool := false
  deriving DecidableEq, Repr

/-- Company tables, the cast table, chain ports, Apron engines and what collectives left behind. -/
structure CompanyState where
  /-- The Apron engines, by die (R98). -/
  aprons : List (Nat × Apron) := []
  /-- Company entries (R155). -/
  companies : List (Nat × CompanyEntry) := []
  /-- The cast table (R150). -/
  cast : List (Nat × CastEntry) := []
  /-- Chain ports by PORT number (R37). -/
  chainPorts : List (Nat × ChainPort) := []
  /-- Relays of collectives left early (R166). -/
  relays : List Relay := []
  /-- Headers held for later collectives (R163). -/
  held : List HeldHeader := []
  /-- Ring messages held for later instructions (R163). -/
  heldRing : List HeldRing := []
  deriving DecidableEq, Repr

/-- The Oxtovas Link. -/
structure LinkState where
  /-- The OXL ports (R308). -/
  ports : List (Nat × Port) := []
  /-- Packets that wait for credits or a route (R322, R323). -/
  waiting : List Queued := []
  /-- Source–destination pairs by node (R319). -/
  pairs : List (Nat × Pair) := []
  /-- Weighted round robin (R243): the partition whose turn it is, and the grants of its turn. -/
  turn : Nat := 0
  grants : Nat := 0
  /-- Packets of messages not yet whole, and messages assembled from them (R318). -/
  assembly : List Packet := []
  messages : List (Nat × List Byte) := []
  deriving DecidableEq, Repr

/-- The PCIe side. -/
structure HostState where
  /-- Whether the PCIe link serves requests (R354). -/
  pcieUp : Bool := false
  /-- Functions whose MSI-X the host has disabled (R247, R334). -/
  msixOff : List Nat := []
  /-- Virtual functions enabled by SR-IOV (R234, R332). -/
  vfEnabled : Nat := 16
  /-- Functions in D3hot (R331). -/
  d3hot : List Nat := []
  /-- The global event ring's PHASE, whether it has ever been enabled, and the events held until then: code,
  unit, detail, cue (R335, R354). -/
  evtPhase : Bool := true
  evtEver : Bool := false
  evtHeld : List (Nat × Nat × Nat × Nat) := []
  deriving DecidableEq, Repr

/-- The Prompter (R336 to R344). -/
structure PromptState where
  cores : PromState := .off
  boxes : List (Nat × Box) := []
  /-- The mailbox that class 2 serves next (R336). -/
  turn : Nat := 0
  repairs : List RepairUnit := []
  images : List (Nat × BootImage) := []
  activeImage : Nat := 0
  /-- A checked image is resident (R344). -/
  resident : Bool := false
  log : List HistoryEntry := []
  sideband : List Host.Cell := []
  /-- Cue of the last kick, and cues of the watchdog resets (R291). -/
  lastKick : Nat := 0
  resets : List Nat := []
  deriving DecidableEq, Repr

/-- The Shepherd (R282 to R298, R348). -/
structure ShepState where
  stop : Stop := .running
  pins : Pins := {}
  rails : Rails := {}
  savesEnabled : Bool := false
  restarting : Bool := false
  /-- The Shepherd supply is absent: nothing of the device runs but a save, and no output is driven (R288). -/
  dark : Bool := false
  /-- Sensors of folds that have been read: twice the fold, plus 1 for sensor B (R284). -/
  sampled : List Nat := []
  /-- The hub's and the stacks' sensors by place, 32 for the hub and 33 on for the stacks (R283): last readings of A and B in quarters
  of a degree, at twice the place and the next; those counted as failed, as a mask; the temperature that a stack reports. -/
  heat : List (Nat × Nat) := []
  heatFailed : List (Nat × Nat) := []
  reported : List (Nat × Nat) := []
  lockstepCues : List Nat := []
  failedComparators : List CurrentRail := []
  meterFailed : Bool := false
  flowCapped : Bool := false
  /-- Settings of the equalisers and of refresh, held in bounds (R290): port × 9 + lane, and channel. -/
  taps : List (Nat × Int) := []
  refresh : List (Nat × Nat) := []
  /-- Clamps counted in telemetry (R290). -/
  clamps : Nat := 0
  deriving DecidableEq, Repr

/-- The ledger: slots, the record being written, a change that awaits the next record, whether the
controller is held, the shadow image, and the hub's last events (R296, R299 to R305). -/
structure LedgState where
  slots : List (Nat × LedgerSlot) := []
  write : Option LedgerWrite := none
  again : Bool := false
  held : Bool := false
  shadow : Image := {}
  hubEvents : List HistoryEntry := []
  deriving DecidableEq, Repr

/-- The state of the device. Every register that is no view of another field stands in regs. -/
structure State where
  /-- Ordering number (R1). -/
  part : Part
  /-- Part serial number (R368). -/
  serial : Nat
  /-- Sideband address straps, SB_ADDR1 and SB_ADDR0 (R383). -/
  straps : BitVec 2
  regs : RegState
  mem : MemState
  time : TimeState
  spare : SpareState
  config : ConfigState
  /-- The queues (R17). -/
  queues : List (Nat × Queue)
  /-- The partitions (R232). -/
  parts : List (Nat × Partition)
  /-- Instructions in flight, in issue order (R21). -/
  insts : List Inst
  comp : CompanyState
  link : LinkState
  host : HostState
  prom : PromptState
  shep : ShepState
  ledg : LedgState
  /-- What the device has sent, in order. -/
  out : List Out
  /-- MODEL'S OWN: the counter that free values are drawn with (see Config). -/
  free : Nat
  /-- The commands that wait, first in, first out. -/
  pending : List Instr
  deriving DecidableEq, Repr

/-- No command of this block ends in a fault: every event of the manual is a code in a completion record, a
vector, a ring record or a sticky bit, all of them State. The one constructor is raised by nothing; it
stands because the interface asks for a type of reasons. Safe. -/
inductive Fault where
  | unreachable
  deriving DecidableEq, Repr

/-- Refusals. notModelled is answered by exec's arms alone, for a row without a meaning: safe, because the
machine stops. -/
inductive Refusal where
  | notModelled (mnemonic : String)
  deriving DecidableEq, Repr

/-- The state right after reset: the moment of cold start (R347, R351), VSHP in range, the Shepherd in phase
SHEPHERD, the cue counting from 0, every register at its reset value, nothing listed in any table, PERST_N
low, ledger and boot flash empty (their contents are kept from manufacture). DESIGN CHOICE, log entries 4 and 5: ordering number,
serial number, straps, ledger, flash, and every register without a stated reset value. -/
def State.reset : State where
  part := .l16
  serial := 0
  straps := 0
  regs := {}
  mem := {}
  time := {}
  spare := {}
  config := {}
  queues := []
  parts := []
  insts := []
  comp := {}
  link := {}
  host := {}
  prom := {}
  shep := {}
  ledg := {}
  out := []
  free := 0
  pending := []

end Sys2Proof.Machine
end

