-- ==== Sys2Proof/Machine/RegMap.lean ====
section
/-!
DEFINITION. The register map (R377): every register of the device as a constructor, where BAR0 of the
physical function places it (R365, R366), and its fields with their access codes and reset values, as
the register tables of the chapters give them. HUB.ID.HEIGHT resets to 16 or 12 by ordering number.
Registers that the manual names without a table (addresses, digests, references) are one field of
32 bits.
-/

namespace Sys2Proof.Machine

/-- The access codes (R5). -/
inductive Access where
  | rw
  | ro
  | wo
  | w1c
  | rwl
  | sho
  deriving DecidableEq, Repr

/-- A field of a register: lowest bit, width, access code, reset value (R5). -/
structure FieldSpec where
  lo : Nat
  len : Nat
  access : Access
  reset : Nat
  deriving DecidableEq, Repr

/-- The registers (R377). p numbers a partition, b a mailbox (partition 0 to 15, 16 the global one, 17 the
sideband's), q a device queue, f a fold, c a channel, g a gate, i a property, n a node. -/
inductive Reg where
  | cacCtrl
  | cacStatus
  | cacLimits
  | hbcCtrl
  | hbcMapped
  | hbcRehCtrl
  | hbcRehStatus
  | hbcRehFail
  | hbcLimits
  | hbcChstat (c : Nat)
  | parCtrl (p : Nat)
  | parStatus (p : Nat)
  | parShares (p : Nat)
  | parPrio (p : Nat)
  | parLock (p : Nat)
  | parGate (p g : Nat)
  | fldStatus (f : Nat)
  | parRstatus (p : Nat)
  | pmtKick
  | shpStatus
  | shpCause
  | shpTlimits
  | shpCoolant
  | shpFlimits
  | shpWdog
  | shpHold
  | shpTemp (f : Nat)
  | ldgStatus
  | ldgSeqLo
  | ldgSeqHi
  | ldgTorn
  | oxlCtrl
  | oxlNode
  | oxlCueCfg
  | oxlCueStat
  | oxlPortCfg (p : Nat)
  | oxlPortStat (p : Nat)
  | oxlPortErr (p : Nat)
  | oxlRt (n : Nat)
  | oxlRte (n : Nat)
  | pmtMbxCtrl (b : Nat)
  | pmtMbxStat (b : Nat)
  | pmtTelemStat (b : Nat)
  | pciEvtCtrl
  | pciEvtStat
  | hubId
  | hubBoot
  | hubSnap
  | hubWign
  | hubBookCtrl
  | queQctrl (q : Nat)
  | queHead (q : Nat)
  | queTail (q : Nat)
  | queQstat (q : Nat)
  | crcCtrl
  | crcStatus
  | hubSerialLo
  | hubSerialHi
  | hubBookAddrLo
  | hubBookAddrHi
  | hubBookDigestLo
  | hubBookDigestHi
  | hubPropLo (i : Nat)
  | hubPropHi (i : Nat)
  | cueCountLo
  | cueCountHi
  | crcRefLo
  | crcRefHi
  | crcLastLo
  | crcLastHi
  | crcImage
  | pciEvtBaseLo
  | pciEvtBaseHi
  | hbcCapLo
  | hbcCapHi
  | pmtLoad
  | pmtMbxPageLo (b : Nat)
  | pmtMbxPageHi (b : Nat)
  | parPblkLo (p : Nat)
  | parPblkHi (p : Nat)
  | parRblkLo (p : Nat)
  | parRblkHi (p : Nat)
  | parPlanLo (p : Nat)
  | parPlanHi (p : Nat)
  | queQtabLo (p : Nat)
  | queQtabHi (p : Nat)
  deriving DecidableEq, Repr

/-- The PMT block of a mailbox (R365, R366, R377): the partition window's, the global one, or the sideband's,
whose SB_CTRL and SB_STAT have the fields of MBX_CTRL and MBX_STAT. -/
def pmtBase (b : Nat) : Nat :=
  if b < 16 then 0x1010000 + 0x100000 * b else if b = 16 then 0x20000 else 0x20200

/-- The offset of a register in BAR0 of the physical function (R365, R377). -/
def Reg.addr : Reg → Nat
  | .cacCtrl => 0x70000
  | .cacStatus => 0x70010
  | .cacLimits => 0x70020
  | .hbcCtrl => 0x80000
  | .hbcMapped => 0x80030
  | .hbcRehCtrl => 0x80040
  | .hbcRehStatus => 0x80050
  | .hbcRehFail => 0x80060
  | .hbcLimits => 0x80070
  | .hbcChstat c => 0x81000 + 16 * c
  | .parCtrl p => 0x100000 + 0x8000 * p
  | .parStatus p => 0x100010 + 0x8000 * p
  | .parShares p => 0x100020 + 0x8000 * p
  | .parPrio p => 0x100030 + 0x8000 * p
  | .parLock p => 0x100040 + 0x8000 * p
  | .parGate p g => 0x101000 + 0x8000 * p + 16 * g
  | .fldStatus f => 0x90000 + 16 * f
  | .parRstatus p => 0x1000a0 + 0x8000 * p
  | .pmtKick => 0x20100
  | .shpStatus => 0x10000
  | .shpCause => 0x10010
  | .shpTlimits => 0x10020
  | .shpCoolant => 0x10030
  | .shpFlimits => 0x10040
  | .shpWdog => 0x10050
  | .shpHold => 0x10060
  | .shpTemp f => 0x11000 + 16 * f
  | .ldgStatus => 0x40000
  | .ldgSeqLo => 0x40010
  | .ldgSeqHi => 0x40020
  | .ldgTorn => 0x40030
  | .oxlCtrl => 0x200000
  | .oxlNode => 0x200010
  | .oxlCueCfg => 0x200020
  | .oxlCueStat => 0x200030
  | .oxlPortCfg p => 0x200100 + 16 * p
  | .oxlPortStat p => 0x200200 + 16 * p
  | .oxlPortErr p => 0x200300 + 16 * p
  | .oxlRt n => 0x210000 + 16 * n
  | .oxlRte n => 0x220000 + 16 * n
  | .pmtMbxCtrl b => pmtBase b + 0x0
  | .pmtMbxStat b => pmtBase b + 0x10
  | .pmtTelemStat b => pmtBase b + 0x70
  | .pciEvtCtrl => 0x60020
  | .pciEvtStat => 0x60030
  | .hubId => 0x0
  | .hubBoot => 0x30
  | .hubSnap => 0x40
  | .hubWign => 0x50
  | .hubBookCtrl => 0x120
  | .queQctrl q => 0x401000 + 64 * q
  | .queHead q => 0x401010 + 64 * q
  | .queTail q => 0x401020 + 64 * q
  | .queQstat q => 0x401030 + 64 * q
  | .crcCtrl => 0x50000
  | .crcStatus => 0x50010
  | .hubSerialLo => 0x10
  | .hubSerialHi => 0x20
  | .hubBookAddrLo => 0x100
  | .hubBookAddrHi => 0x110
  | .hubBookDigestLo => 0x130
  | .hubBookDigestHi => 0x140
  | .hubPropLo i => 0x1000 + 32 * i
  | .hubPropHi i => 0x1010 + 32 * i
  | .cueCountLo => 0x30000
  | .cueCountHi => 0x30010
  | .crcRefLo => 0x50020
  | .crcRefHi => 0x50030
  | .crcLastLo => 0x50040
  | .crcLastHi => 0x50050
  | .crcImage => 0x50060
  | .pciEvtBaseLo => 0x60000
  | .pciEvtBaseHi => 0x60010
  | .hbcCapLo => 0x80010
  | .hbcCapHi => 0x80020
  | .pmtLoad => 0x20080
  | .pmtMbxPageLo b => pmtBase b + 0x20
  | .pmtMbxPageHi b => pmtBase b + 0x30
  | .parPblkLo p => 0x100000 + 0x8000 * p + 0x60
  | .parPblkHi p => 0x100000 + 0x8000 * p + 0x70
  | .parRblkLo p => 0x100000 + 0x8000 * p + 0x80
  | .parRblkHi p => 0x100000 + 0x8000 * p + 0x90
  | .parPlanLo p => 0x100000 + 0x8000 * p + 0xb0
  | .parPlanHi p => 0x100000 + 0x8000 * p + 0xc0
  | .queQtabLo p => 0x400000 + 0x20 * p + 0x0
  | .queQtabHi p => 0x400000 + 0x20 * p + 0x10

/-- The fields of a register (R5 and the register tables). -/
def Reg.fields : Reg → List FieldSpec
  | .cacCtrl => [⟨0, 1, .rw, 0⟩, ⟨4, 4, .rwl, 0⟩, ⟨8, 1, .rwl, 0⟩]
  | .cacStatus => [⟨0, 8, .ro, 170⟩, ⟨8, 8, .ro, 0⟩, ⟨16, 1, .w1c, 0⟩]
  | .cacLimits => [⟨0, 16, .sho, 64⟩]
  | .hbcCtrl => [⟨0, 1, .rw, 0⟩, ⟨1, 1, .rwl, 0⟩, ⟨16, 16, .rwl, 60⟩]
  | .hbcMapped => [⟨0, 4, .ro, 0⟩, ⟨4, 9, .ro, 0⟩, ⟨13, 1, .ro, 0⟩]
  | .hbcRehCtrl => [⟨0, 9, .rwl, 0⟩, ⟨9, 1, .rwl, 0⟩, ⟨10, 2, .rwl, 0⟩, ⟨12, 3, .rwl, 0⟩, ⟨15, 1, .rwl, 0⟩, ⟨16, 1, .wo, 0⟩, ⟨17, 7, .rwl, 67⟩, ⟨24, 1, .rwl, 0⟩]
  | .hbcRehStatus => [⟨0, 1, .ro, 0⟩, ⟨1, 1, .ro, 0⟩, ⟨2, 1, .ro, 0⟩, ⟨3, 1, .ro, 0⟩, ⟨4, 12, .ro, 0⟩, ⟨16, 16, .ro, 0⟩]
  | .hbcRehFail => [⟨0, 9, .ro, 0⟩, ⟨9, 1, .ro, 0⟩, ⟨10, 6, .ro, 0⟩, ⟨16, 16, .ro, 0⟩]
  | .hbcLimits => [⟨0, 16, .sho, 4096⟩, ⟨16, 4, .sho, 8⟩]
  | .hbcChstat _ => [⟨0, 2, .ro, 3⟩, ⟨2, 2, .ro, 0⟩, ⟨8, 8, .ro, 0⟩, ⟨16, 16, .ro, 0⟩]
  | .parCtrl _ => [⟨0, 1, .rw, 0⟩, ⟨1, 1, .wo, 0⟩]
  | .parStatus _ => [⟨0, 2, .ro, 0⟩, ⟨2, 4, .ro, 0⟩, ⟨8, 1, .w1c, 0⟩, ⟨9, 1, .w1c, 0⟩, ⟨10, 1, .w1c, 0⟩, ⟨11, 1, .w1c, 0⟩, ⟨12, 1, .w1c, 0⟩]
  | .parShares _ => [⟨0, 8, .rw, 16⟩, ⟨8, 8, .rw, 16⟩, ⟨16, 8, .rw, 16⟩]
  | .parPrio _ => [⟨0, 4, .rw, 8⟩, ⟨4, 4, .rw, 4⟩, ⟨8, 4, .rw, 2⟩, ⟨12, 4, .rw, 2⟩, ⟨16, 4, .rw, 4⟩, ⟨20, 4, .rw, 4⟩, ⟨24, 4, .rw, 4⟩, ⟨28, 4, .rw, 4⟩]
  | .parLock _ => [⟨0, 1, .wo, 0⟩, ⟨1, 1, .wo, 0⟩, ⟨2, 1, .wo, 0⟩, ⟨8, 5, .ro, 31⟩, ⟨13, 1, .ro, 0⟩, ⟨14, 1, .ro, 0⟩, ⟨16, 16, .ro, 0⟩]
  | .parGate _ _ => [⟨0, 16, .rwl, 0⟩, ⟨16, 8, .rwl, 0⟩, ⟨24, 1, .ro, 0⟩, ⟨25, 1, .ro, 0⟩]
  | .fldStatus _ => [⟨0, 2, .ro, 2⟩, ⟨2, 7, .ro, 127⟩, ⟨9, 7, .ro, 127⟩, ⟨16, 1, .ro, 0⟩]
  | .parRstatus _ => [⟨0, 3, .ro, 0⟩, ⟨3, 1, .w1c, 0⟩, ⟨4, 1, .w1c, 0⟩, ⟨5, 1, .w1c, 0⟩, ⟨8, 8, .ro, 0⟩, ⟨16, 16, .ro, 0⟩]
  | .pmtKick => [⟨0, 8, .wo, 0⟩]
  | .shpStatus => [⟨0, 3, .sho, 0⟩, ⟨3, 1, .sho, 0⟩, ⟨4, 1, .sho, 0⟩, ⟨8, 8, .sho, 0⟩]
  | .shpCause => [⟨0, 16, .sho, 0⟩, ⟨16, 8, .sho, 0⟩]
  | .shpTlimits => [⟨0, 8, .sho, 95⟩, ⟨8, 8, .sho, 105⟩, ⟨16, 8, .ro, 110⟩]
  | .shpCoolant => [⟨0, 12, .sho, 0⟩, ⟨12, 1, .sho, 0⟩, ⟨13, 1, .sho, 0⟩, ⟨14, 1, .sho, 0⟩, ⟨15, 1, .sho, 0⟩, ⟨16, 1, .sho, 0⟩]
  | .shpFlimits => [⟨0, 12, .sho, 300⟩, ⟨12, 12, .sho, 200⟩]
  | .shpWdog => [⟨0, 16, .sho, 100⟩, ⟨16, 8, .sho, 0⟩, ⟨24, 1, .sho, 0⟩]
  | .shpHold => [⟨0, 12, .sho, 0⟩, ⟨12, 12, .sho, 0⟩, ⟨24, 8, .sho, 0⟩]
  | .shpTemp _ => [⟨0, 10, .sho, 0⟩, ⟨10, 10, .sho, 0⟩, ⟨20, 1, .sho, 0⟩, ⟨21, 1, .sho, 0⟩, ⟨22, 2, .sho, 0⟩, ⟨24, 8, .sho, 200⟩]
  | .ldgStatus => [⟨0, 5, .sho, 0⟩, ⟨5, 1, .sho, 0⟩, ⟨6, 1, .sho, 0⟩, ⟨7, 1, .sho, 0⟩]
  | .ldgSeqLo => [⟨0, 32, .sho, 0⟩]
  | .ldgSeqHi => [⟨0, 32, .sho, 0⟩]
  | .ldgTorn => [⟨0, 5, .sho, 0⟩, ⟨5, 27, .sho, 0⟩]
  | .oxlCtrl => [⟨0, 1, .rw, 0⟩, ⟨8, 8, .rwl, 2⟩, ⟨16, 8, .rwl, 64⟩, ⟨24, 8, .rwl, 10⟩]
  | .oxlNode => [⟨0, 16, .rwl, 65535⟩]
  | .oxlCueCfg => [⟨0, 1, .rwl, 0⟩, ⟨1, 1, .rwl, 0⟩, ⟨2, 1, .rwl, 0⟩, ⟨8, 4, .rwl, 0⟩, ⟨12, 4, .rwl, 0⟩, ⟨16, 1, .rwl, 0⟩, ⟨17, 1, .rwl, 0⟩]
  | .oxlCueStat => [⟨0, 2, .ro, 0⟩, ⟨2, 1, .ro, 0⟩, ⟨3, 5, .ro, 31⟩, ⟨8, 8, .ro, 0⟩, ⟨16, 16, .ro, 0⟩]
  | .oxlPortCfg _ => [⟨0, 1, .rwl, 1⟩, ⟨1, 1, .rwl, 0⟩, ⟨2, 1, .rwl, 0⟩, ⟨4, 16, .rwl, 0⟩, ⟨20, 4, .rwl, 0⟩, ⟨24, 4, .rwl, 4⟩, ⟨28, 4, .rwl, 8⟩]
  | .oxlPortStat _ => [⟨0, 3, .ro, 0⟩, ⟨3, 1, .ro, 0⟩, ⟨4, 4, .ro, 15⟩, ⟨8, 1, .w1c, 0⟩, ⟨12, 16, .ro, 65535⟩, ⟨28, 4, .ro, 0⟩]
  | .oxlPortErr _ => [⟨0, 16, .ro, 0⟩, ⟨16, 8, .ro, 0⟩, ⟨24, 8, .ro, 0⟩]
  | .oxlRt _ => [⟨0, 16, .rw, 0⟩, ⟨16, 16, .rw, 0⟩]
  | .oxlRte _ => [⟨0, 4, .rw, 0⟩, ⟨4, 1, .rw, 0⟩]
  | .pmtMbxCtrl _ => [⟨0, 1, .wo, 0⟩, ⟨16, 10, .rw, 0⟩]
  | .pmtMbxStat _ => [⟨0, 1, .w1c, 0⟩, ⟨1, 1, .ro, 0⟩, ⟨2, 1, .ro, 0⟩, ⟨3, 1, .w1c, 0⟩]
  | .pmtTelemStat _ => [⟨0, 1, .ro, 1⟩, ⟨16, 16, .ro, 65535⟩]
  | .pciEvtCtrl => [⟨0, 1, .rw, 0⟩, ⟨16, 12, .rw, 0⟩]
  | .pciEvtStat => [⟨0, 12, .ro, 0⟩, ⟨16, 16, .w1c, 0⟩]
  | .hubId => [⟨0, 16, .ro, 28744⟩, ⟨16, 8, .ro, 17⟩, ⟨24, 8, .ro, 16⟩]
  | .hubBoot => [⟨0, 3, .ro, 0⟩]
  | .hubSnap => [⟨0, 1, .wo, 0⟩, ⟨1, 1, .ro, 0⟩, ⟨2, 1, .ro, 0⟩]
  | .hubWign => [⟨0, 1, .w1c, 0⟩, ⟨1, 1, .ro, 0⟩, ⟨2, 4, .ro, 0⟩, ⟨6, 20, .ro, 0⟩]
  | .hubBookCtrl => [⟨0, 1, .wo, 0⟩, ⟨1, 1, .ro, 0⟩, ⟨2, 1, .ro, 0⟩, ⟨3, 1, .w1c, 0⟩, ⟨4, 4, .ro, 0⟩]
  | .queQctrl _ => [⟨0, 1, .rw, 0⟩, ⟨1, 1, .wo, 0⟩, ⟨2, 1, .ro, 0⟩, ⟨3, 1, .w1c, 0⟩, ⟨16, 16, .ro, 0⟩]
  | .queHead _ => [⟨0, 32, .ro, 0⟩]
  | .queTail _ => [⟨0, 32, .ro, 0⟩]
  | .queQstat _ => [⟨0, 13, .ro, 0⟩, ⟨13, 1, .ro, 0⟩, ⟨14, 2, .ro, 0⟩]
  | .crcCtrl => [⟨0, 1, .rw, 0⟩, ⟨1, 1, .wo, 0⟩, ⟨2, 1, .rwl, 0⟩]
  | .crcStatus => [⟨0, 2, .ro, 0⟩, ⟨2, 1, .w1c, 0⟩, ⟨16, 16, .ro, 0⟩]
  | .hubSerialLo => [⟨0, 32, .ro, 0⟩]
  | .hubSerialHi => [⟨0, 32, .ro, 0⟩]
  | .hubBookAddrLo => [⟨0, 32, .rw, 0⟩]
  | .hubBookAddrHi => [⟨0, 32, .rw, 0⟩]
  | .hubBookDigestLo => [⟨0, 32, .ro, 0⟩]
  | .hubBookDigestHi => [⟨0, 32, .ro, 0⟩]
  | .hubPropLo _ => [⟨0, 32, .ro, 0⟩]
  | .hubPropHi _ => [⟨0, 32, .ro, 0⟩]
  | .cueCountLo => [⟨0, 32, .ro, 0⟩]
  | .cueCountHi => [⟨0, 32, .ro, 0⟩]
  | .crcRefLo => [⟨0, 32, .rw, 0⟩]
  | .crcRefHi => [⟨0, 32, .rw, 0⟩]
  | .crcLastLo => [⟨0, 32, .ro, 0⟩]
  | .crcLastHi => [⟨0, 32, .ro, 0⟩]
  | .crcImage => [⟨0, 24, .ro, 0⟩]
  | .pciEvtBaseLo => [⟨0, 32, .rw, 0⟩]
  | .pciEvtBaseHi => [⟨0, 32, .rw, 0⟩]
  | .hbcCapLo => [⟨0, 32, .ro, 0⟩]
  | .hbcCapHi => [⟨0, 32, .ro, 0⟩]
  | .pmtLoad => [⟨0, 32, .ro, 0⟩]
  | .pmtMbxPageLo _ => [⟨0, 32, .rw, 0⟩]
  | .pmtMbxPageHi _ => [⟨0, 32, .rw, 0⟩]
  | .parPblkLo _ => [⟨0, 32, .rwl, 0⟩]
  | .parPblkHi _ => [⟨0, 32, .rwl, 0⟩]
  | .parRblkLo _ => [⟨0, 32, .rwl, 0⟩]
  | .parRblkHi _ => [⟨0, 32, .rwl, 0⟩]
  | .parPlanLo _ => [⟨0, 32, .rw, 0⟩]
  | .parPlanHi _ => [⟨0, 32, .rw, 0⟩]
  | .queQtabLo _ => [⟨0, 32, .rwl, 0⟩]
  | .queQtabHi _ => [⟨0, 32, .rwl, 0⟩]

/-- The reset value of a register, from its fields'. -/
def Reg.resetWord (r : Reg) : Word32 :=
  BitVec.ofNat 32 (r.fields.foldl (fun acc f => acc + f.reset * 2 ^ f.lo) 0)

/-- A named field: its register, lowest bit and width. -/
structure Fld where
  reg : Reg
  lo : Nat
  len : Nat
  deriving DecidableEq, Repr

namespace F

def cacCtrlEn : Fld := ⟨.cacCtrl, 0, 1⟩
def cacCtrlDirectWays : Fld := ⟨.cacCtrl, 4, 4⟩
def cacCtrlScrubEn : Fld := ⟨.cacCtrl, 8, 1⟩
def cacStatusUnderstudies : Fld := ⟨.cacStatus, 0, 8⟩
def cacStatusMappedWays : Fld := ⟨.cacStatus, 8, 8⟩
def cacStatusPoisonSeen : Fld := ⟨.cacStatus, 16, 1⟩
def cacLimitsWayCorr : Fld := ⟨.cacLimits, 0, 16⟩
def hbcCtrlEn : Fld := ⟨.hbcCtrl, 0, 1⟩
def hbcCtrlScrubEn : Fld := ⟨.hbcCtrl, 1, 1⟩
def hbcCtrlScrubMin : Fld := ⟨.hbcCtrl, 16, 16⟩
def hbcMappedCount : Fld := ⟨.hbcMapped, 0, 4⟩
def hbcMappedDrainCh : Fld := ⟨.hbcMapped, 4, 9⟩
def hbcMappedDraining : Fld := ⟨.hbcMapped, 13, 1⟩
def hbcRehCtrlChannel : Fld := ⟨.hbcRehCtrl, 0, 9⟩
def hbcRehCtrlAll : Fld := ⟨.hbcRehCtrl, 9, 1⟩
def hbcRehCtrlMode : Fld := ⟨.hbcRehCtrl, 10, 2⟩
def hbcRehCtrlPattern : Fld := ⟨.hbcRehCtrl, 12, 3⟩
def hbcRehCtrlRepair : Fld := ⟨.hbcRehCtrl, 15, 1⟩
def hbcRehCtrlGo : Fld := ⟨.hbcRehCtrl, 16, 1⟩
def hbcRehCtrlReadPct : Fld := ⟨.hbcRehCtrl, 17, 7⟩
def hbcRehCtrlRandom : Fld := ⟨.hbcRehCtrl, 24, 1⟩
def hbcRehStatusBusy : Fld := ⟨.hbcRehStatus, 0, 1⟩
def hbcRehStatusPass : Fld := ⟨.hbcRehStatus, 1, 1⟩
def hbcRehStatusRepaired : Fld := ⟨.hbcRehStatus, 2, 1⟩
def hbcRehStatusUnrepairable : Fld := ⟨.hbcRehStatus, 3, 1⟩
def hbcRehStatusTrafficGbs : Fld := ⟨.hbcRehStatus, 4, 12⟩
def hbcRehStatusFailCount : Fld := ⟨.hbcRehStatus, 16, 16⟩
def hbcRehFailChannel : Fld := ⟨.hbcRehFail, 0, 9⟩
def hbcRehFailPseudo : Fld := ⟨.hbcRehFail, 9, 1⟩
def hbcRehFailBank : Fld := ⟨.hbcRehFail, 10, 6⟩
def hbcRehFailRow : Fld := ⟨.hbcRehFail, 16, 16⟩
def hbcLimitsCorrRate : Fld := ⟨.hbcLimits, 0, 16⟩
def hbcLimitsMaxMapped : Fld := ⟨.hbcLimits, 16, 4⟩
def hbcChstatState (c : Nat) : Fld := ⟨.hbcChstat c, 0, 2⟩
def hbcChstatLanes (c : Nat) : Fld := ⟨.hbcChstat c, 2, 2⟩
def hbcChstatPprLeft (c : Nat) : Fld := ⟨.hbcChstat c, 8, 8⟩
def hbcChstatCorr (c : Nat) : Fld := ⟨.hbcChstat c, 16, 16⟩
def parCtrlEn (p : Nat) : Fld := ⟨.parCtrl p, 0, 1⟩
def parCtrlReset (p : Nat) : Fld := ⟨.parCtrl p, 1, 1⟩
def parStatusState (p : Nat) : Fld := ⟨.parStatus p, 0, 2⟩
def parStatusCfgCause (p : Nat) : Fld := ⟨.parStatus p, 2, 4⟩
def parStatusResetDone (p : Nat) : Fld := ⟨.parStatus p, 8, 1⟩
def parStatusHoldExpired (p : Nat) : Fld := ⟨.parStatus p, 9, 1⟩
def parStatusWign (p : Nat) : Fld := ⟨.parStatus p, 10, 1⟩
def parStatusLocked (p : Nat) : Fld := ⟨.parStatus p, 11, 1⟩
def parStatusLockLost (p : Nat) : Fld := ⟨.parStatus p, 12, 1⟩
def parSharesMemW (p : Nat) : Fld := ⟨.parShares p, 0, 8⟩
def parSharesCacheW (p : Nat) : Fld := ⟨.parShares p, 8, 8⟩
def parSharesLinkW (p : Nat) : Fld := ⟨.parShares p, 16, 8⟩
def parPrioCred0 (p : Nat) : Fld := ⟨.parPrio p, 0, 4⟩
def parPrioCred1 (p : Nat) : Fld := ⟨.parPrio p, 4, 4⟩
def parPrioCred2 (p : Nat) : Fld := ⟨.parPrio p, 8, 4⟩
def parPrioCred3 (p : Nat) : Fld := ⟨.parPrio p, 12, 4⟩
def parPrioFloor0 (p : Nat) : Fld := ⟨.parPrio p, 16, 4⟩
def parPrioFloor1 (p : Nat) : Fld := ⟨.parPrio p, 20, 4⟩
def parPrioFloor2 (p : Nat) : Fld := ⟨.parPrio p, 24, 4⟩
def parPrioFloor3 (p : Nat) : Fld := ⟨.parPrio p, 28, 4⟩
def parLockAcq (p : Nat) : Fld := ⟨.parLock p, 0, 1⟩
def parLockCommit (p : Nat) : Fld := ⟨.parLock p, 1, 1⟩
def parLockAbort (p : Nat) : Fld := ⟨.parLock p, 2, 1⟩
def parLockOwner (p : Nat) : Fld := ⟨.parLock p, 8, 5⟩
def parLockHeld (p : Nat) : Fld := ⟨.parLock p, 13, 1⟩
def parLockRejected (p : Nat) : Fld := ⟨.parLock p, 14, 1⟩
def parLockLeaseLeft (p : Nat) : Fld := ⟨.parLock p, 16, 16⟩
def parGateCount (p g : Nat) : Fld := ⟨.parGate p g, 0, 16⟩
def parGateRank (p g : Nat) : Fld := ⟨.parGate p g, 16, 8⟩
def parGateBroken (p g : Nat) : Fld := ⟨.parGate p g, 24, 1⟩
def parGateWaiting (p g : Nat) : Fld := ⟨.parGate p g, 25, 1⟩
def fldStatusLeft (f : Nat) : Fld := ⟨.fldStatus f, 0, 2⟩
def fldStatusFailedA (f : Nat) : Fld := ⟨.fldStatus f, 2, 7⟩
def fldStatusFailedB (f : Nat) : Fld := ⟨.fldStatus f, 9, 7⟩
def fldStatusDepleted (f : Nat) : Fld := ⟨.fldStatus f, 16, 1⟩
def parRstatusPhase (p : Nat) : Fld := ⟨.parRstatus p, 0, 3⟩
def parRstatusReplayed (p : Nat) : Fld := ⟨.parRstatus p, 3, 1⟩
def parRstatusPromoted (p : Nat) : Fld := ⟨.parRstatus p, 4, 1⟩
def parRstatusSuspended (p : Nat) : Fld := ⟨.parRstatus p, 5, 1⟩
def parRstatusUsed (p : Nat) : Fld := ⟨.parRstatus p, 8, 8⟩
def parRstatusReplays (p : Nat) : Fld := ⟨.parRstatus p, 16, 16⟩
def pmtKickKey : Fld := ⟨.pmtKick, 0, 8⟩
def shpStatusState : Fld := ⟨.shpStatus, 0, 3⟩
def shpStatusHealthy : Fld := ⟨.shpStatus, 3, 1⟩
def shpStatusHoldOk : Fld := ⟨.shpStatus, 4, 1⟩
def shpStatusLockstepErrs : Fld := ⟨.shpStatus, 8, 8⟩
def shpCauseEvent : Fld := ⟨.shpCause, 0, 16⟩
def shpCauseUnit : Fld := ⟨.shpCause, 16, 8⟩
def shpTlimitsTarget : Fld := ⟨.shpTlimits, 0, 8⟩
def shpTlimitsAlarm : Fld := ⟨.shpTlimits, 8, 8⟩
def shpTlimitsTrip : Fld := ⟨.shpTlimits, 16, 8⟩
def shpCoolantFlowA : Fld := ⟨.shpCoolant, 0, 12⟩
def shpCoolantFlowB : Fld := ⟨.shpCoolant, 12, 1⟩
def shpCoolantLeakA : Fld := ⟨.shpCoolant, 13, 1⟩
def shpCoolantLeakB : Fld := ⟨.shpCoolant, 14, 1⟩
def shpCoolantOpenA : Fld := ⟨.shpCoolant, 15, 1⟩
def shpCoolantOpenB : Fld := ⟨.shpCoolant, 16, 1⟩
def shpFlimitsAlarm : Fld := ⟨.shpFlimits, 0, 12⟩
def shpFlimitsTrip : Fld := ⟨.shpFlimits, 12, 12⟩
def shpWdogTimeout : Fld := ⟨.shpWdog, 0, 16⟩
def shpWdogResets : Fld := ⟨.shpWdog, 16, 8⟩
def shpWdogHeld : Fld := ⟨.shpWdog, 24, 1⟩
def shpHoldVhold : Fld := ⟨.shpHold, 0, 12⟩
def shpHoldCap : Fld := ⟨.shpHold, 12, 12⟩
def shpHoldEnergy : Fld := ⟨.shpHold, 24, 8⟩
def shpTempSensorA (f : Nat) : Fld := ⟨.shpTemp f, 0, 10⟩
def shpTempSensorB (f : Nat) : Fld := ⟨.shpTemp f, 10, 10⟩
def shpTempDisagree (f : Nat) : Fld := ⟨.shpTemp f, 20, 1⟩
def shpTempAlarm (f : Nat) : Fld := ⟨.shpTemp f, 21, 1⟩
def shpTempFailed (f : Nat) : Fld := ⟨.shpTemp f, 22, 2⟩
def shpTempClockCap (f : Nat) : Fld := ⟨.shpTemp f, 24, 8⟩
def ldgStatusCurrent : Fld := ⟨.ldgStatus, 0, 5⟩
def ldgStatusBusy : Fld := ⟨.ldgStatus, 5, 1⟩
def ldgStatusTornSeen : Fld := ⟨.ldgStatus, 6, 1⟩
def ldgStatusCrcSeen : Fld := ⟨.ldgStatus, 7, 1⟩
def ldgTornSlot : Fld := ⟨.ldgTorn, 0, 5⟩
def ldgTornSeq : Fld := ⟨.ldgTorn, 5, 27⟩
def oxlCtrlEn : Fld := ⟨.oxlCtrl, 0, 1⟩
def oxlCtrlEscWait : Fld := ⟨.oxlCtrl, 8, 8⟩
def oxlCtrlHopsInit : Fld := ⟨.oxlCtrl, 16, 8⟩
def oxlCtrlPeerTimeout : Fld := ⟨.oxlCtrl, 24, 8⟩
def oxlNodeNode : Fld := ⟨.oxlNode, 0, 16⟩
def oxlCueCfgRoot : Fld := ⟨.oxlCueCfg, 0, 1⟩
def oxlCueCfgBackupRoot : Fld := ⟨.oxlCueCfg, 1, 1⟩
def oxlCueCfgExt : Fld := ⟨.oxlCueCfg, 2, 1⟩
def oxlCueCfgParent : Fld := ⟨.oxlCueCfg, 8, 4⟩
def oxlCueCfgBackup : Fld := ⟨.oxlCueCfg, 12, 4⟩
def oxlCueCfgParentEn : Fld := ⟨.oxlCueCfg, 16, 1⟩
def oxlCueCfgBackupEn : Fld := ⟨.oxlCueCfg, 17, 1⟩
def oxlCueStatMode : Fld := ⟨.oxlCueStat, 0, 2⟩
def oxlCueStatOnBackup : Fld := ⟨.oxlCueStat, 2, 1⟩
def oxlCueStatDepth : Fld := ⟨.oxlCueStat, 3, 5⟩
def oxlCueStatPhaseErr : Fld := ⟨.oxlCueStat, 8, 8⟩
def oxlCueStatDelay : Fld := ⟨.oxlCueStat, 16, 16⟩
def oxlPortCfgEnable (p : Nat) : Fld := ⟨.oxlPortCfg p, 0, 1⟩
def oxlPortCfgCheck (p : Nat) : Fld := ⟨.oxlPortCfg p, 1, 1⟩
def oxlPortCfgDateline (p : Nat) : Fld := ⟨.oxlPortCfg p, 2, 1⟩
def oxlPortCfgPeerNode (p : Nat) : Fld := ⟨.oxlPortCfg p, 4, 16⟩
def oxlPortCfgPeerPort (p : Nat) : Fld := ⟨.oxlPortCfg p, 20, 4⟩
def oxlPortCfgCrcLimit (p : Nat) : Fld := ⟨.oxlPortCfg p, 24, 4⟩
def oxlPortCfgLaneLimit (p : Nat) : Fld := ⟨.oxlPortCfg p, 28, 4⟩
def oxlPortStatState (p : Nat) : Fld := ⟨.oxlPortStat p, 0, 3⟩
def oxlPortStatUnderstudy (p : Nat) : Fld := ⟨.oxlPortStat p, 3, 1⟩
def oxlPortStatSparedLane (p : Nat) : Fld := ⟨.oxlPortStat p, 4, 4⟩
def oxlPortStatSplit (p : Nat) : Fld := ⟨.oxlPortStat p, 8, 1⟩
def oxlPortStatNeighbour (p : Nat) : Fld := ⟨.oxlPortStat p, 12, 16⟩
def oxlPortStatNeighbourPort (p : Nat) : Fld := ⟨.oxlPortStat p, 28, 4⟩
def oxlPortErrReplays (p : Nat) : Fld := ⟨.oxlPortErr p, 0, 16⟩
def oxlPortErrRetrains (p : Nat) : Fld := ⟨.oxlPortErr p, 16, 8⟩
def oxlPortErrHopsDrops (p : Nat) : Fld := ⟨.oxlPortErr p, 24, 8⟩
def oxlRtPrimary (n : Nat) : Fld := ⟨.oxlRt n, 0, 16⟩
def oxlRtAlternate (n : Nat) : Fld := ⟨.oxlRt n, 16, 16⟩
def oxlRteEscPort (n : Nat) : Fld := ⟨.oxlRte n, 0, 4⟩
def oxlRteEscValid (n : Nat) : Fld := ⟨.oxlRte n, 4, 1⟩
def pmtMbxCtrlGo (b : Nat) : Fld := ⟨.pmtMbxCtrl b, 0, 1⟩
def pmtMbxCtrlVector (b : Nat) : Fld := ⟨.pmtMbxCtrl b, 16, 10⟩
def pmtMbxStatDone (b : Nat) : Fld := ⟨.pmtMbxStat b, 0, 1⟩
def pmtMbxStatOutstanding (b : Nat) : Fld := ⟨.pmtMbxStat b, 1, 1⟩
def pmtMbxStatClaimed (b : Nat) : Fld := ⟨.pmtMbxStat b, 2, 1⟩
def pmtMbxStatOverrun (b : Nat) : Fld := ⟨.pmtMbxStat b, 3, 1⟩
def pmtTelemStatStale (b : Nat) : Fld := ⟨.pmtTelemStat b, 0, 1⟩
def pmtTelemStatAgeMs (b : Nat) : Fld := ⟨.pmtTelemStat b, 16, 16⟩
def pciEvtCtrlEn : Fld := ⟨.pciEvtCtrl, 0, 1⟩
def pciEvtCtrlHead : Fld := ⟨.pciEvtCtrl, 16, 12⟩
def pciEvtStatTail : Fld := ⟨.pciEvtStat, 0, 12⟩
def pciEvtStatLost : Fld := ⟨.pciEvtStat, 16, 16⟩
def hubIdPart : Fld := ⟨.hubId, 0, 16⟩
def hubIdStepping : Fld := ⟨.hubId, 16, 8⟩
def hubIdHeight : Fld := ⟨.hubId, 24, 8⟩
def hubBootPhase : Fld := ⟨.hubBoot, 0, 3⟩
def hubSnapGo : Fld := ⟨.hubSnap, 0, 1⟩
def hubSnapDone : Fld := ⟨.hubSnap, 1, 1⟩
def hubSnapPending : Fld := ⟨.hubSnap, 2, 1⟩
def hubWignSeen : Fld := ⟨.hubWign, 0, 1⟩
def hubWignGlobal : Fld := ⟨.hubWign, 1, 1⟩
def hubWignPartition : Fld := ⟨.hubWign, 2, 4⟩
def hubWignSlot : Fld := ⟨.hubWign, 6, 20⟩
def hubBookCtrlCommit : Fld := ⟨.hubBookCtrl, 0, 1⟩
def hubBookCtrlBusy : Fld := ⟨.hubBookCtrl, 1, 1⟩
def hubBookCtrlCommitted : Fld := ⟨.hubBookCtrl, 2, 1⟩
def hubBookCtrlRefused : Fld := ⟨.hubBookCtrl, 3, 1⟩
def hubBookCtrlCause : Fld := ⟨.hubBookCtrl, 4, 4⟩
def queQctrlEn (q : Nat) : Fld := ⟨.queQctrl q, 0, 1⟩
def queQctrlResume (q : Nat) : Fld := ⟨.queQctrl q, 1, 1⟩
def queQctrlHalted (q : Nat) : Fld := ⟨.queQctrl q, 2, 1⟩
def queQctrlEnFail (q : Nat) : Fld := ⟨.queQctrl q, 3, 1⟩
def queQctrlLastEvent (q : Nat) : Fld := ⟨.queQctrl q, 16, 16⟩
def queQstatInflight (q : Nat) : Fld := ⟨.queQstat q, 0, 13⟩
def queQstatInScene (q : Nat) : Fld := ⟨.queQstat q, 13, 1⟩
def queQstatKind (q : Nat) : Fld := ⟨.queQstat q, 14, 2⟩
def crcCtrlEn : Fld := ⟨.crcCtrl, 0, 1⟩
def crcCtrlCommit : Fld := ⟨.crcCtrl, 1, 1⟩
def crcCtrlEnforce : Fld := ⟨.crcCtrl, 2, 1⟩
def crcStatusState : Fld := ⟨.crcStatus, 0, 2⟩
def crcStatusDrift : Fld := ⟨.crcStatus, 2, 1⟩
def crcStatusPasses : Fld := ⟨.crcStatus, 16, 16⟩
def crcImageLength : Fld := ⟨.crcImage, 0, 24⟩

end F

/-- The registers that do not repeat. -/
def fixedRegs : List Reg :=
  [.cacCtrl, .cacStatus, .cacLimits, .hbcCtrl, .hbcMapped, .hbcRehCtrl, .hbcRehStatus, .hbcRehFail, .hbcLimits, .pmtKick, .shpStatus, .shpCause, .shpTlimits, .shpCoolant, .shpFlimits, .shpWdog, .shpHold, .ldgStatus, .ldgSeqLo, .ldgSeqHi, .ldgTorn, .oxlCtrl, .oxlNode, .oxlCueCfg, .oxlCueStat, .pciEvtCtrl, .pciEvtStat, .hubId, .hubBoot, .hubSnap, .hubWign, .hubBookCtrl, .crcCtrl, .crcStatus, .hubSerialLo, .hubSerialHi, .hubBookAddrLo, .hubBookAddrHi, .hubBookDigestLo, .hubBookDigestHi, .cueCountLo, .cueCountHi, .crcRefLo, .crcRefHi, .crcLastLo, .crcLastHi, .crcImage, .pciEvtBaseLo, .pciEvtBaseHi, .hbcCapLo, .hbcCapHi, .pmtLoad]

/-- The registers that repeat: offset of the first, stride, count, and the register of an index (R365, R366,
R377). -/
def regFamilies : List (Nat × Nat × Nat × (Nat → Reg)) :=
  [
    (0x81000, 16, 384, .hbcChstat),
    (0x100000, 0x8000, 16, .parCtrl),
    (0x100010, 0x8000, 16, .parStatus),
    (0x100020, 0x8000, 16, .parShares),
    (0x100030, 0x8000, 16, .parPrio),
    (0x100040, 0x8000, 16, .parLock),
    (0x90000, 16, 32, .fldStatus),
    (0x1000a0, 0x8000, 16, .parRstatus),
    (0x11000, 16, 32, .shpTemp),
    (0x200100, 16, 16, .oxlPortCfg),
    (0x200200, 16, 16, .oxlPortStat),
    (0x200300, 16, 16, .oxlPortErr),
    (0x210000, 16, 4096, .oxlRt),
    (0x220000, 16, 4096, .oxlRte),
    (0x1010000, 0x100000, 16, .pmtMbxCtrl),
    (0x20000, 16, 1, fun _ => .pmtMbxCtrl 16),
    (0x20200, 16, 1, fun _ => .pmtMbxCtrl 17),
    (0x1010010, 0x100000, 16, .pmtMbxStat),
    (0x20010, 16, 1, fun _ => .pmtMbxStat 16),
    (0x20210, 16, 1, fun _ => .pmtMbxStat 17),
    (0x1010070, 0x100000, 16, .pmtTelemStat),
    (0x20070, 16, 1, fun _ => .pmtTelemStat 16),
    (0x401000, 64, 8192, .queQctrl),
    (0x401010, 64, 8192, .queHead),
    (0x401020, 64, 8192, .queTail),
    (0x401030, 64, 8192, .queQstat),
    (0x1000, 32, 256, .hubPropLo),
    (0x1010, 32, 256, .hubPropHi),
    (0x1010020, 0x100000, 16, .pmtMbxPageLo),
    (0x20020, 16, 1, fun _ => .pmtMbxPageLo 16),
    (0x1010030, 0x100000, 16, .pmtMbxPageHi),
    (0x20030, 16, 1, fun _ => .pmtMbxPageHi 16),
    (0x100060, 0x8000, 16, .parPblkLo),
    (0x100070, 0x8000, 16, .parPblkHi),
    (0x100080, 0x8000, 16, .parRblkLo),
    (0x100090, 0x8000, 16, .parRblkHi),
    (0x1000b0, 0x8000, 16, .parPlanLo),
    (0x1000c0, 0x8000, 16, .parPlanHi),
    (0x400000, 0x20, 16, .queQtabLo),
    (0x400010, 0x20, 16, .queQtabHi)]

/-- The register at an offset of BAR0, if a block uses it (R365). -/
def regAt (a : Nat) : Option Reg :=
  match fixedRegs.find? (fun r => r.addr == a) with
  | some r => some r
  | none =>
    match regFamilies.findSome? (fun f =>
        if f.1 ≤ a ∧ (a - f.1) % f.2.1 = 0 ∧ (a - f.1) / f.2.1 < f.2.2.1 then some (f.2.2.2 ((a - f.1) / f.2.1))
        else none) with
    | some r => some r
    | none =>
      let p := (a - 0x101000) / 0x8000
      let g := (a - 0x101000) % 0x8000 / 16
      if 0x101000 ≤ a ∧ a % 16 = 0 ∧ p < 16 ∧ g < 1024 then some (.parGate p g) else none

end Sys2Proof.Machine
end

