-- ==== Sys2Proof/Machine/Ops.lean ====
section
/-!
DEFINITION. The shared operations: canonical tables and memories, little-endian bytes, bit fields, the
setters of State's groups, registers and their fields, free values, checksums.
-/

namespace Sys2Proof.Machine

/-- What a meaning answers. -/
abbrev Result := Host.Outcome State Fault Refusal

/-! ## Tables in canonical form -/

/-- What a table holds at a key; d is what an unlisted key reads as. -/
def tblGet {α : Type} (d : α) : List (Nat × α) → Nat → α
  | [], _ => d
  | (k, v) :: t, a => if k = a then v else tblGet d t a

/-- A table with one key set: keys stay strictly rising and no entry equals the default. -/
def tblSet {α : Type} [DecidableEq α] (d : α) : List (Nat × α) → Nat → α → List (Nat × α)
  | [], a, v => if v = d then [] else [(a, v)]
  | (k, w) :: t, a, v =>
    if a < k then (if v = d then (k, w) :: t else (a, v) :: (k, w) :: t)
    else if a = k then (if v = d then t else (a, v) :: t)
    else (k, w) :: tblSet d t a v

/-- The canonical form of a table. -/
abbrev tblWf {α : Type} (d : α) (t : List (Nat × α)) : Prop :=
  t.Pairwise (fun x y => x.1 < y.1) ∧ ∀ x ∈ t, x.2 ≠ d

/-- A list in increasing order of le, what is equal in it in the order in which it stood. -/
def sortBy {α : Type} (le : α → α → Bool) : List α → List α
  | [] => []
  | x :: t => place x (sortBy le t)
where
  /-- x before the first element that it does not follow. -/
  place (x : α) : List α → List α
    | [] => [x]
    | y :: t => if le x y then x :: y :: t else y :: place x t

/-! ## Memory -/

/-- What a byte of memory that nothing has written reads as (R392 leaves it undefined). DESIGN CHOICE, log entry 3, unsafe. -/
def unwrittenByte : Byte := 0

/-- The canonical form of a memory. -/
abbrev Memory.wf (m : List Host.Cell) : Prop := tblWf unwrittenByte m

/-- One byte of a memory. -/
def Memory.read (m : List Host.Cell) (a : Nat) : Byte := tblGet unwrittenByte m a

/-- A memory with one byte written. -/
def Memory.write (m : List Host.Cell) (a : Nat) (v : Byte) : List Host.Cell := tblSet unwrittenByte m a v

/-- n bytes from a, in increasing address order. -/
def Memory.readN (m : List Host.Cell) (a : Nat) : Nat → Bytes
  | 0 => []
  | n + 1 => Memory.read m a :: Memory.readN m (a + 1) n

/-- Bytes written from a upward. -/
def Memory.writeN (m : List Host.Cell) (a : Nat) : Bytes → List Host.Cell
  | [] => m
  | v :: vs => Memory.writeN (Memory.write m a v) (a + 1) vs

/-! ## Bytes and bits -/

/-- The number that bytes spell, lowest address first (R4). -/
def leNat : Bytes → Nat
  | [] => 0
  | b :: bs => b.toNat + 256 * leNat bs

/-- n bytes of a number, lowest first (R4). -/
def natLE : Nat → Nat → Bytes
  | 0, _ => []
  | n + 1, v => BitVec.ofNat 8 v :: natLE n (v / 256)

/-- The field of len bits from bit lo (R3). -/
def bits (v lo len : Nat) : Nat := v / 2 ^ lo % 2 ^ len

/-- v with the field of len bits from bit lo replaced. -/
def setBits (v lo len x : Nat) : Nat := v - bits v lo len * 2 ^ lo + x % 2 ^ len * 2 ^ lo

/-- len bytes at offset off of a block of bytes. -/
def slice (bs : Bytes) (off len : Nat) : Bytes := (bs.drop off).take len

/-- The number that len bytes at offset off spell. -/
def field (bs : Bytes) (off len : Nat) : Nat := leNat (slice bs off len)

/-- A number read as two's complement of w bits. -/
def signed (w v : Nat) : Int := if v < 2 ^ (w - 1) then v else (v : Int) - 2 ^ w

/-- The two's-complement code of w bits of an integer. -/
def unsigned (w : Nat) (v : Int) : Nat := (v % 2 ^ w).toNat

/-- A flag as a number. -/
def b2n (b : Bool) : Nat := if b then 1 else 0

/-- A number cut off at its largest value (R22, R47). -/
def sat (limit v : Nat) : Nat := min limit v

/-- Zero bytes. -/
def zeros (n : Nat) : Bytes := List.replicate n 0

/-- Rounding up to a multiple. -/
def ceilDiv (a b : Nat) : Nat := (a + b - 1) / b

/-- Ranges [a, a + n) and [b, b + m) meet. -/
def overlaps (a n b m : Nat) : Bool := decide (a < b + m ∧ b < a + n ∧ 0 < n ∧ 0 < m)

/-- [a, a + n) lies within [b, b + m). -/
def within (a n b m : Nat) : Bool := decide (b ≤ a ∧ a + n ≤ b + m)

/-- One step of a reflected CRC over one bit. -/
def crcBit (poly c : Nat) : Nat := if c % 2 = 1 then Nat.xor (c / 2) poly else c / 2

/-- A reflected CRC over bytes, with its register first and last inverted. -/
def crcReflected (width poly : Nat) (bs : Bytes) : Nat :=
  let ones := 2 ^ width - 1
  Nat.xor ones (bs.foldl (fun c b =>
    let c := Nat.xor c b.toNat
    crcBit poly (crcBit poly (crcBit poly (crcBit poly (crcBit poly (crcBit poly (crcBit poly
      (crcBit poly c)))))))) ones)

/-- CRC-64/XZ (R159). -/
def crc64 (bs : Bytes) : Nat := crcReflected 64 0xC96C5795D7870F42 bs

/-- CRC-32C (R142, R300, R311). -/
def crc32c (bs : Bytes) : Nat := crcReflected 32 0x82F63B78 bs

/-! ## Setters of State's groups -/

def State.setRegs (s : State) (v : RegState) : State := { s with regs := v }
def State.setMem (s : State) (v : MemState) : State := { s with mem := v }
def State.setTime (s : State) (v : TimeState) : State := { s with time := v }
def State.setSpare (s : State) (v : SpareState) : State := { s with spare := v }
def State.setConfig (s : State) (v : ConfigState) : State := { s with config := v }
def State.setQueues (s : State) (v : List (Nat × Queue)) : State := { s with queues := v }
def State.setParts (s : State) (v : List (Nat × Partition)) : State := { s with parts := v }
def State.setInsts (s : State) (v : List Inst) : State := { s with insts := v }
def State.setComp (s : State) (v : CompanyState) : State := { s with comp := v }
def State.setLink (s : State) (v : LinkState) : State := { s with link := v }
def State.setHost (s : State) (v : HostState) : State := { s with host := v }
def State.setProm (s : State) (v : PromptState) : State := { s with prom := v }
def State.setShep (s : State) (v : ShepState) : State := { s with shep := v }
def State.setLedg (s : State) (v : LedgState) : State := { s with ledg := v }
def State.setFree (s : State) (v : Nat) : State := { s with free := v }
def State.setPending (s : State) (v : List Instr) : State := { s with pending := v }

/-- The device sends something. -/
def State.emit (s : State) (o : Out) : State := { s with out := s.out ++ [o] }

/-- A fold of state changes over a list. -/
def State.over {α : Type} (s : State) (l : List α) (f : State → α → State) : State := l.foldl f s

/-- A state change made on a condition. -/
def State.when (s : State) (c : Prop) [Decidable c] (f : State → State) : State := if c then f s else s

/-! ## Registers -/

/-- The reset value of the register at an offset (R377); HUB.ID carries the stack height (R368). -/
def regReset (part : Part) (a : Nat) : Word32 :=
  match regAt a with
  | some .hubId => if part = .l16 then 0x10117048 else 0x0C117048
  | some r => r.resetWord
  | none => 0

/-- A register's word. -/
def State.word (s : State) (r : Reg) : Word32 := tblGet (regReset s.part r.addr) s.regs.file r.addr

/-- A register's word replaced. -/
def State.setWord (s : State) (r : Reg) (v : Word32) : State :=
  s.setRegs { s.regs with file := tblSet (regReset s.part r.addr) s.regs.file r.addr v }

/-- A field's value. -/
def State.fld (s : State) (f : Fld) : Nat := bits (s.word f.reg).toNat f.lo f.len

/-- A field replaced, as the device's own update does. -/
def State.setFld (s : State) (f : Fld) (v : Nat) : State :=
  s.setWord f.reg (BitVec.ofNat 32 (setBits (s.word f.reg).toNat f.lo f.len v))

/-- A field that is 1. -/
def State.flag (s : State) (f : Fld) : Bool := s.fld f == 1

/-- A counting field, saturating at its largest value. -/
def State.countFld (s : State) (f : Fld) (by' : Nat) : State :=
  s.setFld f (sat (2 ^ f.len - 1) (s.fld f + by'))

/-- A 64-bit value of a _LO and _HI pair. -/
def State.pair (s : State) (lo hi : Reg) : Nat := (s.word lo).toNat + 2 ^ 32 * (s.word hi).toNat

/-- A 64-bit value written to a _LO and _HI pair. -/
def State.setPair (s : State) (lo hi : Reg) (v : Nat) : State :=
  (s.setWord lo (BitVec.ofNat 32 v)).setWord hi (BitVec.ofNat 32 (v / 2 ^ 32))

/-- The bits of a value that a register's fields hold: a reserved field reads 0 whatever is written (R6). -/
def Reg.held (r : Reg) (v : Nat) : Word32 :=
  BitVec.ofNat 32 (r.fields.foldl (fun acc f => setBits acc f.lo f.len (bits v f.lo f.len)) 0)

/-! ## The tables of State -/

def State.queue (s : State) (q : Nat) : Queue := tblGet {} s.queues q
def State.setQueue (s : State) (q : Nat) (v : Queue) : State := s.setQueues (tblSet {} s.queues q v)
def State.partition (s : State) (p : Nat) : Partition := tblGet {} s.parts p
def State.setPartition (s : State) (p : Nat) (v : Partition) : State := s.setParts (tblSet {} s.parts p v)
def State.company (s : State) (c : Nat) : CompanyEntry := tblGet {} s.comp.companies c
def State.setCompany (s : State) (c : Nat) (v : CompanyEntry) : State :=
  s.setComp { s.comp with companies := tblSet {} s.comp.companies c v }
def State.castEntry (s : State) (e : Nat) : CastEntry := tblGet {} s.comp.cast e
def State.setCast (s : State) (e : Nat) (v : CastEntry) : State :=
  s.setComp { s.comp with cast := tblSet {} s.comp.cast e v }
def State.chainPort (s : State) (n : Nat) : ChainPort := tblGet {} s.comp.chainPorts n
def State.setChainPort (s : State) (n : Nat) (v : ChainPort) : State :=
  s.setComp { s.comp with chainPorts := tblSet {} s.comp.chainPorts n v }
def State.apron (s : State) (d : Nat) : Apron := tblGet {} s.comp.aprons d
def State.setApron (s : State) (d : Nat) (v : Apron) : State :=
  s.setComp { s.comp with aprons := tblSet {} s.comp.aprons d v }
def State.port (s : State) (p : Nat) : Port := tblGet {} s.link.ports p
def State.setPort (s : State) (p : Nat) (v : Port) : State :=
  s.setLink { s.link with ports := tblSet {} s.link.ports p v }
def State.peerPair (s : State) (n : Nat) : Pair := tblGet {} s.link.pairs n
def State.setPeerPair (s : State) (n : Nat) (v : Pair) : State :=
  s.setLink { s.link with pairs := tblSet {} s.link.pairs n v }
def State.box (s : State) (b : Nat) : Box := tblGet {} s.prom.boxes b
def State.setBox (s : State) (b : Nat) (v : Box) : State :=
  s.setProm { s.prom with boxes := tblSet {} s.prom.boxes b v }
def State.gate (s : State) (p g : Nat) : Gate := tblGet {} (s.partition p).gates g
def State.setGate (s : State) (p g : Nat) (v : Gate) : State :=
  s.setPartition p { s.partition p with gates := tblSet {} (s.partition p).gates g v }
def State.foldCycle (s : State) (f : Nat) : Nat := tblGet 0 s.time.cycles f
/-- A fold's clock in units of 10 MHz. The spec gives no clock from which a fold starts: 160, the nominal 1.6 GHz of R13, is the
model's choice (DESIGN CHOICE, log entry 56, unsafe). -/
def State.foldClock (s : State) (f : Nat) : Nat := tblGet 160 s.time.clock f
def State.setFoldClock (s : State) (f : Nat) (v : Nat) : State :=
  s.setTime { s.time with clock := tblSet 160 s.time.clock f v }

/-- The instruction in flight of a queue and ring index. -/
def State.inst? (s : State) (q i : Nat) : Option Inst := s.insts.find? (fun x => x.queue == q && x.index == i)

/-- An instruction in flight replaced, by its queue and ring index. -/
def State.setInst (s : State) (v : Inst) : State :=
  s.setInsts (s.insts.map fun x => if x.queue = v.queue ∧ x.index = v.index then v else x)

/-- An instruction no longer in flight. -/
def State.dropInst (s : State) (q i : Nat) : State :=
  s.setInsts (s.insts.filter fun x => !(x.queue == q && x.index == i))

/-- A scene of a partition. -/
def State.scene? (s : State) (p id : Nat) : Option Scene := (s.partition p).scenes.find? (·.id == id)

/-- A scene replaced, by its number. -/
def State.setScene (s : State) (p : Nat) (sc : Scene) : State :=
  s.setPartition p { s.partition p with
    scenes := (s.partition p).scenes.map fun x => if x.id = sc.id then sc else x }

/-- The running scene of a partition (R26). -/
def State.runningScene (s : State) (p : Nat) : Option Scene := (s.partition p).scenes.find? (·.running)

/-! ## Free values -/

/-- The next free number, and the state in which it has been drawn. -/
def State.drawNat (s : State) : Nat × State := (Config.freeNat s.free, s.setFree (s.free + 1))

/-- The next free choice. -/
def State.drawBool (s : State) : Bool × State := (Config.freeBool s.free, s.setFree (s.free + 1))

/-- n free bytes. -/
def State.drawBytes (s : State) (n : Nat) : Bytes × State :=
  ((List.range n).map (fun k => Config.freeByte (s.free + k)), s.setFree (s.free + n))

/-! ## Time -/

/-- The cue as a record's 32-bit field holds it (R22). -/
def State.cue32 (s : State) : Nat := s.time.cue % 2 ^ 32

end Sys2Proof.Machine
end

