-- ==== Sys2Proof/Machine/Float.lean ====
section
/-!
DEFINITION. Numerics: floating-point formats, exact values, rounding by the modes of R104, exact sums and
products, microscaling blocks, the stochastic-rounding generator (R100 to R109, R115 to R121).
-/

namespace Sys2Proof.Machine

/-- A floating-point format (R100): exponent and fraction bits, bias, whether it has infinities, the largest
finite magnitude code, and the canonical NaN if it has one. -/
structure FFmt where
  ebits : Nat
  fbits : Nat
  bias : Nat
  hasInf : Bool
  maxCode : Nat
  nan : Option Nat
  deriving DecidableEq, Repr

def fp32 : FFmt := ⟨8, 23, 127, true, 0x7F7FFFFF, some 0x7FC00000⟩
def bf16 : FFmt := ⟨8, 7, 127, true, 0x7F7F, some 0x7FC0⟩
def fp16 : FFmt := ⟨5, 10, 15, true, 0x7BFF, some 0x7E00⟩
def fp8e4m3 : FFmt := ⟨4, 3, 7, false, 0x7E, some 0x7F⟩
def fp8e5m2 : FFmt := ⟨5, 2, 15, true, 0x7B, some 0x7E⟩
def mx6e3m2 : FFmt := ⟨3, 2, 3, false, 0x1F, none⟩
def mx6e2m3 : FFmt := ⟨2, 3, 1, false, 0x1F, none⟩
def mx4e2m1 : FFmt := ⟨2, 1, 1, false, 0x7, none⟩

/-- An exact value: NaN, an infinity, or (−1)^neg × m × 2^e, where m = 0 is a zero with its sign. -/
inductive FVal where
  | nan
  | inf (neg : Bool)
  | fin (neg : Bool) (m : Nat) (e : Int)
  deriving DecidableEq, Repr

/-- The rounding modes (R104). -/
inductive Round where
  | rne
  | rtz
  | rup
  | rdn
  | sr
  | rneSat
  | srSat
  deriving DecidableEq, Repr

/-- The rounding mode of a ROUND code; 7 names none (R104). -/
def Round.ofCode : Nat → Option Round
  | 0 => some .rne
  | 1 => some .rtz
  | 2 => some .rup
  | 3 => some .rdn
  | 4 => some .sr
  | 5 => some .rneSat
  | 6 => some .srSat
  | _ => none

def FVal.zero : FVal := .fin false 0 0
def FVal.one : FVal := .fin false 1 0

/-- An integer as an exact value. -/
def FVal.ofInt (i : Int) : FVal := .fin (decide (i < 0)) i.natAbs 0

def FVal.isZero : FVal → Bool
  | .fin _ 0 _ => true
  | _ => false

def FVal.isFinite : FVal → Bool
  | .fin _ _ _ => true
  | _ => false

def FVal.isNaN : FVal → Bool
  | .nan => true
  | _ => false

def FVal.sign : FVal → Bool
  | .nan => false
  | .inf n => n
  | .fin n _ _ => n

def FVal.neg : FVal → FVal
  | .nan => .nan
  | .inf n => .inf !n
  | .fin n m e => .fin (!n) m e

def FVal.abs : FVal → FVal
  | .nan => .nan
  | .inf _ => .inf false
  | .fin _ m e => .fin false m e

/-- A code's value (R100): subnormals included, reserved codes as infinity or NaN. -/
def decodeF (f : FFmt) (c : Nat) : FVal :=
  let neg := c / 2 ^ (f.ebits + f.fbits) % 2 == 1
  let mag := c % 2 ^ (f.ebits + f.fbits)
  let ex := mag / 2 ^ f.fbits
  let fr := mag % 2 ^ f.fbits
  if mag > f.maxCode then (if f.hasInf && fr == 0 then .inf neg else .nan)
  else if ex = 0 then .fin neg fr (1 - (f.bias : Int) - f.fbits)
  else .fin neg (2 ^ f.fbits + fr) ((ex : Int) - f.bias - f.fbits)

/-- A sign and a magnitude code. -/
def signCode (f : FFmt) (neg : Bool) (mag : Nat) : Nat := b2n neg * 2 ^ (f.ebits + f.fbits) + mag

/-- The code of an infinity, or of what stands for one in a format without (R105). -/
def overflowCode (f : FFmt) (neg : Bool) : Nat :=
  signCode f neg (if f.hasInf then f.maxCode + 1 else f.maxCode)

/-- Whether the mode rounds the magnitude n + r / d up by one unit (R104, R119): r < d, sticky tells of
something below r, draw is the stochastic mode's number. -/
def roundsUp (mode : Round) (draw : Nat) (neg : Bool) (n r d : Nat) (sticky : Bool) : Bool :=
  match mode with
  | .rne | .rneSat => decide (2 * r > d) || (decide (2 * r = d) && (sticky || n % 2 == 1))
  | .rtz => false
  | .rup => !neg && (decide (r ≠ 0) || sticky)
  | .rdn => neg && (decide (r ≠ 0) || sticky)
  | .sr | .srSat => decide (r * 2 ^ 32 / d + draw ≥ 2 ^ 32)

/-- Rounding of the magnitude (m + δ) × 2^e, where 0 < δ < 1 when sticky and δ = 0 otherwise, into a format:
the code, and overflow as R105 judges it. A sticky magnitude has more bits than the format keeps. -/
def roundMag (f : FFmt) (mode : Round) (draw : Nat) (neg : Bool) (m : Nat) (e : Int) (sticky : Bool) : Nat :=
  if m = 0 ∧ sticky = false then signCode f neg 0 else
  let q : Int := max ((Nat.log2 m : Int) + e) (1 - (f.bias : Int)) - f.fbits
  let sh := (q - e).toNat
  let n := if e ≥ q then m * 2 ^ (e - q).toNat else m / 2 ^ sh
  let r := if e ≥ q then 0 else m % 2 ^ sh
  let d := if e ≥ q then 1 else 2 ^ sh
  let n' := n + b2n (roundsUp mode draw neg n r d sticky)
  let mag := (q + f.fbits + f.bias - 1).toNat * 2 ^ f.fbits + n'
  if mag ≤ f.maxCode then signCode f neg mag
  else
    match mode with
    | .rneSat | .srSat | .rtz => signCode f neg f.maxCode
    | .rup => if neg then signCode f neg f.maxCode else overflowCode f neg
    | .rdn => if neg then overflowCode f neg else signCode f neg f.maxCode
    | .rne | .sr => overflowCode f neg

/-- An exact value rounded into a format (R101, R105): NaN is the canonical one; an infinity stays one where
the format has it and is NaN otherwise. A format without NaN writes 0 (its block carries the NaN, R107). -/
def encodeF (f : FFmt) (mode : Round) (draw : Nat) : FVal → Nat
  | .nan => f.nan.getD 0
  | .inf neg => if f.hasInf then overflowCode f neg else f.nan.getD 0
  | .fin neg m e => roundMag f mode draw neg m e false

/-- FP32 codes. -/
def toF32 (v : FVal) : Nat := encodeF fp32 .rne 0 v
def ofF32 (c : Nat) : FVal := decodeF fp32 c
def roundF32 (v : FVal) : FVal := ofF32 (toF32 v)

/-- The exact product. -/
def FVal.mul : FVal → FVal → FVal
  | .nan, _ => .nan
  | _, .nan => .nan
  | .inf a, .inf b => .inf (a != b)
  | .inf a, .fin b m _ => if m = 0 then .nan else .inf (a != b)
  | .fin a m _, .inf b => if m = 0 then .nan else .inf (a != b)
  | .fin a m e, .fin b n f => .fin (a != b) (m * n) (e + f)

/-- A value scaled by a power of two. -/
def FVal.scale (k : Int) : FVal → FVal
  | .fin a m e => .fin a m (e + k)
  | v => v

/-- A finite value as an integer multiple of 2^u, for u at most its exponent. -/
def FVal.units (u : Int) : FVal → Int
  | .fin a m e => (if a then -1 else 1) * ((m * 2 ^ (e - u).toNat : Nat) : Int)
  | _ => 0

/-- The smallest exponent of finite values. -/
def minExp : List FVal → Int
  | [] => 0
  | [.fin _ _ e] => e
  | .fin _ _ e :: t => min e (minExp t)
  | _ :: t => minExp t

/-- The exact sum, with IEEE 754-2019's rules for NaN and infinities; an exact zero is +0 unless every term is
a negative zero, and under RDN −0 unless every term is a positive zero (R121). -/
def FVal.sum (mode : Round) (ts : List FVal) : FVal :=
  if ts.any FVal.isNaN || (ts.contains (.inf true) && ts.contains (.inf false)) then .nan
  else if ts.contains (.inf true) then .inf true
  else if ts.contains (.inf false) then .inf false
  else
    let u := minExp ts
    let i : Int := (ts.map (FVal.units u)).sum
    if i = 0 then
      (if ts.isEmpty then .zero
       else if mode = .rdn then .fin (!(ts.all fun t => t.isZero && !t.sign)) 0 0
       else .fin (ts.all fun t => t.isZero && t.sign) 0 0)
    else .fin (decide (i < 0)) i.natAbs u

def FVal.add (a b : FVal) : FVal := FVal.sum .rne [a, b]
def FVal.sub (a b : FVal) : FVal := FVal.sum .rne [a, b.neg]

/-- a < b for values that are not NaN; zeros are equal. -/
def FVal.lt (a b : FVal) : Bool :=
  match a, b with
  | .nan, _ => false
  | _, .nan => false
  | .inf x, .inf y => x && !y
  | .inf x, .fin _ _ _ => x
  | .fin _ _ _, .inf y => !y
  | .fin x m e, .fin y n f =>
    let u := min e f
    decide ((FVal.fin x m e).units u < (FVal.fin y n f).units u)

/-- maximum and minimum of IEEE 754-2019: NaN when either is, −0 below +0 (R121). -/
def FVal.max (a b : FVal) : FVal :=
  if a.isNaN || b.isNaN then .nan
  else if a.lt b then b else if b.lt a then a else if a.sign then b else a

def FVal.min (a b : FVal) : FVal :=
  if a.isNaN || b.isNaN then .nan
  else if a.lt b then a else if b.lt a then b else if a.sign then a else b

/-- ⌊log2 |x|⌋ of a finite nonzero value. -/
def FVal.exponent : FVal → Int
  | .fin _ m e => (Nat.log2 m : Int) + e
  | _ => 0

/-- The quotient rounded once into a format. -/
def divF (f : FFmt) (mode : Round) : FVal → FVal → Nat
  | .nan, _ => f.nan.getD 0
  | _, .nan => f.nan.getD 0
  | .inf _, .inf _ => f.nan.getD 0
  | .inf a, .fin b _ _ => encodeF f mode 0 (.inf (a != b))
  | .fin a _ _, .inf b => signCode f (a != b) 0
  | .fin a m e, .fin b n k =>
    if n = 0 then (if m = 0 then f.nan.getD 0 else encodeF f mode 0 (.inf (a != b)))
    else if m = 0 then signCode f (a != b) 0
    else
      let w := 64 + Nat.log2 n
      let num := m * 2 ^ w
      roundMag f mode 0 (a != b) (num / n) (e - k - w) (decide (num % n ≠ 0))

/-- The square root rounded once into a format; −0 gives −0, a negative value NaN. -/
def sqrtF (f : FFmt) (mode : Round) : FVal → Nat
  | .nan => f.nan.getD 0
  | .inf neg => if neg then f.nan.getD 0 else encodeF f mode 0 (.inf false)
  | .fin neg m e =>
    if m = 0 then signCode f neg 0
    else if neg then f.nan.getD 0
    else
      let w : Nat := if e % 2 = 0 then 128 else 129
      let n := m * 2 ^ w
      let r := Nat.sqrt n
      roundMag f mode 0 false r ((e - w) / 2) (decide (r * r ≠ n))

/-! ## Format codes (R55) -/

/-- The element format of a floating-point format code; BF16.HI reads as BF16 (R103). -/
def floatFmt : Nat → Option FFmt
  | 0x01 => some fp32
  | 0x02 => some bf16
  | 0x03 => some fp16
  | 0x04 => some fp8e4m3
  | 0x05 => some fp8e5m2
  | 0x0A => some bf16
  | 0x0B => some mx6e3m2
  | 0x0C => some mx6e2m3
  | 0x0D => some mx4e2m1
  | _ => none

/-- emax of a microscaling element format (R107). -/
def mxEmax : Nat → Int
  | 0x0B => 4
  | _ => 2

/-- The format codes assigned (R55). -/
def formatKnown (c : Nat) : Bool := decide (1 ≤ c ∧ c ≤ 0x10)

/-- Microscaling formats (R55). -/
def isMx (c : Nat) : Bool := c == 0x0B || c == 0x0C || c == 0x0D

/-- Anchored image formats (R55). -/
def isAnch (c : Nat) : Bool := c == 0x0F || c == 0x10

/-- Integer formats (R55). -/
def isInt (c : Nat) : Bool := c == 0x06 || c == 0x07 || c == 0x08 || c == 0x09

/-- Bits of an element's pitch (R55). -/
def pitchBits : Nat → Nat
  | 0x01 => 32
  | 0x02 => 16
  | 0x03 => 16
  | 0x08 => 32
  | 0x09 => 32
  | 0x0A => 32
  | 0x0B => 6
  | 0x0C => 6
  | 0x0D => 4
  | 0x0F => 128
  | 0x10 => 128
  | _ => 8

/-- Row bytes (R55): microscaling rows add one scale byte for each 32 elements. -/
def rowBytes (c s : Nat) : Nat := if isMx c then pitchBits c * s / 8 + s / 32 else pitchBits c * s / 8

/-- The value of an integer format's code. -/
def intVal (c v : Nat) : Int :=
  match c with
  | 0x06 => signed 8 v
  | 0x08 => signed 32 v
  | _ => v

/-! ## Microscaling blocks (R102, R107) -/

/-- The value of a microscaling element under its block's scale byte. -/
def mxVal (c code scale : Nat) : FVal :=
  if scale = 255 then .nan
  else
    match floatFmt c with
    | some f => (decodeF f code).scale ((scale : Int) - 127)
    | none => .nan

/-- A block of up to 32 values written in a microscaling format: the element codes and the scale byte. draw
gives the stochastic number of an element of the block. -/
def mxEncode (c : Nat) (mode : Round) (draw : Nat → Nat) (vs : List FVal) : List Nat × Nat :=
  match floatFmt c with
  | none => ([], 0)
  | some f =>
    if vs.any (fun v => !v.isFinite) then (vs.map fun _ => 0, 255)
    else
      let nz := vs.filter (fun v => !v.isZero)
      let x : Int := match nz with
        | [] => -127
        | v :: t => Max.max (-127) (Min.min 127 ((t.foldl (fun a w => Max.max a w.exponent) v.exponent) - mxEmax c))
      let sat : Round := match mode with
        | .rne => .rneSat
        | .sr => .srSat
        | m => m
      ((vs.zip (List.range vs.length)).map (fun p => encodeF f sat (draw p.2) (p.1.scale (-x))),
        (x + 127).toNat)

/-! ## The stochastic-rounding generator (R115 to R119) -/

/-- SEED, STEP and TENSOR of an instruction (R115). -/
structure SrKey where
  seed : Nat := 0
  step : Nat := 0
  tensor : Nat := 0
  deriving DecidableEq, Repr

/-- Ten rounds of R118 on (c0, c1, c2, c3, k0, k1). -/
def philox : Nat → Nat → Nat → Nat → Nat → Nat → Nat → Nat × Nat × Nat × Nat
  | 0, c0, c1, c2, c3, _, _ => (c0, c1, c2, c3)
  | n + 1, c0, c1, c2, c3, k0, k1 =>
    let p := 0xD2511F53 * c0
    let q := 0xCD9E8D57 * c2
    philox n (Nat.xor (Nat.xor (q / 2 ^ 32) c1) k0) (q % 2 ^ 32) (Nat.xor (Nat.xor (p / 2 ^ 32) c3) k1)
      (p % 2 ^ 32) ((k0 + 0x9E3779B9) % 2 ^ 32) ((k1 + 0xBB67AE85) % 2 ^ 32)

/-- The draw of the element of index e (R117). -/
def srDraw (k : SrKey) (e : Nat) : Nat :=
  let b := e / 4
  let o := philox 10 (b % 2 ^ 32) (b / 2 ^ 32 % 2 ^ 16 + k.tensor % 2 ^ 16 * 2 ^ 16) (k.step % 2 ^ 32) 0
    (k.seed % 2 ^ 32) (k.seed / 2 ^ 32 % 2 ^ 32)
  match e % 4 with
  | 0 => o.1
  | 1 => o.2.1
  | 2 => o.2.2.1
  | _ => o.2.2.2

/-! ## ReLU -/

/-- ReLU (R91, R121): both zeros and negative values give +0. -/
def reluVal : FVal → FVal
  | .nan => .nan
  | .inf n => if n then .zero else .inf false
  | .fin n m e => if n then .zero else if m = 0 then .zero else .fin n m e

end Sys2Proof.Machine
end

