-- ==== Sys2Proof/Machine/Special.lean ====
section
/-!
DEFINITION. The special functions (R88, R91, R121 to R123) and the sine and cosine of ROPE: the table of special inputs, and on
every other input a value that is free within the bound of R122. The bound is judged by fixed-point numbers of 256 fraction bits
(log entry 58); no bound needs more than 200 of them.
-/

namespace Sys2Proof.Machine

/-! ## Fixed-point numbers: an integer stands for a multiple of 2^−256 -/

/-- Fraction bits. -/
def fxBits : Nat := 256

/-- 1. -/
def fxOne : Int := 2 ^ fxBits

/-- ±m × 2^e, rounded down. -/
def fxOf (neg : Bool) (m : Nat) (e : Int) : Int :=
  let k := e + fxBits
  let v : Int := if 0 ≤ k then m * 2 ^ k.toNat else m / 2 ^ (-k).toNat
  if neg then -v else v

/-- 2^e, for e at least −256. -/
def fxPow2 (e : Int) : Int := fxOf false 1 e

def fxMul (a b : Int) : Int := a * b / fxOne
def fxDiv (a b : Int) : Int := a * fxOne / b
def fxSqrt (a : Int) : Int := Nat.sqrt (a.toNat * 2 ^ fxBits)

/-- Sum of a series: term t, then step n t, for n from k, fuel terms. -/
def fxSeries (step : Nat → Int → Int) : Nat → Nat → Int → Int
  | 0, _, _ => 0
  | fuel + 1, k, t => t + fxSeries step fuel (k + 1) (step k t)

/-- Sum of t / (2k + 1) over the terms of a series. -/
def fxOddSeries (step : Nat → Int → Int) : Nat → Nat → Int → Int
  | 0, _, _ => 0
  | fuel + 1, k, t => t / ((2 * k + 1 : Nat) : Int) + fxOddSeries step fuel (k + 1) (step k t)

/-- 2 × artanh z for |z| at most 1/3, by the odd powers of z. -/
def fxArtanh2 (z : Int) : Int := fxOddSeries (fun _ t => fxMul t (fxMul z z)) 90 0 (2 * z)

/-- ln 2 = 2 artanh(1/3). -/
def fxLn2 : Int := fxArtanh2 (fxOne / 3)

/-- ln of m × 2^e for m above 0: m is brought into [1, 2). -/
def fxLn (m : Nat) (e : Int) : Int :=
  let f := fxOf false m (-(Nat.log2 m : Int))
  ((Nat.log2 m : Int) + e) * fxLn2 + fxArtanh2 (fxDiv (f - fxOne) (f + fxOne))

/-- e^x for x at least 0: the series of x / 2^16, squared 16 times. -/
def fxExpPos (x : Int) : Int :=
  (List.range 16).foldl (fun a _ => fxMul a a) (fxSeries (fun k t => fxMul t (x / 2 ^ 16) / (k + 1)) 60 0 fxOne)

/-- e^x for |x| up to 200. -/
def fxExp (x : Int) : Int := if 0 ≤ x then fxExpPos x else fxDiv fxOne (fxExpPos (-x))

/-- arctan(1 / n). -/
def fxArctanInv (n : Nat) : Int :=
  fxOddSeries (fun _ t => -t / ((n * n : Nat) : Int)) 120 0 (fxOne / (n : Int))

/-- 2π, by π/4 = 4 arctan(1/5) − arctan(1/239). -/
def fxTwoPi : Int := 8 * (4 * fxArctanInv 5 - fxArctanInv 239)

/-- sin x and cos x, by their series on x reduced modulo 2π. -/
def fxSin (x : Int) : Int := let r := x % fxTwoPi; fxSeries (fun k t => -(fxMul (fxMul t r) r) / ((2 * k + 2) * (2 * k + 3))) 60 0 r
def fxCos (x : Int) : Int := let r := x % fxTwoPi; fxSeries (fun k t => -(fxMul (fxMul t r) r) / ((2 * k + 1) * (2 * k + 2))) 60 0 fxOne

/-- tanh x, for |x| up to 60: 1 beyond. -/
def fxTanh (x : Int) : Int :=
  if 60 * fxOne < x then fxOne else if x < -60 * fxOne then -fxOne
  else let u := fxExp (2 * x); fxDiv (u - fxOne) (u + fxOne)

/-- 1 / (1 + e^−x): 0 below −200, 1 above 200. -/
def fxSigmoid (x : Int) : Int :=
  if 200 * fxOne < x then fxOne else if x < -200 * fxOne then 0 else fxDiv fxOne (fxOne + fxExp (-x))

/-- Φ(x), the normal distribution function: 1/2 + Σ (−1)^n x^(2n+1) / (√(2π) 2^n n! (2n+1)) for |x| up to 14, 0 or 1 beyond. -/
def fxPhi (x : Int) : Int :=
  if 14 * fxOne < x then fxOne else if x < -14 * fxOne then 0
  else
    let h := fxMul x x / 2
    fxOne / 2 + fxDiv (fxOddSeries (fun k t => -(fxMul t h) / ((k + 1 : Nat) : Int)) 700 0 x) (fxSqrt fxTwoPi)

/-! ## A function's exact value, and the bound on an FP32 result -/

/-- A special function on a finite input that the table of special inputs does not settle: none where the exact result lies
outside FP32's range by far. -/
def sfuFx (g : Config.Sfu) (neg : Bool) (m : Nat) (e : Int) : Option Int :=
  let x := fxOf neg m e
  let small := decide (x.natAbs < 200 * 2 ^ fxBits)
  match g with
  | .exp => if small then some (fxExp x) else if neg then some 0 else none
  | .exp2 => if small then some (fxExp (fxMul x fxLn2)) else if neg then some 0 else none
  | .log => some (fxLn m e)
  | .rcp => some ((if neg then -1 else 1) * fxDiv fxOne (x.natAbs : Int))
  | .rsqrt => some (fxDiv fxOne (fxSqrt x))
  | .tanh => some (fxTanh x)
  | .sigmoid => some (fxSigmoid x)
  | .silu => some (fxMul x (fxSigmoid x))
  | .gelu => some (fxMul x (fxPhi x))
  | .geluTanh =>
    some (fxMul (x / 2) (fxOne + fxTanh (fxMul (fxSqrt (fxDiv (4 * fxOne) fxTwoPi)) (x + 44715 * fxMul x (fxMul x x) / 1000000))))
  | .sin => some (fxSin x)
  | .cos => some (fxCos x)

/-- One unit in the last place of an FP32 result (R122). -/
def ulpFx (y : FVal) : Int := fxPow2 (max (if y.isZero then -126 else y.exponent) (-126) - 23)

/-- A finite value as a fixed-point number. -/
def FVal.fx : FVal → Int
  | .fin n m e => fxOf n m e
  | _ => 0

/-- The bound of R122 on a result y where the exact result is v and the input is x. -/
def sfuTol (g : Config.Sfu) (x : FVal) (v : Int) (y : FVal) : Int :=
  match g with
  | .exp => if v < fxPow2 (-126) then fxPow2 (-149) else 2 * ulpFx y
  | .exp2 => if v < fxPow2 (-126) then fxPow2 (-149) else 2 * ulpFx y
  | .log => if (x.fx - fxOne).natAbs < 2 ^ (fxBits - 4) then fxPow2 (-24) else 2 * ulpFx y
  | .rcp => ulpFx y
  | .rsqrt => 2 * ulpFx y
  | .tanh => max (2 * ulpFx y) (fxPow2 (-26))
  | .sigmoid => max (2 * ulpFx y) (fxPow2 (-26))
  | .sin => fxPow2 (-21)
  | .cos => fxPow2 (-21)
  | _ => max (4 * ulpFx y) (fxPow2 (-26))

/-- y is finite and within t of the exact result v. -/
def FVal.near (y : FVal) (v t : Int) : Bool := y.isFinite && decide ((y.fx - v).natAbs ≤ t.natAbs)

/-- A fixed-point number rounded to FP32. -/
def fxToF32 (v : Int) : FVal := roundF32 (.fin (decide (v < 0)) v.natAbs (-fxBits))

/-- A sine or cosine whose argument is 2^24 or more: any value from −1 to 1 (R122). -/
def farTrig (g : Config.Sfu) (x : FVal) : Bool := (g == .sin || g == .cos) && !(x.abs.lt (.fin false 1 24))

/-- The free result of R123 where it keeps the bound of R122, else the exact result rounded to FP32: whatever the free function
is, the result is within the bound. An exact result beyond FP32's largest finite value is bounded by no row. -/
def sfuFree (g : Config.Sfu) (x : FVal) : FVal :=
  let y := ofF32 (Config.sfu g (BitVec.ofNat 32 (toF32 x))).toNat
  match x with
  | .fin n m e =>
    if farTrig g x then (if y.near 0 fxOne then y else .zero)
    else
      (match sfuFx g n m e with
       | none => y
       | some v => if (fxToF32 v).isFinite = false ∨ y.near v (sfuTol g x v y) = true then y else fxToF32 v)
  | _ => y

/-- The angle p × β^(−2j / d) of ROPE (R88). -/
def ropeAngle (p beta j d : Nat) : Int := p * fxExp (-(2 * j * fxLn beta 0 / d))

/-- ROPE's sine or cosine: free within 2^−20 of the exact one (R122). -/
def ropeFree (free : Word32) (v : Int) : FVal :=
  let y := ofF32 free.toNat
  if y.near v (fxPow2 (-20)) then y else fxToF32 v

def ropeCosVal (p beta j d : Nat) : FVal := ropeFree (Config.ropeCos p beta j d) (fxCos (ropeAngle p beta j d))
def ropeSinVal (p beta j d : Nat) : FVal := ropeFree (Config.ropeSin p beta j d) (fxSin (ropeAngle p beta j d))

/-! ## Special inputs (R121) -/

/-- A special function on an FP32 value: the table of special inputs of R121, and on every other finite input the fixed
function of R123. The result is an FP32 value. -/
def sfuVal (g : Config.Sfu) (x : FVal) : FVal :=
  let free := sfuFree g x
  match g, x with
  | _, .nan => .nan
  | .exp, .inf n => if n then .zero else .inf false
  | .exp2, .inf n => if n then .zero else .inf false
  | .exp, .fin _ 0 _ => .one
  | .exp2, .fin _ 0 _ => .one
  | .log, .inf n => if n then .nan else .inf false
  | .log, .fin n m _ => if m = 0 then .inf true else if n then .nan else free
  | .rcp, .inf n => .fin n 0 0
  | .rcp, .fin n 0 _ => .inf n
  | .rsqrt, .inf n => if n then .nan else .zero
  | .rsqrt, .fin n m _ => if m = 0 then .inf n else if n then .nan else free
  | .tanh, .inf n => .fin n 1 0
  | .tanh, .fin n 0 _ => .fin n 0 0
  | .sigmoid, .inf n => if n then .zero else .one
  | .sigmoid, .fin _ 0 _ => .fin false 1 (-1)
  | .silu, .inf n => if n then .fin true 0 0 else .inf false
  | .silu, .fin n 0 _ => .fin n 0 0
  | .gelu, .inf n => if n then .fin true 0 0 else .inf false
  | .gelu, .fin n 0 _ => .fin n 0 0
  | .geluTanh, .inf n => if n then .fin true 0 0 else .inf false
  | .geluTanh, .fin n 0 _ => .fin n 0 0
  | .sin, .inf _ => .nan
  | .sin, .fin n 0 _ => .fin n 0 0
  | .cos, .inf _ => .nan
  | .cos, .fin _ 0 _ => .one
  | _, _ => free

end Sys2Proof.Machine
end

