-- ==== Sys2Proof/Machine/Anchor.lean ====
section
/-!
DEFINITION. Anchored accumulators (R110 to R114): terms converted on their own, added exactly, checked
against the finite range, and read out as a value or an image.
Readings of the rules that they leave open: log entry 23 (DEDUCED or DESIGN CHOICE, as the log marks each).
-/

namespace Sys2Proof.Machine

/-- The fraction bits F of a stored width w (R110). -/
def anchF (w : Nat) : Nat := if w = 128 then 100 else 70

/-- H of R111, by width. -/
def anchH (w : Nat) : Nat := if w = 128 then 26 else 24

/-- ⌈log2 n⌉ for n at least 1. -/
def ceilLog2 (n : Nat) : Nat := if n ≤ 1 then 0 else Nat.log2 (n - 1) + 1

/-- The anchor of rule 2 of R111: term bound e, n terms. -/
def anchorOf (w : Nat) (e : Int) (n : Nat) : Int := e + ((ceilLog2 n - anchH w : Nat) : Int)

/-- The largest exponent of an input format without a recorded BLOCK_EXP (R111). -/
def formatExp (c : Nat) : Int :=
  match c with
  | 0x03 => 15
  | 0x05 => 15
  | 0x04 => 8
  | 0x0B => 127 + mxEmax c
  | 0x0C => 127 + mxEmax c
  | 0x0D => 127 + mxEmax c
  | _ => 127

/-- An operand's BLOCK_EXP as R111 counts it. -/
def blockExpOf (d : Desc) : Int := d.blockExp.getD (formatExp d.format)

/-- ±m × 2^e as an integer multiple of 2^u, rounded by RNE (R112). -/
def toUnits (u : Int) (neg : Bool) (m : Nat) (e : Int) : Int :=
  let sh := (u - e).toNat
  let k := if e ≥ u then m * 2 ^ (e - u).toNat
    else m / 2 ^ sh + b2n (roundsUp .rne 0 neg (m / 2 ^ sh) (m % 2 ^ sh) (2 ^ sh) false)
  if neg then -(k : Int) else k

/-- One term added (R112). -/
def Anch.addTerm (w : Nat) (anchor : Int) (a : Anch) : FVal → Anch
  | .nan => { a with nan := true }
  | .inf n => if n then { a with ninf := true } else { a with pinf := true }
  | .fin n m e =>
    let i := toUnits (anchor - anchF w) n m e
    if i.natAbs > 2 ^ (w - 1) - 1 then { a with ovf := true } else { a with sum := a.sum + i }

/-- Terms added in any order (R112). -/
def Anch.addTerms (w : Nat) (anchor : Int) (a : Anch) (ts : List FVal) : Anch :=
  ts.foldl (fun acc t => acc.addTerm w anchor t) a

/-- Two internal registers of one anchor combined (R112). -/
def Anch.merge (a b : Anch) : Anch :=
  ⟨a.sum + b.sum, a.nan || b.nan, a.pinf || b.pinf, a.ninf || b.ninf, a.ovf || b.ovf⟩

/-- The range check (R113). -/
def Anch.check (w : Nat) (a : Anch) : Anch :=
  if -(2 ^ (w - 1) : Int) + 3 ≤ a.sum ∧ a.sum ≤ 2 ^ (w - 1) - 1 then a else { a with ovf := true }

/-- The value of a final sum (R113). -/
def Anch.value (w : Nat) (anchor : Int) (a : Anch) : FVal :=
  if a.nan || a.ovf || (a.pinf && a.ninf) then .nan
  else if a.pinf then .inf false
  else if a.ninf then .inf true
  else .fin (decide (a.sum < 0)) a.sum.natAbs (anchor - anchF w)

/-- Whether a final sum is NaN through the overflow flag alone (R114). -/
def Anch.overflowed (a : Anch) : Bool := a.ovf && !a.nan && !(a.pinf && a.ninf)

/-- The 128-bit word of a final sum's image (R110): an ANCH96 image copies bit 95 into bits 127:96. -/
def Anch.image (w : Nat) (a : Anch) : Nat :=
  let i : Int :=
    if a.nan || a.ovf || (a.pinf && a.ninf) then -(2 ^ (w - 1))
    else if a.pinf then -(2 ^ (w - 1)) + 1
    else if a.ninf then -(2 ^ (w - 1)) + 2
    else a.sum
  unsigned 128 i

/-- The register that an image holds (R110): its special codes set the flags. -/
def Anch.ofImage (w : Nat) (v : Nat) : Anch :=
  let i := signed w (v % 2 ^ w)
  if i = -(2 ^ (w - 1) : Int) then { nan := true }
  else if i = -(2 ^ (w - 1) : Int) + 1 then { pinf := true }
  else if i = -(2 ^ (w - 1) : Int) + 2 then { ninf := true }
  else { sum := i }

/-- The stored width of an image format (R110). -/
def anchWidth (c : Nat) : Nat := if c = 0x10 then 96 else 128

end Sys2Proof.Machine
end

