-- ==== Sys2Proof/Machine/Flags.lean ====
section
/-!
DEFINITION. Events and flags: the event codes, interrupts on partition vectors and on the global vector, the
global event ring, the ignored-write record, and the properties that a program queries (R70, R237, R334,
R335, R354, R362).
-/

namespace Sys2Proof.Machine

/-! ## Event codes (R48, R71, R99, R125 and the event tables of the chapters) -/

namespace Ev

def fit : Nat := 0x1001
def shape : Nat := 0x1002
def desc : Nat := 0x1003
def align : Nat := 0x1004
def format : Nat := 0x1005
def opcode : Nat := 0x1006
def readonly : Nat := 0x1007
def doorbell : Nat := 0x1020
def scene : Nat := 0x1021
def chain : Nat := 0x1022
def residue : Nat := 0x2001
def anchOvf : Nat := 0x2002
def eccUncorr : Nat := 0x3001
def xlate : Nat := 0x3002
def pack : Nat := 0x3003
def peerRange : Nat := 0x3004
def chanMapped : Nat := 0x3010
def scrubUncorr : Nat := 0x3011
def route : Nat := 0x4004
def peerLost : Nat := 0x4005
def holdBudget : Nat := 0x6001
def gateOrder : Nat := 0x6002
def broken : Nat := 0x6003
def waitBudget : Nat := 0x6004
def wign : Nat := 0x6005
def parCfg : Nat := 0x6010
def parReset : Nat := 0x6011
def locked : Nat := 0x6012
def lockLost : Nat := 0x6013
def bookSplit : Nat := 0x5001
def replay : Nat := 0x5020
def withdrawn : Nat := 0x5021
def promoted : Nat := 0x5022
def succession : Nat := 0x5023
def wings : Nat := 0x5024
def peerPoison : Nat := 0x5002
def cueSlip : Nat := 0x5003
def configDrift : Nat := 0x5030
def bookRefused : Nat := 0x5031

end Ev

/-! ## Interrupts -/

/-- An MSI-X message of a function's entry, unless the host has disabled its MSI-X (R334). -/
def State.msix (s : State) (fn entry : Nat) : State :=
  s.when (fn ∉ s.host.msixOff) (·.emit (.msix fn entry))

/-- Partition vector v of partition p (R237): an entry of the owning function, beyond which nothing is sent. -/
def State.raiseVector (s : State) (p v : Nat) : State :=
  match (s.partition p).block with
  | none => s
  | some b => if v < b.vecCount then s.msix b.fn (b.vecFnBase + v) else s

/-- The 16 bytes of a record of the global event ring (R335). -/
def eventRecord (phase : Bool) (code unit detail cue : Nat) : Bytes :=
  natLE 4 (code % 2 ^ 16 + b2n phase * 2 ^ 16 + unit % 2 ^ 15 * 2 ^ 17) ++ natLE 4 detail ++ natLE 8 cue

/-- Whether the physical or a virtual function's translation refuses a byte range (R54). -/
def State.xlateRefuses (s : State) (fn a n : Nat) : Bool :=
  s.mem.refused.any fun r => r.1 == fn && overlaps a n r.2.1 r.2.2

/-- Host memory written by the device for a function (R54). -/
def State.writeHost (s : State) (fn a : Nat) (bs : Bytes) : State :=
  s.setMem { s.mem with host := Memory.writeN s.mem.host (fn * 2 ^ 64 + a) bs }

/-- Host memory read for a function. -/
def State.readHost (s : State) (fn a n : Nat) : Bytes := Memory.readN s.mem.host (fn * 2 ^ 64 + a) n

/-- A record of the global event ring lost (R335, R354). -/
def State.eventLost (s : State) : State := s.countFld F.pciEvtStatLost 1

/-- One record of the global event ring (R335): dropped and counted when the ring is full or the address is
refused. -/
def State.eventWrite (s : State) (code unit detail cue : Nat) : State :=
  let tail := s.fld F.pciEvtStatTail
  let base := s.pair .pciEvtBaseLo .pciEvtBaseHi
  if (tail + 1) % 4096 = s.fld F.pciEvtCtrlHead ∨ s.xlateRefuses 0 (base + 16 * tail) 16 then s.eventLost
  else
    let s := s.writeHost 0 (base + 16 * tail) (eventRecord s.host.evtPhase code unit detail cue)
    let s := s.setFld F.pciEvtStatTail ((tail + 1) % 4096)
    if tail = 4095 then s.setHost { s.host with evtPhase := !s.host.evtPhase } else s

/-- The hub's last 1,024 events (R304). -/
def State.hubEvent (s : State) (e : HistoryEntry) : State :=
  s.setLedg { s.ledg with hubEvents := ((s.ledg.hubEvents ++ [e]).reverse.take 1024).reverse }

/-- An event on the global vector (R334, R335, R345, R354): its ring record, or a held record before the ring
is first enabled, entry 0 of the physical function, and the sideband's in-band interrupt. No rule says what DETAIL holds: it is free. -/
def State.raiseGlobal (s : State) (code : Nat) (unit : Nat := 0) : State :=
  let d := s.drawNat
  let detail := d.1 % 2 ^ 32
  let s := d.2
  let s := s.hubEvent ⟨s.time.cue, code, unit, detail⟩
  let s :=
    if s.flag F.pciEvtCtrlEn then s.eventWrite code unit detail s.time.cue
    else if s.host.evtEver then s.eventLost
    else if s.host.evtHeld.length < 64 then
      s.setHost { s.host with evtHeld := s.host.evtHeld ++ [(code, unit, detail, s.time.cue)] }
    else s.eventLost
  (s.msix 0 0).emit .inband

/-- An event on vector 0 of partition p (R237): the interrupt carries no code; the hub's last events do (R304), with PARTITION as
their unit and a free detail (DESIGN CHOICE, log entry 66). -/
def State.raiseEvent (s : State) (p code : Nat) : State :=
  let d := s.drawNat
  (d.2.hubEvent ⟨s.time.cue, code, p, d.1 % 2 ^ 32⟩).raiseVector p 0

/-! ## Ignored writes (R362) -/

/-- E_WIGN for a field outside PAR: the record keeps the first place since SEEN was cleared. -/
def State.wignOther (s : State) (window : Option Nat) (offset : Nat) : State :=
  let s :=
    if s.flag F.hubWignSeen then s
    else
      let s := s.setFld F.hubWignSeen 1
      let s := s.setFld F.hubWignGlobal (b2n window.isNone)
      let s := s.setFld F.hubWignPartition (window.getD 0)
      s.setFld F.hubWignSlot (offset / 16)
  match window with
  | none => s.raiseGlobal Ev.wign
  | some p => s.raiseEvent p Ev.wign

/-- E_WIGN for a PAR field of partition p. -/
def State.wignPar (s : State) (window : Option Nat) (p : Nat) : State :=
  let s := s.setFld (F.parStatusWign p) 1
  match window with
  | none => s.raiseGlobal Ev.wign
  | some w => s.raiseEvent w Ev.wign

/-! ## Counts and capacities (R70, R79, R197) -/

/-- The original stacked capacity in bytes (R1). -/
def fullCapacity (part : Part) : Nat := if part = .l16 then 618475290624 else 463856467968

/-- Stacked-memory channels counted out of capacity: mapped out, or draining (R197). -/
def State.channelsOut (s : State) : Nat :=
  s.spare.mappedOut.length + (match s.spare.drain with | some _ => 1 | none => 0)

/-- Recorded stacked capacity, whatever HBC.CTRL.EN says (R197, R199). -/
def State.recordedCapacity (s : State) : Nat := fullCapacity s.part / 384 * (384 - s.channelsOut)

/-- Watchdog resets within the last hour. -/
def State.recentResets (s : State) : Nat := (s.prom.resets.filter fun c => decide (s.time.cue < c + 3600000000)).length

/-- Current stacked capacity, property 0x000A: 0 while HBC.CTRL.EN is 0 (R70, R353). -/
def State.capacity (s : State) : Nat := if s.flag F.hbcCtrlEn then s.recordedCapacity else 0

/-- DIRECT_WAYS in force: 9 to 15 act as 8 (R215). -/
def State.directWays (s : State) : Nat := min 8 (s.fld F.cacCtrlDirectWays)

/-- Bytes of the directly addressed region (R188): none while the slices are disabled. -/
def State.directBytes (s : State) : Nat := if s.flag F.cacCtrlEn then s.directWays * 2 ^ 24 else 0

/-- Clusters lost in depleted folds (R256): each lowers the active count. -/
def State.activeClusters (s : State) : Nat := 2048 - s.spare.lost.length

/-- The value of a queryable property (R70). -/
def State.property (s : State) (i : Nat) : Nat :=
  match i with
  | 0x0001 => s.activeClusters
  | 0x0002 => 32
  | 0x0003 => 8
  | 0x0004 => 64 + 16 * 2 ^ 32
  | 0x0005 => 786432
  | 0x0006 => 196608
  | 0x0007 => 131072
  | 0x0008 => 65536 + 512 * 2 ^ 32
  | 0x0009 => 268435456 + 16 * 2 ^ 32
  | 0x000A => s.capacity
  | 0x000B => if s.flag F.hbcCtrlEn then 384 - s.channelsOut else 0
  | 0x000C => 16
  | 0x000D => 8192 + 4096 * 2 ^ 32
  | 0x000E => 4096 + 8 * 2 ^ 16 + 32 * 2 ^ 32
  | 0x000F => 4
  | 0x0010 => 1024 + 256 * 2 ^ 16 + 16 * 2 ^ 32
  | 0x0011 => 0x0001FFFE
  | 0x0012 => 1024 + 24 * 2 ^ 16 + 4096 * 2 ^ 32
  | 0x0013 => 4096
  | 0x0014 => 8 + 8 * 2 ^ 8 + 10 * 2 ^ 16 + 8 * 2 ^ 24 + 8 * 2 ^ 32 + 8 * 2 ^ 40 + 14 * 2 ^ 48
  | _ => 2 ^ 64 - 1

/-! ## Devices in and out of operation (R282, R293, R351) -/

/-- The engines, queues and links run: the device is READY and no safe stop or save has stopped its clocks. -/
def State.running (s : State) : Bool :=
  match s.shep.stop with
  | .running => true
  | .orderly _ _ => true
  | _ => false

/-- What engines, queues and links do needs their clocks: nothing of it happens in a stop (R282, R293, R294;
DESIGN CHOICE, log entry 41). -/
def State.clocked (s : State) (f : State → State) : State := if s.running then f s else s

end Sys2Proof.Machine
end

