-- ==== Sys2Proof/Machine/Tiers.lean ====
section
/-!
DEFINITION. The memory tiers: one byte of each tier, poison, the shared cache's lines with their hints, bytes
left undefined, and the descriptor buffers that a write makes stale (R54, R60, R183 to R199, R392).
Readings of the rules that they leave open: log entries 14 and 15 (DEDUCED or DESIGN CHOICE, as the log marks each).
-/

namespace Sys2Proof.Machine

/-- TIER codes (R54). -/
def tLocal : Nat := 0
def tCache : Nat := 1
def tStacked : Nat := 2
def tPeer : Nat := 3
def tHost : Nat := 4

/-- The place of what a CHAIN's stages hand on (R36): no TIER code of a descriptor. -/
def tHand : Nat := 5

/-- Bytes of a local store (R184). -/
def localBytes : Nat := 786432

/-- The key of a byte in its memory: who is the cluster for LOCAL, the rank for PEER, the function for HOST. -/
def tierKey (tier who a : Nat) : Nat :=
  if tier = 0 then who * localBytes + a else if tier = 1 ∨ tier = 2 then a else who * 2 ^ 64 + a

/-- The memory of a tier. -/
def State.tierMem (s : State) (tier : Nat) : List Host.Cell :=
  match tier with
  | 0 => s.mem.loc
  | 1 => s.mem.cache
  | 2 => s.mem.stack
  | 3 => s.mem.peer
  | 5 => s.mem.hand
  | _ => s.mem.host

/-- The memory of a tier replaced. -/
def State.setTierMem (s : State) (tier : Nat) (m : List Host.Cell) : State :=
  match tier with
  | 0 => s.setMem { s.mem with loc := m }
  | 1 => s.setMem { s.mem with cache := m }
  | 2 => s.setMem { s.mem with stack := m }
  | 3 => s.setMem { s.mem with peer := m }
  | 5 => s.setMem { s.mem with hand := m }
  | _ => s.setMem { s.mem with host := m }

/-- One byte of a tier. -/
def State.tierByte (s : State) (tier who a : Nat) : Byte := Memory.read (s.tierMem tier) (tierKey tier who a)

/-- n bytes of a tier. -/
def State.tierBytes (s : State) (tier who a n : Nat) : Bytes :=
  Memory.readN (s.tierMem tier) (tierKey tier who a) n

/-- The size of the piece that poison marks (R185, R192, R195). -/
def pieceBytes (tier : Nat) : Nat := if tier = 0 then 16 else if tier = 1 then 8 else 64

/-- The poisoned pieces of a tier, by piece number of the key. -/
def State.poison (s : State) (tier : Nat) : List Nat :=
  match tier with
  | 0 => s.mem.locPoison
  | 1 => s.mem.cachePoison
  | 2 => s.mem.stackPoison
  | _ => []

/-- The poisoned pieces of a tier replaced. -/
def State.setPoison (s : State) (tier : Nat) (l : List Nat) : State :=
  match tier with
  | 0 => s.setMem { s.mem with locPoison := l }
  | 1 => s.setMem { s.mem with cachePoison := l }
  | 2 => s.setMem { s.mem with stackPoison := l }
  | _ => s

/-- A piece poisoned. -/
def State.addPoison (s : State) (tier k : Nat) : State :=
  if k ∈ s.poison tier then s else s.setPoison tier (k :: s.poison tier)

/-- A byte of a tier lies in a poisoned piece; of stacked memory, also in 8 poisoned bytes of a dirty line (R192). -/
def State.byteBad (s : State) (tier who a : Nat) : Bool :=
  (s.poison tier).contains (tierKey tier who a / pieceBytes tier) || (tier == tStacked && s.mem.linePoison.contains (a / 8))

/-- A byte range of a tier holds a poisoned piece. -/
def State.rangeBad (s : State) (tier who a n : Nat) : Bool :=
  let k := tierKey tier who a
  ((s.poison tier).any fun p => overlaps k n (p * pieceBytes tier) (pieceBytes tier)) ||
    (tier == tStacked && s.mem.linePoison.any fun p => overlaps a n (8 * p) 8)

/-! ## The shared cache (R187 to R191) -/

/-- The slice of a stacked-memory line: the die of its logical channel (R7, R187, R194). -/
def sliceOf (line : Nat) : Nat := line * 64 / 256 % 384 / 96

/-- Two lines of one slice compete for one set (R187). -/
def sameSet (x y : Nat) : Bool := sliceOf x == sliceOf y && Config.cacheSet x == Config.cacheSet y

/-- Active ways of a slice: 16 while an understudy way stands for every failed one (R187, R192). -/
def State.activeWays (s : State) (slice : Nat) : Nat :=
  min 16 (18 - (s.mem.waysOut.filter fun w => w / 18 == slice).length)

/-- The caching ways of a slice (R190). -/
def State.cachingWays (s : State) (slice : Nat) : Nat := s.activeWays slice - s.directWays

/-- The lines of memory with room for one more in a line's set: eviction takes the least-recently-used line
that is not keep, and a keep line only when every line is keep (R190). -/
def evictFor (ways line : Nat) (ls : List CacheLine) : List CacheLine :=
  let mine := ls.filter fun c => sameSet c.line line
  if mine.length < ways then ls
  else
    match mine.find? (fun c => !c.keep) with
    | some v => ls.filter fun c => c.line != v.line
    | none =>
      match mine.head? with
      | some v => ls.filter fun c => c.line != v.line
      | none => ls

/-- One access to a line with a hint: 1 is KEEP, anything else acts as STREAM (R189, R190). A STREAM write puts the line in the
least-recently-used place, a STREAM read of a line that is there leaves it where it is. -/
def touchLine (ways hint : Nat) (write : Bool) (line : Nat) (ls : List CacheLine) : List CacheLine :=
  let others := ls.filter fun c => sameSet c.line line && c.line != line
  let keepRoom := decide ((others.filter (·.keep)).length + 1 ≤ ways - 4)
  match ls.find? (fun c => c.line == line) with
  | some c =>
    if hint = 1 ∧ keepRoom then
      (ls.filter fun x => x.line != line) ++ [⟨line, c.dirty || write, true⟩]
    else if write then { c with dirty := true } :: ls.filter fun x => x.line != line
    else ls
  | none =>
    let ls := evictFor ways line ls
    if hint = 1 ∧ keepRoom then ls ++ [⟨line, write, true⟩] else ⟨line, write, false⟩ :: ls

/-- The lines of byte ranges. -/
def linesOf (addrs : List Nat) : List Nat := (addrs.map (· / 64)).eraseDups

/-- Accesses to stacked-memory bytes with a hint (R189): nothing while the slices are disabled. -/
def State.touch (s : State) (hint : Nat) (write : Bool) (addrs : List Nat) : State :=
  if s.flag F.cacCtrlEn then
    let ls := (linesOf addrs).foldl (fun ls l => touchLine (s.cachingWays (sliceOf l)) hint write l ls) s.mem.lines
    s.setMem { s.mem with lines := ls }
  else s

/-! ## Writes -/

/-- The descriptors of partition p's queues read from any of these stacked-memory bytes leave their buffers
(R60). -/
def State.staleDescriptors (s : State) (p : Nat) (addrs : List Nat) : State :=
  match (s.partition p).block with
  | none => s
  | some b =>
    s.setQueues (s.queues.filterMap fun kq =>
      if within kq.1 1 b.queueFirst b.queueCount then
        let q := { kq.2 with buffer := kq.2.buffer.map fun u =>
          { u with gone := u.gone ++ (List.range 8).filter fun e =>
              addrs.any fun a => overlaps (u.table + 512 * u.number + 64 * e) 64 a 1 } }
        if q = {} then none else some (kq.1, q)
      else some kq)

/-- Pieces of n bytes that stay poisoned when the bytes of these keys are written: those not written whole. -/
def stillBad (n : Nat) (keys pieces : List Nat) : List Nat :=
  pieces.filter fun k => !(List.range n).all fun j => keys.contains (k * n + j)

/-- The pieces of a tier written whole lose their poison (R185, R192, R195); keys are those of all the bytes that a write replaces. -/
def State.mend (s : State) (tier : Nat) (keys : List Nat) : State :=
  let s := s.setPoison tier (stillBad (pieceBytes tier) keys (s.poison tier))
  if tier = tStacked then s.setMem { s.mem with linePoison := stillBad 8 keys s.mem.linePoison } else s

/-- Bytes written to a tier, by address: the pieces written whole lose their poison. -/
def State.writeCells (s : State) (tier who : Nat) (cells : List (Nat × Byte)) : State :=
  let s := s.setTierMem tier (cells.foldl (fun m c => Memory.write m (tierKey tier who c.1) c.2) (s.tierMem tier))
  s.mend tier (cells.map fun c => tierKey tier who c.1)

/-- The cells of a run of bytes. -/
def cellsOf (a : Nat) (bs : Bytes) : List (Nat × Byte) := (List.range bs.length).map fun i => (a + i, bs.getD i 0)

/-- A run of bytes written to a tier. -/
def State.writeTier (s : State) (tier who a : Nat) (bs : Bytes) : State := s.writeCells tier who (cellsOf a bs)

/-- A run of bytes left undefined: each is a free value (R31, R85, R185, R191, R198, R226, R240). -/
def State.undefine (s : State) (tier who a n : Nat) : State :=
  let d := s.drawBytes n
  d.2.setTierMem tier (Memory.writeN (d.2.tierMem tier) (tierKey tier who a) d.1)

/-- Every listed byte of a tier that a condition names becomes undefined. -/
def State.undefineCells (s : State) (tier : Nat) (which : Nat → Bool) : State :=
  let ks := ((s.tierMem tier).map (·.1)).filter which
  let d := s.drawBytes ks.length
  d.2.setTierMem tier ((ks.zip d.1).foldl (fun m c => Memory.write m c.1 c.2) (d.2.tierMem tier))

/-- A LAST_USE read of lines covered whole by one request: the lines leave the cache and their bytes are
undefined until next written (R189, R191). -/
def State.discardLines (s : State) (ls : List Nat) : State :=
  let s := s.setMem { s.mem with lines := s.mem.lines.filter fun c => !ls.contains c.line }
  s.over ls fun s l => s.undefine tStacked 0 (64 * l) 64

/-- The lines of which a unit's byte addresses cover all 64 bytes (R191). -/
def coveredLines (unit : List Nat) : List Nat :=
  (linesOf unit).filter fun l => (List.range 64).all fun i => unit.contains (64 * l + i)

/-- A read of stacked memory through the cache, by units, with a hint (R189, R191). -/
def State.readThrough (s : State) (hint : Nat) (units : List (List Nat)) : State :=
  if hint = 2 ∧ s.flag F.cacCtrlEn then
    let cov := (units.flatMap coveredLines).eraseDups
    let s := s.touch 0 false (units.flatten.filter fun a => !cov.contains (a / 64))
    s.discardLines cov
  else s.touch hint false units.flatten

/-! ## Events of an access -/

/-- The event of reading a byte range: poison, a refused translation, the evacuation band (R54, R185, R198);
0 when it reads. -/
def State.readEvent (s : State) (tier who a n : Nat) : Nat :=
  if tier = tHost ∧ s.xlateRefuses who a n then Ev.xlate
  else if tier = tStacked ∧ n ≠ 0 ∧ a + n > s.capacity then Ev.chanMapped
  else if s.rangeBad tier who a n then Ev.eccUncorr else 0

/-- The event of writing a byte range. -/
def State.writeEvent (s : State) (tier who a n : Nat) : Nat :=
  if tier = tHost ∧ s.xlateRefuses who a n then Ev.xlate
  else if tier = tStacked ∧ n ≠ 0 ∧ a + n > s.capacity then Ev.chanMapped else 0

/-- The first event of a list of codes; 0 when none. -/
def firstEvent (l : List Nat) : Nat := (l.find? (· ≠ 0)).getD 0

end Sys2Proof.Machine
end

