-- ==== Sys2Proof/Machine/Operands.lean ====
section
/-!
DEFINITION. Operand forms: the tensor descriptor, its extent and alignment rules, the place of every element
in the three layouts, and rows of elements read and written (R53 to R58, R100 to R103, R116, R200, R201,
R207, R209).
-/

namespace Sys2Proof.Machine

/-- A descriptor from its 64 bytes (R53). -/
def Desc.ofBytes (b : Bytes) : Desc where
  base := field b 0x00 8
  cap := field b 0x08 8
  n0 := field b 0x10 4
  n1 := field b 0x14 4
  n2 := field b 0x18 4
  n3 := field b 0x1C 4
  st1 := field b 0x20 8
  st2 := field b 0x28 8
  st3 := field b 0x30 8
  format := field b 0x38 1
  tier := bits (field b 0x39 1) 0 4
  kind := bits (field b 0x39 1) 4 4
  blockExp := if field b 0x3A 2 = 0x8000 then none else some (signed 16 (field b 0x3A 2))
  layout := field b 0x3C 1
  hint := bits (field b 0x3D 1) 0 2
  rdonly := bits (field b 0x3D 1) 2 1 == 1
  packed := bits (field b 0x3D 1) 3 1 == 1
  rsvBad := decide (field b 0x3C 1 > 2 ∨ bits (field b 0x3D 1) 0 2 = 3 ∨ bits (field b 0x3D 1) 4 4 ≠ 0)
  rank := field b 0x3E 2

/-- KIND codes (R53). -/
def kTensor : Nat := 0
def kParams : Nat := 1
def kPort : Nat := 2

/-- The element count. -/
def Desc.elements (d : Desc) : Nat := d.n0 * d.n1 * d.n2 * d.n3

/-- A zero SHAPE entry (R68). -/
def Desc.isZero (d : Desc) : Bool := d.elements == 0

/-- Bytes of a row (R55). -/
def Desc.row (d : Desc) : Nat := rowBytes d.format d.n0

/-- The number of rows. -/
def Desc.rows (d : Desc) : Nat := d.n1 * d.n2 * d.n3

/-- The extent (R56); that of a packed stream is its worst case (R209), that of a parameter block or a port
its CAPACITY. -/
def Desc.extent (d : Desc) : Nat :=
  if d.kind ≠ kTensor then d.cap
  else if d.packed then ceilDiv d.elements 4096 * (if d.format = 1 then 16512 else 8320)
  else if d.isZero then 0
  else d.row + (d.n1 - 1) * d.st1 + (d.n2 - 1) * d.st2 + (d.n3 - 1) * d.st3

/-- The output-stride rule (R58). -/
def Desc.stridesOk (d : Desc) : Bool :=
  d.packed || decide (d.st1 ≥ d.row ∧ d.st2 ≥ d.n1 * d.st1 ∧ d.st3 ≥ d.n2 * d.st2)

/-- The alignment rules (R57), for a descriptor of any KIND, with those of a tensor's layout (R200, R201); an output has no
stride of 0. -/
def Desc.aligned (d : Desc) (out : Bool) : Bool :=
  let q := if d.tier = tLocal then 16 else 64
  if d.packed then d.base % q == 0
  else
    d.base % q == 0 && d.st1 % q == 0 && d.st2 % q == 0 && d.st3 % q == 0 &&
    !(out && (d.st1 == 0 || d.st2 == 0 || d.st3 == 0)) &&
    !(isMx d.format && d.n0 % 32 != 0) &&
    (d.kind != kTensor ||
      match d.layout with
      | 1 => d.row % 16 == 0 && d.n1 % 4 == 0 && d.st1 % 16 == 0
      | 2 => d.st1 == d.row && d.st2 == ceilDiv (d.n1 * d.st1) 64 * 64
      | _ => true)

/-- The address of byte k of the row at indices (i1, i2, i3), in the descriptor's layout (R53, R200, R201). -/
def Desc.addr (d : Desc) (i : Nat × Nat × Nat) (k : Nat) : Nat :=
  if d.layout = 1 then
    d.base + 4 * (i.1 / 4) * d.st1 + 64 * (k / 16) + 16 * (i.1 % 4) + k % 16 + i.2.1 * d.st2 + i.2.2 * d.st3
  else d.base + i.1 * d.st1 + i.2.1 * d.st2 + i.2.2 * d.st3 + k

/-- The addresses of a row's bytes. -/
def Desc.rowAddrs (d : Desc) (i : Nat × Nat × Nat) : List Nat := (List.range d.row).map (d.addr i)

/-- The rows of a tensor in element-index order (R116): row r has indices (r mod n1, …). -/
def Desc.rowAt (d : Desc) (r : Nat) : Nat × Nat × Nat := (r % d.n1, r / d.n1 % d.n2, r / (d.n1 * d.n2))

/-- Who a byte of the operand belongs to: the cluster for LOCAL, the rank for PEER, the function for HOST. -/
def Desc.who (d : Desc) (fn cl : Nat) : Nat :=
  match d.tier with
  | 0 => cl
  | 3 => d.rank
  | 5 => d.rank
  | 4 => fn
  | _ => 0

/-- The bytes of a row. -/
def State.rowBytesOf (s : State) (d : Desc) (fn cl : Nat) (i : Nat × Nat × Nat) : Bytes :=
  (d.rowAddrs i).map (s.tierByte d.tier (d.who fn cl))

/-- The n element codes of a row's bytes (R55, R102, R103): the element's bits within the row, lowest first. -/
def unpackRow (fmt n : Nat) (bs : Bytes) : List Nat :=
  let p := pitchBits fmt
  (List.range n).map fun i =>
    if p % 8 = 0 then
      let v := field bs (i * (p / 8)) (p / 8)
      if fmt = 0x0A then v / 2 ^ 16 else v
    else if p = 4 then bits (field bs (i / 2) 1) (4 * (i % 2)) 4
    else bits (field bs (3 * (i / 4)) 3) (6 * (i % 4)) 6

/-- The scale bytes of a microscaling row of n elements (R55, R102). -/
def rowScales (fmt n : Nat) (bs : Bytes) : List Nat :=
  (List.range (n / 32)).map fun j => field bs (pitchBits fmt * n / 8 + j) 1

/-- The floating-point values of a row's bytes. -/
def rowVals (fmt n : Nat) (bs : Bytes) : List FVal :=
  match floatFmt fmt with
  | none => []
  | some f =>
    if isMx fmt then
      let sc := rowScales fmt n bs
      ((unpackRow fmt n bs).zip (List.range n)).map fun p => mxVal fmt p.1 (sc.getD (p.2 / 32) 0)
    else (unpackRow fmt n bs).map (decodeF f)

/-- A number's bits spread over bytes: element codes of p bits each, packed lowest first. -/
def packBits (p : Nat) (cs : List Nat) : Bytes :=
  let v := (cs.zip (List.range cs.length)).foldl (fun acc c => acc + c.1 % 2 ^ p * 2 ^ (p * c.2)) 0
  natLE (p * cs.length / 8) v

/-- The bytes of a row of element codes, with the scale bytes of a microscaling row after them. BF16.HI keeps
the low half that lo gives (R103). -/
def packRow (fmt : Nat) (cs : List Nat) (scales : List Nat) : Bytes :=
  if isMx fmt then packBits (pitchBits fmt) cs ++ scales.map (BitVec.ofNat 8)
  else (cs.map (natLE (pitchBits fmt / 8))).flatten

/-- The cells of a row written with given bytes. -/
def Desc.cells (d : Desc) (i : Nat × Nat × Nat) (bs : Bytes) : List (Nat × Byte) :=
  (List.range bs.length).map fun k => (d.addr i k, bs.getD k 0)

/-- The event of reading a row. -/
def State.rowReadEvent (s : State) (d : Desc) (fn cl : Nat) (i : Nat × Nat × Nat) : Nat :=
  firstEvent ((d.rowAddrs i).map fun a => s.readEvent d.tier (d.who fn cl) a 1)

/-- The event of writing a row. -/
def State.rowWriteEvent (s : State) (d : Desc) (fn cl : Nat) (i : Nat × Nat × Nat) : Nat :=
  firstEvent ((d.rowAddrs i).map fun a => s.writeEvent d.tier (d.who fn cl) a 1)

/-- The operand's byte range meets another's (R82, R87, R202). -/
def Desc.meets (a b : Desc) : Bool :=
  a.tier == b.tier && (a.tier != tPeer || a.rank == b.rank) && overlaps a.base a.extent b.base b.extent

/-- The same place and form: an output that coincides exactly with an input (R87). -/
def Desc.coincides (a b : Desc) : Bool :=
  a.tier == b.tier && a.rank == b.rank && a.base == b.base && a.st1 == b.st1 && a.st2 == b.st2 &&
    a.st3 == b.st3 && a.format == b.format && a.layout == b.layout

/-- The same SHAPE. -/
def Desc.sameShape (a b : Desc) : Bool := a.n0 == b.n0 && a.n1 == b.n1 && a.n2 == b.n2 && a.n3 == b.n3

/-- The bytes of a parameter block (R53 PARAMS). -/
def State.paramBytes (s : State) (d : Desc) (fn cl n : Nat) : Bytes := s.tierBytes d.tier (d.who fn cl) d.base n

/-- The output extent of an operand (R56). -/
def Desc.toExtent (d : Desc) : Extent := ⟨d.tier, d.base, d.extent, d.rank⟩

/-- An extent left undefined: on every cluster given for LOCAL; a PEER extent is the target's and no byte of
this device (R85). -/
def State.undefineExtent (s : State) (fn : Nat) (clusters : List Nat) (e : Extent) : State :=
  if e.tier = tLocal then s.over clusters fun s c => s.undefine tLocal c e.base e.len
  else if e.tier = tPeer then s
  else s.undefine e.tier (if e.tier = tHost then fn else 0) e.base e.len

end Sys2Proof.Machine
end

