-- ==== Sys2Proof/Machine/Packets.lean ====
section
/-!
DEFINITION. Queues, packets, descriptor fetches and completion records: the words in rings of memory that a
device queue reads and writes (R17 to R24, R49, R50, R59, R60, R235, R393).
-/

namespace Sys2Proof.Machine

/-- An instruction packet from its 16 bytes (R49). -/
def Pkt.ofBytes (b : Bytes) : Pkt :=
  let w := leNat b
  { opcode := bits w 0 8, md := bits w 8 8, cueq := bits w 16 2, irq := bits w 18 1 == 1, rsv := bits w 19 1,
    ta := bits w 20 4, tb := bits w 24 4, tc := bits w 28 4, s0 := bits w 32 12, s1 := bits w 44 12,
    s2 := bits w 56 12, s3 := bits w 68 12, imm := bits w 80 16, cueOffset := bits w 96 32 }

/-- The bits of a packet (R49). -/
def Pkt.toNat (k : Pkt) : Nat :=
  k.opcode + k.md * 2 ^ 8 + k.cueq * 2 ^ 16 + b2n k.irq * 2 ^ 18 + k.rsv * 2 ^ 19 + k.ta * 2 ^ 20 +
    k.tb * 2 ^ 24 + k.tc * 2 ^ 28 + k.s0 * 2 ^ 32 + k.s1 * 2 ^ 44 + k.s2 * 2 ^ 56 + k.s3 * 2 ^ 68 +
    k.imm * 2 ^ 80 + k.cueOffset * 2 ^ 96

/-- A queue block from its 64 bytes (R18). -/
def QueueBlock.ofBytes (b : Bytes) : QueueBlock where
  ringBase := field b 0 8
  cplBase := field b 8 8
  sizeLog2 := field b 0x10 1
  kind := field b 0x11 1
  ringHost := bits (field b 0x12 1) 0 1 == 1
  cplHost := bits (field b 0x12 1) 1 1 == 1
  contin := bits (field b 0x12 1) 2 1 == 1
  irqEach := bits (field b 0x12 1) 3 1 == 1
  vector := field b 0x14 2

/-- A partition holds its resources: it is enabled, or still being reset (R232, R245). -/
def State.live (s : State) (p : Nat) : Bool := s.flag (F.parCtrlEn p) || s.fld (F.parStatusState p) == 2

/-- The partition that owns a device queue (R232). -/
def State.partOf (s : State) (q : Nat) : Option Nat :=
  (List.range 16).find? fun p => s.live p &&
    match (s.partition p).block with
    | some b => within q 1 b.queueFirst b.queueCount
    | none => false

/-- The block of a partition; the empty one when it has none. -/
def State.block (s : State) (p : Nat) : PartBlock := (s.partition p).block.getD {}

/-- The queue is enabled (R370). -/
def State.qOn (s : State) (q : Nat) : Bool := s.flag (F.queQctrlEn q)

/-- The queue stands halted under HALT (R23). -/
def State.qHalted (s : State) (q : Nat) : Bool := s.flag (F.queQctrlHalted q)

/-- The ring's size in packets. -/
def Queue.size (v : Queue) : Nat := 2 ^ v.block.sizeLog2

/-- Packets rung and not yet issued (R19). -/
def Queue.backlog (v : Queue) : Nat := (2 ^ 32 + v.tail - v.head) % 2 ^ 32

/-- Where the ring entry of index i lies. -/
def Queue.entryAddr (v : Queue) (i : Nat) : Nat := v.block.ringBase + 16 * (i % v.size)

/-- The event of fetching packet i (R19): 0 when it reads. -/
def State.fetchEvent (s : State) (p q i : Nat) : Nat :=
  let v := s.queue q
  let tier := if v.block.ringHost then tHost else tStacked
  s.readEvent tier (if v.block.ringHost then (s.block p).fn else 0) (v.entryAddr i) 16

/-- Packet i of a queue's ring. -/
def State.packetAt (s : State) (p q i : Nat) : Pkt :=
  let v := s.queue q
  let tier := if v.block.ringHost then tHost else tStacked
  Pkt.ofBytes (s.tierBytes tier (if v.block.ringHost then (s.block p).fn else 0) (v.entryAddr i) 16)

/-! ## The context of an instruction (R28, R393) -/

/-- The scene in whose context queue q issues: its open scene for a control queue, the running scene that
lists it for any other. -/
def State.sceneOf (s : State) (p q : Nat) : Option Scene :=
  if (s.queue q).block.kind = 3 then
    match (s.queue q).openScene with
    | some id => s.scene? p id
    | none => none
  else
    match s.runningScene p with
    | some sc => if sc.queues.contains q then some sc else none
    | none => none

/-- The descriptor table (R59, R393). -/
def State.dtabOf (s : State) (p : Nat) (sc : Option Scene) (op : Nat) : Nat :=
  match sc with
  | some c => if op = 0x01 ∨ op = 0x02 then (s.block p).dtab else c.dtab
  | none => (s.block p).dtab

/-- The cue that an instruction's qualifier counts from, with the offset of R270. -/
def State.baseCueOf (s : State) (p q : Nat) (sc : Option Scene) : Nat :=
  ((match sc with
    | some c => c.baseCue
    | none => (s.queue q).baseCue) + ((s.partition p).cueOffset : Int)).toNat

/-- The wait budget in force (R42, R393). -/
def State.waitBudget (s : State) (p : Nat) (sc : Option Scene) : Nat :=
  let d := if (s.block p).waitDefault = 0 then 100000 else (s.block p).waitDefault
  match sc with
  | some c => if c.waitBudget = 0 then d else c.waitBudget
  | none => d

/-- The hold budget of a scene (R25, R233, R239). -/
def State.holdBudget (s : State) (p : Nat) (sc : Scene) : Nat :=
  if sc.holdBudget ≠ 0 then sc.holdBudget
  else if (s.block p).holdDefault ≠ 0 then (s.block p).holdDefault else 50

/-- The reference fold of a partition (R22): its lowest-numbered. -/
def PartBlock.refFold (b : PartBlock) : Nat :=
  ((List.range 32).find? fun f => bits b.folds f 1 == 1).getD 0

/-- The cycle count of the partition's reference fold (R22, R43). -/
def State.refCycles (s : State) (p : Nat) : Nat := s.foldCycle (s.block p).refFold

/-! ## Descriptor fetches (R60) -/

/-- A queue's buffer after a fetch of entry i of a table, and whether the entry was there. The last burst of the
buffer is the one used most recently. -/
def bufferFetch (s : State) (buf : List Burst) (table i : Nat) : List Burst :=
  let n := i / 8
  match buf.find? (fun b => b.table == table && b.number == n && !b.gone.contains (i % 8)) with
  | some b => (buf.filter fun c => !(c.table == table && c.number == n)) ++ [b]
  | none =>
    let rest := buf.filter fun c => !(c.table == table && c.number == n)
    let rest := if rest.length < 4 then rest else rest.drop (rest.length - 3)
    rest ++ [⟨table, n, s.tierBytes tStacked 0 (table + 512 * n) 512, []⟩]

/-- Whether the read of entry i meets poison: it is not in the buffer and its burst is bad. -/
def fetchBad (s : State) (buf : List Burst) (table i : Nat) : Bool :=
  !(buf.any fun b => b.table == table && b.number == i / 8 && !b.gone.contains (i % 8)) &&
    s.rangeBad tStacked 0 (table + 512 * (i / 8)) 512

/-- Entry i of the buffer's most recent burst. -/
def bufferDesc (buf : List Burst) (i : Nat) : Desc :=
  match buf.getLast? with
  | some b => Desc.ofBytes (slice b.bytes (64 * (i % 8)) 64)
  | none => {}

/-- The descriptors of a list of slots (R50, R60): 0 is absent. The answer is the state with the queue's buffer
as the fetch leaves it, the descriptors, and whether a read met poison. -/
def State.fetchDescs (s : State) (q table : Nat) : List Nat → State × List (Option Desc) × Bool
  | [] => (s, [], false)
  | i :: t =>
    if i = 0 then
      let r := s.fetchDescs q table t
      (r.1, none :: r.2.1, r.2.2)
    else
      let v := s.queue q
      if fetchBad s v.buffer table i then (s, none :: t.map (fun _ => none), true)
      else
        let buf := bufferFetch s v.buffer table i
        let r := (s.setQueue q { v with buffer := buf }).fetchDescs q table t
        (r.1, some (bufferDesc buf i) :: r.2.1, r.2.2)

/-- Every buffered descriptor of a queue is discarded (R60). -/
def State.dropBuffer (s : State) (q : Nat) : State := s.setQueue q { s.queue q with buffer := [] }

/-! ## Completion records (R22) -/

/-- The 16 bytes of a completion record. -/
def completionRecord (event : Nat) (late broken phase : Bool) (count issueCue cycles : Nat) : Bytes :=
  natLE 4 (event % 2 ^ 16 + b2n late * 2 ^ 16 + b2n broken * 2 ^ 17 + b2n phase * 2 ^ 18) ++
    natLE 4 (sat (2 ^ 32 - 1) count) ++ natLE 4 (issueCue % 2 ^ 32) ++ natLE 4 (sat (2 ^ 32 - 1) cycles)

/-- PHASE of the record at index i (R22): 1 on the first pass through the ring. -/
def Queue.phase (v : Queue) (i : Nat) : Bool := i / v.size % 2 == 0

/-- Where the completion record of index i lies. -/
def Queue.cplAddr (v : Queue) (i : Nat) : Nat := v.block.cplBase + 16 * (i % v.size)

/-- The writes of stacked memory by an instruction of partition p, with what they make stale (R60, R189). -/
def State.writePart (s : State) (p tier who : Nat) (hint : Nat) (cells : List (Nat × Byte)) : State :=
  let s := s.writeCells tier who cells
  if tier = tStacked then (s.touch hint true (cells.map (·.1))).staleDescriptors p (cells.map (·.1)) else s

/-- LAST_EVENT of a queue. -/
def State.setLastEvent (s : State) (q ev : Nat) : State := s.setFld (F.queQctrlLastEvent q) ev

/-- A queue halts under HALT (R23). -/
def State.haltQueue (s : State) (q : Nat) : State := s.setFld (F.queQctrlHalted q) 1

/-- The first event raised by any queue of a scene (R27, R47). -/
def State.noteEvent (s : State) (p : Nat) (scene : Option Nat) (ev : Nat) : State :=
  if ev = 0 then s else
  match scene with
  | none => s
  | some id =>
    match s.scene? p id with
    | some sc => if sc.firstEvent = 0 then s.setScene p { sc with firstEvent := ev } else s
    | none => s

/-- One completion record written, or lost to a refused translation (R22): the queue then halts. -/
def State.writeRecord (s : State) (p q i : Nat) (rec : Bytes) : State :=
  let v := s.queue q
  if v.block.cplHost then
    if s.xlateRefuses (s.block p).fn (v.cplAddr i) 16 then
      ((s.haltQueue q).setLastEvent q Ev.xlate).raiseEvent p Ev.xlate
    else s.writeHost (s.block p).fn (v.cplAddr i) rec
  else s.writePart p tStacked 0 0 (cellsOf (v.cplAddr i) rec)

/-- Whether the packets of a list of acknowledgements have been covered (R319). -/
def State.acked (s : State) (l : List (Nat × Nat × Nat)) : Bool := l.all fun a => decide (a.2.2 ≤ (s.peerPair a.1).acked)

/-- Packets that an instruction covers: a CHAIN counts its stages (R36). -/
def Inst.span (i : Inst) : Nat := 1 + i.stages.length

/-- The instructions in flight of a queue, in issue order. -/
def State.instsOf (s : State) (q : Nat) : List Inst := s.insts.filter (·.queue == q)

end Sys2Proof.Machine
end

