-- ==== Sys2Proof/Machine/Book.lean ====
section
/-!
DEFINITION. The book (R371 to R373): its header, read-only ranges and chain ports, from its bytes.
-/

namespace Sys2Proof.Machine

/-- Whether a run of bytes is all zero. -/
def allZero (b : Bytes) : Bool := b.all (· == 0)

/-- A read-only range of a book (R371). -/
structure RoRange where
  base : Nat
  len : Nat
  tier : Nat
  clean : Bool
  deriving DecidableEq, Repr

/-- A chain port that a book declares (R371). -/
structure BookPort where
  port : Nat
  writer : Nat
  reader : Nat
  bytes : Nat
  base : Nat
  clean : Bool
  deriving DecidableEq, Repr

/-- A read-only range from its 32 bytes; clean says that its reserved bytes are 0. -/
def RoRange.ofBytes (b : Bytes) : RoRange := ⟨field b 0 8, field b 8 8, field b 0x10 1, allZero (b.drop 0x11)⟩

/-- A chain-port entry from its 32 bytes. -/
def BookPort.ofBytes (b : Bytes) : BookPort :=
  ⟨field b 0 2, field b 2 1, field b 3 1, field b 4 4, field b 8 8, allZero (b.drop 0x10)⟩

/-- The read-only ranges of a book. -/
def Book.roRanges (k : Book) : List RoRange :=
  (List.range (field k.bytes 0x18 2)).map fun i => RoRange.ofBytes (slice k.bytes (field k.bytes 0x14 4 + 32 * i) 32)

/-- The chain ports of a book. -/
def Book.ports (k : Book) : List BookPort :=
  (List.range (field k.bytes 0x1A 2)).map fun i => BookPort.ofBytes (slice k.bytes (field k.bytes 0x1C 4 + 32 * i) 32)

/-- The read-only ranges in force. -/
def State.roRanges (s : State) : List RoRange := match s.config.book with
  | some k => k.roRanges
  | none => []

/-- The chain ports in force. -/
def State.bookPorts (s : State) : List BookPort := match s.config.book with
  | some k => k.ports
  | none => []

/-- Bytes of a tier meet a read-only range (R58, R373). -/
def State.readOnly (s : State) (tier base len : Nat) : Bool :=
  s.roRanges.any fun r => r.tier == tier && overlaps base len r.base r.len

/-- The chain port that a descriptor of KIND PORT names (R373): the one with its BASE. -/
def State.portOf (s : State) (d : Desc) : Option BookPort := s.bookPorts.find? (·.base == d.base)

/-- A partition's directly addressed window: start and bytes (R233). -/
def PartBlock.directLo (b : PartBlock) : Nat := 65536 * b.directBase
def PartBlock.directLen (b : PartBlock) : Nat := 65536 * b.directSize

/-- The part of it that operands may use: all but the last 64 KiB (R188). -/
def PartBlock.directUse (b : PartBlock) : Nat := b.directLen - 65536

/-- A partition's stacked-memory window: start and bytes (R233). -/
def PartBlock.memLo (b : PartBlock) : Nat := 2 ^ 30 * b.memBase
def PartBlock.memLen (b : PartBlock) : Nat := 2 ^ 30 * b.memSize

/-- The folds that a partition owns. -/
def PartBlock.foldList (b : PartBlock) : List Nat := (List.range 32).filter fun f => bits b.folds f 1 == 1

end Sys2Proof.Machine
end

