-- ==== Sys2Proof/Machine/Send.lean ====
section
/-!
DEFINITION. What the device sends to its peers: numbered packets and their window, PEER writes and read
requests, ring and collective headers, POISON and ABSENT (R141, R146, R159 to R166, R318 to R321).
Readings of the rules that they leave open: log entry 25 (DEDUCED or DESIGN CHOICE, as the log marks each).
-/

namespace Sys2Proof.Machine

/-- The device's book digest (R159). -/
def State.digest (s : State) : Nat := s.pair .hubBookDigestLo .hubBookDigestHi

/-- The device's node address (R324). -/
def State.node (s : State) : Nat := s.fld F.oxlNodeNode

/-! ## Numbered packets (R319) -/

/-- An item of k packets to a node, on behalf of a partition: it takes the pair's next k numbers, and goes out
at once, or waits while 1,024 packets are outstanding. mk makes the item from its first number. -/
def State.sendPackets (s : State) (node part k : Nat) (mk : Nat → Out) : State :=
  let v := s.peerPair node
  let v' := { v with nextPseq := v.nextPseq + k }
  if v.backlog = [] ∧ v.nextPseq < v.acked + 1024 then (s.setPeerPair node v').emit (mk v.nextPseq)
  else s.setPeerPair node { v' with backlog := v.backlog ++ [(v.nextPseq, part, mk v.nextPseq)] }

/-- Packets below a number are acknowledged; what waited for room goes out in order. -/
def State.ackPackets (s : State) (node upto : Nat) : State :=
  let v := s.peerPair node
  let acked := max v.acked upto
  let go := v.backlog.takeWhile fun b => decide (b.1 < acked + 1024)
  let s := s.setPeerPair node { v with acked := acked, backlog := v.backlog.drop go.length }
  s.over go fun s b => s.emit b.2.2

/-- The packets of a message of n payload bytes: 16,368 bytes each, with the header before the payload (R318). -/
def messagePackets (n : Nat) : Nat := ceilDiv (64 + n) 16368

/-- The acknowledgement that a message's or write's last packet awaits: node, first number, the number after. -/
def State.nextAck (s : State) (node k : Nat) : Nat × Nat × Nat :=
  (node, (s.peerPair node).nextPseq, (s.peerPair node).nextPseq + k)

/-! ## Rosters (R54, R155, R156) -/

/-- A roster entry from its 8 bytes. -/
def RosterEntry.ofBytes (b : Bytes) : RosterEntry :=
  let w := leNat b
  ⟨bits w 0 16, bits w 16 4, bits w 20 9, bits w 29 3⟩

/-- The roster of m entries at a stacked-memory address. -/
def State.rosterAt (s : State) (a m : Nat) : List RosterEntry :=
  (List.range m).map fun r => RosterEntry.ofBytes (s.tierBytes tStacked 0 (a + 8 * r) 8)

/-- The company entries of a partition's range that are in use, by entry number. -/
def State.companiesOf (s : State) (p : Nat) : List (Nat × CompanyEntry) :=
  s.comp.companies.filter fun e =>
    within e.1 1 (s.block p).companyFirst (s.block p).companyCount && e.2.company != 65535

/-- A partition's entry for a company number. -/
def State.companyOf (s : State) (p n : Nat) : Option (Nat × CompanyEntry) :=
  (s.companiesOf p).find? fun e => e.2.company == n

/-- The company whose roster TIER PEER's ranks index (R54 names the job's roster): the job company of the
resilience block, or the lowest entry of the partition. -/
def State.jobCompany (s : State) (p : Nat) : Option CompanyEntry :=
  let lowest := (s.companiesOf p).head?.map (·.2)
  match (s.partition p).res with
  | some r => (match s.companyOf p r.jobCompany with
    | some e => some e.2
    | none => lowest)
  | none => lowest

/-- The roster in force for a partition's PEER accesses. -/
def State.jobRoster (s : State) (p : Nat) : List RosterEntry :=
  match s.jobCompany p with
  | some e => s.rosterAt e.roster e.size
  | none => []

/-! ## PEER accesses (R319, R321) -/

/-- A PEER write of bytes to a rank, cut into packets of 16,368 bytes; the answer includes what to await. -/
def State.sendPeer (s : State) (p rank addr : Nat) (bs : Bytes) : State × List (Nat × Nat × Nat) :=
  let e := (s.jobRoster p).getD rank {}
  let n := ceilDiv bs.length 16368
  (List.range n).foldl (fun acc k =>
    let s := acc.1
    let piece := slice bs (16368 * k) 16368
    (s.sendPackets e.node p 1 (fun q => .peerWrite e.node q e.part (addr + 16368 * k) piece),
      acc.2 ++ [s.nextAck e.node 1])) (s, [])

/-- A PEER read request to a rank; its packet number is its tag. -/
def State.sendRead (s : State) (p rank addr len : Nat) : State × PeerRead :=
  let e := (s.jobRoster p).getD rank {}
  let tag := (s.peerPair e.node).nextPseq % 2 ^ 32
  (s.sendPackets e.node p 1 (fun _ => .peerRead e.node tag e.part addr len),
    ⟨tag, e.node, e.part, rank, addr, len⟩)

/-! ## Header types (R141, R161) -/

def hData : Nat := 0
def hZero : Nat := 1
def hPoison : Nat := 2
def hDone : Nat := 3
def hAbsent : Nat := 4
def hCredit : Nat := 5
def hOpen : Nat := 6
def hClose : Nat := 7
def hReady : Nat := 9
def hGo : Nat := 10

/-! ## Headers as they travel (R141, R161, R321) -/

/-- The 64 bytes of a ring header of a TYPE (R141). -/
def ringBytes (h : RingHeader) (type : Nat) : Bytes :=
  natLE 8 h.bookDigest.toNat ++ natLE 8 h.collSeq.toNat ++ natLE 2 h.company.toNat ++ natLE 2 h.srcRank.toNat ++ natLE 1 type ++
    natLE 1 h.sweep.toNat ++ natLE 2 h.step.toNat ++ natLE 2 h.owner.toNat ++ natLE 2 h.reason.toNat ++
    natLE 4 h.ringDigest.toNat ++ natLE 8 h.epoch.toNat ++ natLE 4 h.tokens.toNat ++ natLE 4 h.payloadLen.toNat ++
    natLE 2 h.absentRank.toNat ++ natLE 2 h.slot.toNat ++ zeros 4 ++ natLE 8 h.sendCue.toNat

/-- The ring header of 64 bytes (R141). -/
def ringHeaderOf (b : Bytes) : RingHeader where
  bookDigest := BitVec.ofNat 64 (field b 0 8)
  collSeq := BitVec.ofNat 64 (field b 8 8)
  company := BitVec.ofNat 16 (field b 0x10 2)
  srcRank := BitVec.ofNat 16 (field b 0x12 2)
  sweep := BitVec.ofNat 8 (field b 0x15 1)
  step := BitVec.ofNat 16 (field b 0x16 2)
  owner := BitVec.ofNat 16 (field b 0x18 2)
  reason := BitVec.ofNat 16 (field b 0x1A 2)
  ringDigest := BitVec.ofNat 32 (field b 0x1C 4)
  epoch := BitVec.ofNat 64 (field b 0x20 8)
  tokens := BitVec.ofNat 32 (field b 0x28 4)
  payloadLen := BitVec.ofNat 32 (field b 0x2C 4)
  absentRank := BitVec.ofNat 16 (field b 0x30 2)
  slot := BitVec.ofNat 16 (field b 0x32 2)
  sendCue := BitVec.ofNat 64 (field b 0x38 8)

/-- The 64 bytes of a collective header of a TYPE (R161). -/
def collBytes (h : CollHeader) (type : Nat) : Bytes :=
  natLE 8 h.bookDigest.toNat ++ natLE 8 h.collSeq.toNat ++ natLE 2 h.company.toNat ++ natLE 2 h.srcRank.toNat ++ natLE 1 type ++
    natLE 1 h.opcode.toNat ++ natLE 2 h.dstRank.toNat ++ natLE 2 h.node.toNat ++ natLE 2 h.reason.toNat ++
    natLE 4 h.paramDigest.toNat ++ natLE 8 h.epoch.toNat ++ natLE 4 h.count.toNat ++ natLE 4 h.payloadLen.toNat ++
    natLE 2 h.absentRank.toNat ++ natLE 2 h.slot.toNat ++ natLE 4 h.unit.toNat ++ natLE 8 h.sendCue.toNat

/-- The collective header of 64 bytes (R161). -/
def collHeaderOf (b : Bytes) : CollHeader where
  bookDigest := BitVec.ofNat 64 (field b 0 8)
  collSeq := BitVec.ofNat 64 (field b 8 8)
  company := BitVec.ofNat 16 (field b 0x10 2)
  srcRank := BitVec.ofNat 16 (field b 0x12 2)
  opcode := BitVec.ofNat 8 (field b 0x15 1)
  dstRank := BitVec.ofNat 16 (field b 0x16 2)
  node := BitVec.ofNat 16 (field b 0x18 2)
  reason := BitVec.ofNat 16 (field b 0x1A 2)
  paramDigest := BitVec.ofNat 32 (field b 0x1C 4)
  epoch := BitVec.ofNat 64 (field b 0x20 8)
  count := BitVec.ofNat 32 (field b 0x28 4)
  payloadLen := BitVec.ofNat 32 (field b 0x2C 4)
  absentRank := BitVec.ofNat 16 (field b 0x30 2)
  slot := BitVec.ofNat 16 (field b 0x32 2)
  unit := BitVec.ofNat 32 (field b 0x34 4)
  sendCue := BitVec.ofNat 64 (field b 0x38 8)

/-- TYPE of a header of either kind (R141, R161). -/
def headerType (b : Bytes) : Nat := field b 0x14 1

/-- The virtual channel of a message (R321): control headers on VC0, DATA of a scene of priority n on VC2 + n. -/
def messageVc (type level : Nat) : Nat := if type = hData then 2 + level else 0

/-! ## Collective headers -/

/-- Who speaks in a fused collective: a member or the collective logic that relays for it (R166). -/
structure Party where
  part : Nat
  company : Nat
  seq : Nat
  rank : Nat
  size : Nat
  opcode : Nat
  roster : List RosterEntry
  epoch : Nat
  paramDigest : Nat := 0
  deriving DecidableEq, Repr

def Coll.party (c : Coll) (p : Nat) : Party :=
  ⟨p, c.company, c.seq, c.rank, c.size, c.opcode, c.roster, c.epoch, c.paramDigest⟩

def Relay.party (r : Relay) : Party := ⟨r.part, r.company, r.seq, r.rank, r.size, r.opcode, r.roster, r.epoch, r.paramDigest⟩

/-- A collective message to a roster entry (R161); an ABSENT that is relayed keeps its SEND_CUE (R266). -/
def State.sendCollTo (s : State) (t : Party) (e : RosterEntry) (dst type : Nat) (payload : Bytes := []) (count unit reason : Nat := 0)
    (absent node : Nat := 65535) (slot : Nat := 0) (cue : Option Nat := none) (level : Nat := 0) : State :=
  let hdr : CollHeader :=
    { bookDigest := BitVec.ofNat 64 s.digest, collSeq := BitVec.ofNat 64 t.seq, company := BitVec.ofNat 16 t.company,
      srcRank := BitVec.ofNat 16 t.rank, opcode := BitVec.ofNat 8 t.opcode, dstRank := BitVec.ofNat 16 dst,
      node := BitVec.ofNat 16 node, reason := BitVec.ofNat 16 reason, paramDigest := BitVec.ofNat 32 t.paramDigest,
      epoch := BitVec.ofNat 64 t.epoch, count := BitVec.ofNat 32 count,
      payloadLen := BitVec.ofNat 32 payload.length, absentRank := BitVec.ofNat 16 absent,
      slot := BitVec.ofNat 16 slot, unit := BitVec.ofNat 32 unit, sendCue := BitVec.ofNat 64 (cue.getD s.time.cue) }
  s.sendPackets e.node t.part (messagePackets payload.length) (fun _ => .message e.node e.part (messageVc type level) (collBytes hdr type ++ payload))

/-- A collective message to a rank (R161). -/
def State.sendColl (s : State) (t : Party) (dst type : Nat) (payload : Bytes := []) (count unit reason : Nat := 0)
    (absent node : Nat := 65535) (slot : Nat := 0) (cue : Option Nat := none) (level : Nat := 0) : State :=
  s.sendCollTo t (t.roster.getD dst {}) dst type payload count unit reason absent node slot cue level

/-- The parent of a position in the closing tree (R162). -/
def treeParent (j : Nat) : Option Nat := if j = 0 then none else some ((j - 1) / 2)

/-- The children of a position in the closing tree of m members. -/
def treeChildren (j m : Nat) : List Nat := [2 * j + 1, 2 * j + 2].filter (· < m)

/-- The tree neighbours of a party, except one rank. -/
def Party.tree (t : Party) (except' : Option Nat) : List Nat :=
  ((treeParent t.rank).toList ++ treeChildren t.rank t.size).filter fun r => some r != except'

/-- The members that a member exchanges data with (R166): a rank that a malformed list names beyond the company is no member. -/
def Coll.partners (c : Coll) : List Nat :=
  let others := (List.range c.size).filter (· != c.rank)
  match c.opcode with
  | 0x11 => (c.dests ++ c.sources).eraseDups.filter others.contains
  | 0x13 => c.sources.filter others.contains
  | 0x12 => others
  | _ => if c.experts.contains c.rank then others else others.filter c.experts.contains

/-- The same header to several ranks. -/
def State.sendCollAll (s : State) (t : Party) (ranks : List Nat) (type : Nat) (reason : Nat := 0)
    (absent : Nat := 65535) (cue : Option Nat := none) : State :=
  s.over ranks fun s r => s.sendColl t r type [] 0 0 reason absent 65535 0 cue

/-- POISON of a member that ends early: to its parent, its children and its partners (R166). -/
def State.poisonColl (s : State) (p : Nat) (c : Coll) (reason : Nat) : State :=
  s.sendCollAll (c.party p) (((c.party p).tree none ++ c.partners).eraseDups) hPoison reason

/-- The device's collective logic takes over the tree of a member that left (R166). -/
def State.addRelay (s : State) (r : Relay) : State := s.setComp { s.comp with relays := s.comp.relays ++ [r] }

/-- The relay of a member that leaves: zero says that it left with a zero shape (R165). -/
def Coll.relay (c : Coll) (p event : Nat) (zero : Bool) : Relay :=
  { part := p, company := c.company, seq := c.seq, rank := c.rank, size := c.size, opcode := c.opcode,
    roster := c.roster, epoch := c.epoch, paramDigest := c.paramDigest, event := event, readyFrom := c.readyFrom, zero := zero, poisoned := !zero }

/-! ## Ring headers -/

/-- A ring message to a logical rank (R141). -/
def State.sendRing (s : State) (p : Nat) (r : Ring) (dst type : Nat) (payload : Bytes := []) (sweep step owner : Nat := 0)
    (reason : Nat := 0) (absent : Nat := 65535) (slot : Nat := 0) (cue : Option Nat := none) (level : Nat := 0) : State :=
  let e := r.roster.getD dst {}
  let hdr : RingHeader :=
    { bookDigest := BitVec.ofNat 64 s.digest, collSeq := BitVec.ofNat 64 r.seq, company := BitVec.ofNat 16 r.company,
      srcRank := BitVec.ofNat 16 (r.ranks.getD r.pos 0), sweep := BitVec.ofNat 8 sweep, step := BitVec.ofNat 16 step,
      owner := BitVec.ofNat 16 owner, reason := BitVec.ofNat 16 reason, ringDigest := BitVec.ofNat 32 r.ringDigest,
      epoch := BitVec.ofNat 64 r.epoch, tokens := BitVec.ofNat 32 r.t,
      payloadLen := BitVec.ofNat 32 payload.length, absentRank := BitVec.ofNat 16 absent,
      slot := BitVec.ofNat 16 slot, sendCue := BitVec.ofNat 64 (cue.getD s.time.cue) }
  s.sendPackets e.node p (messagePackets payload.length) (fun _ => .message e.node e.part (messageVc type level) (ringBytes hdr type ++ payload))

/-- The rank of the next and of the previous ring position (R138). -/
def Ring.next (r : Ring) : Nat := r.ranks.getD ((r.pos + 1) % r.ranks.length) 0
def Ring.prev (r : Ring) : Nat := r.ranks.getD ((r.pos + r.ranks.length - 1) % r.ranks.length) 0

/-- The direction of the data (R138, R147): the drove direction forward, the drove return backward. -/
def Ring.down (r : Ring) : Nat := if r.bwd then r.prev else r.next
def Ring.up (r : Ring) : Nat := if r.bwd then r.next else r.prev

/-- A DONE from every other member is held (R136). -/
def Ring.allDone (r : Ring) : Bool := decide (r.ranks.length ≤ r.doneFrom.length + 1)

/-- The ring neighbours of a member: none alone, one in a ring of two. -/
def Ring.neighbours (r : Ring) : List Nat :=
  if r.ranks.length ≤ 1 then [] else [r.next, r.prev].eraseDups

/-! ## The schedule of a ring (R138, R139, R147) -/

/-- The number of ring members. -/
def Ring.n (r : Ring) : Nat := r.ranks.length

/-- The scheduled cue of the next step (R139, R147). -/
def Ring.scheduled (r : Ring) : Nat :=
  if r.bwd then r.origin + r.step * r.stepBudget
  else if r.sweep = 0 then r.origin + r.step * r.boundBudget
  else r.origin + r.n * r.boundBudget + r.step * r.stepBudget

/-- The owner whose block the next step works on (R138, R147). -/
def Ring.stepOwner (r : Ring) : Nat :=
  if r.bwd then (r.pos + r.step) % max 1 r.n else (r.pos + r.n - r.step) % max 1 r.n

/-- The slot that holds the next step's block. -/
def Ring.stepSlot (r : Ring) : Option (Nat × RingSlot) :=
  r.slots.find? fun x => x.2.sweep == r.sweep && x.2.block.owner == r.stepOwner && !x.2.computed

/-- From when the next step could begin but for its block (R139). -/
def Ring.ready (r : Ring) : Nat := max r.scheduled r.lastCue

/-- The next step waits for its block. -/
def Ring.awaitsBlock (r : Ring) : Bool := !r.inStep && !r.finished && r.step != 0 && r.stepSlot.isNone

/-- What waits to be sent waits for a credit (R140). -/
def Ring.awaitsCredit (r : Ring) : Bool := !r.toSend.isEmpty && r.credits.isEmpty

/-- A ring with the waits that are open at a cue counted in (R143). -/
def Ring.countWaits (r : Ring) (cue : Nat) : Ring :=
  { r with waitData := r.waitData + (if r.awaitsBlock then cue - r.ready else 0)
           waitCredit := r.waitCredit + (if r.awaitsCredit then cue - r.creditSince else 0) }

/-- A pre-emption point reached by a queue of the scene, or left again (R30, R144). -/
def State.setPoint (s : State) (i : Inst) (point : Option Nat) : State :=
  match i.scene.bind (s.scene? i.part) with
  | none => s
  | some sc =>
    let rest := sc.points.filter fun x => x.1 != i.queue
    s.setScene i.part { sc with points := match point with
      | some n => rest ++ [(i.queue, n)]
      | none => rest }

/-- The point that a ring instruction offered at its step boundaries is left when the instruction ends (R144). -/
def State.leavePoint (s : State) (i : Inst) (r : Ring) : State := s.when (r.preemptPoint ≠ 65535) (·.setPoint i none)

/-- One header in both ring directions (R136, R145, R146). -/
def State.sendRingBoth (s : State) (p : Nat) (r : Ring) (type : Nat) (reason : Nat := 0) (absent : Nat := 65535) : State :=
  s.over r.neighbours fun s d => s.sendRing p r d type [] r.sweep r.step 0 reason absent

end Sys2Proof.Machine
end

