-- ==== Sys2Proof/Machine/Records.lean ====
section
/-!
DEFINITION. The ledger's records (R299 to R301, R304): their slots, the shadow image, what begins a record, the history, and sparing
actions (R253).
Readings of the rules that they leave open: log entry 38 (DEDUCED or DESIGN CHOICE, as the log marks each).
-/

namespace Sys2Proof.Machine

/-! ## Records (R299 to R301) -/

/-- The slot of record n: bank n mod 2, index ⌊n / 2⌋ mod 16, as bank × 16 + index (R299). -/
def slotOf (n : Nat) : Nat := n % 2 * 16 + n / 2 % 16

/-- A slot of the ledger. -/
def State.slot (s : State) (k : Nat) : LedgerSlot := tblGet {} s.ledg.slots k

/-- A slot replaced. -/
def State.setSlot (s : State) (k : Nat) (v : LedgerSlot) : State :=
  s.setLedg { s.ledg with slots := tblSet {} s.ledg.slots k v }

/-- The current record's sequence number. -/
def State.ledgerSeq (s : State) : Nat := s.pair .ldgSeqLo .ldgSeqHi

/-- Numbers as bytes, for a digest. -/
def nums (l : List Nat) : Bytes := l.flatMap (natLE 8)

/-- A history entry as bytes, for a digest. -/
def HistoryEntry.code' (h : HistoryEntry) : Bytes := nums [h.cue, h.code, h.unit, h.detail]

/-- The contents of a persistent image, as what its CRC depends on. -/
def Image.digestBytes (m : Image) : Bytes :=
  nums ([m.bootCount, m.curtainCount, m.wayStatus.toNat] ++ m.waysOut ++ m.mapped ++ m.failed) ++
    (m.folds.flatMap fun x => nums [x.1, x.2.toNat]) ++ (m.laneMap.flatMap fun x => nums [x.1, x.2]) ++
    (m.limits.flatMap fun x => nums [x.1, x.2.toNat]) ++ (m.rowRepl.flatMap fun r => nums [r.cluster, r.spare, r.row]) ++
    m.history.flatMap HistoryEntry.code' ++
    nums ([m.curtain.cause, m.curtain.unit, m.curtain.cue, m.curtain.vhold, m.curtain.flow] ++ m.curtain.currents ++ m.curtain.temps.map BitVec.toNat) ++
    (m.curtain.restarts.flatMap fun r => nums [r.failed, r.understudy]) ++ m.curtain.events.flatMap HistoryEntry.code' ++
    m.curtain.log.flatMap HistoryEntry.code'

/-- The CRC-32C of a record's header and payload (R300). -/
def LedgerSlot.crc (r : LedgerSlot) : Word32 :=
  Config.recordCrc r.seq
    (nums [r.seq, r.magic.toNat, r.length, r.kind, r.cue, r.bookDigest.toNat, r.part.toNat] ++ r.image.digestBytes)

/-- A record with its CRC word and its commit word (R300). -/
def LedgerSlot.seal (r : LedgerSlot) : LedgerSlot :=
  let c := r.crc
  { r with crcLo := c, crcHi := ~~~c, commitLo := BitVec.ofNat 32 r.seq, commitHi := c }

/-- A committed slot (R302). -/
def LedgerSlot.committed (r : LedgerSlot) : Bool :=
  r.magic == 0x4C470001 && r.length == 258048 && r.commitLo == BitVec.ofNat 32 r.seq && r.commitHi == r.crcLo && r.crcLo == r.crc &&
    r.crcHi == ~~~r.crcLo

/-- The shadow image with the sparing state of the registers (R304). Of SHP.WDOG it keeps the limit, TIMEOUT, alone. -/
def State.imageNow (s : State) : Image :=
  let word (r : Reg) := (r.addr, s.word r)
  { s.ledg.shadow with
    folds := (List.range 32).map fun f => (f, s.word (.fldStatus f))
    wayStatus := s.word .cacStatus, waysOut := s.mem.waysOut, mapped := s.spare.mappedOut, failed := s.spare.failed
    laneMap := ((List.range 16).filter fun p => s.flag (F.oxlPortStatUnderstudy p)).map fun p => (p, s.fld (F.oxlPortStatSparedLane p))
    limits := [word .shpTlimits, word .shpFlimits, (Reg.shpWdog.addr, BitVec.ofNat 32 (s.fld F.shpWdogTimeout)), word .cacLimits,
      word .hbcLimits] }

/-- A record of number n as it is to stand, with an image (R300). -/
def State.recordOf (s : State) (n kind : Nat) (m : Image) : LedgerSlot :=
  { seq := n, magic := 0x4C470001, length := 258048, kind := kind, cue := s.time.cue, bookDigest := BitVec.ofNat 64 s.digest
    part := BitVec.ofNat 64 s.serial, image := m }

/-- A record's write begins (R301): one at a time; a change that arrives during a write waits for the next record. None is
begun before recovery, in a stop, or while VHOLD holds the controller. -/
def State.beginRecord (s : State) (kind : Nat) : State :=
  let m := s.imageNow
  let s := s.setLedg { s.ledg with shadow := m }
  if s.ledg.held = true ∨ s.shep.savesEnabled = false ∨ s.running = false then s
  else if s.ledg.write.isSome then s.setLedg { s.ledg with again := true }
  else
    let n := s.ledgerSeq + 1
    let w : LedgerWrite := ⟨slotOf n, s.recordOf n kind m⟩
    (s.setLedg { s.ledg with write := some w }).setFld F.ldgStatusBusy 1

/-! ## History (R304) -/

/-- A safety or sparing event enters the history: the last 4,096. Its detail, which no rule gives, is free. -/
def State.noteHistory (s : State) (code unit : Nat) : State :=
  let d := s.drawNat
  let s := d.2
  let e : HistoryEntry := ⟨s.time.cue, code, unit, d.1⟩
  let h := (s.ledg.shadow.history ++ [e]).reverse.take 4096
  s.setLedg { s.ledg with shadow := { s.ledg.shadow with history := h.reverse } }

/-- The number of a repair unit within its kind. -/
def RepairUnit.number : RepairUnit → Nat
  | .cluster n => n
  | .channel n => n
  | .port n => n
  | .slice n => n
  | .stack n => n

/-- A request for repair work: at most one entry for a unit (R337). -/
def State.queueRepair (s : State) (u : RepairUnit) : State :=
  if u ∈ s.prom.repairs then s else s.setProm { s.prom with repairs := s.prom.repairs ++ [u] }

/-- A sparing action in the ledger (R253, R301): its history entry, whose code no rule gives and is free, and a record of kind
SPARING. -/
def State.recordSparing (s : State) (unit : Nat) : State :=
  let d := s.drawNat
  (d.2.noteHistory (d.1 % 65536) unit).beginRecord 2

/-- A sparing action of a unit that the Prompter has work for (R253, R336). -/
def State.spared (s : State) (u : RepairUnit) : State := (s.recordSparing u.number).queueRepair u

end Sys2Proof.Machine
end

