-- ==== Sys2Proof/Machine/Ending.lean ====
section
/-!
DEFINITION. How holds are broken, instructions end early and partitions are reset (R166, R240 to R247).
-/

namespace Sys2Proof.Machine

/-! ## Gates (R38, R241, R242) -/

/-- The tag word of a gate written, when the partition has a tag area: bytes 0 to 3 the epoch, bytes 4 to 7 the
epoch of the last broken hold (R241). -/
def State.tagWord (s : State) (p g : Nat) : State :=
  let b := s.block p
  if b.tagOff = 0xFFFFFFFF then s
  else s.writeTier tCache 0 (b.directLo + b.tagOff + 8 * g) (natLE 4 (s.gate p g).epoch ++ natLE 4 (s.gate p g).brokenEpoch)

/-- One unit returned to a gate (R38). -/
def State.releaseGate (s : State) (p g : Nat) : State :=
  s.setGate p g { s.gate p g with count := sat 65535 ((s.gate p g).count + 1) }

/-- A broken hold (R242): its unit returns to the count, the gate is marked, and its epoch is recorded. -/
def State.breakHold (s : State) (p : Nat) (h : Hold) : State :=
  let g := s.gate p h.gate
  let s := s.setGate p h.gate { g with count := sat 65535 (g.count + 1), broken := true, brokenEpoch := h.epoch }
  s.tagWord p h.gate

/-- Every hold of a list broken. -/
def State.breakHolds (s : State) (p : Nat) (hs : List Hold) : State := s.over hs fun s h => s.breakHold p h

/-- An acquisition that ends without its gate waits on it no longer (R42, R240). -/
def State.leaveGate (s : State) (i : Inst) : State :=
  match i.wait with
  | .gate g => s.setGate i.part g { s.gate i.part g with waiters := (s.gate i.part g).waiters.filter (· != i.queue) }
  | _ => s

/-! ## An instruction's early ending -/

/-- The clusters of a partition, in logical order (R79). -/
def State.clustersOf (s : State) (p : Nat) : List Nat := (s.partition p).clusters

/-- The extents that an early ending leaves undefined: a fused collective's only after GO (R166), but for a RECV into which a
member ahead of it has sent already, a ring instruction's none (R136), any other instruction's outputs (R85, R240, R246). -/
def Inst.lostOuts (i : Inst) : List Extent :=
  match i.coll with
  | some c =>
    if c.go then i.outs.filter fun e => !c.keep.contains e
    else if c.got.isEmpty then []
    else (((i.auxDescs[2]?).join).toList.map Desc.toExtent).filter i.outs.contains
  | none => if i.ring.isSome then [] else i.outs

/-- What an instruction leaves behind when it ends early. -/
def State.loseOuts (s : State) (i : Inst) : State :=
  s.over i.lostOuts fun s e => s.undefineExtent (s.block i.part).fn (s.clustersOf i.part) e

/-- POISON of an instruction that ends early (R145, R166); a collective that has been closed sends none. -/
def State.poisonInst (s : State) (i : Inst) (reason : Nat) : State :=
  match i.coll with
  | some c => if c.closed then s else s.poisonColl i.part c reason
  | none =>
    match i.ring with
    | some r => if r.allDone then s else s.sendRingBoth i.part r hPoison reason
    | none => s

/-- The fused collectives of a CHAIN's stages that have not started. -/
def Inst.laterColls (i : Inst) : List Coll := (i.stages.drop (i.stageNo + 1)).flatMap fun t => t.coll.toList

/-- A CHAIN that ends before its later stages started leaves their collectives: POISON, and the collective logic
relays for them (R36, R166). -/
def State.leaveLater (s : State) (i : Inst) (reason : Nat) : State :=
  s.over i.laterColls fun s c => (s.poisonColl i.part c reason).addRelay (c.relay i.part reason false)

/-! ## Partition reset (R246) -/

/-- A queue disabled by a reset, its head at its first unretired packet. -/
def State.resetQueue (s : State) (q : Nat) : State :=
  let v := s.queue q
  let head := match s.instsOf q with
    | i :: _ => i.index
    | [] => v.head
  let s := s.setFld (F.queQctrlEn q) 0
  s.setQueue q { v with head := head, openScene := none, nextScenes := [], held := [], buffer := [], areaWait := false
                        runOrder := v.runOrder.filter fun e => e.status == .started }

/-- The local stores of a partition's folds, understudies included, read as zero (R234, R246). -/
def State.zeroLocal (s : State) (folds : List Nat) : State :=
  let keep := fun (cl : Nat) => !folds.contains (cl / 66)
  s.setMem { s.mem with
    loc := s.mem.loc.filter fun c => keep (c.1 / localBytes)
    locPoison := s.mem.locPoison.filter fun k => keep (16 * k / localBytes) }

/-- The claim counters and chain-port credit words of a partition's window, zeroed (R188, R246). -/
def State.zeroClaims (s : State) (b : PartBlock) : State :=
  let lo := b.directLo + b.directUse
  s.setMem { s.mem with
    cache := s.mem.cache.filter fun c => !within c.1 1 lo 65536
    cachePoison := s.mem.cachePoison.filter fun k => !within (8 * k) 1 lo 65536 }

/-- The partition's chain ports marked BROKEN for their other side, and emptied (R37). The mark stands until a stage of that side
comes to the port (DESIGN CHOICE, log entry 28). -/
def State.breakPorts (s : State) (p : Nat) : State :=
  s.over (s.bookPorts.filter fun b => b.writer == p || b.reader == p) fun s b =>
    let other := if b.writer = p then b.reader else b.writer
    s.setChainPort b.port { fill := [], brokenFor := other :: (s.chainPort b.port).brokenFor.filter fun x => x != p && x != other }

/-- The packets of a partition that have not been transmitted, discarded (R246, R320, R323). -/
def State.dropPackets (s : State) (p : Nat) : State :=
  let own := fun (x : Queued) => x.packet.route.part.toNat == p && x.packet.route.src.toNat == s.node && x.origin.isNone
  let s := s.setLink { s.link with
    waiting := s.link.waiting.filter fun x => !own x
    ports := s.link.ports.filterMap fun e =>
      let v := { e.2 with queue := e.2.queue.filter fun x => !own x }
      if v = {} then none else some (e.1, v) }
  s.over (s.link.pairs.map (·.1)) fun s n =>
    s.setPeerPair n { s.peerPair n with backlog := (s.peerPair n).backlog.filter fun b => b.2.1 != p }

/-- Instructions in flight abandoned (R246): POISON with REASON 0x0000, the collective logic takes over the
tree, output extents undefined, no completion record. -/
def State.abandonInst (s : State) (i : Inst) : State :=
  let s := (s.poisonInst i 0).leaveLater i 0
  let s := s.when (i.wait = .visible) (·.releaseGate i.part i.pkt.imm)
  let s := match i.coll with
    | some c => if c.closed then s else s.addRelay (c.relay i.part Ev.peerPoison false)
    | none => s
  s.loseOuts i

/-- Every gate of a partition loses its waiters (R246). -/
def State.dropWaiters (s : State) (p : Nat) : State :=
  s.setPartition p { s.partition p with
    gates := (s.partition p).gates.filterMap fun e =>
      let g := { e.2 with waiters := [] }
      if g = {} then none else some (e.1, g) }

/-- The queues of a partition that have anything to reset. -/
def State.queuesOf (s : State) (p : Nat) : List Nat :=
  ((List.range (s.block p).queueCount).map ((s.block p).queueFirst + ·)).filter fun q => s.qOn q || s.queues.any fun e => e.1 == q

/-- The effects of a partition reset but for the packets not yet transmitted (R246); STATE reads RESETTING until PAR_RESET_DONE
(R247). -/
def State.resetWork (s : State) (p : Nat) (disables : Bool) : State :=
  let b := s.block p
  let holds := (s.partition p).scenes.flatMap (·.held) ++ (s.queuesOf p).flatMap fun q => (s.queue q).held
  let s := s.over (s.insts.filter (·.part == p)) State.abandonInst
  let s := s.breakPorts p
  let s := s.dropWaiters p
  let s := s.breakHolds p holds
  let s := s.over (s.queuesOf p) State.resetQueue
  let s := s.setInsts (s.insts.filter (·.part != p))
  let s := s.setPartition p { s.partition p with hurdles := [], scenes := [], resetDisables := disables }
  let s := s.zeroLocal b.foldList
  let s := s.zeroClaims b
  s.setFld (F.parStatusState p) 2

/-- The effects of a partition reset (R246): the packets that wait are discarded before the reset's own POISON is sent. -/
def State.resetPartition (s : State) (p : Nat) (disables : Bool) : State := (s.dropPackets p).resetWork p disables

/-- A trigger of a partition reset (R245): none on a partition whose EN is 0 or that is RESETTING. -/
def State.triggerReset (s : State) (p : Nat) (disables : Bool := false) : State :=
  if s.flag (F.parCtrlEn p) ∧ s.fld (F.parStatusState p) ≠ 2 then s.resetPartition p disables else s

/-! ## Withdrawal (R258) -/

/-- The company entry of the job company of a partition's resilience block. -/
def State.jobEntry (s : State) (p : Nat) : Option CompanyEntry :=
  match (s.partition p).res with
  | some r => (s.companyOf p r.jobCompany).map (·.2)
  | none => none

/-- An ABSENT header naming a rank, to every other member of the job company (R258, R266): as a collective
header of the job company with the entry's sequence number. -/
def State.sendAbsent (s : State) (p rank : Nat) : State :=
  match s.jobEntry p with
  | none => s
  | some e =>
    let t : Party := ⟨p, e.company, e.collSeq, e.rank, e.size, 0, s.rosterAt e.roster e.size, e.epoch, 0⟩
    s.when (e.rank ≠ noRank) fun s => s.sendCollAll t ((List.range e.size).filter (· != e.rank)) hAbsent Ev.cueSlip rank

/-- The enabled partitions with a resilience block whose job this device still serves: not one that has withdrawn, nor one that a
roster plan has removed from the job company (R273). -/
def State.jobPartitions (s : State) : List Nat :=
  (List.range 16).filter fun p => s.flag (F.parCtrlEn p) && (s.partition p).res.isSome && s.fld (F.parRstatusPhase p) != 7 &&
    (s.jobEntry p).all (·.rank != noRank)

/-- A partition's part in a withdrawal (R258): ABSENT with the device's own rank, a reset with EN kept, PHASE WITHDRAWN. What waits
to be transmitted is discarded by the reset, but for the ABSENT. -/
def State.withdrawPart (s : State) (p : Nat) : State :=
  let resets := s.flag (F.parCtrlEn p) && s.fld (F.parStatusState p) != 2
  let s := s.when (resets = true) (·.dropPackets p)
  let s := match s.jobEntry p with
    | some e => s.sendAbsent p e.rank
    | none => s
  (s.when (resets = true) (·.resetWork p false)).setFld (F.parRstatusPhase p) 7

/-- The device withdraws from every job it serves (R258): each of the jobs' partitions, the ledger's record of the sparing action
(R253), and E_WITHDRAWN. A SUSPENDED partition is left for a disable and a new enable only (R276). -/
def State.withdraw (s : State) : State :=
  let ps := s.jobPartitions.filter fun p => s.fld (F.parRstatusPhase p) != 5
  if ps = [] then s else ((s.over ps State.withdrawPart).recordSparing s.node).raiseGlobal Ev.withdrawn

/-! ## Absences (R266, R276) -/

/-- The succession list of a resilience block (R259). -/
def State.successionOf (s : State) (r : ResBlock) : List RosterEntry := s.rosterAt r.succ r.succCount

/-- The enabled partitions of this device that serve the same job as p: those whose job company is p's. -/
def State.jobOf (s : State) (p : Nat) : List Nat :=
  match (s.partition p).res with
  | none => []
  | some r => s.jobPartitions.filter fun x => ((s.partition x).res.map (·.jobCompany)) == some r.jobCompany

/-- The node that an ABSENT means: one sent before the decision decided last names ranks as they stood before it. -/
def Replay.meant (r : Replay) (node cue : Nat) : Nat :=
  if cue < r.decided then ((r.moved.find? (·.1 == node)).map (·.2)).getD node else node

/-- An ABSENT held already, or decided upon. -/
def Replay.repeats (r : Replay) (node cue : Nat) : Bool :=
  r.absents.any (·.1 == node) || (decide (cue < r.decided) && r.lastSet.contains node)

/-- An ABSENT relayed on the job company's closing tree and to the succession list, but for this device itself (R266). A standby
device has no place in the tree. -/
def State.relayAbsent (s : State) (p : Nat) (r : ResBlock) (e : CompanyEntry) (rank cue : Nat) : State :=
  let t : Party := ⟨p, e.company, e.collSeq, e.rank, e.size, 0, s.rosterAt e.roster e.size, e.epoch, 0⟩
  let s := if r.standby then s else s.sendCollAll t (t.tree none) hAbsent Ev.cueSlip rank (some cue)
  let me := s.node
  s.over ((s.successionOf r).filter (·.node != me)) fun s x =>
    s.sendCollTo t x 65535 hAbsent [] 0 0 Ev.cueSlip rank 65535 0 (some cue)

/-- A partition of the job holds the absence of a node (R266): a round begins with the first, and PHASE reads SETTLING. -/
def State.noteAbsent (s : State) (node cue p : Nat) : State :=
  let v := s.partition p
  let ph := s.fld (F.parRstatusPhase p)
  if ph = 5 ∨ ph = 7 ∨ v.replay.absents.any (·.1 == node) then s
  else (s.setPartition p { v with replay := { v.replay with absents := v.replay.absents ++ [(node, cue)] } }).setFld (F.parRstatusPhase p) 1

/-- A device holds an ABSENT of a company of a job (R258, R266): one that names it makes it withdraw; a repeat is ignored. -/
def State.holdAbsent (s : State) (p company rank cue : Nat) : State :=
  let v := s.partition p
  let ph := s.fld (F.parRstatusPhase p)
  match s.companyOf p company with
  | none => s
  | some e =>
    match (s.rosterAt e.2.roster e.2.size)[rank]? with
    | none => s
    | some x =>
      let node := v.replay.meant x.node cue
      if s.flag (F.parCtrlEn p) = false ∨ ph = 5 ∨ ph = 7 ∨ v.replay.repeats node cue then s
      else if node = s.node then s.withdraw
      else
        match v.res, s.jobEntry p with
        | some r, some job =>
          if job.rank = noRank then s
          else
            let s := match (s.rosterAt job.roster job.size).findIdx? (·.node == x.node) with
              | some k => s.relayAbsent p r job k cue
              | none => s
            s.over (s.jobOf p) (State.noteAbsent · node cue)
        | _, _ => s

end Sys2Proof.Machine
end

