-- ==== Sys2Proof/Machine/Retire.lean ====
section
/-!
DEFINITION. Retirement (R22, R23, R27, R47): completion records, interrupts, the fault policy, the scene's
first event, and the withdrawal that some events bring (R258).
-/

namespace Sys2Proof.Machine

/-- Cycles of the reference fold in one cue at its present clock (R22): clocks are in units of 10 MHz. -/
def State.cyclesPerCue (s : State) (p : Nat) : Nat := 10 * s.foldClock (s.block p).refFold

/-- The reference fold's cycles since a count taken earlier: whole cues are counted, the part below a cue at
both ends is free. -/
def State.cyclesSince (s : State) (p start : Nat) : Nat × State :=
  let d := s.drawNat
  let c := s.cyclesPerCue p
  (s.refCycles p - start + d.1 % (2 * c + 1) - c, d.2)

/-- Whether an event of partition p makes the device withdraw (R258). -/
def State.withdraws (s : State) (p ev : Nat) : Bool :=
  ev == Ev.chanMapped || (s.partition p).res.isSome && (ev == Ev.residue || ev == Ev.eccUncorr)

/-- The records of an instruction: one, or one for the CHAIN packet and each of its stages (R36). -/
def Inst.records (i : Inst) (count : Nat) : List (Nat × Nat) :=
  (0, if i.stages = [] then count else ((i.stages.getLast?.map (·.count)).getD 0)) ::
    ((i.stages.zip (List.range i.stages.length)).map fun t => (t.2 + 1, t.1.count))

/-- An instruction retires with an event and a COUNT (R22, R23): its records, its interrupt, LAST_EVENT, the
scene's first event, and under HALT the halt. LAST_EVENT reads the instruction's own event, or E_XLATE where a record of it is
lost. halts says that the event may halt its queue (R27, R242). -/
def State.retireWith (s : State) (i : Inst) (event count : Nat) (halts : Bool) : State :=
  let c := s.cyclesSince i.part i.issueCycles
  let s := c.2
  let blk := (s.queue i.queue).block
  let s := (s.dropInst i.queue i.index).when (event ≠ 0) (·.setLastEvent i.queue event)
  let s := s.over (i.records count) fun s r =>
    let idx := (i.index + r.1) % 2 ^ 32
    s.writeRecord i.part i.queue idx
      (completionRecord event i.late i.broken ((s.queue i.queue).phase idx) r.2 i.issueCue c.1)
  let irq := i.pkt.irq || i.chainIrq || i.stages.any fun t => t.pkt.irq
  let s := s.when (blk.irqEach || irq) (·.raiseVector i.part blk.vector)
  let s := s.noteEvent i.part i.scene event
  let s := s.when (event ≠ 0 ∧ halts ∧ blk.contin = false) (·.haltQueue i.queue)
  s.when (s.withdraws i.part event) State.withdraw

/-- An instruction retires as any but SCENE.END and a broken GATE.ACQ does. -/
def State.retire (s : State) (i : Inst) (event count : Nat) : State := s.retireWith i event count true

/-- An understudy is being brought in for a cluster that failed under an instruction (R84, R255). -/
def State.restarting (s : State) (i : Inst) : Bool :=
  s.spare.restarts.any fun r => r.queue == i.queue && r.index == i.index

/-- Whether an instruction may retire now: nothing left to wait for, its writes made and its packets acknowledged, no step of
its whose check failed left to replay, no cluster of its being replaced, and no earlier instruction of its queue in flight (R22,
R77, R83, R84). -/
def State.mayRetire (s : State) (i : Inst) : Bool :=
  decide (i.wait = .none) && s.acked i.acks && i.held.isEmpty && i.failedOn.isEmpty && !s.restarting i &&
    (match s.instsOf i.queue with
     | x :: _ => x.index == i.index
     | [] => false)

/-- The 64 bytes of a ring status record (R143). -/
def ringStatus (r : Ring) (event : Nat) : Bytes :=
  let w (v : Nat) := natLE 4 (sat (2 ^ 32 - 1) v)
  natLE 8 r.firstCue ++ natLE 8 r.lastCue ++ w r.maxSlip ++ w r.totalSlip ++ w r.waitData ++ w r.waitCredit ++
    w r.pairsSkipped ++ natLE 2 (sat 65535 r.stepsLate) ++ natLE 2 (sat 65535 r.preemptions) ++ natLE 2 r.absentRank ++
    natLE 2 event ++ zeros 20

/-- A collective with its waits counted up to a cue (R143, R174): for DATA from GO while a unit named by a sender or an OPEN is
missing, for credits while a unit of its own stands unsent; begun says which waits go on. -/
def Coll.countWaits (c : Coll) (cue : Nat) (data credit : Bool) : Coll :=
  let since (t : Option Nat) := (t.map (cue - ·)).getD 0
  { c with waitData := c.waitData + since c.dataSince, waitCredit := c.waitCredit + since c.creditSince
           dataSince := if data then some cue else none, creditSince := if credit then some cue else none }

/-- The status record of a fused collective (R174), as it ends now. -/
def collStatus (i : Inst) (c : Coll) (cue event : Nat) : Bytes :=
  let late := cue - (i.issueCue + c.budget)
  let c := c.countWaits cue false false
  ringStatus { waitData := c.waitData, waitCredit := c.waitCredit, firstCue := c.goCue, lastCue := cue, maxSlip := late, totalSlip := late, stepsLate := if late = 0 then 0 else 1
               pairsSkipped := c.dropped, absentRank := c.absentRank } event

/-- A status record written at a STATUS operand, when there is one: what it sends to a peer is to be acknowledged, and
a refused access writes none (R143, R174). -/
def State.writeStatus (s : State) (i : Inst) (d : Option Desc) (bs : Bytes) : State × List (Nat × Nat × Nat) :=
  match d with
  | none => (s, [])
  | some d =>
    let who := d.who (s.block i.part).fn ((s.clustersOf i.part).headD 0)
    if d.tier = tPeer then s.sendPeer i.part d.rank d.base bs
    else if s.writeEvent d.tier who d.base 64 = 0 then (s.writePart i.part d.tier who d.hint (cellsOf d.base bs), [])
    else (s, [])

/-- The status record of a ring instruction: STATUS is the sixth index of its block (R126). -/
def State.writeRingStatus (s : State) (i : Inst) (r : Ring) (event : Nat) : State × List (Nat × Nat × Nat) :=
  s.writeStatus i ((i.auxDescs[5]?).join) (ringStatus (r.countWaits s.time.cue) event)

/-- The status record of a fused collective: STATUS is the fifth index of its block (R171). -/
def State.writeCollStatus (s : State) (i : Inst) (c : Coll) (event : Nat) : State × List (Nat × Nat × Nat) :=
  s.writeStatus i ((i.auxDescs[4]?).join) (collStatus i c s.time.cue event)

/-- An instruction ends early with an event (R85, R136, R166, R240): POISON where its kind sends it and poison says so,
its outputs as its chapter leaves them, its status record, COUNT 0; it retires in its turn. -/
def State.endWith (s : State) (i : Inst) (event : Nat) (poison : Bool) : State :=
  let s := ((if poison then s.poisonInst i event else s).leaveLater i event).loseOuts i
  let s := (s.leaveGate i).when (i.wait = .visible) (·.releaseGate i.part i.pkt.imm)
  let s := match i.ring with
    | some r => (s.writeRingStatus i r event).1.leavePoint i r
    | none => s
  let s := match i.coll with
    | some c => (s.writeCollStatus i c event).1
    | none => s
  let i := { i with event := event, count := 0, wait := .none, immediate := true, acks := [], held := [], failedOn := []
                    reads := [], coll := none, ring := none
                    stages := i.stages.map fun t => { t with count := 0, coll := none } }
  let s := s.setInst i
  if s.mayRetire i then s.retire i event 0 else s

/-- An instruction ends early of its own device's accord. -/
def State.endEarly (s : State) (i : Inst) (event : Nat) : State := s.endWith i event true

/-! ## The scene account record (R47) -/

/-- The 64 bytes of a scene account record. -/
def accountRecord (sc : Scene) (endCue event matrix vector access link : Nat) : Bytes :=
  natLE 8 sc.beginCue ++ natLE 8 endCue ++ natLE 4 (sat (2 ^ 32 - 1) sc.preemptedCues) ++
    natLE 2 (sat 65535 sc.preemptions) ++ natLE 2 (sat 65535 sc.lateCount) ++ natLE 8 matrix ++ natLE 8 vector ++
    natLE 8 access ++ natLE 8 link ++ natLE 2 event ++ natLE 6 0

/-- The account record of a scene written with its first event; the four busy-cycle counts are free. -/
def State.writeAccount (s : State) (p : Nat) (sc : Scene) (event : Nat) : State :=
  let a := s.drawNat
  let b := a.2.drawNat
  let c := b.2.drawNat
  let d := c.2.drawNat
  d.2.writePart p tStacked 0 0 (cellsOf sc.acct (accountRecord sc s.time.cue event a.1 b.1 c.1 d.1))

/-- A scene ended: no longer ready nor running, its control queue outside a scene (R27, R393); its unstarted
running-order entries are abandoned (R212). -/
def State.dropScene (s : State) (p : Nat) (sc : Scene) : State :=
  let s := s.setPartition p { s.partition p with scenes := (s.partition p).scenes.filter (·.id != sc.id) }
  let s := s.over sc.queues fun s q =>
    s.setQueue q { s.queue q with
      runOrder := (s.queue q).runOrder.map fun e => if e.status = .waiting then { e with status := .failed 0 } else e }
  let ctl := (s.queuesOf p).filter fun q => (s.queue q).openScene == some sc.id
  s.over ctl fun s q =>
    s.setQueue q { s.queue q with
      openScene := (s.queue q).nextScenes.head?, nextScenes := (s.queue q).nextScenes.drop 1, baseCue := if sc.begun then sc.baseCue else (s.queue q).baseCue }

/-- Every hurdle generation that a scene has begun, emptied (R240). -/
def State.emptyHurdles (s : State) (p scene : Nat) : State :=
  s.setPartition p { s.partition p with
    hurdles := (s.partition p).hurdles.filterMap fun e =>
      let l := e.2.filter fun g => g.scene != scene
      if l = [] then none else some (e.1, l) }

/-- Steps 1 to 4 of R240: every instruction of the scene in flight retires with the event, its queues halt at
their first unretired packet, its gates are released broken and its hurdle generations emptied, the scene is
ended and its account record written with the event. -/
def State.abortScene (s : State) (p : Nat) (sc : Scene) (event : Nat) : State :=
  let ctl := (s.queuesOf p).filter fun q => (s.queue q).openScene == some sc.id
  let all := (sc.queues ++ ctl).eraseDups
  let s := s.over (s.insts.filter fun i => i.part == p && i.scene == some sc.id) fun s i =>
    if (s.inst? i.queue i.index).isSome then s.endEarly i event else s
  let s := s.over all fun s q => s.haltQueue q
  let sc := (s.scene? p sc.id).getD sc
  let s := s.breakHolds p sc.held
  let s := s.emptyHurdles p sc.id
  let s := s.writeAccount p sc event
  s.dropScene p sc

end Sys2Proof.Machine
end

