-- ==== Sys2Proof/Machine/Checks.lean ====
section
/-!
DEFINITION. The opcode map and the issue checks that every instruction shares: packet fields, slots, tiers,
formats, alignment, read-only ranges, extents and fit (R49 to R66, R88, R126, R152, R171, R202, R221, R235,
R373). The checks that belong to one opcode stand with its family.
Readings of the rules that they leave open: log entries 17 and 26 (DEDUCED or DESIGN CHOICE, as the log marks each).
-/

namespace Sys2Proof.Machine

/-- What an instruction takes in a slot (R50). -/
inductive Need where
  | absent
  | required
  | optional
  deriving DecidableEq, Repr

/-- Tile classes (R62). unit is that of PUSH and POP; conv takes its class from CONV.MODE (R93). -/
inductive TileClass where
  | none
  | matrix
  | matrixPartial
  | attention
  | vector
  | access
  | unit
  | conv
  deriving DecidableEq, Repr

/-- A row of the opcode map (R52): queue kinds, tile class, the bits of MOD and IMM that it assigns, its slots,
the slots that are outputs and those that are PARAMS. -/
structure OpInfo where
  kinds : List Nat
  cls : TileClass
  modMask : Nat
  immMask : Nat
  slots : List Need
  outs : List Nat
  params : List Nat
  deriving DecidableEq, Repr

def need3 (a b c d : Need) : List Need := [a, b, c, d]

/-- A common instruction without operands (R17). -/
def opCommon (modMask immMask : Nat) (slots : List Need := need3 .absent .absent .absent .absent) : OpInfo :=
  ⟨[0, 1, 2, 3], .none, modMask, immMask, slots, [0], []⟩

/-- A vector-class instruction of an execute queue (R87). -/
def opVector (immMask : Nat) (s2 s3 : Need) (modMask : Nat := 0x07) : OpInfo :=
  ⟨[0], .vector, modMask, immMask, need3 .required .required s2 s3, [0], []⟩

/-- An access-class instruction (R202, R205). -/
def opAccess (immMask : Nat) (s0 s1 s2 s3 : Need) (outs : List Nat := [0]) (cls : TileClass := .access) : OpInfo :=
  ⟨[1], cls, 0, immMask, need3 s0 s1 s2 s3, outs, []⟩

/-- A fused collective (R172). -/
def opColl (cls : TileClass) (immMask : Nat) (s0 s1 s2 : Need) : OpInfo :=
  ⟨[2], cls, 0xFF, immMask, need3 s0 s1 s2 .required, [0], [3]⟩

/-- The opcode map (R52, R88, R152, R202, R221). -/
def opInfo (op : Nat) : Option OpInfo :=
  match op with
  | 0x00 => some (opCommon 0 1)
  | 0x01 => some ⟨[3], .none, 0, 1, need3 .absent .required .absent .absent, [], [1]⟩
  | 0x02 => some ⟨[3], .none, 0, 0, need3 .absent .absent .absent .absent, [], []⟩
  | 0x03 => some (opCommon 0 0xFF)
  | 0x04 => some ⟨[0, 2], .none, 0, 0xF, need3 .absent .absent .absent .absent, [], []⟩
  | 0x05 => some (opCommon 0 0x3FF)
  | 0x06 => some (opCommon 0 0x3FF)
  | 0x07 => some (opCommon 1 0xFFFF)
  | 0x08 => some (opCommon 0 0 (need3 .required .absent .absent .absent))
  | 0x09 => some (opCommon 0 0xFFFF (need3 .required .absent .absent .absent))
  | 0x0A => some ⟨[3], .none, 0, 0xF, need3 .absent .absent .absent .absent, [], []⟩
  | 0x10 => some ⟨[0], .matrix, 0xFF, 3, need3 .required .required .required .optional, [0], []⟩
  | 0x11 => some (opColl .matrix 0 .optional .optional .optional)
  | 0x12 => some (opColl .matrixPartial 3 .required .required .required)
  | 0x13 => some (opColl .matrix 2 .required .required .required)
  | 0x14 => some (opColl .matrix 0 .optional .required .optional)
  | 0x15 => some (opColl .matrixPartial 0 .required .optional .optional)
  | 0x18 => some ⟨[0], .conv, 0xFF, 0x1FFF, need3 .required .required .required .optional, [0], [3]⟩
  | 0x1C => some ⟨[2], .attention, 0, 0, need3 .required .required .required .required, [0], [3]⟩
  | 0x1D => some ⟨[2], .attention, 0, 0, need3 .required .required .required .required, [0], [3]⟩
  | 0x30 => some (opVector 0 .required .absent)
  | 0x31 => some (opVector 0 .required .absent)
  | 0x32 => some (opVector 0 .required .absent)
  | 0x33 => some (opVector 0 .required .required)
  | 0x34 => some (opVector 0 .required .absent)
  | 0x35 => some (opVector 0 .required .absent)
  | 0x36 => some ⟨[0], .vector, 0x07, 0xFFFF, need3 .required .required .absent .optional, [0], [3]⟩
  | 0x37 => some (opVector 0xFFFF .absent .absent)
  | 0x38 => some (opVector 0 .absent .absent 0x0F)
  | 0x39 => some (opVector 0 .absent .absent)
  | 0x3A => some (opVector 0 .absent .absent 0x0F)
  | 0x40 => some (opVector 0 .absent .absent)
  | 0x41 => some (opVector 0 .absent .absent)
  | 0x42 => some (opVector 0 .absent .absent)
  | 0x43 => some (opVector 0 .absent .absent)
  | 0x44 => some (opVector 0 .absent .absent)
  | 0x45 => some (opVector 0 .absent .absent)
  | 0x46 => some (opVector 0 .absent .absent)
  | 0x47 => some (opVector 0 .absent .absent)
  | 0x48 => some (opVector 0 .absent .absent)
  | 0x49 => some (opVector 0 .absent .absent)
  | 0x4A => some (opVector 0 .absent .absent)
  | 0x50 => some (opVector 0xF .optional .absent 0xF7)
  | 0x51 => some { opVector 0xFFFF .absent .optional 0x0F with outs := [0, 3] }
  | 0x52 => some (opVector 0xFFFF .required .absent 0x0F)
  | 0x53 => some (opVector 0xFFFF .required .absent)
  | 0x60 => some (opAccess 1 .required .required .absent .absent)
  | 0x61 => some (opAccess 0xFFFF .required .absent .absent .absent)
  | 0x62 => some (opAccess 0 .required .required .required .absent)
  | 0x63 => some (opAccess 0 .required .required .required .absent)
  | 0x64 => some (opAccess 3 .absent .required .absent .absent [] .unit)
  | 0x65 => some (opAccess 0 .optional .absent .absent .absent [0] .unit)
  | 0x66 => some (opAccess 0 .absent .required .absent .absent [])
  | 0x67 => some (opAccess 1 .absent .required .absent .absent [])
  | 0x68 => some (opAccess 0x800F .absent .required .absent .absent [])
  | 0x69 => some (opAccess 0xFFFF .absent .absent .absent .absent [])
  | 0x6A => some (opAccess 0xFFFF .absent .absent .absent .absent [])
  | 0x70 => some { opAccess 0 .required .required .optional .optional [0, 3] with modMask := 0xF }
  | 0x71 => some { opAccess 0 .required .required .required .required [0, 3] with modMask := 0 }
  | 0x80 => some ⟨[0], .vector, 7, 0, need3 .required .required .required .required, [0, 2], [3]⟩
  | 0x81 => some ⟨[0], .vector, 7, 0, need3 .required .required .required .required, [0, 2], [3]⟩
  | 0x82 => some ⟨[0], .vector, 7, 0, need3 .required .required .required .required, [0, 2], [3]⟩
  | 0x90 => some ⟨[2], .attention, 0, 0xFFFF, need3 .absent .required .absent .absent, [], []⟩
  | 0x91 => some ⟨[2], .attention, 0, 0xFFFF, need3 .required .absent .absent .absent, [0], []⟩
  | 0x92 => some ⟨[2], .attention, 0, 0, need3 .required .required .required .required, [0], [3]⟩
  | _ => none

/-! ## Operands of an instruction -/

/-- The descriptor of slot k. -/
def Inst.d (i : Inst) (k : Nat) : Option Desc := (i.descs[k]?).join

/-- The descriptor that field k of the parameter block names. -/
def Inst.aux (i : Inst) (k : Nat) : Option Desc := (i.auxDescs[k]?).join

/-- The descriptor of slot k; the empty one when absent. -/
def Inst.dd (i : Inst) (k : Nat) : Desc := (i.d k).getD {}

/-- The tile dimensions 2^TA, 2^TB and 2^TC. -/
def Pkt.a (k : Pkt) : Nat := 2 ^ k.ta
def Pkt.b (k : Pkt) : Nat := 2 ^ k.tb
def Pkt.c (k : Pkt) : Nat := 2 ^ k.tc

/-- MOD[3] of a matrix-class instruction (R51), and of a row sum (R87). -/
def Pkt.anch (k : Pkt) : Bool := bits k.md 3 1 == 1

/-- The local-store window of an instruction (R25, R393). -/
def State.windowOf (s : State) (i : Inst) : Nat :=
  match i.scene with
  | some id => (match s.scene? i.part id with
    | some sc => 65536 * sc.lsWindow
    | none => 0)
  | none => 0

/-! ## Order 2 (R49 to R52, R62, R66) -/

/-- A tile code within a range. -/
def inRange (v lo hi : Nat) : Bool := decide (lo ≤ v ∧ v ≤ hi)

/-- The tile codes of a class in range, and 0 where unused (R49, R62). -/
def tilesOk (cls : TileClass) (k : Pkt) : Bool :=
  match cls with
  | .matrix => inRange k.ta 2 8 && inRange k.tb 2 8 && inRange k.tc 4 10
  | .matrixPartial => inRange k.ta 2 8 && inRange k.tb 2 8 && inRange k.tc 4 10
  | .attention => inRange k.ta 4 8 && inRange k.tb 4 8 && inRange k.tc 6 8
  | .vector => inRange k.ta 6 14 && k.tb == 0 && k.tc == 0
  | .unit => k.tc == 0
  | .conv => true
  | .access => k.ta == 0 && k.tb == 0 && k.tc == 0
  | .none => k.ta == 0 && k.tb == 0 && k.tc == 0

/-- A slot's descriptor is there as the instruction needs it. -/
def slotOk (n : Need) (d : Option Desc) : Bool :=
  match n, d with
  | .absent, some _ => false
  | .required, none => false
  | _, _ => true

/-- Bits of a field outside its mask. -/
def reservedSet (v mask : Nat) : Bool := Nat.land v mask != v

/-- Order 2 for every instruction; portOk says that a chain port may stand in slot k (R37). -/
def check2 (o : OpInfo) (qkind : Nat) (k : Pkt) (ds : List (Option Desc)) (portOk : Nat → Bool) : Bool :=
  o.kinds.contains qkind && !reservedSet k.md o.modMask && !reservedSet k.imm o.immMask && k.rsv == 0 &&
    k.cueq != 3 && !(k.cueq == 0 && k.cueOffset != 0) && tilesOk o.cls k &&
    ((o.slots.zip ds).all fun x => slotOk x.1 x.2) &&
    (ds.zip (List.range 4)).all fun x =>
      match x.1 with
      | none => true
      | some d => if o.params.contains x.2 then d.kind == kParams
          else d.kind == kTensor || (d.kind == kPort && portOk x.2)

/-! ## Orders 4 to 10 -/

/-- An operand with its place among the outputs; area: a working buffer, of which an instruction uses all CAPACITY bytes
(R128, R152, R173); fit: a receive buffer, whose CAPACITY is judged at order 10 (R173). -/
structure Operand where
  d : Desc
  out : Bool := false
  area : Bool := false
  fit : Bool := false
  deriving DecidableEq, Repr

/-- The bytes that an instruction may read or write at an operand: its extent (R56), of a working buffer its CAPACITY. -/
def Operand.range (o : Operand) : Extent := if o.area then { o.d.toExtent with len := o.d.cap } else o.d.toExtent

/-- TIER, RANK and tier bounds (R54, R56, R188, R235, R373), reserved fields of a descriptor (R53); LOCAL needs a scene (R393),
but for SCENE.BEGIN's block, which R25 judges. -/
def State.tierOk (s : State) (i : Inst) (d : Desc) : Bool :=
  let b := s.block i.part
  !d.rsvBad && decide (d.kind ≤ 2) &&
    (if d.tier = tPeer then decide (d.rank < (s.jobRoster i.part).length) else d.rank == 0) &&
    (match d.tier with
     | 0 => (i.scene.isSome || i.pkt.opcode == 0x01) && d.kind != kPort
     | 1 =>
       decide (d.base + d.cap ≤ s.directBytes) &&
         (if d.kind = kPort then
            match s.portOf d with
            | some k => (k.writer == i.part || k.reader == i.part)
            | none => false
          else within d.base d.cap b.directLo b.directUse)
     | 2 => d.kind != kPort && decide (d.base + d.cap ≤ s.capacity) && within d.base d.cap b.memLo b.memLen
     | 3 => d.kind != kPort
     | 4 => d.kind != kPort
     | _ => false)

/-- Order 4 for one operand: tiers, and the output strides where the format is no reserved code (R58, R66). -/
def State.check4 (s : State) (i : Inst) (o : Operand) : Bool :=
  s.tierOk i o.d && !(o.out && formatKnown o.d.format && !o.d.stridesOk)

/-- Order 5 for one operand: a code that is assigned, PACKED only in the access class (R53, R55). -/
def check5 (cls : TileClass) (o : Operand) : Bool :=
  (o.d.kind != kTensor || formatKnown o.d.format) && !(o.d.packed && cls != .access)

/-- Order 7 for one operand (R58, R373): a PEER output is refused at its target. -/
def State.check7 (s : State) (o : Operand) : Bool :=
  !(o.out && (o.d.rdonly || s.readOnly o.d.tier o.d.base o.range.len))

/-- The first extent beyond capacity, order 9 (R56). -/
def check9 (o : Operand) : Bool := o.d.kind != kTensor || o.fit || decide (o.d.extent ≤ o.d.cap)

/-- The working area of a tile class (R62): conv's is its family's. -/
def workArea (cls : TileClass) (k : Pkt) : Nat :=
  let a := if k.anch then 16 else 4
  match cls with
  | .matrix => a * k.a * k.b
  | .matrixPartial => 2 * (a * k.a * k.b)
  | .attention => 18 * k.a * k.c + 16 * k.a + 4 * k.a * k.b
  | .vector => 8 * k.a + 4096
  | _ => 0

/-- The end of the highest TIER LOCAL operand (R61). -/
def localTop (ops : List Operand) : Nat :=
  ops.foldl (fun m o => if o.d.tier = tLocal then max m (o.d.base + o.range.len) else m) 0

/-- Two extents share a byte. -/
def Extent.meets (a b : Extent) : Bool := a.tier == b.tier && a.rank == b.rank && overlaps a.base a.len b.base b.len

end Sys2Proof.Machine
end

