-- ==== Sys2Proof/Machine/Compute.lean ====
section
/-!
DEFINITION. What computing instructions share: operands read by rows on the clusters that hold them, their
hand-over units, and a computation's result written, sent or handed to the next stage of a CHAIN (R22, R36,
R79, R85, R86, R189, R191, R216, R319).
-/

namespace Sys2Proof.Machine

/-- The function whose translation an instruction's HOST operands use (R54). -/
def State.fnOf (s : State) (i : Inst) : Nat := (s.block i.part).fn

/-- The physical cluster of logical index g mod C (R79). -/
def State.clusterAt (s : State) (i : Inst) (g : Nat) : Nat :=
  let cs := s.clustersOf i.part
  cs.getD (g % max 1 cs.length) 0

/-- The clusters that may claim tiles (R80): those of folds whose claims the loop has not stopped, or all when it has stopped
every fold's. -/
def State.claiming (s : State) (p : Nat) : List Nat :=
  let cs := s.clustersOf p
  let l := cs.filter fun c => !s.time.claimsStopped.contains (c / 66)
  if l = [] then cs else l

/-- The physical cluster of output tile t: by the grid of R79, or under DYNAMIC the one that claimed it, which is free (R51,
R80). -/
def State.tileCluster (s : State) (i : Inst) (t : Nat) : Nat :=
  match i.claims with
  | none => s.clusterAt i t
  | some k =>
    let cs := s.claiming i.part
    cs.getD (Config.freeNat (k + t) % max 1 cs.length) 0

/-- The clusters that g groups of work use. -/
def State.clustersFor (s : State) (i : Inst) (g : Nat) : List Nat :=
  match i.claims with
  | none => (s.clustersOf i.part).take (max 1 g)
  | some _ => s.claiming i.part

/-- A packet that claims its tiles (R51, R80): of the matrix class, with MOD[2] set. -/
def Pkt.dynamic (k : Pkt) : Bool :=
  bits k.md 2 1 == 1 && (decide (0x10 ≤ k.opcode ∧ k.opcode ≤ 0x15) || (k.opcode == 0x18 && decide (bits k.md 4 4 ≤ 2)))

/-- The claims of a DYNAMIC instruction: the free choices for its tiles, in increasing t. Every stage of a CHAIN is spread over the
same clusters (R36). -/
def State.claimTiles (s : State) (i : Inst) : State × Inst :=
  if i.pkt.dynamic || i.stages.any (·.pkt.dynamic) then (s.setFree (s.free + 2 ^ 40), { i with claims := some s.free }) else (s, i)

/-- The bytes of row r of slot k, as cluster cl holds them. -/
def State.srcRow (s : State) (i : Inst) (k cl r : Nat) : Bytes :=
  s.rowBytesOf (i.dd k) (s.fnOf i) cl ((i.dd k).rowAt r)

/-- The event of reading a whole operand on some clusters; 0 when it reads. -/
def State.srcEvent (s : State) (i : Inst) (d : Desc) (cls : List Nat) : Nat :=
  let cls := if d.tier = tLocal then cls else cls.take 1
  firstEvent (cls.flatMap fun cl => (List.range d.rows).map fun r => s.rowReadEvent d (s.fnOf i) cl (d.rowAt r))

/-- What an instruction computes: a failing access's event, the event of its arithmetic, its COUNT, what it
writes, what it reads through the shared cache, by hand-over units, how many free values it drew, and whether its output holds
partial sums while it is in flight (R77). -/
structure Work where
  partials : Bool := false
  draws : Nat := 0
  fail : Nat := 0
  event : Nat := 0
  count : Nat := 0
  pieces : List Piece := []
  reads : List (Desc × List (List Nat)) := []
  deriving DecidableEq, Repr

/-- The bytes of a row that an instruction other than OPT writes: of a BF16.HI row, bits [31:16] of each word (R103). -/
def Desc.writes (d : Desc) (k : Nat) : Bool := d.kind != kTensor || d.format != 0x0A || decide (2 ≤ k % 4)

/-- The cells of a piece. -/
def Piece.cells (x : Piece) : List (Nat × Byte) :=
  ((List.range x.bs.length).filter fun k => x.d.writes (x.off + k)).map fun k =>
    (x.d.addr (x.d.rowAt x.row) (x.off + k), x.bs.getD k 0)

/-- The event of writing a piece. -/
def State.pieceEvent (s : State) (i : Inst) (x : Piece) : Nat :=
  firstEvent (x.cells.map fun c => s.writeEvent x.d.tier (x.d.who (s.fnOf i) x.cl) c.1 1)

/-- Cells gathered into runs of consecutive addresses. -/
def runsOf : List (Nat × Byte) → List (Nat × Bytes)
  | [] => []
  | c :: t =>
    match runsOf t with
    | [] => [(c.1, [c.2])]
    | r :: rs => if c.1 + 1 = r.1 then (c.1, c.2 :: r.2) :: rs else (c.1, [c.2]) :: r :: rs

/-- A piece written at its tier, or sent to its peer; the answer includes what to await (R319). -/
def State.writePiece (s : State) (i : Inst) (x : Piece) : State × List (Nat × Nat × Nat) :=
  if x.d.tier = tPeer then
    (runsOf x.cells).foldl (fun acc r =>
      let m := acc.1.sendPeer i.part x.d.rank r.1 r.2
      (m.1, acc.2 ++ m.2)) (s, [])
  else (s.writePart i.part x.d.tier (x.d.who (s.fnOf i) x.cl) x.d.hint x.cells, [])

/-- The keys of the bytes that pieces write in a tier. -/
def State.pieceKeys (s : State) (i : Inst) (xs : List Piece) (tier : Nat) : List Nat :=
  (xs.filter (·.d.tier == tier)).flatMap fun x => x.cells.map fun c => tierKey tier (x.d.who (s.fnOf i) x.cl) c.1

/-- Every piece written; what they write whole together loses its poison (R185, R195). -/
def State.writePieces (s : State) (i : Inst) (xs : List Piece) : State × List (Nat × Nat × Nat) :=
  let m := xs.foldl (fun acc x =>
    let m := acc.1.writePiece i x
    (m.1, acc.2 ++ m.2)) (s, [])
  (m.1.over [tLocal, tCache, tStacked] fun t tier => t.mend tier (s.pieceKeys i xs tier), m.2)

/-- Stacked-memory operands read through the shared cache with their hints (R189, R191). -/
def State.consume (s : State) (rs : List (Desc × List (List Nat))) : State :=
  s.over rs fun s r => if r.1.tier = tStacked then s.readThrough r.1.hint r.2 else s

/-- A computation's result takes effect: the operands are consumed and every piece is written; an access that
fails leaves the output extents undefined and COUNT 0 (R85, R216). An output that holds partial sums in flight is undefined
until the instruction retires (R77). -/
def State.finish (s : State) (i : Inst) (w : Work) : State × Inst :=
  let s := s.setFree (s.free + w.draws)
  let ev := if w.fail ≠ 0 then w.fail else firstEvent (w.pieces.map (s.pieceEvent i))
  if ev ≠ 0 then ((s.consume w.reads).loseOuts i, { i with event := ev, count := 0 })
  else if w.partials then ((s.consume w.reads).loseOuts i, { i with event := w.event, count := w.count, held := w.pieces })
  else
    let m := (s.consume w.reads).writePieces i w.pieces
    (m.1, { i with event := w.event, count := w.count, acks := i.acks ++ m.2 })

/-- The final values of an output that held partial sums are written, once no check of a step is failed (R77, R83). -/
def State.land (s : State) (i : Inst) : State × Inst :=
  if i.held = [] ∨ i.failedOn ≠ [] ∨ i.wait ≠ .none then (s, i)
  else
    let m := s.writePieces i i.held
    (m.1, { i with held := [], acks := i.acks ++ m.2 })

/-- A descriptor as rows of one flat run, so that pieces can name it. -/
def Desc.flat (d : Desc) (n : Nat) : Desc := { d with n0 := n, n1 := 1, n2 := 1, n3 := 1, format := 0x0E, layout := 0 }

/-- Pieces of n items. -/
def chunks {α : Type} (n : Nat) (l : List α) : List (List α) :=
  (List.range (ceilDiv l.length n)).map fun j => (l.drop (n * j)).take n

/-- The addresses of the columns [c, c + n) of rows [r, r + m) of an operand, with their scale bytes. -/
def Desc.unitAddrs (d : Desc) (r m c n : Nat) : List Nat :=
  ((List.range m).map (· + r)).flatMap fun r =>
    if r < d.rows then
      let p := pitchBits d.format
      let n := min n (d.n0 - c)
      let lo := p * c / 8
      let els := (List.range (ceilDiv (p * n) 8)).map (lo + ·)
      let scs := if isMx d.format then (List.range (n / 32)).map (fun j => p * d.n0 / 8 + c / 32 + j) else []
      (els ++ scs).map (d.addr (d.rowAt r))
    else []

/-- Hand-over units of m rows by n columns that cover an operand. -/
def Desc.units (d : Desc) (m n : Nat) : List (List Nat) :=
  (List.range (ceilDiv d.rows m)).flatMap fun a =>
    (List.range (ceilDiv d.n0 n)).map fun b => d.unitAddrs (m * a) m (n * b) n

/-- An element code of a floating-point, image or integer output, as bytes of its pitch; BF16.HI is written by
no computation. -/
def codeBytes (fmt : Nat) (cs : List Nat) : Bytes := packRow fmt cs []

end Sys2Proof.Machine
end

