-- ==== Sys2Proof/Machine/Tensor.lean ====
section
/-!
DEFINITION. Matrix products (R72 to R82, R108, R109, R111 to R114): accumulation of one element, and the
checks and work of MMA. The fused collectives form their products with the same functions.
Readings of the rules that they leave open: log entry 26 (DEDUCED or DESIGN CHOICE, as the log marks each).
-/

namespace Sys2Proof.Machine

/-- The two BF16 parts of an FP32 input (R109). -/
def split3 (x : FVal) : FVal × FVal :=
  if x.isFinite then
    let h := decodeF bf16 (encodeF bf16 .rneSat 0 x)
    (h, decodeF bf16 (encodeF bf16 .rne 0 (x.sub h)))
  else (x, .zero)

/-- The products of one K-step (R108, R109). -/
def stepProducts (sp : Bool) (ab : List (FVal × FVal)) : List FVal :=
  if sp then
    ab.flatMap fun p =>
      let x := split3 p.1
      let y := split3 p.2
      let infinite := (match p.1, p.2 with
        | .inf _, _ => true
        | _, .inf _ => true
        | _, _ => false)
      if infinite then [x.1.mul y.1, .zero, .zero] else [x.1.mul y.1, x.1.mul y.2, x.2.mul y.1]
  else ab.map fun p => p.1.mul p.2

/-- FP32 accumulation (R108): one rounding for each K-step, in order. Without ACC the running accumulator starts at +0, so a sum
of negative zeros is +0 (DESIGN CHOICE, log entry 59). -/
def accF32 (sp : Bool) (init : Option FVal) (steps : List (List (FVal × FVal))) : FVal :=
  steps.foldl (fun acc st => roundF32 (FVal.sum .rne (acc :: stepProducts sp st))) (init.getD .zero)

/-- K-steps of kt along a row of products; the inputs beyond K of a partial step read as zero (R81). -/
def kSteps {α : Type} (zero : α) (kt : Nat) (l : List α) : List (List α) :=
  (chunks kt l).map fun c => c ++ List.replicate (kt - c.length) zero

/-- The bias added to an FP32 accumulator (R108). -/
def biasF32 (acc : FVal) (bias : Option FVal) : FVal :=
  match bias with
  | some b => roundF32 (acc.add b)
  | none => acc

/-- Anchored accumulation (R112, R113): the range check at the end of every K-step when checked. -/
def accAnch (sp checked : Bool) (anchor : Int) (init : Anch) (steps : List (List (FVal × FVal))) : Anch :=
  steps.foldl (fun acc st =>
    let a := acc.addTerms 128 anchor (stepProducts sp st)
    if checked then a.check 128 else a) init

/-- The bias added to an anchored accumulator, and the check after it (R113). -/
def biasAnch (anchor : Int) (acc : Anch) (bias : Option FVal) : Anch :=
  match bias with
  | some b => (acc.addTerm 128 anchor b).check 128
  | none => acc

/-- Saturation to INT32 (R75). -/
def sat32 (v : Int) : Int := max (-(2 ^ 31)) (min (2 ^ 31 - 1) v)

/-- Integer accumulation (R75): exact, saturated where a partial is written at the end of a panel of P K-steps
that is not the last. -/
def accInt (panel : Nat) (init : Int) (steps : List (List (Int × Int))) : Int :=
  (steps.zip (List.range steps.length)).foldl (fun acc x =>
    let r := acc + (x.1.map fun p => p.1 * p.2).sum
    if (x.2 + 1) % panel = 0 ∧ x.2 + 1 < steps.length then sat32 r else r) init

/-! ## Formats (R74) -/

/-- The input groups that mix: BF16 with BF16.HI, FP16, FP8, microscaling, integers, FP32. -/
def mmaGroup (c : Nat) : Nat :=
  match c with
  | 0x02 => 1
  | 0x0A => 1
  | 0x03 => 2
  | 0x04 => 3
  | 0x05 => 3
  | 0x0B => 4
  | 0x0C => 4
  | 0x0D => 4
  | 0x06 => 5
  | 0x07 => 5
  | 0x01 => 6
  | _ => 0

/-- K-steps of a panel (R76): all of them under K_INNER. -/
def panelOf (md ks : Nat) : Nat :=
  match bits md 0 2 with
  | 0 => max 1 ks
  | 1 => 1
  | _ => 2 ^ bits md 4 4

/-- Accumulation: FP32, anchored or integer. -/
inductive Accum where
  | f32
  | anch
  | int
  deriving DecidableEq, Repr

def accumOf (fmtA : Nat) (anch : Bool) : Accum := if mmaGroup fmtA = 5 then .int else if anch then .anch else .f32

/-- The output format of a product (R74, R77). partials says that C holds partials between panels. -/
def mmaOutOk (group : Nat) (anch partials : Bool) (c : Nat) : Bool :=
  if group = 5 then c == 0x08 && !anch
  else if partials then (if anch then c == 0x0F else c == 0x01)
  else
    (if group = 6 then c == 0x01 else c == 0x01 || c == 0x02 || c == 0x03 || c == 0x04 || c == 0x05) ||
      (anch && c == 0x0F)

/-- Order 5 of a product. -/
def mmaFormatsOk (k : Pkt) (split : Bool) (a b c : Desc) (bias : Option Desc) : Bool :=
  let g := mmaGroup a.format
  let ks := ceilDiv a.n0 k.c
  let partials := decide (bits k.md 0 2 ≠ 0 ∧ ks > panelOf k.md ks)
  g != 0 && g == mmaGroup b.format && ((g == 6) == split) && mmaOutOk g k.anch partials c.format &&
    (match bias with
     | some x => x.format == (if g = 5 then 0x08 else 0x01)
     | none => true)

/-- The term bound of R111 for a product. -/
def mmaTermExp (a b : Desc) : Int := blockExpOf a + blockExpOf b + 1

/-- The anchor of a product of n terms (R111): C's recorded BLOCK_EXP when C is an image. -/
def mmaAnchor (a b c : Desc) (n : Nat) : Int :=
  match (if c.format = 0x0F then c.blockExp else none) with
  | some e => e
  | none => anchorOf 128 (mmaTermExp a b) n

/-! ## One element -/

/-- How a product's elements are formed. -/
structure Prod where
  panel : Nat
  accum : Accum
  split : Bool
  anchor : Int
  fmtA : Nat
  fmtB : Nat
  fmtC : Nat

/-- An element's code in C's format, and whether it is NaN through the overflow flag alone (R114). init and bias are
element codes. -/
def Prod.elem (m : Prod) (init bias : Option Nat) (fs : List (List (FVal × FVal)))
    (is : List (List (Int × Int))) : Nat × Bool :=
  let fb := bias.map ofF32
  match m.accum with
  | .f32 =>
    let i0 := init.map fun v => ((floatFmt m.fmtC).map fun f => decodeF f v).getD .nan
    let acc := biasF32 (accF32 m.split i0 fs) fb
    (((floatFmt m.fmtC).map fun f => encodeF f .rne 0 acc).getD 0, false)
  | .anch =>
    let i0 : Anch := match init with
      | none => {}
      | some v => if m.fmtC = 0x0F then Anch.ofImage 128 v
          else ({} : Anch).addTerm 128 m.anchor (((floatFmt m.fmtC).map fun f => decodeF f v).getD .nan)
    let acc := biasAnch m.anchor (accAnch m.split true m.anchor i0 fs) fb
    (if m.fmtC = 0x0F then acc.image 128
     else ((floatFmt m.fmtC).map fun f => encodeF f .rne 0 (acc.value 128 m.anchor)).getD 0, acc.overflowed)
  | .int =>
    let i0 : Int := match init with
      | some v => signed 32 v
      | none => 0
    let r := accInt m.panel i0 is + (match bias with
      | some b => signed 32 b
      | none => 0)
    (unsigned 32 (sat32 r), false)

/-- The integer values of a row's bytes. -/
def rowInts (fmt n : Nat) (bs : Bytes) : List Int := (unpackRow fmt n bs).map (intVal fmt)

/-- The element of row a (bytes) and column col of the rows b (bytes), in K-steps of kt. -/
def Prod.dot (m : Prod) (kt k nB : Nat) (a : Bytes) (b : List Bytes) (init bias : Option Nat) (col : Nat) : Nat × Bool :=
  match m.accum with
  | .int =>
    m.elem init bias [] (kSteps (0, 0) kt ((rowInts m.fmtA k a).zip (b.map fun r => (rowInts m.fmtB nB r).getD col 0)))
  | _ =>
    m.elem init bias (kSteps (.zero, .zero) kt ((rowVals m.fmtA k a).zip (b.map fun r => (rowVals m.fmtB nB r).getD col .nan))) []

/-! ## MMA (R72) -/

/-- The product of an MMA packet. -/
def Inst.prod (i : Inst) : Prod :=
  let a := i.dd 1
  let b := i.dd 2
  let c := i.dd 0
  let sp := bits i.pkt.imm 1 1 == 1
  let acc := bits i.pkt.imm 0 1
  let ks := ceilDiv a.n0 i.pkt.c
  let n := a.n0 * (if sp then 3 else 1) + b2n (i.d 3).isSome + acc
  { panel := panelOf i.pkt.md ks, accum := accumOf a.format i.pkt.anch, split := sp,
    anchor := mmaAnchor a b c n, fmtA := a.format, fmtB := b.format, fmtC := c.format }

/-- The shape rules of R72, R74 and R82, order 4. -/
def mmaShapesOk (k : Pkt) (a b c : Desc) (bias : Option Desc) : Bool :=
  b.n1 == a.n0 && c.n0 == b.n0 && c.n1 == a.n1 && c.n2 == a.n2 && c.n2 == b.n2 && c.n3 == a.n3 && c.n3 == b.n3 &&
    (match bias with
     | some x => x.n0 == b.n0 && x.n1 == 1 && x.n2 == 1 && x.n3 == 1
     | none => true) &&
    !(k.tc == 4 && (isMx a.format || isMx b.format)) &&
    ([some a, some b, bias].all fun o =>
      match o with
      | some d => !(formatKnown c.format && formatKnown d.format && c.meets d)
      | none => true)

/-- MOD of the matrix class (R51, R80): no reserved order, DYNAMIC under K_INNER alone. -/
def matrixModOk (k : Pkt) : Bool := bits k.md 0 2 != 3 && !(bits k.md 2 1 == 1 && bits k.md 0 2 != 0)

/-- MMA's own checks, by order. -/
def mmaCheck (i : Inst) (order : Nat) : Nat :=
  match order with
  | 2 => if matrixModOk i.pkt && (bits i.pkt.md 4 4 == 0 || bits i.pkt.md 0 2 == 2) then 0 else Ev.desc
  | 4 => if mmaShapesOk i.pkt (i.dd 1) (i.dd 2) (i.dd 0) (i.d 3) then 0 else Ev.desc
  | 5 => if mmaFormatsOk i.pkt (bits i.pkt.imm 1 1 == 1) (i.dd 1) (i.dd 2) (i.dd 0) (i.d 3) then 0 else Ev.format
  | _ => 0

/-- The hand-over units of a matrix product: M rows of K, K rows of N, and a result of M rows of N (R32, R33, R61, R191). -/
def matrixUnitsOk (i : Inst) : Bool :=
  (match i.d 0 with
   | some c => decide (i.pkt.a * rowBytes c.format i.pkt.b ≤ 65536)
   | none => true) &&
  (match i.d 1 with
   | some a => decide (i.pkt.a * rowBytes a.format i.pkt.c ≤ 65536)
   | none => true) &&
  (match i.d 2 with
   | some b => decide (i.pkt.c * rowBytes b.format i.pkt.b ≤ 65536)
   | none => true)

/-- A tile's rows of element codes with their overflow marks: batch b, tile (tm, tn), on cluster cl. B's microscaling blocks lie
along its rows, that is along N, where R55 and R102 place their scales; R74's blocks along K are A's (DESIGN CHOICE, log entry
60). -/
def State.mmaTile (s : State) (i : Inst) (m : Prod) (b tm tn cl : Nat) :
    List (List (Nat × Bool)) :=
  let da := i.dd 1
  let db := i.dd 2
  let dc := i.dd 0
  let bRows := (List.range da.n0).map fun k => s.srcRow i 2 cl (k + db.n1 * b)
  let acc := bits i.pkt.imm 0 1 == 1
  let bias := (i.d 3).map fun d => unpackRow d.format d.n0 (s.srcRow i 3 cl 0)
  let cols := ((List.range i.pkt.b).map (i.pkt.b * tn + ·)).filter (· < dc.n0)
  (((List.range i.pkt.a).map (i.pkt.a * tm + ·)).filter (· < dc.n1)).map fun row =>
    let aRow := s.srcRow i 1 cl (row + da.n1 * b)
    let cRow := if acc then unpackRow dc.format dc.n0 (s.srcRow i 0 cl (row + dc.n1 * b)) else []
    cols.map fun col =>
      m.dot i.pkt.c da.n0 db.n0 aRow bRows (if acc then some (cRow.getD col 0) else none) (bias.map fun l => l.getD col 0) col

/-- The tiles of a product in the order of R79: batch, tile row, tile column, tile number. -/
def mmaTiles (dc : Desc) (k : Pkt) : List (Nat × Nat × Nat × Nat) :=
  let mt := ceilDiv dc.n1 k.a
  let nt := ceilDiv dc.n0 k.b
  (List.range (dc.n2 * dc.n3)).flatMap fun b => (List.range mt).flatMap fun tm => (List.range nt).map fun tn =>
    (b, tm, tn, (b * mt + tm) * nt + tn)

/-- The work of MMA (R72 to R82, R114). -/
def mmaWork (s : State) (i : Inst) : Work :=
  let dc := i.dd 0
  let m := i.prod
  let tiles := mmaTiles dc i.pkt
  let cls := s.clustersFor i tiles.length
  let acc := bits i.pkt.imm 0 1 == 1
  let fail := firstEvent
    [s.srcEvent i (i.dd 1) cls, s.srcEvent i (i.dd 2) cls,
     ((i.d 3).map fun d => s.srcEvent i d cls).getD 0, if acc then s.srcEvent i dc cls else 0]
  let outs := tiles.map fun t => (t, s.mmaTile i m t.1 t.2.1 t.2.2.1 (s.tileCluster i t.2.2.2))
  let pieces := outs.flatMap fun o =>
    (o.2.zip (List.range o.2.length)).map fun r =>
      { d := dc, row := i.pkt.a * o.1.2.1 + r.2 + dc.n1 * o.1.1, cl := s.tileCluster i o.1.2.2.2,
        off := pitchBits dc.format * (i.pkt.b * o.1.2.2.1) / 8, bs := codeBytes dc.format (r.1.map (·.1)) : Piece }
  let ovf := outs.any fun o => o.2.any fun r => r.any (·.2)
  let reads := [(i.dd 1, (i.dd 1).units i.pkt.a i.pkt.c)] ++
    [(i.dd 2, (i.dd 2).units i.pkt.c i.pkt.b)] ++
    (match i.d 3 with
     | some d => [(d, d.units 1 d.n0)]
     | none => []) ++ (if acc then [(dc, dc.units i.pkt.a i.pkt.b)] else [])
  { fail := fail, event := if ovf then Ev.anchOvf else 0, count := dc.elements, pieces := pieces, reads := reads
    partials := decide (m.panel < ceilDiv (i.dd 1).n0 i.pkt.c) }

end Sys2Proof.Machine
end

