-- ==== Sys2Proof/Machine/Vector.lean ====
section
/-!
DEFINITION. Vector and special-function instructions (R86 to R91, R104 to R107, R111 to R123): their checks
and their work, row by row.
-/

namespace Sys2Proof.Machine

/-- Opcodes that form row sums (R87). -/
def rowSumOp (op : Nat) : Bool := op == 0x38 || op == 0x3A || op == 0x51 || op == 0x52

/-- Row-wise stages (R394). -/
def rowWise (op : Nat) : Bool := op == 0x38 || op == 0x39 || op == 0x3A || op == 0x51 || op == 0x52 || op == 0x53

/-- Reductions with one result for each row. -/
def reduces (op : Nat) : Bool := op == 0x38 || op == 0x39 || op == 0x3A

/-- ROUND codes 4 and 6 (R104). -/
def stochastic (md : Nat) : Bool := bits md 0 3 == 4 || bits md 0 3 == 6

/-- MOD and IMM of the vector class, order 2 (R87, R88, R91, R115). -/
def vectorFieldsOk (i : Inst) : Bool :=
  let k := i.pkt
  let op := k.opcode
  bits k.md 0 3 != 7 && (rowSumOp op || bits k.md 3 1 == 0) && (op == 0x50 || bits k.md 4 4 == 0) &&
    decide (bits k.md 4 4 ≤ 4) &&
    (if op = 0x36 then (i.d 3).isSome == stochastic k.md && (stochastic k.md || k.imm == 0) else !stochastic k.md) &&
    (if op = 0x50 then (if (i.d 2).isSome then k.imm == 0 else inRange k.imm 2 13) else true) &&
    (op != 0x53 || k.imm != 0)

/-- SHAPE rules, order 4 (R87 to R91). -/
def vectorShapesOk (i : Inst) : Bool :=
  let op := i.pkt.opcode
  let o := i.dd 0
  let x := i.dd 1
  let rowsLike (w : Nat) (d : Desc) := d.n0 == w && d.n1 == o.n1 && d.n2 == o.n2 && d.n3 == o.n3
  (if reduces op then o.n0 == 1 && x.n1 == o.n1 && x.n2 == o.n2 && x.n3 == o.n3
   else if op = 0x50 ∧ (i.d 2).isNone then rowsLike (2 * o.n0) x && x.n0 % (2 * 2 ^ bits i.pkt.imm 0 4) == 0
   else x.sameShape o) &&
    (match i.d 2 with
     | none => true
     | some d =>
       if op = 0x53 then rowsLike 1 d
       else if op = 0x52 then d.sameShape o || (d.n0 == o.n0 && d.n1 == 1 && d.n2 == 1 && d.n3 == 1)
       else d.sameShape o) &&
    (match i.d 3 with
     | none => true
     | some d => if op = 0x33 then d.sameShape o else if op = 0x51 then rowsLike 2 d else true) &&
    (op != 0x53 || o.n0 % 2 == 0)

/-- The ranges of two tensors meet; one whose FORMAT is a reserved code has no extent, and is not judged at order 4 (R66). -/
def Desc.clashes (a b : Desc) : Bool :=
  a.kind == kTensor && b.kind == kTensor && formatKnown a.format && formatKnown b.format && a.meets b

/-- The overlap rule of R87, order 4: an element-wise output may coincide with an input. -/
def vectorOverlapOk (i : Inst) : Bool :=
  let op := i.pkt.opcode
  let o := i.dd 0
  let ew := !rowWise op && !(op == 0x50 && (i.d 2).isNone)
  let ins := [i.d 1, i.d 2, if op = 0x51 then none else i.d 3]
  (ins.all fun x =>
    match x with
    | none => true
    | some d => !o.clashes d || (ew && o.coincides d)) &&
  (match (if op = 0x51 then i.d 3 else none) with
   | none => true
   | some st => !st.clashes o && !st.clashes (i.dd 1))

/-- Formats, order 5 (R87). -/
def vectorFormatsOk (i : Inst) : Bool :=
  let op := i.pkt.opcode
  let cvt := op == 0x36
  let narrow (c : Nat) := cvt && (c == 0x04 || c == 0x05 || isMx c)
  let inOk (c : Nat) := c == 0x01 || c == 0x02 || c == 0x03 || c == 0x0A || narrow c
  let outOk (c : Nat) := c == 0x01 || c == 0x02 || c == 0x03 || narrow c
  outOk (i.dd 0).format && inOk (i.dd 1).format &&
    (match i.d 2 with
     | none => true
     | some d => if op = 0x53 then d.format == 0x09 else inOk d.format) &&
    (match i.d 3 with
     | none => true
     | some d => d.kind != kTensor || (if op = 0x51 then d.format == 0x01 else inOk d.format))

/-- The vector class's own checks, by order. The block of a stochastic VCVT holds 16 bytes with the last four 0
(R115). -/
def vectorCheck (i : Inst) (order : Nat) : Nat :=
  match order with
  | 2 => if vectorFieldsOk i then 0 else Ev.desc
  | 4 =>
    let blockOk := (match i.d 3 with
      | some d => d.kind != kParams || (decide (16 ≤ d.cap) && field i.params 12 4 == 0)
      | none => true)
    if vectorShapesOk i && vectorOverlapOk i && blockOk then 0 else Ev.desc
  | 5 => if vectorFormatsOk i then 0 else Ev.format
  | _ => 0

/-! ## Rows -/

/-- The rounding mode of a packet. -/
def Pkt.round (k : Pkt) : Round := (Round.ofCode (bits k.md 0 3)).getD .rne

/-- The special function of an opcode. -/
def sfuOf (op : Nat) : Option Config.Sfu :=
  match op with
  | 0x40 => some .exp
  | 0x41 => some .exp2
  | 0x42 => some .log
  | 0x43 => some .rcp
  | 0x44 => some .rsqrt
  | 0x45 => some .tanh
  | 0x46 => some .sigmoid
  | 0x47 => some .silu
  | 0x48 => some .gelu
  | 0x49 => some .sin
  | 0x4A => some .cos
  | _ => none

/-- The activation that FUNC selects (R91). -/
def actVal (func : Nat) (x : FVal) : FVal :=
  match func with
  | 0 => sfuVal .silu x
  | 1 => sfuVal .gelu x
  | 2 => sfuVal .geluTanh x
  | 3 => sfuVal .sigmoid x
  | _ => reluVal x

/-- The exact result of an element-wise opcode, which the output format then rounds once (R88, R106). -/
def elemVal (op imm : Nat) (mode : Round) (a b c : FVal) : FVal :=
  match sfuOf op with
  | some g => sfuVal g a
  | none =>
    match op with
    | 0x30 => FVal.sum mode [a, b]
    | 0x31 => FVal.sum mode [a, b.neg]
    | 0x32 => a.mul b
    | 0x33 => FVal.sum mode [a.mul b, c]
    | 0x34 => a.max b
    | 0x35 => a.min b
    | 0x37 => a.mul (decodeF bf16 imm)
    | _ => a

/-- The largest of a row (R121): NaN when any is. -/
def maxVal : List FVal → FVal
  | [] => .inf true
  | [x] => x
  | x :: t => x.max (maxVal t)

/-- The FP32 sum of a row in tiles of V elements, in increasing order (R86, R89): each tile's exact sum joins the
running sum with one rounding. -/
def rowSumF32 (v : Nat) (ts : List FVal) : FVal :=
  ((chunks v ts).foldl (fun acc t => some (roundF32 (FVal.sum .rne (acc.toList ++ t)))) none).getD .zero

/-- A row sum, FP32 or in a 96-bit anchored accumulator (R87, R111 to R114): the value and the overflow mark. -/
def rowSum (v : Nat) (anch : Bool) (e : Int) (ts : List FVal) : FVal × Bool :=
  if anch then
    let an := anchorOf 96 e ts.length
    let a := (({} : Anch).addTerms 96 an ts).check 96
    (a.value 96 an, a.overflowed)
  else (rowSumF32 v ts, false)

/-- Values rounded into an output row, with the stochastic draw of each element's index (R106, R107, R116). -/
def packVals (fmt : Nat) (mode : Round) (draw : Nat → Nat) (vs : List FVal) : Bytes :=
  if isMx fmt then
    let blocks := (chunks 32 vs).zip (List.range (ceilDiv vs.length 32))
    let enc := blocks.map fun b => mxEncode fmt mode (fun j => draw (32 * b.2 + j)) b.1
    packRow fmt (enc.flatMap (·.1)) (enc.map (·.2))
  else
    match floatFmt fmt with
    | some f => codeBytes fmt ((vs.zip (List.range vs.length)).map fun p => encodeF f mode (draw p.2) p.1)
    | none => []

/-- SOFTMAX of a row (R89, R90): the terms, their sum L, M, whether every output is 0, and the overflow mark. -/
structure SoftRow where
  terms : List FVal
  m : FVal
  l : FVal
  zero : Bool
  ovf : Bool

/-- The passes of SOFTMAX over a row. R90 judges the inputs; the scaled row and x − M are each rounded to FP32 by RNE, where R89
and R122 state no rounding (DESIGN CHOICE, log entry 61). -/
def softRow (v imm : Nat) (anch : Bool) (xs : List FVal) : SoftRow :=
  let sc := if imm = 0 then FVal.one else decodeF bf16 imm
  let ys := xs
  let xs := xs.map fun x => roundF32 (x.mul sc)
  if ys.any (fun x => x.isNaN || x == .inf false) then ⟨xs.map fun _ => .nan, .nan, .nan, false, false⟩
  else if ys.all (fun x => x == .inf true) then ⟨xs.map fun _ => .zero, .inf true, .zero, true, false⟩
  else if xs.length = 1 then ⟨[.one], maxVal xs, .one, false, false⟩
  else
    let m := maxVal xs
    let ps := xs.map fun x => sfuVal .exp (roundF32 (x.sub m))
    let l := rowSum v anch 0 ps
    ⟨ps, m, l.1, false, l.2⟩

/-- The outputs of SOFTMAX's row: exp(x − M) / L rounded to FP32, where R122 leaves 4 ulp (DESIGN CHOICE, log entry 61), and
that into the output format (R106). -/
def softOut (fmt : Nat) (mode : Round) (r : SoftRow) : Bytes :=
  match floatFmt fmt with
  | some f => codeBytes fmt (r.terms.map fun p => if r.zero then 0 else encodeF f mode 0 (ofF32 (divF fp32 .rne p r.l)))
  | none => []

/-- RMSNORM of a row (R88): the mean square plus ε rounded to FP32, RSQRT, and the product with the gain rounded to FP32, where
R122 leaves 4 ulp (DESIGN CHOICE, log entry 61). -/
def rmsRow (v imm : Nat) (anch : Bool) (e : Int) (xs gain : List FVal) : List FVal × Bool :=
  let ss := rowSum v anch (2 * e + 1) (xs.map fun x => x.mul x)
  let n := FVal.ofInt xs.length
  let mean := divF fp32 .rne (ss.1.add (n.mul (decodeF bf16 imm))) n
  let rs := sfuVal .rsqrt (ofF32 mean)
  ((xs.zip gain).map fun p => roundF32 ((p.1.mul rs).mul p.2), ss.2)

/-- The pairs of ROPE (R88): each rotated by its angle, whose cosine and sine are free within R122. The exact rotation is rounded
to FP32, where R122 leaves 2 ulp (DESIGN CHOICE, log entry 61). -/
def ropeRow (beta pos d : Nat) (mode : Round) (xs : List FVal) : List FVal :=
  (List.range (d / 2)).flatMap fun j =>
    let a := xs.getD (2 * j) .zero
    let b := xs.getD (2 * j + 1) .zero
    let c := ropeCosVal pos beta j d
    let n := ropeSinVal pos beta j d
    [roundF32 (FVal.sum mode [a.mul c, (b.mul n).neg]), roundF32 (FVal.sum mode [a.mul n, b.mul c])]

/-- The gate and up columns of GLU.ACT's second form (R91): column c of gate. -/
def gluCol (g c : Nat) : Nat := 2 * (c / g) * g + c % g

/-- Rows in a row group (R86). -/
def rowGroup (v w : Nat) : Nat := if w ≤ v ∧ 0 < w then min 256 (v / w) else 1

/-- One row of a vector instruction: S0's bytes, S3's bytes where SOFTMAX writes them, the overflow mark. xs, ys, zs
are the values of the rows of S1, S2, S3; pos is ROPE's position. -/
def vectorRow (i : Inst) (draw : Nat → Nat) (xs ys zs : List FVal) (pos : Nat) : Bytes × Bytes × Bool :=
  let k := i.pkt
  let fmt := (i.dd 0).format
  let mode := k.round
  let e := blockExpOf (i.dd 1)
  let out (vs : List FVal) (ovf : Bool) : Bytes × Bytes × Bool := (packVals fmt mode draw vs, [], ovf)
  match k.opcode with
  | 0x38 =>
    let r := rowSum k.a k.anch e xs
    out [r.1] r.2
  | 0x39 => out [maxVal xs] false
  | 0x3A =>
    let r := rowSum k.a k.anch (2 * e + 1) (xs.map fun x => x.mul x)
    out [r.1] r.2
  | 0x50 =>
    let g := 2 ^ bits k.imm 0 4
    let f := bits k.md 4 4
    if (i.d 2).isSome then out ((xs.zip ys).map fun p => (actVal f p.1).mul p.2) false
    else out ((List.range (xs.length / 2)).map fun c =>
      (actVal f (xs.getD (gluCol g c) .zero)).mul (xs.getD (gluCol g c + g) .zero)) false
  | 0x51 =>
    let r := softRow k.a k.imm k.anch xs
    (softOut fmt mode r, codeBytes 0x01 [toF32 r.m, toF32 r.l], r.ovf)
  | 0x52 =>
    let r := rmsRow k.a k.imm k.anch e xs ys
    out r.1 r.2
  | 0x53 => out (ropeRow k.imm pos xs.length mode xs) false
  | _ => out ((xs.zip (List.range xs.length)).map fun p =>
      elemVal k.opcode k.imm mode p.1 (ys.getD p.2 .zero) (zs.getD p.2 .zero)) false

/-- The row of an operand that row r of the output meets: the one row of RMSNORM's shared gain, else row r. -/
def operandRow (d o : Desc) (r : Nat) : Nat := if d.rows = 1 ∧ o.rows ≠ 1 then 0 else r

/-- The work of a vector-class instruction (R86 to R91, R114). -/
def vectorWork (s : State) (i : Inst) : Work :=
  let k := i.pkt
  let o := i.dd 0
  let x := i.dd 1
  let rows := o.rows
  let grp := rowGroup k.a (if rowWise k.opcode then x.n0 else o.n0)
  let cls := s.clustersFor i (ceilDiv rows grp)
  let key : SrKey := { seed := field i.params 0 8, step := field i.params 8 4, tensor := k.imm }
  let s3 := if k.opcode = 0x33 then i.d 3 else none
  let fail := firstEvent
    [s.srcEvent i x cls, ((i.d 2).map fun d => s.srcEvent i d cls).getD 0,
     (s3.map fun d => s.srcEvent i d cls).getD 0]
  let outs := (List.range rows).map fun r =>
    let cl := s.clusterAt i (r / grp)
    let vals (n : Nat) (d : Desc) :=
      rowVals d.format d.n0 (s.srcRow i n cl (operandRow d o r))
    let pos := if k.opcode = 0x53 then bits ((unpackRow 0x09 1 (s.srcRow i 2 cl r)).getD 0 0) 0 24 else 0
    (r, cl, vectorRow i (fun j => srDraw key (j + o.n0 * r)) (vals 1 x)
      (if k.opcode = 0x53 then [] else ((i.d 2).map fun d => vals 2 d).getD [])
      ((s3.map fun d => vals 3 d).getD []) pos)
  let pieces := outs.flatMap fun t =>
    ({ d := o, row := t.1, cl := t.2.1, bs := t.2.2.1 } : Piece) ::
      (match (if k.opcode = 0x51 then i.d 3 else none) with
       | some d => [{ d := d, row := t.1, cl := t.2.1, bs := t.2.2.2.1 }]
       | none => [])
  let ovf := outs.any fun t => t.2.2.2.2
  let unit (d : Desc) := (d, d.units grp k.a)
  { fail := fail, event := if ovf then Ev.anchOvf else 0, count := o.elements, pieces := pieces,
    reads := [unit x] ++ ((i.d 2).map unit).toList ++ (s3.map unit).toList }

end Sys2Proof.Machine
end

