-- ==== Sys2Proof/Machine/Opt.lean ====
section
/-!
DEFINITION. Optimiser instructions (R221 to R227): the optimiser block, its checks, the update of each element,
the wings copies and the seal record.
Readings of the rules that they leave open: log entry 51 (DEDUCED or DESIGN CHOICE, as the log marks each).
-/

namespace Sys2Proof.Machine

/-- The optimiser block (R221). -/
structure OptBlock where
  lr : FVal
  beta1 : FVal
  beta2 : FVal
  eps : FVal
  decay : FVal
  gscale : FVal
  bc1 : FVal
  bc2 : FVal
  seed : Nat
  step : Nat
  tensor : Nat
  wingsW : Nat
  wingsS : Nat
  sealRec : Nat
  flags : Nat
  clean : Bool

/-- The optimiser block from its 64 bytes. -/
def OptBlock.ofBytes (b : Bytes) : OptBlock where
  lr := ofF32 (field b 0x00 4)
  beta1 := ofF32 (field b 0x04 4)
  beta2 := ofF32 (field b 0x08 4)
  eps := ofF32 (field b 0x0C 4)
  decay := ofF32 (field b 0x10 4)
  gscale := ofF32 (field b 0x14 4)
  bc1 := ofF32 (field b 0x18 4)
  bc2 := ofF32 (field b 0x1C 4)
  seed := field b 0x20 8
  step := field b 0x28 4
  tensor := field b 0x2C 2
  wingsW := field b 0x2E 2
  wingsS := field b 0x30 2
  sealRec := field b 0x32 2
  flags := field b 0x34 1
  clean := allZero (slice b 0x35 11)

/-- SEAL is set (R221). -/
def OptBlock.seals (o : OptBlock) : Bool := bits o.flags 0 1 == 1

/-- A finite value, at least 0. -/
def nonNeg (x : FVal) : Bool := x.isFinite && (x.isZero || !x.sign)

/-- 0 ≤ x < 1. -/
def unitInterval (x : FVal) : Bool := nonNeg x && x.lt .one

/-- State elements for each weight (R221). -/
def optWidth (op : Nat) : Nat := if op = 0x80 then 2 else 1

/-- The fields of the optimiser block are in range (R221). -/
def OptBlock.ok (o : OptBlock) (op : Nat) : Bool :=
  o.clean && nonNeg o.lr && nonNeg o.decay && o.gscale.isFinite && unitInterval o.beta1 && unitInterval o.beta2 &&
    (op != 0x82 || o.beta2.isZero) &&
    (if op = 0x80 then nonNeg o.eps && !o.eps.isZero && o.bc1.isFinite && nonNeg o.bc2
     else o.eps.isZero && o.bc1.isZero && o.bc2.isZero) &&
    ((o.wingsW != 0) == (o.wingsS != 0)) && ((o.sealRec != 0) == o.seals) &&
    decide (o.flags < 4) && (bits o.flags 1 1 == 0 || op == 0x82)

/-- The descriptors that the optimiser block names: the wings copies of S0 and S2, the seal record. -/
def optAux (params : Bytes) : List Nat := [field params 0x2E 2, field params 0x30 2, field params 0x32 2]

/-- The shape of a wings copy (R225). -/
def wingsOk (w s : Option Desc) : Bool :=
  match w, s with
  | some w, some s => w.tier == tPeer && w.sameShape s && w.format == s.format
  | some _, none => false
  | none, _ => true

/-- Order 4 of an optimiser instruction (R221, R225). -/
def optShapesOk (i : Inst) : Bool :=
  let s0 := i.dd 0
  let s1 := i.dd 1
  let s2 := i.dd 2
  s1.sameShape s0 && s2.n0 == optWidth i.pkt.opcode * s0.n0 && s2.n1 == s0.n1 && s2.n2 == s0.n2 && s2.n3 == s0.n3 &&
    !s0.clashes s1 && !s0.clashes s2 && !s1.clashes s2 && (s1.format != 0x0F || s1.blockExp.isSome) &&
    decide (64 ≤ (i.dd 3).cap) && (OptBlock.ofBytes i.params).ok i.pkt.opcode &&
    wingsOk (i.aux 0) (i.d 0) && wingsOk (i.aux 1) (i.d 2) &&
    (match i.aux 2 with
     | some d => d.tier == tPeer && d.n0 == 64 && d.n1 == 1 && d.n2 == 1 && d.n3 == 1
     | none => true)

/-- The optimiser class's own checks, by order (R221). -/
def optCheck (i : Inst) (order : Nat) : Nat :=
  match order with
  | 2 => if bits i.pkt.md 0 3 = 5 ∨ bits i.pkt.md 0 3 = 6 then 0 else Ev.desc
  | 4 => if optShapesOk i then 0 else Ev.desc
  | 5 =>
    let f0 := (i.dd 0).format
    let f1 := (i.dd 1).format
    if (f0 = 0x01 ∨ f0 = 0x02) ∧ (f1 = 0x01 ∨ f1 = 0x02 ∨ f1 = 0x0F) ∧ (i.dd 2).format = 0x01 ∧
      ((i.aux 2).map (·.format)).getD 0x0E = 0x0E then 0 else Ev.format
  | _ => 0

/-! ## One element (R222, R223) -/

/-- An exact value rounded to FP32 by RNE.SAT. -/
def rsat (x : FVal) : FVal := ofF32 (encodeF fp32 .rneSat 0 x)

def mulS (a b : FVal) : FVal := rsat (a.mul b)
def addS (a b : FVal) : FVal := rsat (a.add b)
def divS (a b : FVal) : FVal := ofF32 (divF fp32 .rneSat a b)
def sqrtS (a : FVal) : FVal := ofF32 (sqrtF fp32 .rneSat a)

/-- The sign of a value: 0 for a zero. -/
def signF (x : FVal) : FVal := if x.isZero then .zero else .fin x.sign 1 0

/-- β × m + (1 − β) × g. -/
def blend (beta m g : FVal) : FVal := addS (mulS beta m) (mulS (rsat (FVal.one.sub beta)) g)

/-- The new state and the step direction u. -/
def optStep (o : OptBlock) (op : Nat) (g : FVal) (st : List FVal) : List FVal × FVal :=
  let m := st.headD .zero
  match op with
  | 0x80 =>
    let m := blend o.beta1 m g
    let v := blend o.beta2 (st.getD 1 .zero) (mulS g g)
    ([m, v], divS (mulS m o.bc1) (addS (sqrtS (mulS v o.bc2)) o.eps))
  | 0x81 => ([blend o.beta2 m g], signF (blend o.beta1 m g))
  | _ =>
    let m := addS (mulS o.beta1 m) g
    ([m], if bits o.flags 1 1 = 1 then addS g (mulS o.beta1 m) else m)

/-- An element's update: its new weight code and state, none when it is left unchanged (R223). -/
def optElem (o : OptBlock) (op : Nat) (f : FFmt) (mode : Round) (draw : Nat) (w g : FVal) (st : List FVal) :
    Option (Nat × List FVal) :=
  let g := mulS g o.gscale
  if !g.isFinite || !w.isFinite || st.any (fun x => !x.isFinite) ||
      (op == 0x80 && (st.getD 1 .zero).sign && !(st.getD 1 .zero).isZero) then none
  else
    let r := optStep o op g st
    let d := mulS o.lr (addS r.2 (mulS o.decay w))
    some (encodeF f mode draw (FVal.sum mode [w, d.neg]), r.1)

/-! ## The work of an instruction -/

/-- The gradient of an element from its code (R222). -/
def gradCode (d : Desc) (c : Nat) : FVal :=
  if d.format = 0x0F then roundF32 ((Anch.ofImage 128 c).value 128 (d.blockExp.getD 0))
  else ((floatFmt d.format).map fun f => decodeF f c).getD .nan

/-- Runs of consecutive columns that hold true: first column and length. -/
def trueRuns : Nat → List Bool → List (Nat × Nat)
  | _, [] => []
  | c, false :: t => trueRuns (c + 1) t
  | c, true :: t =>
    match trueRuns (c + 1) t with
    | (c', n) :: r => if c' = c + 1 then (c, n + 1) :: r else (c, 1) :: (c', n) :: r
    | [] => [(c, 1)]

/-- The pieces of a wings copy's row: the columns of updated elements alone (R223, R225). k elements of size b for
each weight. -/
def wingsPieces (w : Option Desc) (row cl k b : Nat) (up : List Bool) (bs : Bytes) : List Piece :=
  match w with
  | none => []
  | some d => (trueRuns 0 up).map fun r =>
      { d := d, row := row, cl := cl, off := r.1 * k * b, bs := slice bs (r.1 * k * b) (r.2 * k * b) }

/-- The work of OPT.ADAMW, OPT.LION and OPT.SGDM (R221 to R226). -/
def optWork (s : State) (i : Inst) : Work :=
  let k := i.pkt
  let o := OptBlock.ofBytes i.params
  let d0 := i.dd 0
  let d1 := i.dd 1
  let d2 := i.dd 2
  let f := (floatFmt d0.format).getD fp32
  let grp := rowGroup k.a d0.n0
  let cls := s.clustersFor i (ceilDiv d0.rows grp)
  let key : SrKey := { seed := o.seed, step := o.step, tensor := o.tensor }
  let wd := optWidth k.opcode
  let fail := firstEvent
    [s.srcEvent i d0 cls, s.srcEvent i d1 cls, s.srcEvent i d2 cls]
  let outs := (List.range d0.rows).map fun r =>
    let cl := s.clusterAt i (r / grp)
    let ws := unpackRow d0.format d0.n0 (s.srcRow i 0 cl r)
    let gs := unpackRow d1.format d1.n0 (s.srcRow i 1 cl r)
    let ss := unpackRow 0x01 d2.n0 (s.srcRow i 2 cl r)
    (r, cl, (List.range d0.n0).map fun e =>
      let w := ws.getD e 0
      let st := (ss.drop (wd * e)).take wd
      match optElem o k.opcode f k.round (srDraw key (e + d0.n0 * r)) (decodeF f w) (gradCode d1 (gs.getD e 0)) (st.map ofF32) with
      | some x => (true, x.1, x.2.map toF32)
      | none => (false, w, st))
  let pieces := outs.flatMap fun t =>
    let up := t.2.2.map (·.1)
    let wb := codeBytes d0.format (t.2.2.map (·.2.1))
    let sb := codeBytes 0x01 (t.2.2.flatMap (·.2.2))
    [({ d := d0, row := t.1, cl := t.2.1, bs := wb } : Piece), { d := d2, row := t.1, cl := t.2.1, bs := sb }] ++
      wingsPieces (i.aux 0) t.1 t.2.1 1 (pitchBits d0.format / 8) up wb ++
      wingsPieces (i.aux 1) t.1 t.2.1 wd 4 up sb
  let unit (d : Desc) := (d, d.units grp k.a)
  { fail := fail, count := (outs.flatMap fun t => t.2.2.filter (·.1)).length, pieces := pieces,
    reads := [unit d0] ++ [unit d1] ++ [unit d2] }

/-! ## The seal (R226) -/

/-- The seal record's 64 bytes. -/
def State.sealRecord (s : State) (i : Inst) : Bytes :=
  let rank := ((s.jobCompany i.part).map (·.rank)).getD 0
  natLE 8 ((OptBlock.ofBytes i.params).step + 1) ++ natLE 8 s.time.cue ++ natLE 8 s.digest ++ natLE 2 rank ++ zeros 38

/-- An optimiser instruction with SEAL set waits for its seal, unless an event or a zero shape makes it none. -/
def State.awaitSeal (s : State) (i : Inst) : Inst :=
  if (OptBlock.ofBytes i.params).seals ∧ i.event = 0 then { i with wait := .sealAck, waitCue := s.time.cue } else i

/-- The device keeps the SEAL_CUE of its own seals, by generation (R265). -/
def State.noteSeal (s : State) (p addr : Nat) : State :=
  let v := s.partition p
  match v.res with
  | none => s
  | some r =>
    let keep (k : Nat) := s.setPartition p { v with replay := { v.replay with seals := (v.replay.seals.filter (·.1 != k)) ++ [(k, s.time.cue)] } }
    if addr = r.seal0 then keep 0 else if addr = r.seal1 then keep 1 else s

/-- The seal of an instruction, or of a stage, is sent; the answer includes what to await. -/
def State.sendSeal (s : State) (i : Inst) : State × List (Nat × Nat × Nat) :=
  let d := (i.aux 2).getD {}
  let s := s.noteSeal i.part d.base
  s.sendPeer i.part d.rank d.base (s.sealRecord i)

end Sys2Proof.Machine
end

