-- ==== Sys2Proof/Machine/Attn.lean ====
section
/-!
DEFINITION. Attention (R126 to R135, R147 to R149): the attention block, its checks, positions and masks, the
quantised keys, the bounds and sums of a row, and the backward terms. The ring that carries the blocks
stands in Machine/Drove.lean.
Readings of the rules that they leave open: log entry 21 (DEDUCED or DESIGN CHOICE, as the log marks each).
-/

namespace Sys2Proof.Machine

/-! ## The attention block (R126) -/

/-- The fields of the attention block that are no descriptor index. -/
structure AttnBlock where
  mask : Nat
  layout : Nat
  ports : Nat
  preemptPoint : Nat
  scale : FVal
  seqTokens : Nat
  boundBudget : Nat
  stepBudget : Nat
  slipAllow : Nat
  clean : Bool

def AttnBlock.ofBytes (b : Bytes) : AttnBlock where
  mask := field b 0x12 1
  layout := field b 0x13 1
  ports := field b 0x14 1
  preemptPoint := field b 0x16 2
  scale := ofF32 (field b 0x18 4)
  seqTokens := field b 0x1C 4
  boundBudget := field b 0x20 4
  stepBudget := field b 0x24 4
  slipAllow := field b 0x28 2
  clean := field b 0x15 1 == 0 && allZero (slice b 0x2A 22)

/-- The descriptor indices of the block: RING, STATS, SCRATCH, SEG, POS, STATUS, OUT, DOUT, DKV. -/
def attnAux (params : Bytes) : List Nat := (List.range 9).map fun k => field params (2 * k) 2

/-- The instruction is ATTN.BWD. -/
def Inst.isBwd (i : Inst) : Bool := i.pkt.opcode == 0x1D

/-- The values of a UINT32 tensor of one row, as logical cluster 0 reads them. -/
def State.wordsOf (s : State) (i : Inst) (d : Desc) : List Nat :=
  unpackRow 0x09 d.n0 (s.rowBytesOf d (s.fnOf i) (s.clusterAt i 0) (0, 0, 0))

/-- The company entry that a queue's ring instructions use: the lowest of the partition's that names the queue
(R155). -/
def State.ringEntry (s : State) (i : Inst) : Option (Nat × CompanyEntry) :=
  (s.companiesOf i.part).find? fun e => e.2.queue == i.queue

/-- The roster under which an instruction runs: that of its scene's beginning (R157), as address and epoch. -/
def State.rosterPlace (s : State) (i : Inst) (e : Nat × CompanyEntry) : Nat × Nat :=
  match i.scene.bind (s.scene? i.part) with
  | some sc => ((sc.rosters.find? fun x => x.1 == e.1).map (·.2)).getD (e.2.roster, e.2.epoch)
  | none => (e.2.roster, e.2.epoch)

/-! ## Checks (R126 to R128) -/

/-- Fields of the block in range, order 4 (R127). -/
def AttnBlock.ok (b : AttnBlock) (bwd : Bool) : Bool :=
  b.clean && decide (b.mask < 4) && decide (b.layout ≤ 1) && inRange b.ports 1 4 &&
    decide (b.preemptPoint ≤ 255 ∨ b.preemptPoint = 65535) && b.scale.isFinite && !b.scale.isZero && !b.scale.sign &&
    decide (b.seqTokens ≤ 2 ^ 24) && (if bwd then b.boundBudget == 0 else b.boundBudget != 0) && b.stepBudget != 0

/-- A float format that a row's result takes (R126). -/
def outFloat (c : Nat) : Bool := c == 0x01 || c == 0x02 || c == 0x03

/-- A tensor's SHAPE. -/
def Desc.is (d : Desc) (a b c e : Nat) : Bool := d.n0 == a && d.n1 == b && d.n2 == c && d.n3 == e

/-- A UINT32 tensor of n elements. -/
def isWords (n : Nat) (d : Desc) : Bool := d.kind == kTensor && d.format == 0x09 && d.n0 == n && d.n1 == 1 && d.n2 == 1 && d.n3 == 1

/-- Operands' SHAPEs and formats, order 4 (R127); Hq is a multiple of an Hkv of 0 when it is 0 too. That STATUS is of format BYTES
and holds 64 bytes is the model's reading of 'a 64-byte ring status record' (DEDUCED, log entry 63). -/
def attnShapesOk (i : Inst) (b : AttnBlock) : Bool :=
  let q := i.dd 1
  let kv := i.dd 2
  let o := i.dd 0
  let t := q.n1
  let need (k : Nat) := (i.aux k).isSome
  let opt (k : Nat) (f : Desc → Bool) := (match i.aux k with
    | some d => f d
    | none => true)
  let bwd := i.isBwd
  need 0 && need 1 && need 2 && (bits b.mask 1 1 == 0 || need 3) && (need 6 == bwd) && (need 7 == bwd) && (need 8 == bwd) &&
    (q.format == 0x02 || q.format == 0x03) && q.n0 == i.pkt.c && q.n3 == 1 &&
    kv.format == q.format && kv.n0 == q.n0 && kv.n1 == t && kv.n3 == 2 && q.n2 % kv.n2 == 0 &&
    o.sameShape q && outFloat o.format &&
    opt 0 (fun d => d.kind == kTensor && d.tier != tPeer && isWords d.n0 d && inRange d.n0 1 1024) &&
    opt 1 (fun d => d.kind == kTensor && d.format == 0x01 && d.n0 == 2 && d.n1 == t && d.n2 == q.n2 && d.n3 == 1) &&
    opt 2 (fun d => d.tier == tStacked && d.format == 0x0E && d.kind == kTensor) &&
    opt 3 (isWords t) && opt 4 (isWords t) &&
    opt 5 (fun d => d.kind == kTensor && d.format == 0x0E && decide (64 ≤ d.extent)) &&
    opt 6 (fun d => d.kind == kTensor && d.sameShape q && outFloat d.format) &&
    opt 7 (fun d => d.kind == kTensor && d.sameShape q && outFloat d.format) &&
    opt 8 (fun d => d.kind == kTensor && d.sameShape kv && outFloat d.format) &&
    (!bwd || (o.blockExp.isSome && q.blockExp.isSome && kv.blockExp.isSome && opt 7 (·.blockExp.isSome) &&
      opt 8 (·.blockExp.isSome)))

/-- The ring, the token count, the layout and the scene, order 4 (R127). -/
def attnRingOk (s : State) (i : Inst) (b : AttnBlock) : Bool :=
  let ring := s.wordsOf i ((i.aux 0).getD {})
  let t := (i.dd 1).n1
  match s.ringEntry i with
  | none => false
  | some e =>
    (ring.filter (· == e.2.rank)).length == 1 && ring.all (fun r => decide (r < e.2.size)) && ring.eraseDups.length == ring.length &&
      b.seqTokens == ring.length * t && (if b.layout = 0 then t % 128 == 0 else t % 64 == 0) &&
      (b.preemptPoint == 65535 ||
        (match i.scene.bind (s.scene? i.part) with
         | some sc =>
           let h := s.holdBudget i.part sc
           decide (b.boundBudget ≤ h ∧ b.stepBudget ≤ h)
         | none => true))

/-- The scratch requirement (R128). -/
def attnScratch (i : Inst) : Nat :=
  let q := i.dd 1
  let kv := i.dd 2
  let t := q.n1
  let d := q.n0
  let b := pitchBits kv.format / 8
  if i.isBwd then 2 * (t * kv.n2 * d * (2 * b + 48) + 8 * t + 4096) + t * q.n2 * (24 * d + 16)
  else 2 * (t * kv.n2 * d * 2 * b + 8 * t + 4096) + t * kv.n2 * (d + 8) + 8 * t + 4096 + t * q.n2 * (16 * d + 24)

/-- The attention class's own checks, by order; the second working area of ATTN.BWD is checked with the first (R128). -/
def attnCheck (s : State) (i : Inst) (order : Nat) : Nat :=
  let b := AttnBlock.ofBytes i.params
  match order with
  | 2 => if i.pkt.md = 0 ∧ i.pkt.imm = 0 ∧ i.pkt.cueq = 2 then 0 else Ev.desc
  | 4 =>
    if !(decide (64 ≤ (i.dd 3).cap) && b.ok i.isBwd) then Ev.desc
    else if !attnShapesOk i b then Ev.desc
    else
      let ring := (i.aux 0).getD {}
      if s.srcEvent i ring [s.clusterAt i 0] ≠ 0 then s.srcEvent i ring [s.clusterAt i 0]
      else if attnRingOk s i b then 0 else Ev.desc
  | 10 =>
    let k := i.pkt
    let w := s.windowOf i
    let swapped := workArea .attention { k with ta := k.tb, tb := k.ta }
    if ((i.aux 2).map (·.cap)).getD 0 < attnScratch i then Ev.fit
    else if i.isBwd ∧ swapped > w then Ev.fit
    else if k.b * k.c * 2 > 65536 ∨ (i.isBwd ∧ k.a * k.c * 2 > 65536) then Ev.fit else 0
  | _ => 0

/-! ## Positions and masks (R130 to R132) -/

/-- The sequence index of local token t of ring position p in a ring of n (R130). -/
def seqIndex (layout n p t total : Nat) : Nat :=
  if layout = 0 then
    let c := total / (2 * n)
    if t < c then p * c + t else (2 * n - 1 - p) * c + (t - c)
  else p * (total / n) + t

/-- The padding segment (R131). -/
def padSegment : Nat := 2 ^ 32 - 1

/-- A key at position j with segment c is unmasked for a query at position i with segment a (R131). -/
def unmasked (causal segment : Bool) (i a j c : Nat) : Bool :=
  (!causal || decide (j ≤ i)) && (!segment || (a == c && a != padSegment))

/-- Least and greatest of a list. -/
def spanOf (l : List Nat) : Nat × Nat := (l.foldl min (l.headD 0), l.foldl max 0)

/-- A tile pair that the device skips: wholly masked by its least and greatest positions and segments (R132). -/
def pairSkipped (causal segment : Bool) (qp qs kp ks : List Nat) : Bool :=
  let a := spanOf qp
  let b := spanOf kp
  let c := spanOf qs
  let d := spanOf ks
  (causal && decide (b.1 > a.2)) ||
    (segment && (decide (d.1 > c.2) || decide (d.2 < c.1) || c.1 == padSegment || d.1 == padSegment))

/-! ## Rows and keys (R133) -/

/-- The k-th run of d items. -/
def runOf {α : Type} (l : List α) (d k : Nat) : List α := (l.drop (d * k)).take d

/-- ⌊log2 max |x|⌋ of a row; −128 for a row of zeros, 127 with a NaN or an infinity (R133). -/
def rowExp (xs : List FVal) : Int :=
  if xs.any (fun x => !x.isFinite) then 127
  else match (xs.filter fun x => !x.isZero).map FVal.exponent with
    | [] => -128
    | e :: t => t.foldl max e

/-- The exponent as a key's record holds it, in a signed byte (R133): that of a row of values below 2^−127, which no byte holds,
is taken as −127, so that −128 marks a row of zeros alone (DESIGN CHOICE, log entry 62). -/
def recordExp (xs : List FVal) : Int := if xs.all FVal.isZero then -128 else max (-127) (rowExp xs)

/-- FP8 codes of a row under the scale 2^(a − 7) (R133); all zero for a row of zeros, and for one that holds a NaN or an infinity,
whose results R135 gives. -/
def quantRow (a : Int) (xs : List FVal) : List Nat :=
  if xs.all FVal.isZero || xs.any (fun x => !x.isFinite) then xs.map fun _ => 0
  else xs.map fun x => encodeF fp8e4m3 .rne 0 (x.scale (7 - a))

/-- The values of a quantised row. -/
def quantVals (a : Int) (cs : List Nat) : List FVal := cs.map fun c => (decodeF fp8e4m3 c).scale (a - 7)

/-- Rounding to FP32 toward +∞. -/
def upF (x : FVal) : FVal := ofF32 (encodeF fp32 .rup 0 x)

/-- A key's record: K1 as an FP32 code, a_k, b_v (R133). -/
def keyRecord (k v : List FVal) : Nat × Int × Int :=
  let a := recordExp k
  (toF32Up ((quantVals a (quantRow a k)).map FVal.abs), a, recordExp v)
where
  /-- The FP32 code, rounded up, of an exact sum. -/
  toF32Up (xs : List FVal) : Nat := encodeF fp32 .rup 0 (FVal.sum .rne xs)

/-- 2^(a − 4), taken as 0 for a zero row. -/
def marginScale (zero : Bool) (a : Int) : FVal := if zero then .zero else .fin false 1 (a - 4)

/-- One pair's bound s̃ + g (R133): τ, the query row and its a, the key's FP8 values and record. -/
def pairBound (tau : FVal) (q : List FVal) (aq : Int) (k : List FVal) (rec : Nat × Int × Int) : FVal :=
  let qv := quantVals aq (quantRow aq q)
  let st := roundF32 (tau.mul (FVal.sum .rne (qv.zip k |>.map fun p => p.1.mul p.2)))
  let q1 := upF (FVal.sum .rne (q.map FVal.abs))
  let g := upF (tau.mul (upF (FVal.sum .rne [q1.mul (marginScale (rec.2.1 == -128) rec.2.1), (marginScale (q.all FVal.isZero) aq).mul (ofF32 rec.1)])))
  let g := upF (g.add (upF (st.abs.scale (-22))))
  upF (st.add g)

/-- The score of a query row against a key (R133's section head). -/
def score (tau : FVal) (q k : List FVal) : FVal :=
  roundF32 (tau.mul (FVal.sum .rne (q.zip k |>.map fun p => p.1.mul p.2)))

/-- One pair of the bound sweep in a row's accumulator (R133). -/
def RowAcc.boundPair (x : RowAcc) (tau : FVal) (q : List FVal) (k : List FVal) (rec : Nat × Int × Int) : RowAcc :=
  let b := pairBound tau q (rowExp q) k rec
  { x with bound := some (match x.bound with
             | none => toF32 b
             | some m => toF32 ((ofF32 m).max b))
           ev := max x.ev rec.2.2 }

/-- One pair of the sum sweep (R134); a key or a value row with a NaN or an infinity makes the row NaN (R135). -/
def RowAcc.sumPair (x : RowAcc) (tau : FVal) (q k v : List FVal) : RowAcc :=
  match x.bound with
  | none => x
  | some m =>
    if x.bad || (k ++ v).any (fun y => !y.isFinite) then { x with bad := true }
    else
      let p := sfuVal .exp (roundF32 ((score tau q k).sub (ofF32 m)))
      let vs := if x.v = [] then v.map fun _ => ({} : Anch) else x.v
      { x with l := x.l.addTerm 96 0 p, v := (vs.zip v).map fun y => y.1.addTerm 128 x.ev (p.mul y.2) }

/-- The outputs of a row of ATTN.FWD (R135): O's codes, M and L. -/
def RowAcc.normalise (x : RowAcc) (fmt d : Nat) : List Nat × Nat × Nat :=
  let f := (floatFmt fmt).getD fp32
  let nan := (List.replicate d (f.nan.getD 0), 0x7FC00000, 0x7FC00000)
  match x.bound with
  | none => (List.replicate d 0, 0xFF800000, 0)
  | some m =>
    let l := (x.l.check 96).value 96 0
    let vs := x.v.map fun a => (a.check 128).value 128 x.ev
    if x.bad || l.isNaN || vs.any FVal.isNaN then nan
    else (vs.map fun v => divF f .rne v l, m, toF32 l)

/-! ## A step of a forward sweep (R134, R138) -/

/-- The query rows of an instruction: values of row t + T × h. -/
def State.queryRow (s : State) (i : Inst) (d : Desc) (r : Nat) : List FVal := rowVals d.format d.n0 (s.srcRow i 1 (s.clusterAt i r) r)

/-- The rows of a forward step against a block: every unmasked pair, in the block's order (R137: the order does not
matter). -/
def attnRows (r : Ring) (b : RingBlock) (queries : List (List FVal)) (fmt : Nat) (bound : Bool) : List RowAcc :=
  let f := (floatFmt fmt).getD bf16
  (r.rows.zip (List.range r.rows.length)).map fun x =>
    let t := x.2 % max 1 r.t
    let h := x.2 / max 1 r.t * r.hkv / max 1 r.hq
    let q := queries.getD x.2 []
    let js := (List.range r.t).filter fun j =>
      unmasked r.causal r.segment (r.own.pos.getD t 0) (r.own.seg.getD t 0) (b.pos.getD j 0) (b.seg.getD j 0)
    js.foldl (fun acc j =>
      let k := j + r.t * h
      if bound then
        let kr := b.records.getD k (0, -128, -128)
        acc.boundPair (ofF32 r.scale) q (quantVals kr.2.1 (runOf b.keys r.d k)) kr
      else acc.sumPair (ofF32 r.scale) q ((runOf b.keys r.d k).map (decodeF f)) ((runOf b.vals r.d k).map (decodeF f))) x.1

/-- Tile pairs skipped in one step (R132): query tiles of ta rows against key tiles of tb, for each query head. -/
def pairsSkipped (r : Ring) (b : RingBlock) (ta tb : Nat) : Nat :=
  let qp := chunks ta r.own.pos
  let qs := chunks ta r.own.seg
  let kp := chunks tb b.pos
  let ks := chunks tb b.seg
  r.hq * ((List.range qp.length).flatMap fun x => (List.range kp.length).filter fun y =>
    pairSkipped r.causal r.segment (qp.getD x []) (qs.getD x []) (kp.getD y []) (ks.getD y [])).length

/-! ## A backward step (R147, R148) -/

/-- One unmasked pair of the backward passes: p, dS and the three terms' factors. -/
def bwdPair (tau : FVal) (q k v do' : List FVal) (m l di : FVal) : FVal × FVal :=
  let p := ofF32 (divF fp32 .rne (sfuVal .exp (roundF32 ((score tau q k).sub m))) l)
  let dp := roundF32 (FVal.sum .rne (do'.zip v |>.map fun x => x.1.mul x.2))
  (p, roundF32 (p.mul (roundF32 (dp.sub di))))

/-- Terms c × x_d added to a row of accumulators at an anchor (R112). -/
def addRow (anchor : Int) (acc : List Anch) (c : FVal) (xs : List FVal) : List Anch :=
  (acc.zip xs).map fun y => y.1.addTerm 128 anchor (c.mul y.2)

/-- What a backward step reads of this member's own rows: Q, dO, M, L and D_i of row r. -/
structure BwdRow where
  q : List FVal
  dO : List FVal
  m : FVal
  l : FVal
  di : FVal

/-- The unmasked keys of query row r in a block, as key indices j + T × head. -/
def bwdKeys (r : Ring) (b : RingBlock) (row : Nat) : List Nat :=
  let t := row % max 1 r.t
  let h := row / max 1 r.t * r.hkv / max 1 r.hq
  ((List.range r.t).filter fun j =>
    unmasked r.causal r.segment (r.own.pos.getD t 0) (r.own.seg.getD t 0) (b.pos.getD j 0) (b.seg.getD j 0)).map (· + r.t * h)

/-- The DQ pass over a block. -/
def dqPass (r : Ring) (b : RingBlock) (fmt : Nat) (anchor : Int) (rows : List BwdRow) : List RowAcc :=
  let f := (floatFmt fmt).getD bf16
  let tau := ofF32 r.scale
  (r.rows.zip (List.range r.rows.length)).map fun x =>
    match rows[x.2]? with
    | none => x.1
    | some w => { x.1 with v := (bwdKeys r b x.2).foldl (fun acc k =>
        let kv := (runOf b.keys r.d k).map (decodeF f)
        let ds := (bwdPair tau w.q kv ((runOf b.vals r.d k).map (decodeF f)) w.dO w.m w.l w.di).2
        addRow anchor acc (tau.mul ds) kv) x.1.v }

/-- The DK and DV passes over a block. -/
def dkvPass (r : Ring) (b : RingBlock) (fmt : Nat) (anchor : Int) (rows : List BwdRow) : RingBlock :=
  let f := (floatFmt fmt).getD bf16
  let tau := ofF32 r.scale
  let pairs := (List.range rows.length).flatMap fun x => (bwdKeys r b x).map fun k => (x, k)
  let go (k : Nat) (val : Bool) (acc : List Anch) : List Anch :=
    (pairs.filter fun p => p.2 == k).foldl (fun acc p =>
      match rows[p.1]? with
      | none => acc
      | some w =>
        let c := bwdPair tau w.q ((runOf b.keys r.d k).map (decodeF f)) ((runOf b.vals r.d k).map (decodeF f)) w.dO w.m w.l w.di
        if val then addRow anchor acc c.1 w.dO else addRow anchor acc (tau.mul c.2) w.q) acc
  let ks := List.range (r.t * r.hkv)
  { b with dk := ks.flatMap (fun k => go k false (runOf b.dk r.d k)), dv := ks.flatMap (fun k => go k true (runOf b.dv r.d k)) }

/-! ## Extended images (R149) -/

/-- A 24-byte extended image of a gradient accumulator (R149). -/
def extImage (a : Anch) : Bytes :=
  natLE 24 (unsigned 160 a.sum + b2n a.nan * 2 ^ 160 + b2n a.pinf * 2 ^ 161 + b2n a.ninf * 2 ^ 162 + b2n a.ovf * 2 ^ 163)

/-- The accumulator of an extended image. -/
def ofExtImage (b : Bytes) : Anch :=
  let v := leNat b
  ⟨signed 160 (v % 2 ^ 160), bits v 160 1 == 1, bits v 161 1 == 1, bits v 162 1 == 1, bits v 163 1 == 1⟩

/-- Items of n bytes each, from a run of bytes. -/
def itemsOf (n count : Nat) (b : Bytes) : List Bytes := (List.range count).map fun k => slice b (n * k) n

end Sys2Proof.Machine
end

