-- ==== Sys2Proof/Machine/Drove.lean ====
section
/-!
DEFINITION. The drove ring (R136 to R149): how a ring instruction starts, its steps, the messages that carry
blocks, DONE, POISON, ABSENT and ZERO, slots and credits, the status record, and its ends.
Readings of the rules that they leave open: log entry 20 (DEDUCED or DESIGN CHOICE, as the log marks each).
-/

namespace Sys2Proof.Machine

/-! ## Messages' bytes (R141) -/

/-- A per-key record's 8 bytes (R133). -/
def recordBytes (r : Nat × Int × Int) : Bytes := natLE 4 r.1 ++ natLE 1 (unsigned 8 r.2.1) ++ natLE 1 (unsigned 8 r.2.2) ++ zeros 2

/-- Rows of w bytes as engine-ready tiles (R141, R200): in quads of four rows, piece k of row r of a quad, of 16 bytes, at
64k + 16r. A ring's rows are whole pieces and its tokens whole quads (R127). -/
def toTiles (w : Nat) (rows : Bytes) : Bytes :=
  let p := w / 16
  (List.range (rows.length / 16)).flatMap fun n =>
    slice rows (16 * (n / (4 * p) * (4 * p) + n % 4 * p + n % (4 * p) / 4)) 16

/-- The rows of w bytes that engine-ready tiles hold. -/
def ofTiles (w : Nat) (tiles : Bytes) : Bytes :=
  let p := w / 16
  (List.range (tiles.length / 16)).flatMap fun n =>
    slice tiles (16 * (n / (4 * p) * (4 * p) + n % p * 4 + n % (4 * p) / p)) 16

/-- The payload of a block on a sweep (R141): its rows as engine-ready tiles, then positions and segments, then the records; eb is
S2's element size, d the elements of a row. -/
def RingBlock.payload (b : RingBlock) (sweep eb d : Nat) : Bytes :=
  let place := b.pos.flatMap (natLE 4) ++ b.seg.flatMap (natLE 4)
  let kv := toTiles (eb * d) ((b.keys ++ b.vals).flatMap (natLE eb))
  let acc := toTiles (24 * d) ((b.dk ++ b.dv).flatMap extImage)
  match sweep with
  | 0 => toTiles d (b.keys.flatMap (natLE 1)) ++ place ++ b.records.flatMap recordBytes
  | 1 => kv ++ place
  | 2 => kv ++ acc ++ place
  | _ => acc

/-- Bytes of a sweep's payload: n elements of keys in all, t tokens, h key/value heads. -/
def payloadLength (sweep eb n t h : Nat) : Nat :=
  match sweep with
  | 0 => n + 8 * t + 8 * t * h
  | 1 => 2 * n * eb + 8 * t
  | 2 => 2 * n * eb + 48 * n + 8 * t
  | _ => 48 * n

/-- The block that a payload carries: n elements of keys in rows of d, t tokens, h heads. -/
def RingBlock.ofPayload (sweep owner eb n t h d : Nat) (p : Bytes) : RingBlock :=
  let nums (w count : Nat) (b : Bytes) := (itemsOf w count b).map leNat
  let place (b : Bytes) := (nums 4 t b, nums 4 t (b.drop (4 * t)))
  let grads (b : Bytes) :=
    let rows := ofTiles (24 * d) (b.take (48 * n))
    ((itemsOf 24 n rows).map ofExtImage, (itemsOf 24 n (rows.drop (24 * n))).map ofExtImage)
  let kv := ofTiles (eb * d) (p.take (2 * n * eb))
  match sweep with
  | 0 =>
    let pl := place (p.drop n)
    { owner := owner, keys := nums 1 n (ofTiles d (p.take n)), pos := pl.1, seg := pl.2
      records := (itemsOf 8 (t * h) (p.drop (n + 8 * t))).map fun b =>
        (field b 0 4, signed 8 (field b 4 1), signed 8 (field b 5 1)) }
  | 1 =>
    let pl := place (p.drop (2 * n * eb))
    { owner := owner, keys := nums eb n kv, vals := nums eb n (kv.drop (n * eb)), pos := pl.1, seg := pl.2 }
  | 2 =>
    let g := grads (p.drop (2 * n * eb))
    let pl := place (p.drop (2 * n * eb + 48 * n))
    { owner := owner, keys := nums eb n kv, vals := nums eb n (kv.drop (n * eb)), pos := pl.1, seg := pl.2, dk := g.1, dv := g.2 }
  | _ =>
    let g := grads p
    { owner := owner, dk := g.1, dv := g.2 }

/-- Elements of a block's keys. -/
def Ring.keyElems (r : Ring) : Nat := r.t * r.hkv * r.d

/-- RING_DIGEST (R141). -/
def ringDigestOf (params : Bytes) (ranks : List Nat) : Nat :=
  let idx := (attnAux params).flatMap fun x => natLE 2 (if x = 0 then 0 else 1)
  crc32c (idx ++ slice params 0x12 4 ++ zeros 2 ++ slice params 0x18 18 ++ ranks.flatMap (natLE 4))

/-! ## Leaving the ring -/

/-- A ring instruction ends early without POISON of its own: its status record, outputs unchanged (R136). -/
def State.leaveRing (s : State) (i : Inst) (r : Ring) (event : Nat) : State := s.endWith { i with ring := some r } event false

/-- A ring instruction ends early and poisons both directions (R142, R145). -/
def State.failRing (s : State) (i : Inst) (r : Ring) (event : Nat) : State :=
  (s.sendRingBoth i.part r hPoison event).leaveRing i r event

/-! ## Sending against credits (R138, R140) -/

/-- The scene of an instruction runs (R144). -/
def State.instRuns (s : State) (i : Inst) : Bool :=
  match i.scene with
  | none => true
  | some id => ((s.scene? i.part id).map (·.running)).getD false

/-- What a member can send now goes out: blocks against credits, then a CREDIT for each slot computed with and
forwarded; a homecoming message forwards the block of the last backward step. A member whose scene is switched out sends nothing (R144). -/
def State.flushRing (s : State) (i : Inst) (r : Ring) : State :=
  if s.instRuns i then
    let eb := pitchBits (i.dd 2).format / 8
    let go := r.toSend.zip r.credits
    let s := s.over go fun s x =>
      s.sendRing i.part r r.down hData (x.1.2.2.payload x.1.1 eb r.d) x.1.1 x.1.2.1 x.1.2.2.owner 0 65535 x.2 none i.level
    let sent (sl : RingSlot) := go.any fun x => min 2 x.1.1 == sl.sweep && x.1.2.2.owner == sl.block.owner
    let slots := r.slots.map fun x => (x.1, if sent x.2 then { x.2 with forwarded := true } else x.2)
    let free := slots.filter fun x => x.2.computed && x.2.forwarded
    let s := s.over free fun s x => s.sendRing i.part r r.up hCredit [] 0 0 0 0 65535 x.1
    s.setInst { i with ring := some { r with
      toSend := r.toSend.drop go.length, credits := r.credits.drop go.length
      slots := slots.filter fun x => !(x.2.computed && x.2.forwarded) } }
  else s.setInst { i with ring := some r }

/-- A block joins what is to be sent; without a credit the wait for one begins (R143, R146). -/
def Ring.enqueue (r : Ring) (cue sweep step : Nat) (b : RingBlock) : Ring :=
  { r with toSend := r.toSend ++ [(sweep, step, b)], creditSince := if r.toSend = [] then cue else r.creditSince }

/-! ## Completion (R135, R136, R149) -/

/-- The pieces and the event of a member's outputs. -/
def ringOutputs (i : Inst) (cl : Nat) (r : Ring) : List Piece × Nat :=
  let o := i.dd 0
  if r.bwd then
    let dkv := (i.aux 8).getD {}
    let enc (d : Desc) (l : List Anch) : List Nat × Bool :=
      let f := (floatFmt d.format).getD fp32
      let an := d.blockExp.getD 0
      let fin := l.map (Anch.check 128)
      (fin.map fun a => encodeF f .rne 0 (a.value 128 an), fin.any Anch.overflowed)
    let q := r.rows.map fun x => enc o x.v
    let b := r.home.getD {}
    let kv := enc dkv (b.dk ++ b.dv)
    ((q.zip (List.range q.length)).map (fun x => { d := o, row := x.2, cl := cl, bs := codeBytes o.format x.1.1 : Piece }) ++
      (List.range dkv.rows).map (fun x => { d := dkv, row := x, cl := cl, bs := codeBytes dkv.format (runOf kv.1 r.d x) : Piece }),
     if kv.2 || q.any (fun x => x.2) then Ev.anchOvf else 0)
  else
    let st := (i.aux 1).getD {}
    let rows := (r.rows.zip (List.range r.rows.length)).flatMap fun x =>
      let y := x.1.normalise o.format r.d
      [{ d := o, row := x.2, cl := cl, bs := codeBytes o.format y.1 : Piece },
       { d := st, row := x.2, cl := cl, bs := natLE 4 y.2.1 ++ natLE 4 y.2.2 }]
    (rows, 0)

/-- A member that has ended its last step, sent what others wait for, holds every DONE and, backward, its homecoming message writes
its outputs and may retire (R136, R147, R149). -/
def State.completeRing (s : State) (i : Inst) (r : Ring) : State :=
  if r.finished ∧ r.allDone = true ∧ r.toSend = [] ∧ (r.bwd = false ∨ r.home.isSome) then
    let s := s.leavePoint i r
    let out := ringOutputs i (s.clusterAt i 0) r
    let m := s.finish { i with wait := .none, ring := none } { event := out.2, count := (i.dd 0).elements, pieces := out.1 }
    let t := m.1.writeRingStatus i r m.2.event
    t.1.setInst { m.2 with acks := m.2.acks ++ t.2 }
  else s.setInst { i with ring := some r }

/-! ## Receiving (R136, R138, R140, R142, R146) -/

/-- The ring instruction in flight that a header names. -/
def State.ringFor (s : State) (p : Nat) (h : RingHeader) : Option (Inst × Ring) :=
  s.insts.findSome? fun i =>
    match i.ring with
    | some r => if i.part = p ∧ r.company = h.company.toNat ∧ r.seq = h.collSeq.toNat ∧ i.wait ≠ .peer then some (i, r) else none
    | none => none

/-- A header relayed to the ring neighbours, except the sender (R129, R136, R146); an ABSENT with its SEND_CUE (R266). -/
def State.relayRing (s : State) (p : Nat) (r : Ring) (type : Nat) (h : RingHeader) : State :=
  s.over (r.neighbours.filter (· != h.srcRank.toNat)) fun s d =>
    s.sendRing p r d type [] h.sweep.toNat h.step.toNat h.owner.toNat h.reason.toNat h.absentRank.toNat 0
      (if type = hAbsent then some h.sendCue.toNat else none)

/-- A member forwards a block that it received, unless the next position is the owner's (R138); backward blocks go on
once computed with. -/
def Ring.forwards (r : Ring) (owner : Nat) : Bool := !r.bwd && (r.pos + 1) % max 1 r.n != owner

/-- The step at which the next member works on an owner's block (R138, R147). -/
def Ring.stepThere (r : Ring) (owner : Nat) : Nat :=
  if r.bwd then (owner + r.n + 1 - r.pos) % max 1 r.n else (r.pos + 1 + r.n - owner) % max 1 r.n

/-- A DATA message received whole (R138, R140, R149); one whose length is not its sweep's, or for a slot that is not
free, names nothing that a member sends. -/
def State.ringDataIn (s : State) (i : Inst) (r : Ring) (h : RingHeader) (payload : Bytes) : State :=
  let eb := pitchBits (i.dd 2).format / 8
  let sw := h.sweep.toNat
  let ow := h.owner.toNat
  let sl := h.slot.toNat
  if payload.length ≠ payloadLength sw eb r.keyElems r.t r.hkv ∨ 1 < sl ∨ (r.slots.any fun x => x.1 == sl) = true ∨ 3 < sw then s
  else
    let b := RingBlock.ofPayload sw ow eb r.keyElems r.t r.hkv r.d payload
    if sw = 3 then
      let r := { r with home := some b, slots := r.slots ++ [(sl, ⟨b, 3, 0, true, true⟩)] }
      let s := s.flushRing i r
      match s.ringFor i.part h with
      | some (i, r) => s.completeRing i r
      | none => s
    else
      let wanted := !r.inStep && !r.finished && sw == r.sweep && ow == r.stepOwner
      let late := if wanted then s.time.cue - r.ready else 0
      let fwd := r.forwards ow
      let r := { r with slots := r.slots ++ [(sl, ⟨b, sw, h.step.toNat, false, !fwd && !r.bwd⟩)], waitData := r.waitData + late }
      s.flushRing i (if fwd then r.enqueue s.time.cue sw (r.stepThere ow) b else r)

/-- The header checks of R142. -/
def State.ringHeaderEvent (s : State) (r : Ring) (h : RingHeader) : Nat :=
  if h.bookDigest.toNat ≠ s.digest then Ev.bookSplit
  else if ¬(h.ringDigest.toNat = r.ringDigest ∧ h.tokens.toNat = r.t ∧ h.epoch.toNat = r.epoch) then 0x5010
  else 0

/-- A ring message acts on the instruction that it names (R129, R136, R138, R140, R142, R146). -/
def State.ringAct (s : State) (i : Inst) (r : Ring) (type : Nat) (h : RingHeader) (payload : Bytes) : State :=
  let r := if h.srcRank.toNat = r.next then { r with heardNext := s.time.cue } else r
  let r := if h.srcRank.toNat = r.prev then { r with heardPrev := s.time.cue } else r
  let ev := s.ringHeaderEvent r h
  if (type = hPoison ∨ type = hAbsent) ∧ r.allDone = true then s
  else if ev ≠ 0 then s.failRing i r ev
  else
    match type with
    | 0 => s.ringDataIn i r h payload
    | 5 =>
      let late := if r.awaitsCredit then s.time.cue - r.creditSince else 0
      let s := s.flushRing i { r with
        credits := r.credits ++ [h.slot.toNat], waitCredit := r.waitCredit + late, creditSince := s.time.cue }
      match s.ringFor i.part h with
      | some (i, r) => s.completeRing i r
      | none => s
    | 3 =>
      let r' := if r.doneFrom.contains h.owner.toNat then r else { r with doneFrom := r.doneFrom ++ [h.owner.toNat] }
      let s := if r.ranks.getD h.owner.toNat 0 = r.down then s
        else s.sendRing i.part r r.down hDone [] h.sweep.toNat h.step.toNat h.owner.toNat
      s.completeRing i r'
    | 2 => (s.relayRing i.part r hPoison h).leaveRing i r Ev.peerPoison
    | 4 => (s.relayRing i.part r hAbsent h).leaveRing i { r with absentRank := h.absentRank.toNat } Ev.cueSlip
    | 1 =>
      if r.allDone then s
      else
        let s := s.relayRing i.part r hZero h
        let i := { i with ring := none, wait := .none, event := 0, count := 0, immediate := true }
        let s := s.setInst i
        if s.mayRetire i then s.retire i 0 0 else s
    | _ => s

/-- A ring message received for partition p (R163): of a later sequence number it is held, of an earlier one it is
discarded. -/
def State.ringMessage (s : State) (p type : Nat) (h : RingHeader) (payload : Bytes) : State :=
  match s.ringFor p h with
  | some (i, r) => s.ringAct i r type h payload
  | none =>
    let reading := s.insts.any fun i => i.part == p &&
      ((i.ring.map fun r => r.company == h.company.toNat && r.seq == h.collSeq.toNat).getD false)
    let later := ((s.companyOf p h.company.toNat).map fun e => decide (e.2.collSeq ≤ h.collSeq.toNat)).getD false
    if reading || later then s.setComp { s.comp with heldRing := s.comp.heldRing ++ [⟨p, type, h, payload⟩] } else s

/-! ## Start (R126, R133, R147) -/

/-- A member's own block and per-key records, from S2. -/
def State.ownBlock (s : State) (i : Inst) (pos : Nat) (place seg : List Nat) : RingBlock :=
  let kv := i.dd 2
  let rows := kv.n1 * kv.n2
  let codes (r : Nat) := unpackRow kv.format kv.n0 (s.srcRow i 2 (s.clusterAt i 0) r)
  { owner := pos, keys := (List.range rows).flatMap codes, vals := (List.range rows).flatMap fun r => codes (rows + r)
    pos := place, seg := seg
    dk := if i.isBwd then List.replicate (rows * kv.n0) {} else [], dv := if i.isBwd then List.replicate (rows * kv.n0) {} else [] }

/-- The per-key records of a block (R133). -/
def blockRecords (fmt d : Nat) (b : RingBlock) : List (Nat × Int × Int) :=
  let f := (floatFmt fmt).getD bf16
  (List.range (b.keys.length / max 1 d)).map fun k => keyRecord ((runOf b.keys d k).map (decodeF f)) ((runOf b.vals d k).map (decodeF f))

/-- The FP8 keys of a block. -/
def blockKeys8 (fmt d : Nat) (b : RingBlock) : List Nat :=
  let f := (floatFmt fmt).getD bf16
  (List.range (b.keys.length / max 1 d)).flatMap fun k =>
    let xs := (runOf b.keys d k).map (decodeF f)
    quantRow (recordExp xs) xs

/-- The positions of a member's tokens (R130). -/
def State.ringPositions (s : State) (i : Inst) (b : AttnBlock) (n pos t : Nat) : List Nat :=
  match i.aux 4 with
  | some d => (s.wordsOf i d).map (· % 2 ^ 24)
  | none => (List.range t).map fun x => seqIndex b.layout n pos x b.seqTokens

/-- The event of reading what a ring instruction reads at its start. -/
def State.ringReadEvent (s : State) (i : Inst) : Nat :=
  let cl := [s.clusterAt i 0]
  let ins := [i.d 1, i.d 2, i.aux 0, i.aux 3, i.aux 4] ++ (if i.isBwd then [i.aux 1, i.aux 6, i.aux 7] else [])
  firstEvent (ins.flatMap Option.toList |>.map fun d => s.srcEvent i d cl)

/-- The ring of an instruction as its headers need it, before its operands are read. -/
def State.ringHead (s : State) (i : Inst) (e : Nat × CompanyEntry) (seq : Nat) : Ring :=
  let place := s.rosterPlace i e
  let ranks := match i.aux 0 with
    | some d => s.wordsOf i d
    | none => []
  { bwd := i.isBwd, company := e.2.company, seq := seq, ranks := ranks
    pos := (ranks.findIdx? (· == e.2.rank)).getD 0, roster := s.rosterAt place.1 e.2.size, epoch := place.2
    t := (i.dd 1).n1, ringDigest := ringDigestOf i.params ranks }

/-- The whole ring of an instruction that passed its checks. -/
def State.ringOf (s : State) (i : Inst) (e : Nat × CompanyEntry) (r : Ring) : Ring :=
  let b := AttnBlock.ofBytes i.params
  let q := i.dd 1
  let kv := i.dd 2
  let seg := match i.aux 3 with
    | some d => s.wordsOf i d
    | none => List.replicate q.n1 0
  let own := s.ownBlock i r.pos (s.ringPositions i b r.n r.pos q.n1) seg
  let rows := q.n1 * q.n2
  let qf := (floatFmt q.format).getD bf16
  let acc (x : Nat) : RowAcc :=
    if i.isBwd then { v := List.replicate q.n0 {} }
    else
      let bad := (unpackRow q.format q.n0 (s.srcRow i 1 (s.clusterAt i 0) x)).any fun c => !(decodeF qf c).isFinite
      { bad := bad, bound := if bad then some 0 else none }
  { r with
    origin := s.baseCueOf i.part i.queue (i.scene.bind (s.scene? i.part)) + i.pkt.cueOffset
    hq := q.n2, hkv := kv.n2, d := q.n0, causal := bits b.mask 0 1 == 1, segment := bits b.mask 1 1 == 1
    scale := toF32 b.scale, boundBudget := b.boundBudget, stepBudget := b.stepBudget
    slipAllow := if b.slipAllow ≠ 0 then b.slipAllow else if e.2.slipAllow ≠ 0 then e.2.slipAllow else 4
    preemptPoint := b.preemptPoint, own := own
    ownRecords := if i.isBwd then [] else blockRecords kv.format q.n0 own
    ownKeys8 := if i.isBwd then [] else blockKeys8 kv.format q.n0 own
    sweep := if i.isBwd then 2 else 0, credits := [0, 1], rows := (List.range rows).map acc
    heardNext := s.time.cue, heardPrev := s.time.cue }

/-- The local phase of ATTN.BWD: D_i of every row, as FP32 codes (R147). -/
def State.localPhase (s : State) (i : Inst) (rows : Nat) : List Nat :=
  let o := (i.aux 6).getD {}
  let g := (i.aux 7).getD {}
  let cl := s.clusterAt i 0
  let vals (d : Desc) (r : Nat) := rowVals d.format d.n0 (s.rowBytesOf d (s.fnOf i) cl (d.rowAt r))
  (List.range rows).map fun r => toF32 (FVal.sum .rne ((vals g r).zip (vals o r) |>.map fun x => x.1.mul x.2))

/-- COLL_SEQ taken by an instruction issued for a company (R158). -/
def State.takeSeq (s : State) (e : Nat × CompanyEntry) : State := s.setCompany e.1 { e.2 with collSeq := e.2.collSeq + 1 }

/-- The ring messages held for an instruction act on it, in the order in which they came. -/
def State.releaseRing (s : State) (p company seq : Nat) : State :=
  let mine := fun (h : HeldRing) => h.part == p && h.hdr.company.toNat == company && h.hdr.collSeq.toNat == seq
  let hs := s.comp.heldRing.filter mine
  let s := s.setComp { s.comp with heldRing := s.comp.heldRing.filter fun h => !mine h }
  s.over hs fun s h => s.ringMessage h.part h.type h.hdr h.payload

/-- A ring instruction in flight starts its ring: its scratch becomes undefined, its own block is read, and messages
held for it act. -/
def State.startRing (s : State) (i : Inst) (e : Nat × CompanyEntry) (seq : Nat) : State :=
  let r := s.ringHead i e seq
  let ev := s.ringReadEvent i
  if ev ≠ 0 then s.failRing i r ev
  else
    let r := s.ringOf i e r
    let r := { r with dRow := if i.isBwd then s.localPhase i r.rows.length else [] }
    let s := match i.aux 2 with
      | some d => s.undefineExtent (s.fnOf i) [] d.toExtent
      | none => s
    (s.setInst { i with ring := some r, wait := .ring }).releaseRing i.part r.company seq

/-- A ring instruction that ends at issue: ZERO for a zero shape, POISON for an event, in both directions (R69, R129). -/
def State.ringAtIssue (s : State) (i : Inst) (e : Nat × CompanyEntry) (seq event : Nat) : State :=
  let r := s.ringHead i e seq
  if r.ranks.contains e.2.rank then
    (if event = 0 then s.sendRingBoth i.part r hZero else s.sendRingBoth i.part r hPoison event)
  else s

/-! ## Steps (R138, R139, R144, R148) -/

/-- The oldest ring instruction of a queue. -/
def State.ringOn (s : State) (q : Nat) : Option (Inst × Ring) :=
  (s.instsOf q).findSome? fun i => i.ring.map fun r => (i, r)

/-- The block of the next step, if it is there. -/
def Ring.stepBlock (r : Ring) : Option RingBlock :=
  if r.step = 0 then
    some (if r.sweep = 0 then { r.own with keys := r.ownKeys8, records := r.ownRecords, vals := [] } else r.own)
  else r.stepSlot.map (·.2.block)

/-- A ring step begins (R139): at its scheduled cue or later, the step before it ended, its block there in full, the
scene running. -/
def State.beginStep (s : State) (i : Inst) (r : Ring) : State :=
  if !s.instRuns i || r.inStep || r.finished || decide (s.time.cue < r.scheduled) || r.stepBlock.isNone then s
  else
    let slip := s.time.cue - r.scheduled
    let first := r.step == 0 && (r.bwd || r.sweep == 0)
    let r := { r with inStep := true, firstCue := if first then s.time.cue else r.firstCue, maxSlip := max r.maxSlip slip
                      totalSlip := r.totalSlip + slip, stepsLate := r.stepsLate + (if slip = 0 then 0 else 1) }
    let s := if r.preemptPoint = 65535 then s else s.setPoint i none
    let r := if r.step = 0 ∧ r.bwd = false ∧ 1 < r.n then
        match r.stepBlock with
        | some b => r.enqueue s.time.cue r.sweep 1 b
        | none => r
      else r
    s.flushRing i r

/-- This member's own rows for a backward step. -/
def State.bwdRows (s : State) (i : Inst) (r : Ring) : List BwdRow :=
  let q := i.dd 1
  let st := (i.aux 1).getD {}
  let g := (i.aux 7).getD {}
  let cl := s.clusterAt i 0
  let vals (d : Desc) (x : Nat) := rowVals d.format d.n0 (s.rowBytesOf d (s.fnOf i) cl (d.rowAt x))
  (List.range r.rows.length).map fun x =>
    let ml := vals st x
    ⟨vals q x, vals g x, ml.getD 0 .nan, ml.getD 1 .nan, ofF32 (r.dRow.getD x 0)⟩

/-- The computation of one step: accumulators, and the block as a backward step leaves it. -/
def State.stepWork (s : State) (i : Inst) (r : Ring) (b : RingBlock) : Ring × RingBlock :=
  let fmt := (i.dd 2).format
  let skipped := pairsSkipped r b i.pkt.a i.pkt.b
  if r.bwd then
    let rows := s.bwdRows i r
    let dq := dqPass r b fmt ((i.dd 0).blockExp.getD 0) rows
    let b' := dkvPass r b fmt (((i.aux 8).bind (·.blockExp)).getD 0) rows
    ({ r with rows := dq, pairsSkipped := r.pairsSkipped + skipped + 2 * pairsSkipped r b i.pkt.b i.pkt.a }, b')
  else
    let queries := (List.range r.rows.length).map fun x => s.queryRow i (i.dd 1) x
    ({ r with rows := attnRows r b queries fmt (r.sweep == 0), pairsSkipped := r.pairsSkipped + skipped }, b)

/-- A block after its step: its slot is computed with; backward it goes on to the next member, or home (R147). -/
def Ring.afterStep (r : Ring) (cue : Nat) (b : RingBlock) : Ring :=
  let r := { r with slots := r.slots.map fun x =>
    if x.2.sweep = r.sweep ∧ x.2.block.owner = b.owner then (x.1, { x.2 with computed := true, block := b }) else x }
  if !r.bwd then r
  else if r.n ≤ 1 then { r with home := some b }
  else if r.step + 1 = r.n then r.enqueue cue 3 r.step { b with keys := [], vals := [], pos := [], seg := [] }
  else r.enqueue cue 2 (r.step + 1) b

/-- A ring step ends (R138): every pair computed, accumulators written back; after the last step the member sends
DONE (R136). Each boundary counts as PREEMPT.OK when PREEMPT_POINT says so (R144). -/
def State.endStep (s : State) (i : Inst) (r : Ring) : State :=
  if !r.inStep || !s.instRuns i then s
  else
    match r.stepBlock with
    | none => s
    | some b =>
      let w := s.stepWork i r b
      let r := (w.1.afterStep s.time.cue w.2)
      let last := decide (r.step + 1 ≥ r.n)
      let isLast := last && (r.bwd || r.sweep == 1)
      let r := { r with inStep := false, lastCue := s.time.cue, finished := isLast
                        step := if last then 0 else r.step + 1, sweep := if last && !isLast then 1 else r.sweep }
      let s := if r.preemptPoint = 65535 then s else s.setPoint i (some r.preemptPoint)
      let s := s.flushRing i r
      match s.ringOn i.queue with
      | some (i, r) =>
        if isLast then
          let s := if 1 < r.n then s.sendRing i.part r r.down hDone [] r.sweep 0 r.pos else s
          s.completeRing i r
        else s
      | none => s

/-! ## Slip (R146) -/

/-- From when a member has waited for its neighbour, none when it does not wait: for a credit downstream, for a block
or a DONE upstream. -/
def Ring.waitFrom (r : Ring) (down : Bool) : Option Nat :=
  if down then (if r.awaitsCredit then some r.creditSince else none)
  else if r.finished then (if r.allDone && (!r.bwd || r.home.isSome) then none else some r.lastCue)
  else if r.inStep || r.stepBlock.isSome then none
  else some r.ready

/-- The slip allowance in cues (R146). -/
def Ring.allowance (r : Ring) : Nat := r.slipAllow * (if !r.bwd && r.sweep == 0 then r.boundBudget else r.stepBudget)

/-- A wait for a ring neighbour passes the allowance: the neighbour is declared absent. -/
def State.ringSlip (s : State) (i : Inst) (r : Ring) (fromNext : Bool) : State :=
  match r.waitFrom (fromNext != r.bwd) with
  | none => s
  | some t =>
    let heard := if fromNext then r.heardNext else r.heardPrev
    if s.instRuns i ∧ r.allowance < s.time.cue - max t heard then
      let rank := if fromNext then r.next else r.prev
      ((s.sendRingBoth i.part r hAbsent Ev.cueSlip rank).leaveRing i { r with absentRank := rank } Ev.cueSlip).holdAbsent
        i.part r.company rank s.time.cue
    else s

end Sys2Proof.Machine
end

