-- ==== Sys2Proof/Machine/Coll.lean ====
section
/-!
DEFINITION. The fused collectives' operands (R155, R163, R164, R171 to R181): the collective block, its checks,
the dispatch plan, the agreement record and edge sums, the fixed reduction tree, products of tiles and the
units of DATA. The exchange of headers stands in Machine/Exchange.lean.
-/

namespace Sys2Proof.Machine

/-! ## The collective block (R171) -/

/-- The fields of the collective block that are no descriptor index. -/
structure CollBlock where
  company : Nat
  flags : Nat
  cap : Nat
  budget : Nat
  slipAllow : Nat
  clean : Bool

def CollBlock.ofBytes (b : Bytes) : CollBlock where
  company := field b 0 2
  flags := field b 0x14 1
  cap := field b 0x18 4
  budget := field b 0x1C 4
  slipAllow := field b 0x20 2
  clean := allZero (slice b 0x15 3) && allZero (slice b 0x22 30)

/-- The descriptor indices of the block: DESTS, SOURCES, RECV, BIAS, STATUS, ROUTE, GATES, EXPERTS, COUNTS. -/
def collAux (params : Bytes) : List Nat := (List.range 9).map fun k => field params (2 + 2 * k) 2

def Inst.dests (i : Inst) : Option Desc := i.aux 0
def Inst.sources (i : Inst) : Option Desc := i.aux 1
def Inst.recv (i : Inst) : Option Desc := i.aux 2
def Inst.bias (i : Inst) : Option Desc := i.aux 3
def Inst.route (i : Inst) : Option Desc := i.aux 5
def Inst.gates (i : Inst) : Option Desc := i.aux 6
def Inst.expertsT (i : Inst) : Option Desc := i.aux 7
def Inst.countsT (i : Inst) : Option Desc := i.aux 8

/-- A list of UINT32 values that a block names; none named is the empty list. -/
def State.listOf (s : State) (i : Inst) (d : Option Desc) : List Nat := (d.map (s.wordsOf i)).getD []

/-- The company entry of a fused collective (R155): its queue must be the entry's. One whose block could not be read was issued for
the company whose collectives its queue issues, the lowest entry where the queue has several (R158; DEDUCED, log entry 19). -/
def State.collEntry (s : State) (i : Inst) : Option (Nat × CompanyEntry) :=
  if i.params = [] then s.ringEntry i
  else
    match s.companyOf i.part (CollBlock.ofBytes i.params).company with
    | some e => if e.2.queue = i.queue then some e else none
    | none => none

/-- Ranks named without a repeat, below m. -/
def ranksOk (m : Nat) (l : List Nat) : Bool := l.all (fun r => decide (r < m)) && l.eraseDups.length == l.length

/-- The experts that a member hosts (R179). -/
def hostedBy (experts : List Nat) (rank : Nat) : List Nat := (List.range experts.length).filter fun x => experts[x]? == some rank

/-- The leaves that position j hosts (R176): first leaf and count. -/
def leavesOf (j l m : Nat) : Nat × Nat := (j * l / m, (j + 1) * l / m - j * l / m)

/-! ## The dispatch plan (R179) -/

/-- The expert choices, by token: row t of ROUTE. -/
def State.choices (s : State) (i : Inst) : List (List Nat) :=
  match i.route with
  | none => []
  | some d => (List.range d.n1).map fun t => unpackRow 0x09 d.n0 (s.rowBytesOf d (s.fnOf i) (s.clusterAt i 0) (t, 0, 0))

/-- The pairs (token, choice) that name an expert, in increasing token and then choice. -/
def planOf (route : List (List Nat)) (x : Nat) : List (Nat × Nat) :=
  (route.zip (List.range route.length)).flatMap fun r =>
    (r.1.zip (List.range r.1.length)).filterMap fun c => if c.1 = x then some (r.2, c.2) else none

/-- The pairs that take a slot below CAP. -/
def keptPlan (route : List (List Nat)) (cap x : Nat) : List (Nat × Nat) := (planOf route x).take cap

/-- Choices dropped in all (R179). -/
def droppedOf (route : List (List Nat)) (cap experts : Nat) : Nat :=
  ((List.range experts).map fun x => (planOf route x).length - cap).sum

/-! ## Checks -/

/-- A condition on an operand, true when it is absent. -/
def optD (d : Option Desc) (f : Desc → Bool) : Bool :=
  match d with
  | some d => f d
  | none => true

/-- Order 2: IMM by R73 and R172, the visit orders of R172, and the slots that must come together. -/
def collFieldsOk (i : Inst) : Bool :=
  let k := i.pkt
  let op := k.opcode
  matrixModOk k && (bits k.md 4 4 == 0 || bits k.md 0 2 == 2) && (op == 0x12 || op == 0x13 || bits k.md 0 2 == 0) &&
    (op != 0x11 || ((i.d 1).isSome == (i.d 2).isSome && ((i.d 0).isNone || (i.d 1).isSome))) &&
    (op != 0x15 || (i.d 1).isSome == (i.d 2).isSome) && (op != 0x14 || (i.d 0).isSome == (i.d 2).isSome)

/-- Indices of the block that an instruction needs or takes, and the block's own ranges (R171 to R173, R178 to R181). -/
def collBlockOk (i : Inst) (hosts : Bool) : Bool :=
  let op := i.pkt.opcode
  let b := CollBlock.ofBytes i.params
  let a2a := op == 0x14 || op == 0x15
  let comp := (i.d 1).isSome
  decide (64 ≤ (i.dd 3).cap) && b.clean && b.budget != 0 && decide (b.flags < 2) && (a2a || b.flags == 0) &&
    (if a2a then b.cap % i.pkt.a == 0 else b.cap == 0) &&
    (i.route.isSome == a2a) && (i.expertsT.isSome == a2a) && (i.gates.isSome == (op == 0x15)) &&
    (match op with
     | 0x11 => (i.dests.isNone || comp) && (comp || i.sources.isSome) && (!comp || i.dests.isSome || (i.d 0).isSome) &&
         (i.recv.isSome == i.sources.isSome) && (i.bias.isNone || comp) && i.countsT.isNone
     | 0x12 => i.dests.isNone && i.sources.isNone && i.recv.isSome && i.countsT.isNone
     | 0x13 => i.dests.isNone && i.sources.isSome && i.recv.isSome && i.countsT.isNone
     | 0x14 => i.dests.isNone && i.sources.isNone && (i.recv.isSome == hosts) && (i.countsT.isSome == hosts) &&
         (i.bias.isNone || hosts) && ((i.d 2).isSome == hosts)
     | _ => i.dests.isNone && i.sources.isNone && i.recv.isSome && (i.countsT.isSome == hosts) && i.bias.isNone &&
         ((i.d 1).isSome == hosts))

/-- The dimensions DIM_A and DIM_B of R172. -/
def collDims (i : Inst) : Nat × Nat :=
  let a := i.dd 1
  let b := i.dd 2
  let r := i.recv.getD {}
  match i.pkt.opcode with
  | 0x11 => if (i.d 1).isSome then (b.n0, a.n1) else (r.n0, r.n1)
  | 0x12 => (b.n0, a.n1)
  | 0x13 => ((i.dd 0).n0, a.n0)
  | 0x14 => (a.n0, (i.route.getD {}).n0)
  | _ => ((i.dd 0).n0, (i.route.getD {}).n0)

/-- The format that crosses the links (R172): a sender of MMA.SEND with neither C nor RECV sends FP32, or INT32. -/
def collLink (i : Inst) : Nat :=
  let r := i.recv.getD {}
  match i.pkt.opcode with
  | 0x11 =>
    (match i.d 0 with
     | some c => c.format
     | none => if i.recv.isSome then r.format else if mmaGroup (i.dd 1).format = 5 then 0x08 else 0x01)
  | 0x12 => if i.pkt.anch then 0x0F else 0x01
  | 0x13 => (i.dd 2).format
  | 0x14 => (i.dd 1).format
  | _ => r.format

/-- Lists of ranks (R171, R178): DESTS and SOURCES, or the group, under the roster that the collective runs under (R157). -/
def State.collListsOk (s : State) (i : Inst) (n : Nat) (e : CompanyEntry) : Bool :=
  let ds := s.listOf i i.dests
  let ss := s.listOf i i.sources
  let xs := s.listOf i i.expertsT
  let roster := s.rosterAt (s.rosterPlace i (n, e)).1 e.size
  let pens := ss.map fun r => (roster.getD r {}).pen
  ranksOk e.size ds && ranksOk e.size ss && xs.all (fun r => decide (r < e.size)) &&
    (if i.pkt.opcode = 0x13 then
       inRange ss.length 2 8 && (ss.filter (· == e.rank)).length == 1 && pens.eraseDups.length == 1
     else !ds.contains e.rank && !ss.contains e.rank)

/-- SHAPE rules (R72, R172 to R176, R178, R180, R181). -/
def State.collShapesOk (s : State) (i : Inst) (e : CompanyEntry) : Bool :=
  let k := i.pkt
  let a := i.dd 1
  let b := i.dd 2
  let c := i.dd 0
  let bl := CollBlock.ofBytes i.params
  let xs := s.listOf i i.expertsT
  let h := (hostedBy xs e.rank).length
  let g := (s.listOf i i.sources).length
  let r := i.recv.getD {}
  let ch := (i.route.getD {}).n0
  let tk := (i.route.getD {}).n1
  let mxOk := !(k.tc == 4 && (optD (i.d 1) (fun d => !isMx d.format) && optD (i.d 2) (fun d => !isMx d.format)) == false)
  let routeOk := optD i.route (fun d => inRange d.n0 1 16 && d.n2 == 1 && d.n3 == 1) &&
    optD i.expertsT (fun d => d.is d.n0 1 1 1 && inRange d.n0 1 256) && ([i.dests, i.sources].all fun d => optD d fun d => d.is d.n0 1 1 1)
  mxOk && routeOk &&
    (match k.opcode with
     | 0x11 =>
       if (i.d 1).isSome then
         a.n2 == 1 && a.n3 == 1 && b.is b.n0 a.n0 1 1 && optD (i.d 0) (·.is b.n0 a.n1 1 1) && optD i.recv (·.is b.n0 a.n1 g 1) &&
           optD i.bias (·.is b.n0 1 1 1)
       else r.is r.n0 r.n1 g 1
     | 0x12 =>
       let l := (leavesOf e.rank e.leaves e.size).2
       a.is a.n0 a.n1 l 1 && b.is b.n0 a.n0 l 1 && a.n1 % max 1 e.size == 0 && a.n1 / max 1 e.size % k.a == 0 &&
         c.is b.n0 (a.n1 / max 1 e.size) 1 1 && optD i.bias (·.is b.n0 1 1 1)
     | 0x13 =>
       a.n2 == 1 && a.n3 == 1 && b.is b.n0 a.n0 1 1 && b.n0 % k.b == 0 && c.is (g * b.n0) a.n1 1 1 && r.is (g * b.n0) a.n0 1 1 &&
         optD i.bias (·.is (g * b.n0) 1 1 1)
     | 0x14 =>
       a.is a.n0 tk 1 1 && optD (i.d 2) (fun b => b.is b.n0 a.n0 h 1 && optD (i.d 0) (·.is b.n0 bl.cap e.size h)) &&
         optD i.recv (·.is a.n0 bl.cap e.size h) && optD i.countsT (·.is e.size h 1 1) &&
         optD i.bias (·.is b.n0 1 1 h)
     | _ =>
       c.is c.n0 tk 1 1 && r.is c.n0 tk ch 1 && optD i.gates (·.is ch tk 1 1) &&
         optD (i.d 1) (fun a => a.is a.n0 bl.cap e.size h && optD (i.d 2) (·.is c.n0 a.n0 h 1)) &&
         optD i.countsT (·.is e.size h 1 1))

/-- R82: no output meets an input (R66: an operand of a reserved format is not judged). -/
def collOverlapOk (i : Inst) : Bool :=
  let outs := [i.d 0, i.recv].flatMap Option.toList
  let ins := [i.d 1, i.d 2, i.bias].flatMap Option.toList
  outs.all (fun o => ins.all fun d => !o.clashes d) &&
    (match i.d 0, i.recv with
     | some c, some r => !c.clashes r
     | _, _ => true)

/-- RECV in CACHE or STACKED; STATUS of 64 bytes (R171, R173). -/
def collTiersOk (i : Inst) : Bool :=
  optD i.recv (fun d => d.tier == tCache || d.tier == tStacked) && optD (i.aux 4) fun d => decide (64 ≤ d.n0)

/-- Formats, order 5 (R55, R74, R171 to R173). -/
def collFormatsOk (i : Inst) : Bool :=
  let k := i.pkt
  let split := bits k.imm 1 1 == 1
  let g := mmaGroup (i.dd 1).format
  let inputsOk := match i.d 1, i.d 2 with
    | some a, some b => mmaGroup a.format != 0 && mmaGroup a.format == mmaGroup b.format && ((mmaGroup a.format == 6) == split)
    | some a, none => mmaGroup a.format != 0
    | _, _ => true
  let biasOk := optD i.bias fun d => d.format == (if g = 5 then 0x08 else 0x01)
  let ks := ceilDiv (i.dd 1).n0 k.c
  let partials := decide (bits k.md 0 2 ≠ 0 ∧ ks > panelOf k.md ks)
  let words := [i.dests, i.sources, i.route, i.expertsT, i.countsT].all fun d => optD d (·.format == 0x09)
  inputsOk && biasOk && words && optD i.gates (·.format == 0x01) && optD (i.aux 4) (·.format == 0x0E) &&
    (match k.opcode with
     | 0x11 => optD (i.d 0) (fun c => mmaOutOk g k.anch false c.format) &&
         optD i.recv (fun r => match i.d 0 with
           | some c => r.format == c.format
           | none => r.format == 0x01 || r.format == 0x02 || r.format == 0x03 || r.format == 0x04 || r.format == 0x05 ||
               r.format == 0x08 || r.format == 0x0F)
     | 0x12 => g != 5 && mmaOutOk g k.anch false (i.dd 0).format
     | 0x13 => optD i.recv (fun r => r.format == (i.dd 2).format) && mmaOutOk g k.anch partials (i.dd 0).format
     | 0x14 => optD i.recv (fun r => r.format == (i.dd 1).format) && optD (i.d 0) (fun c => mmaOutOk g k.anch false c.format)
     | _ => optD i.recv (fun r => r.format == 0x01 || r.format == 0x02) && g != 5 && mmaOutOk 1 k.anch false (i.dd 0).format)

/-- RECV's required bytes (R173), order 10: those of its SHAPE, within its extent. -/
def collRecvBytes (i : Inst) (m : Nat) : Nat :=
  match i.recv with
  | none => 0
  | some r =>
    if i.pkt.opcode = 0x12 then (i.dd 0).extent + 2 * (m - 1) * (i.pkt.a * i.pkt.b * (if i.pkt.anch then 24 else 4))
    else max r.extent (r.row * r.rows)

/-- The event of reading the lists that order 4 needs. -/
def State.collListEvent (s : State) (i : Inst) : Nat :=
  firstEvent ([i.dests, i.sources, i.expertsT].flatMap Option.toList |>.map fun d => s.srcEvent i d [s.clusterAt i 0])

/-- The fused collectives' own checks, by order. -/
def collCheck (s : State) (i : Inst) (order : Nat) : Nat :=
  match order with
  | 2 => if collFieldsOk i then 0 else Ev.desc
  | 4 =>
    (match s.collEntry i with
     | none => Ev.desc
     | some e =>
       let b := CollBlock.ofBytes i.params
       if !(b.clean && collTiersOk i) then Ev.desc
       else if s.collListEvent i ≠ 0 then s.collListEvent i
       else
         let hosts := !(hostedBy (s.listOf i i.expertsT) e.2.rank).isEmpty
         if collBlockOk i hosts && s.collListsOk i e.1 e.2 && s.collShapesOk i e.2 && collOverlapOk i then 0
         else Ev.desc)
  | 5 => if collFormatsOk i then 0 else Ev.format
  | 9 =>
    let op := i.pkt.opcode
    if op ≠ 0x14 ∧ op ≠ 0x15 then 0
    else
      let bad := ((i.route.map fun d => s.srcEvent i d [s.clusterAt i 0]).getD 0)
      if bad ≠ 0 then bad
      else
        let b := CollBlock.ofBytes i.params
        let ch := s.choices i
        let x := (i.expertsT.getD {}).n0
        if ch.any fun r => r.any fun v => decide (x ≤ v ∧ v ≠ 2 ^ 32 - 1) then Ev.shape
        else if b.flags % 2 = 0 ∧ droppedOf ch b.cap x ≠ 0 then Ev.shape else 0
  | 10 =>
    if ((i.recv.map (·.cap)).getD (2 ^ 64)) < collRecvBytes i (((s.collEntry i).map (·.2.size)).getD 1) then Ev.fit
    else if !matrixUnitsOk i then Ev.fit else 0
  | _ => 0

/-! ## Agreement and edges (R163, R164) -/

/-- PARAM_DIGEST (R163). -/
def State.paramDigest (s : State) (i : Inst) (e : CompanyEntry) (rosterAt' : Nat) : Nat :=
  let b := CollBlock.ofBytes i.params
  let k := i.pkt
  let d := collDims i
  let xs := s.listOf i i.expertsT
  crc32c (natLE 1 k.opcode ++ natLE 1 k.md ++ natLE 1 k.ta ++ natLE 1 k.tb ++ natLE 1 k.tc ++ natLE 1 b.flags ++
    natLE 2 b.company ++ natLE 4 b.cap ++ natLE 4 d.1 ++ natLE 4 d.2 ++ natLE 1 (collLink i) ++ natLE 1 0 ++
    natLE 2 e.leaves ++ natLE 4 (crc32c (s.tierBytes tStacked 0 rosterAt' (8 * e.size))) ++
    natLE 4 (if i.expertsT.isSome then crc32c (xs.flatMap (natLE 4)) else 0))

/-- The hash of a directed edge (R164). -/
def edgeHash (src dst : Nat) : Nat :=
  let c := crc32c (natLE 2 src ++ natLE 2 dst)
  c - c % 2 + 1

/-- A member's own edge sums (R164): sent and received; 0 for instructions whose members list no partners. -/
def Coll.edges (c : Coll) : Nat × Nat :=
  if c.opcode = 0x11 ∨ c.opcode = 0x13 then
    let ds := if c.opcode = 0x13 then c.sources.filter (· != c.rank) else c.dests
    let ss := c.sources.filter (· != c.rank)
    ((ds.map (edgeHash c.rank)).sum % 2 ^ 32, (ss.map fun x => edgeHash x c.rank).sum % 2 ^ 32)
  else (0, 0)

/-! ## The fixed tree (R177) -/

/-- Two nodes combined, element by element: FP32 codes with one rounding, anchored registers exactly. -/
def TreeNode.add (x y : TreeNode) : TreeNode :=
  { x with leaves := x.leaves + y.leaves
           fp := (x.fp.zip y.fp).map fun p => toF32 ((ofF32 p.1).add (ofF32 p.2))
           anch := (x.anch.zip y.anch).map fun p => p.1.merge p.2 }

/-- A place of the tree: first leaf, leaves, and its value once known. -/
structure TreePlace where
  first : Nat
  leaves : Nat
  val : Option TreeNode := none

/-- A place's value: what was received for it, or what its parts give. -/
def TreePlace.join (got : List TreeNode) (a b : TreePlace) : TreePlace :=
  let n := a.leaves + b.leaves
  { first := a.first, leaves := n
    val := match got.find? (fun g => g.first == a.first && g.leaves == n) with
      | some g => some g
      | none => match a.val, b.val with
        | some x, some y => some (x.add y)
        | _, _ => none }

/-- One pass of the procedure: pairs joined, an odd last carried. -/
def treePass (got : List TreeNode) : List TreePlace → List TreePlace
  | a :: b :: t => a.join got b :: treePass got t
  | l => l

/-- The passes of the procedure; l passes are enough for l leaves. -/
def treeRun (got : List TreeNode) : Nat → List TreePlace → List TreePlace
  | 0, l => l
  | n + 1, l => if l.length ≤ 1 then l else treeRun got n (treePass got l)

/-- The leaves of a tree of l leaves, known where a node of one leaf is given. -/
def treeLeaves (got : List TreeNode) (l : Nat) : List TreePlace :=
  (List.range l).map fun k => ⟨k, 1, got.find? fun g => g.first == k && g.leaves == 1⟩

/-- The root of the tree over the nodes that are held. -/
def treeRoot (got : List TreeNode) (l : Nat) : Option TreeNode := (treeRun got l (treeLeaves got l)).head?.bind (·.val)

/-- The largest known nodes that a pass cannot join: known with an unknown neighbour. -/
def treeLoose : List TreePlace → List TreeNode
  | a :: b :: t =>
    (match a.val, b.val with
     | some x, none => [x]
     | none, some y => [y]
     | _, _ => []) ++ treeLoose t
  | _ => []

/-- The largest nodes formed from the given leaves alone (R177). -/
def treeLargest : Nat → List TreePlace → List TreeNode
  | 0, l => l.filterMap (·.val)
  | n + 1, l => if l.length ≤ 1 then l.filterMap (·.val) else treeLoose l ++ treeLargest n (treePass [] l)

/-! ## Products of tiles -/

/-- The product of a fused collective: fmt is the format that its elements take, n the terms of an anchored sum. -/
def Inst.collProd (i : Inst) (fmt : Nat) (recd : Option Int) (n : Nat) : Prod :=
  let a := i.dd 1
  let b := i.dd 2
  let sp := bits i.pkt.imm 1 1 == 1
  let ks := ceilDiv a.n0 i.pkt.c
  { panel := panelOf i.pkt.md ks, accum := accumOf a.format i.pkt.anch, split := sp
    anchor := match (if fmt = 0x0F then recd else none) with
      | some e => e
      | none => anchorOf 128 (mmaTermExp a b) (n * (if sp then 3 else 1))
    fmtA := a.format, fmtB := b.format, fmtC := fmt }

/-- A product whose anchored sum has terms beyond its products: a bias, an old C. -/
def Inst.collProdBias (i : Inst) (fmt : Nat) (recd : Option Int) (k extra : Nat) : Prod :=
  let m := i.collProd fmt recd k
  let sp := bits i.pkt.imm 1 1 == 1
  { m with anchor := match (if fmt = 0x0F then recd else none) with
      | some e => e
      | none => anchorOf 128 (mmaTermExp (i.dd 1) (i.dd 2)) (k * (if sp then 3 else 1) + extra) }

/-- The columns or rows of tile t of width w, below limit. -/
def tileSpan (w t limit : Nat) : List Nat := ((List.range w).map (w * t + ·)).filter (· < limit)

/-- Rows of element codes with overflow marks. aRow gives A's rows, bRows B's K rows. -/
def prodRows (m : Prod) (kt k nB : Nat) (rows cols : List Nat) (aRow : Nat → Bytes) (bRows : List Bytes)
    (bias : Option (List Nat)) : List (List (Nat × Bool)) :=
  rows.map fun r => let a := aRow r
    cols.map fun c => m.dot kt k nB a bRows none (bias.map fun l => l.getD c 0) c

/-- One partial element of MMA.RSUM (R176): an FP32 code, or an internal register without its range check. -/
def partialElem (m : Prod) (kt k nB : Nat) (a : Bytes) (bRows : List Bytes) (c : Nat) : Nat × Anch :=
  let steps := kSteps (.zero, .zero) kt ((rowVals m.fmtA k a).zip (bRows.map fun r => (rowVals m.fmtB nB r).getD c .nan))
  match m.accum with
  | .anch => (0, accAnch m.split false m.anchor {} steps)
  | _ => (toF32 (accF32 m.split none steps), {})

/-! ## Units (R175, R178, R180) -/

/-- The bytes of columns [c, c + n) of a row, and of the scales of their blocks. -/
def rowPart (fmt n0 c n : Nat) (row : Bytes) : Bytes × Bytes :=
  let p := pitchBits fmt
  (slice row (p * c / 8) (p * n / 8),
   if isMx fmt then slice row (p * n0 / 8 + c / 32) ((c + n - 1) / 32 - c / 32 + 1) else [])

/-- The pieces that place such parts at column c of a row of an operand. -/
def placePart (d : Desc) (row c n : Nat) (part : Bytes × Bytes) : List Piece :=
  let p := pitchBits d.format
  { d := d, row := row, cl := 0, off := p * c / 8, bs := part.1 } ::
    (if isMx d.format then [{ d := d, row := row, cl := 0, off := p * d.n0 / 8 + c / 32, bs := part.2.take ((c + n - 1) / 32 - c / 32 + 1) : Piece }]
     else [])

end Sys2Proof.Machine
end

