-- ==== Sys2Proof/Machine/Points.lean ====
section
/-!
DEFINITION. Pre-emption and abort (R30, R31, R169, R239, R240): what holds a switch back, legal points, the switch
out of the running scene, the abort when the hold budget is out.
Readings of the rules that they leave open: log entry 27 (DEDUCED or DESIGN CHOICE, as the log marks each).
-/

namespace Sys2Proof.Machine

/-- A pre-emption request (R239): a ready scene of strictly higher priority. -/
def State.requested (s : State) (p : Nat) (sc : Scene) : Bool :=
  (s.partition p).scenes.any fun x => !x.running && decide (x.prio < sc.prio)

/-- The three states that hold a switch back (R239): a gate held, the middle of a ring step, a fused collective in
flight. -/
def State.heldBack (s : State) (p : Nat) (sc : Scene) : Bool :=
  !sc.held.isEmpty || s.insts.any fun i => i.part == p && i.scene == some sc.id &&
    ((i.ring.map (·.inStep)).getD false || i.coll.isSome || decide (i.wait = .stage))

/-- Every queue of a scene, its control queue among them. -/
def Scene.all (sc : Scene) : List Nat := (sc.queues ++ [sc.ctrl]).eraseDups

/-- Queues that can still reach a point (R30). -/
def State.reachers (s : State) (sc : Scene) : List Nat :=
  sc.all.filter fun q => s.qOn q && !s.qHalted q && !sc.marked.contains q &&
    !(s.instsOf q).any fun i => i.pkt.opcode == 0x02

/-- The writes of an instruction in flight are visible (R40, R41). -/
def State.visible (s : State) (i : Inst) : Bool :=
  decide (i.wait = .none ∨ i.wait = .visible) && s.acked i.acks && i.held.isEmpty

/-- The point at which a queue stands: what it issued before a PREEMPT.OK is visible (R30, R41). -/
def State.pointOf (s : State) (sc : Scene) (q : Nat) : Option Nat :=
  match sc.points.find? (·.1 == q) with
  | none => none
  | some x =>
    match (s.instsOf q).find? (fun i => i.wait == .preempt x.2) with
    | none => some x.2
    | some _ =>
      if ((s.instsOf q).takeWhile fun i => i.wait != .preempt x.2).all s.visible then some x.2 else none

/-- A legal pre-emption point is reached (R30). -/
def State.legalPoint (s : State) (sc : Scene) : Bool :=
  match (s.reachers sc).map (s.pointOf sc) with
  | [] => false
  | x :: t => x.isSome && t.all (· == x)

/-- The PREEMPT.OK instructions of a scene retire, each in its turn (R30). -/
def State.passPoint (s : State) (p : Nat) (sc : Scene) : State :=
  let s := s.setScene p { sc with points := [] }
  let mine := s.insts.filter fun i => i.part == p && i.scene == some sc.id &&
    (match i.wait with
     | .preempt _ => true
     | _ => false)
  s.over mine fun s i =>
    let i := { i with wait := .none, immediate := true }
    let s := s.setInst i
    if s.mayRetire i then s.retire i 0 0 else s

/-- The running scene is switched out and joins the ready set (R31). -/
def State.switchOut (s : State) (p : Nat) (sc : Scene) : State :=
  let s := s.passPoint p sc
  let s := s.setInsts (s.insts.map fun i =>
    if i.part = p ∧ i.scene = some sc.id then
      { i with ring := i.ring.map fun r => { r with preemptions := r.preemptions + 1 } }
    else i)
  match s.scene? p sc.id with
  | none => s
  | some sc => s.setScene p { sc with
      running := false, switchedOut := some s.time.cue, preemptions := sc.preemptions + 1, request := none, holdSpent := false }

/-- The abort of the running scene (R240): its SCENE.END in flight stays in the ring, without a record. -/
def State.abortHold (s : State) (p : Nat) (sc : Scene) : State :=
  let ends := (s.instsOf sc.ctrl).filter (·.pkt.opcode == 0x02)
  let s := s.over ends fun s i =>
    (s.dropInst i.queue i.index).setQueue i.queue { s.queue i.queue with head := i.index }
  let s := s.abortScene p sc Ev.holdBudget
  (s.setFld (F.parStatusHoldExpired p) 1).raiseEvent p Ev.holdBudget

/-- The running scene at its points (R30, R239): a scene whose spent budget meets a state that holds the switch back is
aborted; at a legal point it goes on, is switched out, or waits for what holds the switch back. -/
def State.settlePart (s : State) (p : Nat) : State :=
  match s.runningScene p with
  | none => s
  | some sc =>
    let want := s.requested p sc
    if want && sc.holdSpent && s.heldBack p sc then s.abortHold p sc
    else if !s.legalPoint sc then s
    else if !want then s.passPoint p sc
    else if s.heldBack p sc then s
    else s.switchOut p sc

/-- A replay's prologue has ended (R268, R269, R276): its queue has issued up to PRO_END, or a successor's has issued all that has
been rung, and no scene and no instruction is left. -/
def State.prologueOver (s : State) (p : Nat) : Bool :=
  let v := s.partition p
  match v.res with
  | none => false
  | some r =>
    let q := s.queue r.prologueQueue
    s.fld (F.parRstatusPhase p) == 3 && v.scenes.isEmpty && !(s.insts.any fun i => i.part == p) &&
      (match v.replay.proTo with
       | some e => q.head == e
       | none => q.head == q.tail && q.tail != 0)

/-- PHASE reads REPLAYING once the prologue has ended. -/
def State.endPrologue (s : State) (p : Nat) : State := s.when (s.prologueOver p = true) (·.setFld (F.parRstatusPhase p) 4)

/-- Every partition settled. -/
def State.settle (s : State) : State := s.over (List.range 16) fun s p => (s.settlePart p).endPrologue p

/-- A request notes the cue at which it first exists (R239). -/
def State.noteRequest (s : State) (p : Nat) : State :=
  match s.runningScene p with
  | none => s
  | some sc => if s.requested p sc && sc.request.isNone then s.setScene p { sc with request := some s.time.cue } else s

end Sys2Proof.Machine
end

