-- ==== Sys2Proof/Machine/Exchange.lean ====
section
/-!
DEFINITION. The exchange of a fused collective (R161 to R182): READY, GO, OPEN, CREDIT, DATA, DONE, CLOSE, POISON,
ZERO and ABSENT, the computation at each member, its units, its staged outputs and its ends.
Readings of the rules that they leave open: log entry 19 (DEDUCED or DESIGN CHOICE, as the log marks each).
-/

namespace Sys2Proof.Machine

/-! ## Partners -/

/-- This member hosts experts. -/
def Coll.hosts (c : Coll) : Bool := c.experts.contains c.rank

/-- Every other rank. -/
def Coll.others (c : Coll) : List Nat := (List.range c.size).filter (· != c.rank)

/-- The members that a member sends DATA to. -/
def Coll.receivers (c : Coll) : List Nat :=
  match c.opcode with
  | 0x11 => c.dests
  | 0x12 => c.others
  | 0x13 => c.sources.filter (· != c.rank)
  | 0x14 => c.others.filter c.experts.contains
  | _ => if c.hosts then c.others else []

/-- The members that a member receives DATA from. -/
def Coll.senders (c : Coll) : List Nat :=
  match c.opcode with
  | 0x11 => c.sources
  | 0x12 => c.others
  | 0x13 => c.sources.filter (· != c.rank)
  | 0x14 => if c.hosts then c.others else []
  | _ => c.others.filter c.experts.contains

/-- A count kept by rank. -/
def rankGet (l : List (Nat × Nat)) (r : Nat) : Nat := tblGet 0 l r
def rankAdd (l : List (Nat × Nat)) (r n : Nat) : List (Nat × Nat) := tblSet 0 l r (rankGet l r + n)

/-- The units that a source named in its OPEN (R162); none before its OPEN. -/
def Coll.openOf (c : Coll) (r : Nat) : Option Nat := (c.opens.find? (·.1 == r)).map (·.2)

/-- Every unit that the senders named has been received (R162). -/
def Coll.allGot (c : Coll) : Bool := c.senders.all fun r =>
  match c.openOf r with
  | some n => decide (n ≤ rankGet c.got r)
  | none => false

/-! ## The computation at GO -/

/-- Tile rows and columns of MMA.SEND's or GATHER.MMA's product on tile t. -/
def Inst.tileAt (i : Inst) (n t : Nat) : Nat × Nat := (t / max 1 (ceilDiv n i.pkt.b), t % max 1 (ceilDiv n i.pkt.b))

/-- A computation at one member: the event that ends it, what it writes at once, its units, and how it changes its part. -/
structure CollStep where
  fail : Nat := 0
  pieces : List Piece := []
  units : List CollUnit := []
  nodes : List TreeNode := []
  ovf : Bool := false
  computed : Bool := true
  deriving DecidableEq, Repr

/-- Bytes of row r of an operand on a cluster. -/
def State.rowOn (s : State) (i : Inst) (d : Desc) (cl r : Nat) : Bytes := s.rowBytesOf d (s.fnOf i) cl (d.rowAt r)

/-- The codes of a bias. -/
def State.biasCodes (s : State) (i : Inst) (cl r : Nat) : Option (List Nat) :=
  i.bias.map fun d => unpackRow d.format d.n0 (s.rowOn i d cl r)

/-- MMA.SEND at GO (R175): every tile, written to C and sent to DESTS in order. -/
def State.sendStep (s : State) (i : Inst) (c : Coll) : CollStep :=
  if (i.d 1).isNone then {}
  else
    let a := i.dd 1
    let b := i.dd 2
    let fmt := collLink i
    let nt := ceilDiv b.n0 i.pkt.b
    let tiles := ceilDiv a.n1 i.pkt.a * nt
    let cls := s.clustersFor i tiles
    let fail := firstEvent ([s.srcEvent i a cls, s.srcEvent i b cls] ++ (i.bias.map fun d => s.srcEvent i d cls).toList)
    let m := i.collProdBias fmt ((i.d 0).bind (·.blockExp)) a.n0 (b2n i.bias.isSome)
    let outs := (List.range tiles).map fun t =>
      let cl := s.tileCluster i t
      let rows := tileSpan i.pkt.a (t / max 1 nt) a.n1
      let cols := tileSpan i.pkt.b (t % max 1 nt) b.n0
      (t, cl, rows, cols.headD 0, prodRows m i.pkt.c a.n0 b.n0 rows cols (s.rowOn i a cl)
        ((List.range a.n0).map (s.rowOn i b cl)) (s.biasCodes i cl 0))
    let bytesOf (r : List (Nat × Bool)) := codeBytes fmt (r.map (·.1))
    let pieces := match i.d 0 with
      | none => []
      | some d => outs.flatMap fun o => (o.2.2.1.zip o.2.2.2.2).map fun r =>
          ({ d := d, row := r.1, cl := o.2.1, off := pitchBits fmt * o.2.2.2.1 / 8, bs := bytesOf r.2 } : Piece)
    let units := outs.flatMap fun o => c.dests.map fun r =>
      ({ dst := r, unit := o.1, bytes := o.2.2.2.2.flatMap bytesOf } : CollUnit)
    { fail := fail, pieces := pieces, units := units, ovf := outs.any fun o => o.2.2.2.2.any fun r => r.any (·.2) }

/-- The product of MMA.RSUM's leaves (R176, R177): anchored terms of every leaf, a bias and an old C. -/
def Inst.rsumProd (i : Inst) (leaves : Nat) : Prod :=
  let c := i.dd 0
  i.collProdBias (if i.pkt.anch then 0x0F else 0x01) (if c.format = 0x0F then c.blockExp else none) ((i.dd 1).n0 * leaves)
    (b2n i.bias.isSome + bits i.pkt.imm 0 1)

/-- The output rows that a tile of an owner covers, and its columns (R176). -/
def Inst.rsumTile (i : Inst) (size owner t : Nat) : List Nat × List Nat :=
  let rows := (i.dd 1).n1 / max 1 size
  let nt := ceilDiv (i.dd 2).n0 i.pkt.b
  ((tileSpan i.pkt.a (t / max 1 nt) rows).map (owner * rows + ·), tileSpan i.pkt.b (t % max 1 nt) (i.dd 2).n0)

/-- Tiles of each owner's rows (R176). -/
def Inst.rsumTiles (i : Inst) (size : Nat) : Nat :=
  ceilDiv ((i.dd 1).n1 / max 1 size) i.pkt.a * ceilDiv (i.dd 2).n0 i.pkt.b

/-- A member's largest tree nodes for a tile of an owner (R177). -/
def State.rsumNodes (s : State) (i : Inst) (c : Coll) (owner t : Nat) : List TreeNode :=
  let a := i.dd 1
  let b := i.dd 2
  let m := i.rsumProd c.leaves
  let cl := s.tileCluster i (owner * i.rsumTiles c.size + t)
  let rc := i.rsumTile c.size owner t
  let own := leavesOf c.rank c.leaves c.size
  let leaf (k : Nat) : TreeNode :=
    let bRows := (List.range a.n0).map fun x => s.rowOn i b cl (x + b.n1 * k)
    let els := rc.1.flatMap fun r => rc.2.map fun col => partialElem m i.pkt.c a.n0 b.n0 (s.rowOn i a cl (r + a.n1 * k)) bRows col
    { tile := t, first := own.1 + k, leaves := 1, fp := if i.pkt.anch then [] else els.map (·.1)
      anch := if i.pkt.anch then els.map (·.2) else [] }
  let got := (List.range own.2).map leaf
  treeLargest c.leaves (treeLeaves got c.leaves)

/-- The bytes of a node's values (R177). -/
def TreeNode.bytes (n : TreeNode) : Bytes := n.fp.flatMap (natLE 4) ++ n.anch.flatMap extImage

/-- MMA.RSUM at GO: the nodes of this member's own rows are kept, those of other owners' rows are sent in increasing
order of UNIT. -/
def State.rsumStep (s : State) (i : Inst) (c : Coll) : CollStep :=
  let n := i.rsumTiles c.size
  let cls := s.clustersFor i (n * c.size)
  let fail := firstEvent [s.srcEvent i (i.dd 1) cls, s.srcEvent i (i.dd 2) cls]
  { fail := fail, nodes := (List.range n).flatMap (s.rsumNodes i c c.rank)
    units := c.others.flatMap fun o => (List.range n).flatMap fun t => (s.rsumNodes i c o t).map fun x =>
      { dst := o, unit := t, node := x.first, count := x.leaves, bytes := x.bytes } }

/-- Column offset of a shard in B (R178). -/
def Coll.shard (c : Coll) (rank ng : Nat) : Nat := ((c.sources.findIdx? (· == rank)).getD 0) * ng

/-- The parts of one unit of a shard: rows of K, columns of N. -/
def Inst.gatherUnit (i : Inst) (u : Nat) : List Nat × List Nat :=
  let b := i.dd 2
  let nn := ceilDiv b.n0 i.pkt.b
  (tileSpan i.pkt.c (u / max 1 nn) b.n1, tileSpan i.pkt.b (u % max 1 nn) b.n0)

/-- GATHER.MMA at GO (R178): the own shard goes to RECV, its units to the group. -/
def State.gatherStep (s : State) (i : Inst) (c : Coll) : CollStep :=
  let b := i.dd 2
  let r := i.recv.getD {}
  let units := ceilDiv b.n1 i.pkt.c * ceilDiv b.n0 i.pkt.b
  let off := c.shard c.rank b.n0
  let part (u k : Nat) : Bytes × Bytes :=
    let cs := (i.gatherUnit u).2
    rowPart b.format b.n0 (cs.headD 0) cs.length (s.rowOn i b (s.tileCluster i u) k)
  { fail := s.srcEvent i b (s.clustersFor i units), computed := false
    pieces := (List.range units).flatMap fun u => (i.gatherUnit u).1.flatMap fun k =>
      placePart r k (off + (i.gatherUnit u).2.headD 0) (i.gatherUnit u).2.length (part u k)
    units := (List.range units).flatMap fun u => c.receivers.map fun d =>
      { dst := d, unit := u, bytes := (i.gatherUnit u).1.flatMap fun k => (part u k).1 ++ (part u k).2 } }

/-- The product of GATHER.MMA once RECV holds the whole of B. -/
def State.gatherProduct (s : State) (i : Inst) : CollStep :=
  let a := i.dd 1
  let b := i.recv.getD {}
  let d := i.dd 0
  let nt := ceilDiv b.n0 i.pkt.b
  let tiles := ceilDiv a.n1 i.pkt.a * nt
  let cls := s.clustersFor i tiles
  let fail := firstEvent ([s.srcEvent i a cls, s.srcEvent i b cls] ++ (i.bias.map fun d => s.srcEvent i d cls).toList)
  let m := { i.collProdBias d.format d.blockExp a.n0 (b2n i.bias.isSome) with fmtB := b.format }
  let outs := (List.range tiles).map fun t =>
    let cl := s.tileCluster i t
    let rows := tileSpan i.pkt.a (t / max 1 nt) a.n1
    let cols := tileSpan i.pkt.b (t % max 1 nt) b.n0
    (cl, rows, cols.headD 0, prodRows m i.pkt.c a.n0 b.n0 rows cols (s.rowOn i a cl) ((List.range a.n0).map (s.rowOn i b cl))
      (s.biasCodes i cl 0))
  { fail := fail, ovf := outs.any fun o => o.2.2.2.any fun r => r.any (·.2)
    pieces := outs.flatMap fun o => (o.2.1.zip o.2.2.2).map fun r =>
      { d := d, row := r.1, cl := o.1, off := pitchBits d.format * o.2.2.1 / 8, bs := codeBytes d.format (r.2.map (·.1)) } }

/-- The rows that a member's plan sends to expert x: the byte rows of its tokens, in slot order (R179). -/
def State.planRows (s : State) (i : Inst) (c : Coll) (x : Nat) : List Bytes :=
  (keptPlan (s.choices i) c.cap x).map fun p => s.rowOn i (i.dd 1) (s.clusterAt i 0) p.1

/-- Rows cut into DATA of up to 2^TA slots of one expert (R180). -/
def rowUnits (dst a x : Nat) (rows : List Bytes) : List CollUnit :=
  (chunks a rows).zip (List.range rows.length) |>.map fun u => { dst := dst, unit := x * 2 ^ 16 + u.2, bytes := u.1.flatten }

/-- Rows placed in RECV of A2A.MMA from slot on, for source src and local expert e (R180). -/
def a2aPlace (r : Desc) (cap size src e slot : Nat) (rows : List Bytes) : List Piece :=
  (rows.zip (List.range rows.length)).map fun x => { d := r, row := slot + x.2 + cap * (src + size * e), cl := 0, bs := x.1 }

/-- A2A.MMA at GO (R179, R180): the rows of every expert go to its host, this member's own among them. -/
def State.a2aStep (s : State) (i : Inst) (c : Coll) : CollStep :=
  let mine := hostedBy c.experts c.rank
  { fail := s.srcEvent i (i.dd 1) [s.clusterAt i 0], computed := !c.hosts
    pieces := match i.recv with
      | none => []
      | some r => (mine.zip (List.range mine.length)).flatMap fun x => a2aPlace r c.cap c.size c.rank x.2 0 (s.planRows i c x.1)
    units := c.receivers.flatMap fun d => (hostedBy c.experts d).flatMap fun x => rowUnits d i.pkt.a x (s.planRows i c x) }

/-- Row counts that a source's OPEN gives a host (R180). -/
def State.a2aCounts (s : State) (i : Inst) (c : Coll) (host : Nat) : List Nat :=
  (hostedBy c.experts host).map fun x => (keptPlan (s.choices i) c.cap x).length

/-- The counts that a host holds of a source. -/
def State.countsFrom (s : State) (i : Inst) (c : Coll) (src : Nat) : List Nat :=
  if src = c.rank then s.a2aCounts i c c.rank else ((c.counts.find? (·.1 == src)).map (·.2)).getD []

/-- The products of a host's local expert e and source src: rows below their count, with overflow marks. -/
def State.expertRows (s : State) (i : Inst) (m : Prod) (x : Desc) (cap size src e count : Nat) : List (Nat × List (Nat × Bool)) :=
  let b := i.dd 2
  (List.range (min cap count)).map fun r =>
    let row := r + cap * (src + size * e)
    let cl := s.tileCluster i (row / i.pkt.a)
    (row, (prodRows m i.pkt.c x.n0 b.n0 [row] (List.range b.n0) (s.rowOn i x cl)
      ((List.range x.n0).map fun k => s.rowOn i b cl (k + b.n1 * e)) (s.biasCodes i cl e)).headD [])

/-- The host's product of A2A.MMA once every row is there (R180). -/
def State.a2aProduct (s : State) (i : Inst) (c : Coll) : CollStep :=
  let r := i.recv.getD {}
  let d := i.dd 0
  let cls := s.clustersFor i (ceilDiv (c.cap * c.size) i.pkt.a)
  let fail := firstEvent ([s.srcEvent i (i.dd 2) cls] ++ (i.bias.map fun d => s.srcEvent i d cls).toList)
  let m := { i.collProdBias d.format d.blockExp r.n0 (b2n i.bias.isSome) with fmtA := r.format }
  let outs := (List.range c.size).flatMap fun src =>
    let cs := s.countsFrom i c src
    (cs.zip (List.range cs.length)).flatMap fun e => s.expertRows i m r c.cap c.size src e.2 e.1
  { fail := fail, ovf := outs.any fun o => o.2.any (·.2)
    pieces := outs.map fun o => { d := d, row := o.1, cl := s.tileCluster i (o.1 / i.pkt.a), bs := codeBytes d.format (o.2.map (·.1)) } }

/-- Rows returned to a source placed in RECV of MMA.A2A by the plan of expert x, from slot on (R181). -/
def State.returnPlace (s : State) (i : Inst) (c : Coll) (x slot : Nat) (rows : List Bytes) : List Piece :=
  let r := i.recv.getD {}
  let plan := (keptPlan (s.choices i) c.cap x).drop slot
  (rows.zip plan).map fun p => { d := r, row := p.2.1 + r.n1 * p.2.2, cl := 0, bs := p.1 }

/-- MMA.A2A at GO (R181): a host multiplies the rows below COUNTS and returns them. -/
def State.returnStep (s : State) (i : Inst) (c : Coll) : CollStep :=
  if !c.hosts then {}
  else
    let h := i.dd 1
    let ct := i.countsT.getD {}
    let r := i.recv.getD {}
    let cls := s.clustersFor i (ceilDiv (c.cap * c.size) i.pkt.a)
    let fail := firstEvent [s.srcEvent i h cls, s.srcEvent i (i.dd 2) cls, s.srcEvent i ct [s.clusterAt i 0]]
    let m := i.collProd r.format none h.n0
    let mine := hostedBy c.experts c.rank
    let count (src e : Nat) := (unpackRow 0x09 ct.n0 (s.rowOn i ct (s.clusterAt i 0) e)).getD src 0
    let rows (src : Nat) (e : Nat) := s.expertRows i m h c.cap c.size src e (count src e)
    let enc (l : List (Nat × List (Nat × Bool))) := l.map fun o => codeBytes r.format (o.2.map (·.1))
    { fail := fail, ovf := (List.range c.size).any fun src => (List.range mine.length).any fun e => (rows src e).any fun o => o.2.any (·.2)
      pieces := (mine.zip (List.range mine.length)).flatMap fun x => s.returnPlace i c x.1 0 (enc (rows c.rank x.2))
      units := c.receivers.flatMap fun d => (mine.zip (List.range mine.length)).flatMap fun x =>
        rowUnits d i.pkt.a x.1 (enc (rows d x.2)) }

/-- What a member computes at GO. -/
def State.goStep (s : State) (i : Inst) (c : Coll) : CollStep :=
  match c.opcode with
  | 0x11 => s.sendStep i c
  | 0x12 => s.rsumStep i c
  | 0x13 => s.gatherStep i c
  | 0x14 => s.a2aStep i c
  | _ => s.returnStep i c

/-- What a member computes once every unit is there. -/
def State.dataStep (s : State) (i : Inst) (c : Coll) : CollStep :=
  match c.opcode with
  | 0x13 => s.gatherProduct i
  | 0x14 => s.a2aProduct i c
  | _ => {}

/-! ## Staged outputs at CLOSE (R166, R176, R180, R181) -/

/-- One element of MMA.RSUM's output (R177): the sum, the bias, the old C. -/
def rsumElem (i : Inst) (m : Prod) (fp : Nat) (an : Anch) (bias old : Option Nat) : Nat × Bool :=
  let c := i.dd 0
  let f := (floatFmt c.format).getD fp32
  if i.pkt.anch then
    let a := match bias with
      | some b => an.addTerm 128 m.anchor (ofF32 b)
      | none => an
    let a := match old with
      | some o => if c.format = 0x0F then a.merge (Anch.ofImage 128 o) else a.addTerm 128 m.anchor (decodeF f o)
      | none => a
    let a := a.check 128
    (if c.format = 0x0F then a.image 128 else encodeF f .rne 0 (a.value 128 m.anchor), a.overflowed)
  else
    let v := ofF32 fp
    let v := match bias with
      | some b => roundF32 (v.add (ofF32 b))
      | none => v
    let v := match old with
      | some o => roundF32 (v.add (decodeF f o))
      | none => v
    (encodeF f .rne 0 v, false)

/-- MMA.RSUM's C, from the tree's roots. -/
def State.rsumClose (s : State) (i : Inst) (c : Coll) : Work :=
  let d := i.dd 0
  let m := i.rsumProd c.leaves
  let n := i.rsumTiles c.size
  let acc := bits i.pkt.imm 0 1 == 1
  let cls := s.clustersFor i n
  let fail := firstEvent ((i.bias.map fun x => s.srcEvent i x cls).toList ++ (if acc then [s.srcEvent i d cls] else []))
  let outs := (List.range n).map fun t =>
    let cl := s.tileCluster i t
    let rc := i.rsumTile c.size 0 t
    let root := (treeRoot (c.nodes.filter (·.tile == t)) c.leaves).getD {}
    let bias := s.biasCodes i cl 0
    (cl, rc.2.headD 0, (rc.1.zip (List.range rc.1.length)).map fun r =>
      let old := if acc then unpackRow d.format d.n0 (s.rowOn i d cl r.1) else []
      (r.1, (rc.2.zip (List.range rc.2.length)).map fun col =>
        let k := r.2 * rc.2.length + col.2
        rsumElem i m (root.fp.getD k 0) (root.anch.getD k {}) (bias.map fun b => b.getD col.1 0)
          (if acc then some (old.getD col.1 0) else none)))
  { fail := fail, count := n, event := if outs.any fun o => o.2.2.any fun r => r.2.any (·.2) then Ev.anchOvf else 0
    pieces := outs.flatMap fun o => o.2.2.map fun r =>
      { d := d, row := r.1, cl := o.1, off := pitchBits d.format * o.2.1 / 8, bs := codeBytes d.format (r.2.map (·.1)) } }

/-- MMA.A2A's combination by gate weights (R181). R111 gives its anchor n = k and no e: the model takes the exponents that bound a
term, that of GATES plus that of RECV plus 1 (DESIGN CHOICE, log entry 64). -/
def State.combineClose (s : State) (i : Inst) (c : Coll) : Work :=
  let d := i.dd 0
  let r := i.recv.getD {}
  let g := i.gates.getD {}
  let f := (floatFmt d.format).getD fp32
  let cl := s.clusterAt i 0
  let ch := s.choices i
  let experts := c.experts.length
  let kept := (List.range experts).flatMap fun x => keptPlan ch c.cap x
  let fail := firstEvent [s.srcEvent i r [cl], s.srcEvent i g [cl]]
  let an := anchorOf 128 (blockExpOf g + blockExpOf r + 1) r.n2
  let an := match (if d.format = 0x0F then d.blockExp else none) with
    | some e => e
    | none => an
  let rows := (List.range d.rows).map fun t =>
    let gs := rowVals g.format g.n0 (s.rowOn i g cl t)
    let used := (List.range r.n2).filter fun k => kept.contains (t, k)
    let vals := used.map fun k => (gs.getD k .nan, rowVals r.format r.n0 (s.rowOn i r cl (t + r.n1 * k)))
    (t, (List.range d.n0).map fun col =>
      if i.pkt.anch then
        let a := (vals.foldl (fun a v => a.addTerm 128 an (v.1.mul (v.2.getD col .nan))) ({} : Anch)).check 128
        (if d.format = 0x0F then a.image 128 else encodeF f .rne 0 (a.value 128 an), a.overflowed)
      else (encodeF f .rne 0 (vals.foldl (fun a v => roundF32 (FVal.sum .rne [a, v.1.mul (v.2.getD col .nan)])) .zero), false))
  { fail := fail, count := d.rows, event := if rows.any fun x => x.2.any (·.2) then Ev.anchOvf else 0
    pieces := rows.map fun x => { d := d, row := x.1, cl := s.clusterAt i x.1, bs := codeBytes d.format (x.2.map (·.1)) } }

/-- What a member writes at CLOSE, and its COUNT (R172). -/
def State.closeWork (s : State) (i : Inst) (c : Coll) : Work :=
  let rows := ((List.range c.size).flatMap fun src => s.countsFrom i c src).sum
  let w : Work := match c.opcode with
    | 0x11 =>
      { count := (if (i.d 0).isSome then ceilDiv (i.dd 1).n1 i.pkt.a * ceilDiv (i.dd 2).n0 i.pkt.b else 0) +
          (c.got.map (·.2)).sum }
    | 0x12 => s.rsumClose i c
    | 0x13 => { count := ceilDiv (i.dd 1).n1 i.pkt.a * ceilDiv (i.dd 0).n0 i.pkt.b }
    | 0x14 =>
      let ct := i.countsT.getD {}
      let h := (hostedBy c.experts c.rank).length
      if c.hosts then
        { count := rows
          pieces := (List.range h).map fun e =>
            { d := ct, row := e, cl := s.clusterAt i 0
              bs := (List.range c.size).flatMap fun src => natLE 4 ((s.countsFrom i c src).getD e 0) } }
      else {}
    | _ => s.combineClose i c
  if c.ovf ∧ w.event = 0 then { w with event := Ev.anchOvf } else w

/-! ## Finding the collective that a header names -/

/-- The fused collective in flight that a header names. -/
def State.collFor (s : State) (p : Nat) (h : CollHeader) : Option (Inst × Coll) :=
  s.insts.findSome? fun i =>
    match i.coll with
    | some c => if i.part = p ∧ c.company = h.company.toNat ∧ c.seq = h.collSeq.toNat ∧ i.wait ≠ .peer then some (i, c) else none
    | none => none

/-- The instruction of a company and number, as it stands now. -/
def State.collNow (s : State) (q x : Nat) : Option (Inst × Coll) :=
  match s.inst? q x with
  | some i => i.coll.map fun c => (i, c)
  | none => none

/-! ## Relays (R166) -/

/-- A relay of a collective. -/
def Relay.names (r : Relay) (p : Nat) (h : CollHeader) : Bool :=
  r.part == p && r.company == h.company.toNat && r.seq == h.collSeq.toNat

/-- A relay replaced, or dropped when its collective has ended. -/
def State.setRelay (s : State) (p : Nat) (h : CollHeader) (v : Option Relay) : State :=
  s.setComp { s.comp with relays := s.comp.relays.filterMap fun r => if r.names p h then v else some r }

/-- A member that left with a zero shape sends ZERO once every child has reported (R165). -/
def State.relayReady (s : State) (r : Relay) (h : CollHeader) : State :=
  if r.zero && !r.sent && (treeChildren r.rank r.size).all r.readyFrom.contains then
    match treeParent r.rank with
    | some q => (s.sendColl r.party q hZero).setRelay r.part h (some { r with sent := true })
    | none => (s.sendCollAll r.party (treeChildren r.rank r.size) hZero).setRelay r.part h none
  else s.setRelay r.part h (some r)

/-- The header that a relay is looked up by. -/
def keyHeader (company seq : Nat) : CollHeader :=
  { bookDigest := 0, collSeq := BitVec.ofNat 64 seq, company := BitVec.ofNat 16 company, srcRank := 0, opcode := 0, dstRank := 0
    node := 0, reason := 0, paramDigest := 0, epoch := 0, count := 0, payloadLen := 0, absentRank := 0, slot := 0, unit := 0, sendCue := 0 }

/-- A collective that a member leaves with a zero shape before it has started (R165): its logic sends ZERO in its turn. -/
def State.leaveZero (s : State) (p : Nat) (c : Coll) : State :=
  let r := c.relay p 0 true
  (s.addRelay r).relayReady r (keyHeader c.company c.seq)

/-! ## Endings (R165, R166, R168) -/

/-- A fused collective ends early without POISON of its own. -/
def State.leaveColl (s : State) (i : Inst) (c : Coll) (event : Nat) : State := s.endWith { i with coll := some c } event false

/-- A fused collective ends early and poisons its tree and its partners (R166). -/
def State.failColl (s : State) (i : Inst) (c : Coll) (event : Nat) : State := (s.poisonColl i.part c event).leaveColl i c event

/-- A member that retires as success after ZERO, and writes nothing (R165). -/
def State.zeroColl (s : State) (i : Inst) (c : Coll) : State :=
  let s := s.sendCollAll (c.party i.part) (treeChildren c.rank c.size) hZero
  let s := s.over i.laterColls fun s d => s.leaveZero i.part d
  let i := { i with coll := none, wait := .none, event := 0, count := 0, immediate := true
                    stages := i.stages.map fun t => { t with count := 0, coll := none } }
  let s := s.setInst i
  if s.mayRetire i then s.retire i 0 0 else s

/-! ## Data, closing (R162, R167, R170) -/

/-- Units go out against credits, in order (R167). -/
def State.sendUnits (s : State) (i : Inst) (c : Coll) : State × Coll :=
  c.toSend.foldl (fun acc u =>
    let s := acc.1
    let c := acc.2
    if 0 < rankGet c.credits u.dst then
      let ring := rankGet (c.slots.map fun x => (x.1, x.2.headD 0)) u.dst
      let slot := if c.opcode = 0x12 then rankGet c.sent u.dst % max 1 ring else 0
      (s.sendColl (c.party i.part) u.dst hData u.bytes u.count u.unit 0 65535 u.node slot none i.level,
        { c with credits := tblSet 0 c.credits u.dst (rankGet c.credits u.dst - 1), sent := rankAdd c.sent u.dst 1 })
    else (s, { c with toSend := c.toSend ++ [u] })) (s, { c with toSend := [] })

/-- CLOSE (R162): relayed to the children, the staged outputs written, the status record, retirement. -/
def State.closeColl (s : State) (i : Inst) (c : Coll) : State :=
  let s := s.sendCollAll (c.party i.part) (treeChildren c.rank c.size) hClose
  let w := s.closeWork i c
  let next := if i.stages = [] then Wait.none else .stage
  let i := { i with coll := none, wait := next, outs := i.outs.filter c.keep.contains }
  let m := s.finish i w
  let t := m.1.writeCollStatus i { c with closed := true } m.2.event
  t.1.setInst { m.2 with acks := m.2.acks ++ t.2 }

/-- Every write that the queue issued before DONE is visible (R170): those of its earlier instructions, and the member's own. -/
def State.queueVisible (s : State) (i : Inst) : Bool :=
  s.acked i.acks && ((s.instsOf i.queue).takeWhile fun x => x.index != i.index).all s.visible

/-- A member may send DONE (R162, R170). -/
def State.mayDone (s : State) (i : Inst) (c : Coll) : Bool :=
  c.go && !c.doneSent && c.toSend.isEmpty && c.allGot && c.computed && s.queueVisible i &&
    (treeChildren c.rank c.size).all c.doneFrom.contains

/-- DONE to the parent; the root sends CLOSE instead. -/
def State.tryDone (s : State) (i : Inst) (c : Coll) : State :=
  if s.mayDone i c then
    match treeParent c.rank with
    | none => s.closeColl i { c with doneSent := true }
    | some r =>
      (s.sendColl (c.party i.part) r hDone).setInst { i with coll := some { c with doneSent := true, doneCue := s.time.cue } }
  else s.setInst { i with coll := some c }

/-- A computation's outcome: its writes at once; a failing access ends the member (R166). -/
def State.applyStep (s : State) (i : Inst) (c : Coll) (x : CollStep) (after : State → Inst → Coll → State) : State :=
  let ev := if x.fail ≠ 0 then x.fail else firstEvent (x.pieces.map (s.pieceEvent i))
  if ev ≠ 0 then s.failColl i c ev
  else
    let m := s.writePieces i x.pieces
    let i := { i with acks := i.acks ++ m.2 }
    let c := { c with toSend := c.toSend ++ x.units, nodes := c.nodes ++ x.nodes, ovf := c.ovf || x.ovf, computed := x.computed }
    after m.1 i c

/-- What a member can do now: units against credits, its product once every unit is there, DONE; its waits are counted (R174). -/
def State.pumpColl (s : State) (i : Inst) (c : Coll) : State :=
  let m := s.sendUnits i c
  let m := (m.1, m.2.countWaits s.time.cue (m.2.go && !m.2.allGot) (m.2.go && !m.2.toSend.isEmpty))
  if m.2.go && !m.2.computed && m.2.allGot then
    m.1.applyStep i m.2 (m.1.dataStep i m.2) fun s i c => s.tryDone i { c with computed := true }
  else m.1.tryDone i m.2

/-- GO (R162): relayed to the children; the computation begins; OPEN to every member that this one sends to. -/
def State.goColl (s : State) (i : Inst) (c : Coll) : State :=
  let c := { c with go := true, goCue := s.time.cue }
  let s := s.sendCollAll (c.party i.part) (treeChildren c.rank c.size) hGo
  let s := if c.opcode = 0x12 then (match i.recv with
    | some d => s.undefineExtent (s.fnOf i) [] { d.toExtent with len := d.cap }
    | none => s) else s
  s.applyStep i c (s.goStep i c) fun s i c =>
    let s := s.over c.receivers fun s d =>
      s.sendColl (c.party i.part) d hOpen (if c.opcode = 0x14 then (s.a2aCounts i c d).flatMap (natLE 4) else [])
        (c.toSend.filter (·.dst == d)).length
    s.pumpColl i c

/-! ## Opening (R162, R164, R165) -/

/-- A member that holds READY or ZERO from each child sends its own upward; the root sends GO, ZERO or POISON. -/
def State.tryReady (s : State) (i : Inst) (c : Coll) : State :=
  if c.readySent || !(treeChildren c.rank c.size).all c.readyFrom.contains then s.setInst { i with coll := some c }
  else
    let e := c.edges
    let ss := (c.sendSum + e.1) % 2 ^ 32
    let rs := (c.recvSum + e.2) % 2 ^ 32
    match treeParent c.rank with
    | none =>
      if c.zeroHeld then s.zeroColl i c
      else if ss ≠ rs then s.failColl i c 0x5011
      else s.goColl i { c with readySent := true }
    | some r =>
      let c' := { c with readySent := true, readyCue := s.time.cue }
      if c.zeroHeld then (s.sendColl (c.party i.part) r hZero).setInst { i with coll := some c' }
      else (s.sendColl (c.party i.part) r hReady [] ss rs).setInst { i with coll := some c' }

/-! ## Receiving (R159, R163, R166, R167) -/

/-- The tile bytes that a DATA of MMA.SEND brings, placed at the sender's place in SOURCES (R175). -/
def Inst.sendPlace (i : Inst) (c : Coll) (src unit : Nat) (p : Bytes) : List Piece :=
  let r := i.recv.getD {}
  let nt := ceilDiv r.n0 i.pkt.b
  let rows := tileSpan i.pkt.a (unit / max 1 nt) r.n1
  let cols := tileSpan i.pkt.b (unit % max 1 nt) r.n0
  let w := pitchBits r.format * cols.length / 8
  (rows.zip (List.range rows.length)).map fun x =>
    { d := r, row := x.1 + r.n1 * ((c.sources.findIdx? (· == src)).getD 0), cl := 0, off := pitchBits r.format * cols.headD 0 / 8
      bs := slice p (x.2 * w) w }

/-- The parts that a DATA of GATHER.MMA brings (R178). -/
def Inst.gatherPlace (i : Inst) (c : Coll) (src unit : Nat) (p : Bytes) : List Piece :=
  let r := i.recv.getD {}
  let b := i.dd 2
  let rc := i.gatherUnit unit
  let c0 := rc.2.headD 0
  let w := pitchBits b.format * rc.2.length / 8
  let sc := if isMx b.format then (c0 + rc.2.length - 1) / 32 - c0 / 32 + 1 else 0
  (rc.1.zip (List.range rc.1.length)).flatMap fun x =>
    placePart r x.1 (c.shard src b.n0 + c0) rc.2.length (slice p (x.2 * (w + sc)) w, slice p (x.2 * (w + sc) + w) sc)

/-- What a DATA message of a unit writes. -/
def State.dataPieces (s : State) (i : Inst) (c : Coll) (src unit : Nat) (p : Bytes) : List Piece :=
  let x := unit / 2 ^ 16
  let slot := i.pkt.a * (unit % 2 ^ 16)
  let r := i.recv.getD {}
  match c.opcode with
  | 0x11 => i.sendPlace c src unit p
  | 0x13 => i.gatherPlace c src unit p
  | 0x14 => a2aPlace r c.cap c.size src ((hostedBy c.experts c.rank).findIdx? (· == x) |>.getD 0) slot (chunks r.row p)
  | 0x15 => s.returnPlace i c x slot (chunks r.row p)
  | _ => []

/-- A node that a DATA message of MMA.RSUM carries (R177). -/
def nodeOf (i : Inst) (h : CollHeader) (p : Bytes) : TreeNode :=
  { tile := h.unit.toNat, first := h.node.toNat, leaves := h.count.toNat
    fp := if i.pkt.anch then [] else (itemsOf 4 (p.length / 4) p).map leNat
    anch := if i.pkt.anch then (itemsOf 24 (p.length / 24) p).map ofExtImage else [] }

/-- Receive slots that each source has (R167, R173). -/
def Inst.slotsEach (i : Inst) (size : Nat) : Nat :=
  let tile := i.pkt.a * i.pkt.b * (if i.pkt.anch then 24 else 4)
  (((i.recv.map (·.cap)).getD 0) - (i.dd 0).extent) / max 1 tile / max 1 (size - 1)

/-- DATA received whole (R162, R167): placed or kept, and for MMA.RSUM its slot granted again. -/
def State.dataIn (s : State) (i : Inst) (c : Coll) (h : CollHeader) (p : Bytes) : State :=
  let src := h.srcRank.toNat
  let c := { c with got := rankAdd c.got src 1 }
  let c := if c.opcode = 0x12 then { c with nodes := c.nodes ++ [nodeOf i h p] } else c
  let xs := s.dataPieces i c src h.unit.toNat p
  let ev := firstEvent (xs.map (s.pieceEvent i))
  if ev ≠ 0 then s.failColl i c ev
  else
    let m := s.writePieces i xs
    let more := ((c.openOf src).getD 0) - rankGet c.got src
    let s := if c.opcode = 0x12 ∧ i.slotsEach c.size ≤ more then m.1.sendColl (c.party i.part) src hCredit [] 1 else m.1
    s.pumpColl i c

/-- OPEN (R162, R167): the units that a source will send, answered with a grant. -/
def State.openIn (s : State) (i : Inst) (c : Coll) (h : CollHeader) (p : Bytes) : State :=
  let src := h.srcRank.toNat
  let n := h.count.toNat
  let grant := if c.opcode = 0x12 then min n (i.slotsEach c.size) else n
  let c := { c with opens := (c.opens.filter (·.1 != src)) ++ [(src, n)]
                    counts := (c.counts.filter (·.1 != src)) ++ [(src, (itemsOf 4 (p.length / 4) p).map leNat)] }
  (s.sendColl (c.party i.part) src hCredit [] grant).pumpColl i c

/-- A header relayed in the tree, except to its sender (R166); an ABSENT with the SEND_CUE that it came with (R266). -/
def State.relayColl (s : State) (t : Party) (type : Nat) (h : CollHeader) : State :=
  s.sendCollAll t (t.tree (some h.srcRank.toNat)) type h.reason.toNat h.absentRank.toNat
    (if type = hAbsent then some h.sendCue.toNat else none)

/-- The header checks of R159 and R163. An ABSENT of OPCODE 0 is a withdrawal's (R258): it speaks for no collective, and has no
parameters to compare (DEDUCED, log entry 19). -/
def State.collHeaderEvent (s : State) (c : Coll) (type : Nat) (h : CollHeader) : Nat :=
  if h.bookDigest.toNat ≠ s.digest then Ev.bookSplit
  else if ¬(type = hAbsent ∧ h.opcode = 0) ∧
      ¬(h.opcode.toNat = c.opcode ∧ h.epoch.toNat = c.epoch ∧ h.paramDigest.toNat = c.paramDigest) then 0x5011
  else 0

/-- A header acts on the collective that it names. -/
def State.collAct (s : State) (i : Inst) (c : Coll) (type : Nat) (h : CollHeader) (p : Bytes) : State :=
  let src := h.srcRank.toNat
  let c := { c with heard := tblSet 0 c.heard src s.time.cue }
  let ev := s.collHeaderEvent c type h
  let child := (treeChildren c.rank c.size).contains src
  let parent := decide (treeParent c.rank = some src)
  if ev ≠ 0 then s.failColl i c ev
  else if type = hReady ∨ (type = hZero ∧ child = true) then
    if child && !c.readyFrom.contains src then
      s.tryReady i { c with readyFrom := c.readyFrom ++ [src], sendSum := (c.sendSum + h.count.toNat) % 2 ^ 32
                            recvSum := (c.recvSum + h.unit.toNat) % 2 ^ 32, zeroHeld := c.zeroHeld || type == hZero }
    else s.setInst { i with coll := some c }
  else if type = hZero then (if parent then s.zeroColl i c else s.setInst { i with coll := some c })
  else if type = hGo then (if parent && !c.go then s.goColl i c else s.setInst { i with coll := some c })
  else if type = hOpen then s.openIn i c h p
  else if type = hCredit then
    let c := if c.slots.any (·.1 == src) then c else { c with slots := tblSet [] c.slots src [h.count.toNat] }
    s.pumpColl i { c with credits := rankAdd c.credits src h.count.toNat }
  else if type = hData then s.dataIn i c h p
  else if type = hDone then
    if child && !c.doneFrom.contains src then s.pumpColl i { c with doneFrom := c.doneFrom ++ [src] }
    else s.setInst { i with coll := some c }
  else if type = hClose then (if parent then s.closeColl i c else s.setInst { i with coll := some c })
  else if type = hPoison then (s.relayColl (c.party i.part) hPoison h).leaveColl i c Ev.peerPoison
  else if type = hAbsent then
    (s.relayColl (c.party i.part) hAbsent h).leaveColl i { c with absentRank := h.absentRank.toNat } Ev.cueSlip
  else s

/-! ## Relays (R166) -/

/-- The collective logic relays a header for a member that has left; one of another book (R159) it answers with POISON. -/
def State.relayAct (s : State) (r : Relay) (type : Nat) (h : CollHeader) : State :=
  let src := h.srcRank.toNat
  let child := (treeChildren r.rank r.size).contains src
  if h.bookDigest.toNat ≠ s.digest then
    if r.poisoned then s
    else (s.sendCollAll r.party (r.party.tree none) hPoison Ev.bookSplit).setRelay r.part h (some { r with poisoned := true })
  else if type = hPoison ∨ type = hAbsent then
    if r.poisoned then s else (s.relayColl r.party type h).setRelay r.part h (some { r with poisoned := true })
  else if type = hReady ∨ type = hGo ∨ type = hZero ∨ type = hDone ∨ type = hClose then
    if child then
      (if r.zero ∧ (type = hReady ∨ type = hZero) then s.relayReady { r with readyFrom := r.readyFrom ++ [src] } h
       else match treeParent r.rank with
        | some q => s.sendColl r.party q type [] h.count.toNat h.unit.toNat
        | none => s)
    else
      let s := s.sendCollAll r.party (treeChildren r.rank r.size) type
      if type = hZero ∨ type = hClose then s.setRelay r.part h none else s
  else s

/-- A collective message received for partition p (R163). -/
def State.collMessage (s : State) (p type : Nat) (h : CollHeader) (payload : Bytes) : State :=
  match s.collFor p h with
  | some (i, c) => s.collAct i c type h payload
  | none =>
    match s.comp.relays.find? fun r => r.names p h with
    | some r => s.relayAct r type h
    | none =>
      let reading := s.insts.any fun i => i.part == p &&
        (i.coll.toList ++ i.laterColls).any fun c => c.company == h.company.toNat && c.seq == h.collSeq.toNat
      let later := ((s.companyOf p h.company.toNat).map fun e => decide (e.2.collSeq ≤ h.collSeq.toNat)).getD false
      if reading || later then s.setComp { s.comp with held := s.comp.held ++ [⟨p, type, h, payload⟩] } else s

/-! ## Start -/

/-- The member's part of a fused collective as its headers need it. -/
def State.collHead (s : State) (i : Inst) (e : Nat × CompanyEntry) (seq : Nat) : Coll :=
  let b := CollBlock.ofBytes i.params
  let place := s.rosterPlace i e
  { company := e.2.company, seq := seq, opcode := i.pkt.opcode, rank := e.2.rank, size := e.2.size, leaves := e.2.leaves
    roster := s.rosterAt place.1 e.2.size, epoch := place.2, paramDigest := s.paramDigest i e.2 place.1
    dests := s.listOf i i.dests, sources := s.listOf i i.sources, experts := s.listOf i i.expertsT
    drop := bits b.flags 0 1 == 1, cap := b.cap, budget := b.budget
    slipAllow := if b.slipAllow ≠ 0 then b.slipAllow else if e.2.slipAllow ≠ 0 then e.2.slipAllow else 4
    dropped := if b.flags % 2 = 1 then droppedOf (s.choices i) b.cap (i.expertsT.getD {}).n0 else 0
    keep := match i.pkt.opcode with
      | 0x12 => (i.d 0).toList.map Desc.toExtent
      | 0x14 => i.countsT.toList.map Desc.toExtent
      | 0x15 => (i.d 0).toList.map Desc.toExtent
      | _ => [] }

/-- Headers held for a collective act on it, in the order in which they came; relays of collectives long past are
dropped. -/
def State.releaseColl (s : State) (p company seq : Nat) : State :=
  let mine := fun (h : HeldHeader) => h.part == p && h.hdr.company.toNat == company && h.hdr.collSeq.toNat == seq
  let hs := s.comp.held.filter mine
  let s := s.setComp { s.comp with held := s.comp.held.filter fun h => !mine h
                                   relays := s.comp.relays.filter fun r => !(r.part == p && r.company == company && decide (r.seq + 1 < seq)) }
  s.over hs fun s h => s.collMessage h.part h.type h.hdr h.payload

/-- A fused collective in flight opens: READY once its children have reported, and the headers held for it act. -/
def State.startColl (s : State) (i : Inst) (c : Coll) : State :=
  let i := { i with wait := .exchange, coll := some c }
  ((s.setInst i).tryReady i c).releaseColl i.part c.company c.seq

/-- A fused collective that ends at issue (R69, R165, R166): POISON for an event, ZERO once its children report for a
zero shape; the collective logic relays for it. -/
def State.collAtIssue (s : State) (i : Inst) (c : Coll) (event : Nat) : State :=
  let s := if event = 0 then s else s.poisonColl i.part c event
  let s := if event = 0 then s.leaveZero i.part c else s.addRelay (c.relay i.part event false)
  s.releaseColl i.part c.company c.seq

/-- Every fused collective of a partition does what it can: acknowledgements have come (R170). -/
def State.pumpAll (s : State) : State :=
  s.over s.insts fun s x =>
    match s.collNow x.queue x.index with
    | some (i, c) => if c.go ∧ i.wait = .exchange then s.pumpColl i c else s
    | none => s

/-! ## Slip (R168) -/

/-- From when a member has waited for a rank: for GO or CLOSE from its parent, for OPEN or DATA from a sender, for
CREDIT from a receiver. -/
def Coll.waitFrom (c : Coll) (r : Nat) : Option Nat :=
  let heard := rankGet c.heard r
  if treeParent c.rank = some r ∧ c.readySent = true ∧ c.go = false then some (max c.readyCue heard)
  else if treeParent c.rank = some r ∧ c.doneSent = true then some (max c.doneCue heard)
  else if c.go && !c.doneSent && ((c.senders.contains r && (match c.openOf r with
      | some n => decide (rankGet c.got r < n)
      | none => true)) || (c.toSend.any (·.dst == r) && rankGet c.credits r == 0)) then some (max c.goCue heard)
  else none

/-- A wait passes the slip allowance: the partner is declared absent, as for a ring neighbour. -/
def State.collSlip (s : State) (i : Inst) (c : Coll) (rank : Nat) : State :=
  match c.waitFrom rank with
  | none => s
  | some t =>
    if c.slipAllow * c.budget < s.time.cue - t then
      let whom := ((c.party i.part).tree none ++ c.partners).eraseDups
      ((s.sendCollAll (c.party i.part) whom hAbsent Ev.cueSlip rank).leaveColl i { c with absentRank := rank } Ev.cueSlip).holdAbsent
        i.part c.company rank s.time.cue
    else s

end Sys2Proof.Machine
end

