-- ==== Sys2Proof/Machine/Conv.lean ====
section
/-!
DEFINITION. CONV (R92 to R98): its modes, checks, working area and work, and the tiles of the Apron engines.
Readings of the rules that they leave open: log entries 51 and 52 (DEDUCED or DESIGN CHOICE, as the log marks each).
-/

namespace Sys2Proof.Machine

/-- The fields of a CONV (R92, R93). -/
structure ConvArgs where
  mode : Nat
  sw : Nat
  sh : Nat
  dw : Nat
  dh : Nat
  padL : Nat
  padW : Nat
  padH : Nat
  groups : Nat
  deriving DecidableEq, Repr

/-- CONV.MODE (R93). -/
def Pkt.convMode (k : Pkt) : Nat := bits k.md 4 4

/-- The arguments of a CONV from its packet and its block. -/
def Inst.conv (i : Inst) : ConvArgs :=
  let m := i.pkt.imm
  let blk := (i.d 3).isSome
  let pw := if blk then field i.params 0 2 else 0
  { mode := i.pkt.convMode, sw := bits m 0 3 + 1, sh := bits m 3 3 + 1, dw := bits m 6 3 + 1, dh := bits m 9 3 + 1,
    padL := if bits m 12 1 = 1 then 2 * pw else pw, padW := pw, padH := if blk then field i.params 2 2 else 0,
    groups := if blk then field i.params 4 4 else 1 }

/-- The tile class that a mode selects (R93). -/
def convClass (mode : Nat) : TileClass := if mode ≤ 2 then .matrix else .vector

/-- Mode, MOD[3:0] and tile codes, order 2 (R93). -/
def convFieldsOk (k : Pkt) : Bool :=
  match k.convMode with
  | 5 => bits k.md 0 4 == 0 && inRange k.ta 6 12 && k.tb == 0 && k.tc == 0
  | m =>
    if m ≤ 2 then bits k.md 0 2 == 0 && tilesOk .matrix k
    else decide (m ≤ 4) && bits k.md 0 4 == 0 && tilesOk .vector k

/-- Output size along one dimension (R92), at or below 0 when the window does not fit. -/
def convOut (w pad dil f stride : Nat) : Int := ((w : Int) + 2 * pad - dil * ((f : Int) - 1) - 1) / stride + 1

/-- The limits of a mode (R93). -/
def convLimits (c : ConvArgs) (x f o : Desc) : Bool :=
  let cin := x.n2
  let cout := o.n2
  match c.mode with
  | 0 => decide (f.n0 ≤ 8 ∧ f.n1 ≤ 8)
  | 1 => decide (f.n0 ≤ 4096 ∧ f.n1 ≤ 256)
  | 2 => f.n0 == 1 && f.n1 == 1 && c.sw == 1 && c.sh == 1 && c.dw == 1 && c.dh == 1 && c.padW == 0 && c.padH == 0 &&
      c.groups == 1
  | 3 => c.groups == cin && cin != 0 && cout % cin == 0 && decide (cout / cin ≤ 16 ∧ f.n0 * f.n1 ≤ 4096)
  | 4 => c.groups != 0 && decide (cin / c.groups ≤ 16 ∧ cout / c.groups ≤ 16 ∧ f.n0 * f.n1 ≤ 4096)
  | 5 => decide (min cin cout ≤ 16 ∧ max cin cout ≤ 1024 ∧ f.n0 * f.n1 ≤ 1024)
  | _ => false

/-- Order 4 of CONV (R92, R93, R97). -/
def convShapesOk (i : Inst) : Bool :=
  let c := i.conv
  let x := i.dd 1
  let f := i.dd 2
  let o := i.dd 0
  let blockOk := (match i.d 3 with
    | some d => decide (16 ≤ d.cap) && allZero (slice i.params 8 8)
    | none => true)
  let noLocal := (c.mode != 5 || ([i.d 0, i.d 1, i.d 2, i.d 3].all fun d =>
    match d with
    | some d => d.tier == tCache || d.tier == tStacked || d.tier == tHost
    | none => true))
  let shapes :=
    (c.groups != 0 && x.n2 % c.groups == 0 && o.n2 % c.groups == 0 && f.n2 == x.n2 / c.groups && f.n3 == o.n2 &&
      o.n3 == x.n3 && convOut x.n0 c.padW c.dw f.n0 c.sw == o.n0 && convOut x.n1 c.padH c.dh f.n1 c.sh == o.n1 &&
      convLimits c x f o)
  let layouts := (x.layout == 1 || x.layout == 2) && (o.layout == 1 || o.layout == 2) && f.layout != 2
  let mx := c.mode ≤ 2 && i.pkt.tc == 4 && (isMx x.format || isMx f.format)
  let meets := o.clashes x || o.clashes f
  blockOk && noLocal && shapes && layouts && !mx && !meets

/-- Formats of CONV (R92): those of MMA in the matrix modes, of R87 in the vector modes, BF16 or FP16 on the Apron
engines (R97). -/
def convFormatsOk (i : Inst) : Bool :=
  let x := i.dd 1
  let f := i.dd 2
  let o := i.dd 0
  match i.pkt.convMode with
  | 3 => vectorFormatsOk { i with pkt := { i.pkt with opcode := 0x32 }, descs := [some o, some x, some f] }
  | 4 => vectorFormatsOk { i with pkt := { i.pkt with opcode := 0x32 }, descs := [some o, some x, some f] }
  | 5 => (mmaGroup x.format == 1 || mmaGroup x.format == 2) && mmaGroup x.format == mmaGroup f.format &&
      mmaOutOk (mmaGroup x.format) false false o.format
  | _ => mmaGroup x.format != 6 && mmaFormatsOk i.pkt false x f o none

/-- The staged window of M positions, the A hand-over unit of DIRECT and PASSES (R94), and the filter unit. -/
def convUnitsOk (i : Inst) : Bool :=
  let c := i.conv
  let x := i.dd 1
  let f := i.dd 2
  if c.mode ≤ 1 then
    let cols := (i.pkt.a - 1) * c.sw + c.dw * (min f.n0 8 - 1) + 1
    decide (pitchBits x.format * (cols * min f.n1 8 * i.pkt.c) / 8 ≤ 65536) &&
      decide (i.pkt.c * rowBytes f.format i.pkt.b ≤ 65536) && decide (i.pkt.a * rowBytes (i.dd 0).format i.pkt.b ≤ 65536)
  else if c.mode = 2 then matrixUnitsOk i
  else true

/-- CONV's own checks, by order. -/
def convCheck (i : Inst) (order : Nat) : Nat :=
  match order with
  | 2 => if convFieldsOk i.pkt then 0 else Ev.desc
  | 4 => if convShapesOk i then 0 else Ev.desc
  | 5 => if convFormatsOk i then 0 else Ev.format
  | 10 => if convUnitsOk i then 0 else Ev.fit
  | _ => 0

/-! ## The sum of one output element -/

/-- The taps of a filter in the order of R94: sub-filters of 8 × 8 in row-major order, taps in row-major order. -/
def convTaps (fw fh : Nat) : List (Nat × Nat) :=
  (List.range (ceilDiv fh 8)).flatMap fun sy => (List.range (ceilDiv fw 8)).flatMap fun sx =>
    ((List.range 8).map (8 * sy + ·)).flatMap fun y =>
      ((List.range 8).map fun x => (8 * sx + x, y)).filter fun t => t.1 < fw && t.2 < fh

/-- The K-steps of an output element (R81, R94): for each tap, the input channels of the group in pieces of kt. inAt gives
the input at a column, row, channel; zero stands for padding. -/
def convSteps {α : Type} (zero : α) (c : ConvArgs) (x f : Desc) (cg kt ow oh g : Nat) (inAt : Nat → Nat → Nat → α)
    (fAt : Nat → Nat → Nat → α) : List (List (α × α)) :=
  (convTaps f.n0 f.n1).flatMap fun t =>
    let px := ow * c.sw + t.1 * c.dw
    let py := oh * c.sh + t.2 * c.dh
    let inside := decide (c.padL ≤ px ∧ px < c.padL + x.n0 ∧ c.padH ≤ py ∧ py < c.padH + x.n1)
    kSteps (zero, zero) kt ((List.range cg).map fun ch =>
      (if inside then inAt (px - c.padL) (py - c.padH) (g * cg + ch) else zero, fAt t.1 t.2 ch))

/-- Channels of a K-step: those of the K tile in the matrix modes (R94). The vector path rounds after every product, and an Apron
engine, which R97 gives DIRECT's bits without a K tile, after all the channels of a tap (DESIGN CHOICE, log entry 51). -/
def Inst.convK (i : Inst) : Nat := if i.pkt.convMode ≤ 2 then i.pkt.c else if i.pkt.convMode = 5 then 1024 else 1

/-- The product that a CONV accumulates by (R92, R94, R96, R97). -/
def Inst.convProd (i : Inst) : Prod :=
  let c := i.conv
  let x := i.dd 1
  let f := i.dd 2
  let o := i.dd 0
  let anch := i.pkt.anch && decide (c.mode ≤ 2)
  { panel := 2 ^ 40, accum := accumOf x.format anch, split := false,
    anchor := mmaAnchor x f o (f.n0 * f.n1 * f.n2), fmtA := x.format, fmtB := f.format, fmtC := o.format }

/-- The tile number of an output row's position and channel (R79, R94): in POINTWISE mode that of the MMA over the flattened
positions (R95), in the vector modes that of the row group, output rows of one channel (R86, R96). -/
def Inst.convTile (i : Inst) (ow oh co b : Nat) : Nat :=
  let c := i.conv
  let o := i.dd 0
  if c.mode = 2 then
    (b * ceilDiv (o.n0 * o.n1) i.pkt.a + (oh * o.n0 + ow) / i.pkt.a) * ceilDiv o.n2 i.pkt.b + co / i.pkt.b
  else if c.mode ≤ 1 then
    let perGroup := o.n2 / max 1 c.groups
    let mt := ceilDiv o.n0 i.pkt.a
    let nt := ceilDiv perGroup i.pkt.b
    ((b * o.n1 + oh) * mt + ow / i.pkt.a) * nt + co % max 1 perGroup / i.pkt.b
  else
    let g := rowGroup i.pkt.a o.n0
    (b * o.n2 + co) * ceilDiv o.n1 g + oh / g

/-- The work of CONV (R92 to R97). -/
def convWork (s : State) (i : Inst) : Work :=
  let c := i.conv
  let x := i.dd 1
  let f := i.dd 2
  let o := i.dd 0
  let m := i.convProd
  let cg := x.n2 / max 1 c.groups
  let og := o.n2 / max 1 c.groups
  let cls := s.clustersFor i (o.rows * o.n0)
  let fail := firstEvent [s.srcEvent i x cls, s.srcEvent i f cls]
  let row (n cl r : Nat) := s.srcRow i n cl r
  let outs := (List.range o.rows).map fun r =>
    let oh := r % o.n1
    let co := r / o.n1 % o.n2
    let b := r / (o.n1 * o.n2)
    let g := co / max 1 og
    (r, (List.range o.n0).map fun ow =>
      let cl := s.tileCluster i (i.convTile ow oh co b)
      let xr (y ch : Nat) := row 1 cl (y + x.n1 * (ch + x.n2 * b))
      let fr (y ch : Nat) := row 2 cl (y + f.n1 * (ch + f.n2 * co))
      (cl, match m.accum with
        | .int => m.elem none none [] (convSteps 0 c x f cg i.convK ow oh g
            (fun px py ch => (rowInts x.format x.n0 (xr py ch)).getD px 0)
            (fun px py ch => (rowInts f.format f.n0 (fr py ch)).getD px 0))
        | _ => m.elem none none (convSteps .zero c x f cg i.convK ow oh g
            (fun px py ch => (rowVals x.format x.n0 (xr py ch)).getD px .nan)
            (fun px py ch => (rowVals f.format f.n0 (fr py ch)).getD px .nan)) []))
  let pieces := outs.flatMap fun t =>
    (t.2.zip (List.range t.2.length)).map fun e =>
      { d := o, row := t.1, cl := e.1.1, off := pitchBits o.format * e.2 / 8, bs := codeBytes o.format [e.1.2.1] : Piece }
  let ovf := outs.any fun t => t.2.any fun e => e.2.2
  { fail := fail, event := if ovf then Ev.anchOvf else 0, count := o.elements, pieces := pieces,
    reads := [(x, x.units i.pkt.a x.n0)] ++ [(f, f.units 1 f.n0)] }

/-! ## The Apron engines (R97, R98) -/

/-- The dies on which a partition owns a fold: eight folds to a die (R7, R10). -/
def PartBlock.dies (b : PartBlock) : List Nat := (List.range 4).filter fun d => b.foldList.any fun f => f / 8 == d

/-- The output tiles of an APRON instruction: 2^TA positions each, for every output channel set and batch index. -/
def Inst.apronCount (i : Inst) : Nat :=
  let o := i.dd 0
  ceilDiv (o.n0 * o.n1) i.pkt.a * o.n3

/-- The tiles dealt in turn to the engines, in increasing die number. -/
def apronDeal (dies : List Nat) (n : Nat) : List (Nat × Nat) :=
  (dies.zip (List.range dies.length)).map fun d => (d.1, (n + dies.length - 1 - d.2) / dies.length)

end Sys2Proof.Machine
end

