-- ==== Sys2Proof/Machine/Access.lean ====
section
/-!
DEFINITION. Access instructions that move and combine data (R202 to R209): MOVE with packing, FILL, GATHER,
SCATTER, ATOM and ATOM.CAS; their checks and work.
-/

namespace Sys2Proof.Machine

/-- Rows in dimension 1 alone. -/
def Desc.plane (d : Desc) : Bool := d.n2 == 1 && d.n3 == 1

/-- SHAPE (n, 1, 1, 1). -/
def Desc.vector (d : Desc) (n : Nat) : Bool := d.n0 == n && d.n1 == 1 && d.plane

/-- SHAPE and tier rules of the access class, order 4 (R202, R205, R210); overlap is barred for MOVE alone, and judged where both
FORMATs are known (R66). -/
def accessShapesOk (i : Inst) : Bool :=
  let s0 := i.dd 0
  let s1 := i.dd 1
  let s2 := i.dd 2
  let far (d : Desc) := d.tier == tPeer || d.tier == tHost
  let shared := s0.tier == tCache || s0.tier == tStacked
  match i.pkt.opcode with
  | 0x60 =>
    s0.sameShape s1 && !(far s0 && far s1) && !(i.pkt.imm == 1 && s0.tier != tLocal) && !s0.clashes s1 &&
      ([s0, s1].all fun d => !d.packed ||
        (d.tier != tLocal && d.layout == 0 && d.st1 == 0 && d.st2 == 0 && d.st3 == 0))
  | 0x62 => s0.n0 == s1.n0 && s0.plane && s1.plane && s2.vector s0.n1
  | 0x63 => s0.n0 == s1.n0 && s0.plane && s1.plane && s2.vector s1.n1
  | 0x66 => s1.tier == tStacked
  | 0x67 => s1.tier == tStacked
  | 0x68 => s1.n0 == 32
  | 0x70 =>
    (match i.d 2 with
     | some x => s0.n0 == s1.n0 && s0.plane && s1.plane && x.vector s1.n1
     | none => s1.sameShape s0) &&
      (match i.d 3 with
       | some x => x.sameShape s1
       | none => true) && shared &&
      (s0.format != 0x0F || (s0.blockExp.isSome && (s1.format != 0x0F || s1.blockExp == s0.blockExp)))
  | 0x71 => s1.sameShape s0 && s2.sameShape s0 && (i.dd 3).sameShape s0 && shared
  | _ => true

/-- Formats of the access class, order 5 (R202, R205, R207). -/
def accessFormatsOk (i : Inst) : Bool :=
  let op := i.pkt.opcode
  let f0 := (i.dd 0).format
  let f1 := (i.dd 1).format
  let idxOk := (match i.d 2 with
    | some d => d.format == 0x09
    | none => true)
  let oldOk := (match i.d 3 with
    | some d => d.format == f0
    | none => true)
  let noPack := op == 0x60 || !([i.d 0, i.d 1, i.d 2, i.d 3].any fun d => (d.map (·.packed)).getD false)
  noPack &&
    (match op with
     | 0x60 => f0 == f1 && !((i.dd 0).packed && (i.dd 1).packed) &&
         (!((i.dd 0).packed || (i.dd 1).packed) || f0 == 0x01 || f0 == 0x02 || f0 == 0x03)
     | 0x61 => !isAnch f0
     | 0x62 => f0 == f1 && idxOk
     | 0x63 => f0 == f1 && idxOk
     | 0x68 => f1 == 0x0E
     | 0x70 =>
       idxOk && oldOk &&
         (if f0 = 0x08 ∨ f0 = 0x09 then f1 == f0
          else if f0 = 0x01 then f1 == f0 && (i.pkt.md ≤ 2 || i.pkt.md == 6)
          else f0 == 0x0F && i.pkt.md == 0 && (f1 == 0x01 || f1 == 0x02 || f1 == 0x0F))
     | 0x71 => (f0 == 0x08 || f0 == 0x09 || f0 == 0x01) && f1 == f0 && (i.dd 2).format == f0 && oldOk
     | _ => true)

/-- Bytes of a hand-over unit of PUSH and POP (R202), and the capacity of its FIFO (R32). -/
def unitBytes (k : Pkt) (d : Desc) : Nat := k.a * rowBytes d.format k.b

/-- The access class's own checks, by order. -/
def accessCheck (i : Inst) (order : Nat) : Nat :=
  let k := i.pkt
  match order with
  | 2 =>
    let ok := (match k.opcode with
      | 0x64 => k.imm != 2
      | 0x68 => inRange (bits k.imm 0 4) 1 8
      | 0x70 => decide (k.md ≤ 6)
      | _ => true)
    if ok then 0 else Ev.desc
  | 4 => if accessShapesOk i then 0 else Ev.desc
  | 5 => if accessFormatsOk i then 0 else Ev.format
  | 10 =>
    (match k.opcode with
     | 0x64 => if unitBytes k (i.dd 1) > (if k.imm = 3 then 4096 else 65536) then Ev.fit else 0
     | 0x65 => (match i.d 0 with
       | some d => if unitBytes k d > 65536 then Ev.fit else 0
       | none => 0)
     | _ => 0)
  | _ => 0

/-! ## Row groups (R202) -/

/-- Rows in a row group of at most 65,536 bytes. -/
def accessGroup (d : Desc) : Nat := max 1 (65536 / max 1 d.row)

/-- The clusters that an access instruction's row groups use. -/
def State.accessClusters (s : State) (i : Inst) (d : Desc) : List Nat :=
  s.clustersFor i (ceilDiv d.rows (accessGroup d))

/-- An operand read by row groups (R191). -/
def groupReads (d : Desc) : Desc × List (List Nat) := (d, d.units (accessGroup d) d.n0)

/-! ## Exponent-delta packing (R207 to R209) -/

/-- Exponent and fraction bits of a packable format. -/
def packBitsOf (fmt : Nat) : Nat × Nat := if fmt = 0x01 then (8, 23) else if fmt = 0x02 then (8, 7) else (5, 10)

/-- A block of 64 codes: its B, its width, and its bytes (R208). -/
def packBlock (fmt : Nat) (cs : List Nat) : Nat × Nat × Bytes :=
  let eb := (packBitsOf fmt).1
  let fb := (packBitsOf fmt).2
  let cs := cs ++ List.replicate (64 - cs.length) 0
  let es := cs.map fun c => bits c fb eb
  let hi := es.foldl max 0
  let lo := es.foldl min hi
  let w := if hi = lo then 0 else Nat.log2 (hi - lo) + 1
  let sf := cs.map fun c => bits c 0 fb + bits c (fb + eb) 1 * 2 ^ fb
  (hi, w, packBits (1 + fb) sf ++ packBits w (es.map fun e => hi - e))

/-- A chunk of up to 4,096 codes (R207, R208). -/
def packChunk (fmt : Nat) (cs : List Nat) : Bytes :=
  let blocks := (List.range 64).map fun j => packBlock fmt ((cs.drop (64 * j)).take 64)
  let body := blocks.flatMap (·.2.2)
  let body := body ++ zeros (ceilDiv body.length 64 * 64 - body.length)
  natLE 4 (128 + body.length) ++ natLE 2 cs.length ++ natLE 1 fmt ++ natLE 1 0 ++
    packBits 4 (blocks.map (·.2.1)) ++ blocks.map (fun b => BitVec.ofNat 8 b.1) ++ natLE 4 (crc32c body) ++ zeros 20 ++ body

/-- A tensor's codes as a packed stream. -/
def packStream (fmt : Nat) (cs : List Nat) : Bytes := (chunks 4096 cs).flatMap (packChunk fmt)

/-- The codes of a block of width w and base B. -/
def unpackBlock (fmt w hi : Nat) (bs : Bytes) : List Nat :=
  let eb := (packBitsOf fmt).1
  let fb := (packBitsOf fmt).2
  let v := leNat bs
  (List.range 64).map fun j =>
    let sf := bits v (j * (1 + fb)) (1 + fb)
    let e := (hi + 2 ^ eb - bits v (64 * (1 + fb) + j * w) w) % 2 ^ eb
    sf % 2 ^ fb + e * 2 ^ fb + sf / 2 ^ fb * 2 ^ (fb + eb)

/-- A chunk of n expected elements at the head of a stream: its codes and length, none when malformed (R209). -/
def unpackChunk (fmt n : Nat) (bs : Bytes) : Option (List Nat × Nat) :=
  let fb := (packBitsOf fmt).2
  let ws := (List.range 64).map fun j => bits (field bs (8 + j / 2) 1) (4 * (j % 2)) 4
  let raw := 128 + 512 * (1 + fb) + 8 * ws.sum
  let len := ceilDiv raw 64 * 64
  let body := slice bs 128 (len - 128)
  if field bs 0 4 = len ∧ field bs 4 2 = n ∧ field bs 6 1 = fmt ∧ (ws.all fun w => w ≤ (packBitsOf fmt).1) = true ∧
      field bs 0x68 4 = crc32c body ∧ allZero (slice bs raw (len - raw)) = true then
    let blocks := (ws.zip (List.range 64)).foldl (fun (acc : Nat × List Nat) p =>
      let sz := 8 * (1 + fb) + 8 * p.1
      (acc.1 + sz, acc.2 ++ unpackBlock fmt p.1 (field bs (0x28 + p.2) 1) (slice bs acc.1 sz))) (128, [])
    some (blocks.2.take n, len)
  else none

/-- The codes of a stream of chunks with the given element counts. -/
def unpackStream (fmt : Nat) : List Nat → Bytes → Option (List Nat)
  | [], _ => some []
  | n :: t, bs =>
    match unpackChunk fmt n bs with
    | none => none
    | some (cs, len) => (unpackStream fmt t (bs.drop len)).map (cs ++ ·)

/-- Elements of each chunk of a tensor. -/
def chunkSizes (n : Nat) : List Nat := (List.range (ceilDiv n 4096)).map fun j => min 4096 (n - 4096 * j)

/-- The chunk lengths by their headers, to know which bytes a stream holds. -/
def streamLength : List Nat → Bytes → Nat
  | [], _ => 0
  | _ :: t, bs => field bs 0 4 + streamLength t (bs.drop (max 128 (field bs 0 4)))

/-- Bytes of an operand from its BASE upward. -/
def State.flatBytes (s : State) (i : Inst) (d : Desc) (n : Nat) : Bytes := s.tierBytes d.tier (d.who (s.fnOf i) 0) d.base n

/-! ## Work -/

/-- Codes of a whole operand in element-index order. -/
def State.allCodes (s : State) (i : Inst) (d : Desc) : List Nat :=
  (List.range d.rows).flatMap fun r =>
    unpackRow (if d.format = 0x0A then 0x09 else d.format) d.n0
      (s.rowBytesOf d (s.fnOf i) (s.clusterAt i (r / accessGroup d)) (d.rowAt r))

/-- MOVE (R202, R207 to R209). -/
def moveWork (s : State) (i : Inst) : Work :=
  let o := i.dd 0
  let x := i.dd 1
  if x.packed then
    let sizes := chunkSizes x.elements
    let all := s.flatBytes i x x.extent
    let n := min x.extent (streamLength sizes all)
    let fail := s.readEvent x.tier (x.who (s.fnOf i) 0) x.base n
    match unpackStream x.format sizes all with
    | none => { fail := if fail ≠ 0 then fail else Ev.pack }
    | some cs =>
      { fail := fail, count := o.elements, reads := [(x, [(List.range n).map (x.base + ·)])]
        pieces := (List.range o.rows).map fun r =>
          { d := o, row := r, cl := s.clusterAt i (r / accessGroup o), bs := codeBytes o.format ((cs.drop (r * o.n0)).take o.n0) } }
  else
    let cls := s.accessClusters i o
    let fail := s.srcEvent i x cls
    if o.packed then
      let bs := packStream x.format (s.allCodes i x)
      { fail := fail, count := o.elements, reads := [groupReads x],
        pieces := [{ d := o.flat bs.length, row := 0, cl := 0, bs := bs }] }
    else
      { fail := fail, count := o.elements, reads := [groupReads x],
        pieces := (List.range o.rows).map fun r =>
          let cl := s.clusterAt i (r / accessGroup o)
          { d := o, row := r, cl := cl, bs := s.rowBytesOf x (s.fnOf i) cl (x.rowAt r) } }

/-- The row that FILL writes (R202). -/
def fillRow (fmt n imm : Nat) : Bytes :=
  if fmt = 0x0E then List.replicate n (BitVec.ofNat 8 imm)
  else if isInt fmt then codeBytes fmt (List.replicate n (unsigned (pitchBits fmt) (signed 16 imm)))
  else if fmt = 0x0A then (List.replicate n (natLE 4 (imm * 2 ^ 16))).flatten
  else packVals fmt .rne (fun _ => 0) (List.replicate n (decodeF bf16 imm))

/-- Whether an integer format holds a signed 16-bit value. -/
def fillFits (fmt imm : Nat) : Bool :=
  let v := signed 16 imm
  match fmt with
  | 0x06 => decide (-128 ≤ v ∧ v ≤ 127)
  | 0x07 => decide (0 ≤ v ∧ v ≤ 255)
  | 0x09 => decide (0 ≤ v)
  | _ => true

/-- FILL (R202). Of a BF16.HI element the upper half alone is written (R103). A value outside an integer format has no stated
code: every byte written is then free. -/
def fillWork (s : State) (i : Inst) : Work :=
  let o := i.dd 0
  let fits := fillFits o.format i.pkt.imm
  { draws := if fits then 0 else o.rows * o.row, count := o.elements
    pieces := (List.range o.rows).map fun r =>
      { d := o, row := r, cl := s.clusterAt i (r / accessGroup o),
        bs := if fits then fillRow o.format o.n0 i.pkt.imm
          else (List.range o.row).map fun k => Config.freeByte (s.free + r * o.row + k) } }

/-- The row indices of S2 (R204). -/
def State.indices (s : State) (i : Inst) (cl : Nat) : List Nat :=
  match i.d 2 with
  | some d => unpackRow 0x09 d.n0 (s.rowBytesOf d (s.fnOf i) cl (0, 0, 0))
  | none => []

/-- Positions of a window (R204). -/
def windowRows : Nat := 256

/-- GATHER (R203, R204). -/
def gatherWork (s : State) (i : Inst) : Work :=
  let o := i.dd 0
  let x := i.dd 1
  let cls := s.accessClusters i o
  let idx := s.indices i (s.clusterAt i 0)
  let rows := (idx.zip (List.range idx.length))
  let used := rows.filter fun p => p.1 < x.n1
  let fail := firstEvent ((i.d 2).map (fun d => s.srcEvent i d cls)).toList
  let fail := if fail ≠ 0 then fail else firstEvent (used.map fun p =>
    s.rowReadEvent x (s.fnOf i) (s.clusterAt i (p.2 / accessGroup o)) (p.1, 0, 0))
  let windows := chunks windowRows rows
  { fail := fail, count := used.length * o.n0
    pieces := rows.map fun p =>
      let cl := s.clusterAt i (p.2 / accessGroup o)
      { d := o, row := p.2, cl := cl,
        bs := if p.1 < x.n1 then s.rowBytesOf x (s.fnOf i) cl (p.1, 0, 0) else zeros o.row }
    reads := [(x, windows.map fun w => (w.filter fun p => p.1 < x.n1).flatMap fun p => x.rowAddrs (p.1, 0, 0))] ++
      ((i.d 2).map groupReads).toList }

/-- Of positions that touch one place, those that no later window of their own cluster follows (R204). -/
def lastWindows (cl : Nat → Nat) (ps : List Nat) : List Nat :=
  ps.filter fun p => ps.all fun x => cl x != cl p || decide (x / windowRows ≤ p / windowRows)

/-- Of positions that touch one place, those that no earlier window of their own cluster precedes (R204). -/
def firstWindows (cl : Nat → Nat) (ps : List Nat) : List Nat :=
  ps.filter fun p => ps.all fun x => cl x != cl p || decide (p / windowRows ≤ x / windowRows)

/-- The position whose bytes a sector of a table row keeps, where two or more name the row (R204): a free choice among those whose
cluster writes the row in no later window. -/
def keptPosition (free : Nat) (cl : Nat → Nat) (row sector : Nat) (ps : List Nat) : Nat :=
  let ps := lastWindows cl ps
  ps.getD (Config.freeNat (free + row * 65536 + sector) % max 1 ps.length) 0

/-- SCATTER (R203, R204). -/
def scatterWork (s : State) (i : Inst) : Work :=
  let o := i.dd 0
  let x := i.dd 1
  let cls := s.accessClusters i x
  let idx := s.indices i (s.clusterAt i 0)
  let used := (idx.zip (List.range idx.length)).filter fun p => p.1 < o.n1
  let fail := firstEvent (((i.d 2).map (fun d => s.srcEvent i d cls)).toList ++ [s.srcEvent i x cls])
  let targets := (used.map (·.1)).eraseDups
  let cl (p : Nat) := s.clusterAt i (p / accessGroup x)
  let pieces := targets.flatMap fun t =>
    let ps := (used.filter fun p => p.1 == t).map (·.2)
    (List.range (ceilDiv o.row 64)).map fun k =>
      let p := if ps.length = 1 then ps.headD 0 else keptPosition s.free cl t k ps
      { d := o, row := t, cl := cl p, off := 64 * k,
        bs := slice (s.rowBytesOf x (s.fnOf i) (cl p) (x.rowAt p)) (64 * k) 64 : Piece }
  { draws := if used.length = targets.length then 0 else o.n1 * 65536, fail := fail, count := used.length * o.n0,
    pieces := pieces, reads := [groupReads x] ++ ((i.d 2).map groupReads).toList }

/-! ## ATOM and ATOM.CAS (R205, R206) -/

/-- One element's operation (R205): the new code and the overflow mark of R114. -/
def atomOp (f0 f1 op : Nat) (exp : Int) (old val : Nat) : Nat × Bool :=
  if f0 = 0x0F then
    let a := Anch.ofImage 128 old
    let r := (if f1 = 0x0F then a.merge (Anch.ofImage 128 val)
      else a.addTerm 128 exp (((floatFmt f1).map fun f => decodeF f val).getD .nan)).check 128
    (r.image 128, r.overflowed)
  else if f0 = 0x01 then
    match op with
    | 0 => (toF32 ((ofF32 old).add (ofF32 val)), false)
    | 1 => (toF32 ((ofF32 old).min (ofF32 val)), false)
    | 2 => (toF32 ((ofF32 old).max (ofF32 val)), false)
    | _ => (val, false)
  else
    let a := intVal f0 old
    let b := intVal f0 val
    match op with
    | 0 => ((old + val) % 2 ^ 32, false)
    | 1 => (if a ≤ b then old else val, false)
    | 2 => (if a ≤ b then val else old, false)
    | 3 => (Nat.land old val, false)
    | 4 => (Nat.lor old val, false)
    | 5 => (Nat.xor old val, false)
    | _ => (val, false)

/-- A free order of the positions that meet one element (R204, R206): each place takes one of what is left, windows of one cluster in
their order. -/
def freeOrder (free : Nat) (cl : Nat → Nat) : Nat → List Nat → List Nat
  | 0, _ => []
  | n + 1, l =>
    let firsts := firstWindows cl l
    match firsts[Config.freeNat (free + n) % max 1 firsts.length]? with
    | some x => x :: freeOrder free cl n (l.filter (· != x))
    | none => []

/-- One element of the target under the positions that meet it, in their order: the new code, the codes that each
position found, and the overflow mark. -/
def atomElem (f0 f1 op : Nat) (exp : Int) (vals : Nat → Nat) : List Nat → Nat → Nat × List (Nat × Nat) × Bool
  | [], old => (old, [], false)
  | p :: t, old =>
    let r := atomOp f0 f1 op exp old (vals p)
    let q := atomElem f0 f1 op exp vals t r.1
    (q.1, (p, old) :: q.2.1, r.2 || q.2.2)

/-- ATOM (R203 to R206, R114): COUNT 0. -/
def atomWork (s : State) (i : Inst) : Work :=
  let o := i.dd 0
  let x := i.dd 1
  let cls := s.accessClusters i o
  let exp := o.blockExp.getD 0
  let pairs : List (Nat × Nat) := match i.d 2 with
    | some _ => (((s.indices i (s.clusterAt i 0)).zip (List.range x.n1)).filter fun p => p.1 < o.n1)
    | none => (List.range o.rows).map fun r => (r, r)
  let fail := firstEvent (((i.d 2).map (fun d => s.srcEvent i d cls)).toList ++ [s.srcEvent i x cls] ++
    pairs.map fun p => s.rowReadEvent o (s.fnOf i) 0 (o.rowAt p.1))
  let targets := (pairs.map (·.1)).eraseDups
  let place (p : Nat) := s.clusterAt i (p / accessGroup x)
  let rowCodes (d : Desc) (cl r : Nat) := unpackRow d.format d.n0 (s.rowBytesOf d (s.fnOf i) cl (d.rowAt r))
  let perLine := 64 / max 1 (pitchBits o.format / 8)
  let done := targets.map fun t =>
    let ps := (pairs.filter fun p => p.1 == t).map (·.2)
    let vals := ps.map fun p => (p, rowCodes x (place p) p)
    let old := rowCodes o 0 t
    (t, (List.range o.n0).map fun e =>
      let order := if ps.length ≤ 1 then ps else freeOrder (s.free + (t * o.n0 + e / perLine) * ps.length) place ps.length ps
      atomElem o.format x.format i.pkt.md exp (fun p => ((vals.find? (·.1 == p)).map fun v => v.2.getD e 0).getD 0) order
        (old.getD e 0))
  let out := done.map fun d => ({ d := o, row := d.1, cl := 0, bs := codeBytes o.format (d.2.map (·.1)) } : Piece)
  let olds := match i.d 3 with
    | none => []
    | some d3 => pairs.map fun p =>
        let els := ((done.find? (·.1 == p.1)).map (·.2)).getD []
        ({ d := d3, row := p.2, cl := s.clusterAt i (p.2 / accessGroup d3),
           bs := codeBytes o.format (els.map fun e => ((e.2.1.find? (·.1 == p.2)).map (·.2)).getD 0) } : Piece)
  let ovf := done.any fun d => d.2.any fun e => e.2.2
  { draws := if targets.length = pairs.length then 0 else (o.n1 + 1) * o.n0 * pairs.length, fail := fail,
    event := if ovf then Ev.anchOvf else 0, count := 0, pieces := out ++ olds,
    reads := [groupReads x] ++ ((i.d 2).map groupReads).toList }

/-- ATOM.CAS (R205, R206). -/
def casWork (s : State) (i : Inst) : Work :=
  let o := i.dd 0
  let cls := s.accessClusters i o
  let fail := firstEvent [s.srcEvent i (i.dd 1) cls, s.srcEvent i (i.dd 2) cls, s.srcEvent i o cls]
  let codes (k cl r : Nat) := unpackRow (i.dd k).format o.n0 (s.rowBytesOf (i.dd k) (s.fnOf i) cl ((i.dd k).rowAt r))
  let pieces := (List.range o.rows).flatMap fun r =>
    let cl := s.clusterAt i (r / accessGroup o)
    let old := codes 0 0 r
    let new := (old.zip ((codes 1 cl r).zip (codes 2 cl r))).map fun p => if p.1 = p.2.2 then p.2.1 else p.1
    [({ d := o, row := r, cl := 0, bs := codeBytes o.format new } : Piece),
     { d := i.dd 3, row := r, cl := cl, bs := codeBytes o.format old }]
  { fail := fail, count := 0, pieces := pieces, reads := [groupReads (i.dd 1), groupReads (i.dd 2)] }

end Sys2Proof.Machine
end

