-- ==== Sys2Proof/Machine/Sync.lean ====
section
/-!
DEFINITION. The common instructions (R24, R30, R38 to R43, R70): gates, hurdles, pre-emption points, CUE.STAMP,
PROP.READ and QUEUE.RESUME, as they act when they issue, and the ends of their waits.
Readings of the rules that they leave open: log entry 30 (DEDUCED or DESIGN CHOICE, as the log marks each).
-/

namespace Sys2Proof.Machine

/-! ## Gates (R38 to R40, R241, R242) -/

/-- The gates held in an instruction's context: by its scene, or by its control queue outside a scene (R38, R393). -/
def State.holds (s : State) (i : Inst) : List Hold :=
  match i.scene with
  | some id => ((s.scene? i.part id).map (·.held)).getD []
  | none => (s.queue i.queue).held

/-- Those gates replaced. -/
def State.setHolds (s : State) (i : Inst) (hs : List Hold) : State :=
  match i.scene with
  | some id =>
    (match s.scene? i.part id with
     | some sc => s.setScene i.part { sc with held := hs }
     | none => s)
  | none => s.setQueue i.queue { s.queue i.queue with held := hs }

/-- An acquisition against rank (R39). -/
def State.gateOrderBad (s : State) (i : Inst) (g : Nat) : Bool :=
  (s.holds i).any fun h => decide ((s.gate i.part g).rank ≤ (s.gate i.part h.gate).rank)

/-- A gate acquired (R38, R60, R241, R242): the count falls by 1, the epoch tag rises by 1, the tag word is written, the
gate is held, BROKEN is cleared and reported, the queue's buffered descriptors are discarded. -/
def State.acquire (s : State) (i : Inst) (g : Nat) : State × Inst :=
  let v := s.gate i.part g
  let tag := (v.epoch + 1) % 2 ^ 32
  let s := s.setGate i.part g { v with count := v.count - 1, epoch := tag, broken := false }
  let s := s.tagWord i.part g
  let s := s.setHolds i (s.holds i ++ [⟨g, tag⟩])
  (s.dropBuffer i.queue,
    { i with wait := .none, immediate := true, broken := v.broken, event := if v.broken then Ev.broken else 0 })

/-- GATE.ACQ at its issue. -/
def gateAcqBody (s : State) (i : Inst) : State × Inst :=
  let g := i.pkt.imm
  let v := s.gate i.part g
  if s.gateOrderBad i g then (s, { i with immediate := true, event := Ev.gateOrder })
  else if 0 < v.count ∧ v.waiters = [] then s.acquire i g
  else (s.setGate i.part g { v with waiters := v.waiters ++ [i.queue] }, { i with wait := .gate g, waitCue := s.time.cue })

/-- GATE.REL at its issue: the hold ends; the count rises at once when every earlier write of the queue is visible, else
when they are (R40). -/
def gateRelBody (s : State) (i : Inst) : State × Inst :=
  let g := i.pkt.imm
  let hs := s.holds i
  let s := s.setHolds i ((hs.reverse.eraseP fun h => h.gate == g).reverse)
  if (s.instsOf i.queue).all s.visible then (s.releaseGate i.part g, { i with immediate := true })
  else (s, { i with wait := .visible, immediate := true })

/-! ## Hurdles (R41) -/

/-- The generations of a hurdle, oldest first. -/
def State.hurdle (s : State) (p h : Nat) : List HurdleGen := tblGet [] (s.partition p).hurdles h

/-- They replaced. -/
def State.setHurdle (s : State) (p h : Nat) (l : List HurdleGen) : State :=
  s.setPartition p { s.partition p with hurdles := tblSet [] (s.partition p).hurdles h l }

/-- HURDLE at its issue: an arrival at the generation that takes arrivals, or the first of a new one. R41 does not say what
becomes of a generation that its scene leaves incomplete when it ends or is switched out: it stays, and takes the arrivals of the
next scene that runs (DESIGN CHOICE, log entry 57). -/
def hurdleBody (s : State) (i : Inst) : State × Inst :=
  let h := bits i.pkt.imm 0 8
  let n := bits i.pkt.imm 8 8
  let waits := bits i.pkt.md 0 1 == 0
  let l := s.hurdle i.part h
  let me := if waits then [i.queue] else []
  let done : Inst := if waits then { i with wait := .hurdle h, waitCue := s.time.cue } else { i with immediate := true }
  match l.reverse with
  | v :: t =>
    if v.arrivals.length < v.n then
      if v.n = n then
        let v := { v with arrivals := v.arrivals ++ [(i.queue, i.index)], waiters := v.waiters ++ me }
        (s.setHurdle i.part h (t.reverse ++ [v]), done)
      else (s, { i with immediate := true, event := Ev.desc })
    else (s.setHurdle i.part h (l ++ [⟨i.scene.getD 0, n, [(i.queue, i.index)], me⟩]), done)
  | [] => (s.setHurdle i.part h [⟨i.scene.getD 0, n, [(i.queue, i.index)], me⟩], done)

/-- What the arriving queue issued before its arrival is visible. -/
def State.arrived (s : State) (a : Nat × Nat) : Bool :=
  match (s.instsOf a.1).find? (·.index == a.2) with
  | none => true
  | some _ => ((s.instsOf a.1).takeWhile fun i => i.index != a.2).all s.visible

/-- A generation is complete (R41). -/
def State.genComplete (s : State) (v : HurdleGen) : Bool := v.arrivals.length == v.n && v.arrivals.all s.arrived

/-- The WAIT arrivals of a generation retire with an event, each in its turn. -/
def State.endWaiters (s : State) (h : Nat) (qs : List Nat) (event : Nat) : State :=
  s.over qs fun s q =>
    match (s.instsOf q).find? (fun i => i.wait == .hurdle h) with
    | none => s
    | some i =>
      let i := { i with wait := .none, immediate := true, event := event }
      let s := s.setInst i
      if s.mayRetire i then s.retire i event 0 else s

/-- The oldest generation of a hurdle completes, when it may: its WAIT arrivals retire, and its queues discard their
buffered descriptors (R41, R60). -/
def State.completeGen (s : State) (p h : Nat) : State :=
  match s.hurdle p h with
  | [] => s
  | v :: t =>
    if s.genComplete v then
      let s := s.setHurdle p h t
      let s := s.over (v.arrivals.map (·.1)).eraseDups State.dropBuffer
      s.endWaiters h v.waiters 0
    else s

/-- A generation with an expired WAIT arrival of a queue ends (R42). R60 has the queues of a generation that retires discard their
buffered descriptors, and does not say whether one ended by the wait budget counts: the buffers are kept (DESIGN CHOICE, log entry
57). -/
def State.expireGen (s : State) (p h q : Nat) : State :=
  let l := s.hurdle p h
  match l.find? (·.waiters.contains q) with
  | none => s
  | some v => (s.setHurdle p h (l.erase v)).endWaiters h v.waiters Ev.waitBudget

/-! ## CUE.STAMP, PROP.READ, QUEUE.RESUME, PREEMPT.OK -/

/-- The checks of CUE.STAMP and PROP.READ beyond the common ones: room for n bytes of format BYTES. -/
def stampCheck (i : Inst) (n order : Nat) : Nat :=
  let d := i.dd 0
  match order with
  | 4 => if d.isZero ∨ n ≤ d.n0 then 0 else Ev.desc
  | 5 => if d.format = 0x0E then 0 else Ev.format
  | _ => 0

/-- Bytes written at the start of S0, and counted. -/
def stampWork (s : State) (i : Inst) (bs : Bytes) : Work :=
  { count := bs.length, pieces := [{ d := i.dd 0, row := 0, cl := s.clusterAt i 0, bs := bs }] }

/-- CUE.STAMP (R43): the cue and the reference fold's cycle count, whose part below a cue is free. -/
def cueStampBody (s : State) (i : Inst) : State × Inst :=
  let d := s.drawNat
  let cyc := s.refCycles i.part + d.1 % max 1 (s.cyclesPerCue i.part)
  d.2.finish i (stampWork s i (natLE 8 s.time.cue ++ natLE 8 cyc))

/-- PROP.READ (R70). -/
def propReadBody (s : State) (i : Inst) : State × Inst := s.finish i (stampWork s i (natLE 8 (s.property i.pkt.imm)))

/-- A queue halted under HALT issues again from its first packet not issued (R23). -/
def State.resumeQueue (s : State) (q : Nat) : State := s.setFld (F.queQctrlHalted q) 0

/-- The queue that QUEUE.RESUME names (R24): the entry of the running scene's block, unless the instruction fails. -/
def State.resumeTarget (s : State) (i : Inst) : Option Nat :=
  match i.scene.bind (s.scene? i.part) with
  | none => none
  | some sc =>
    let q := sc.entries.getD (bits i.pkt.imm 0 4) 65535
    if sc.running ∧ q ≠ 65535 ∧ q ≠ i.queue then some q else none

/-- QUEUE.RESUME (R24): COUNT 1 when it resumed a queue. -/
def queueResumeBody (s : State) (i : Inst) : State × Inst :=
  match s.resumeTarget i with
  | some q => if s.qHalted q then (s.resumeQueue q, { i with immediate := true, count := 1 }) else (s, { i with immediate := true })
  | none => (s, { i with immediate := true })

/-- PREEMPT.OK (R30, R393): the queue stands at the point; outside a scene it retires at once. -/
def preemptOkBody (s : State) (i : Inst) : State × Inst :=
  match i.scene.bind (s.scene? i.part) with
  | none => (s, { i with immediate := true })
  | some sc =>
    (s.setScene i.part { sc with points := (sc.points.filter fun x => x.1 != i.queue) ++ [(i.queue, i.pkt.imm)] },
      { i with wait := .preempt i.pkt.imm })

end Sys2Proof.Machine
end

