-- ==== Sys2Proof/Machine/Scene.lean ====
section
/-!
DEFINITION. Scenes (R25 to R31, R47, R157, R260, R261, R393): the scene block, what opens, runs and ends a scene, the
replay record's slot at a boundary, and retirement with what it brings.
Readings of the rules that they leave open: log entries 27 and 29 (DEDUCED or DESIGN CHOICE, as the log marks each).
-/

namespace Sys2Proof.Machine

/-! ## The scene block (R25) -/

/-- The sixteen entries of a scene block. -/
def blockEntries (b : Bytes) : List Nat := (List.range 16).map fun k => field b (0x20 + 2 * k) 2

/-- Its entries in use. -/
def blockQueues (b : Bytes) : List Nat := (blockEntries b).filter (· != 65535)

/-- A queue belongs to a scene that is ready or running. -/
def State.inScene (s : State) (p q : Nat) : Bool :=
  (s.partition p).scenes.any fun sc => sc.queues.contains q || sc.ctrl == q

/-- The kind of an enabled queue. -/
def State.kindOf (s : State) (q : Nat) : Option Nat := if s.qOn q then some (s.queue q).block.kind else none

/-- An entry pair that is an execute queue followed by an access queue. -/
def State.pairWrong (s : State) (es : List Nat) (k : Nat) : Bool :=
  s.kindOf (es.getD (2 * k) 65535) == some 0 && s.kindOf (es.getD (2 * k + 1) 65535) == some 1

/-- A scene block that SCENE.BEGIN accepts (R25, R59). -/
def State.blockOk (s : State) (p : Nat) (b : Bytes) : Bool :=
  let v := s.block p
  let es := blockEntries b
  let qs := blockQueues b
  inRange (field b 0x18 1) 0 3 && inRange (field b 0x19 1) 3 12 && field b 0 8 % 512 == 0 && field b 0x10 8 % 64 == 0 &&
    within (field b 0 8) 262144 v.memLo v.memLen && within (field b 0x10 8) 64 v.memLo v.memLen &&
    (qs.all fun q => within q 1 v.queueFirst v.queueCount) && qs.eraseDups.length == qs.length &&
    (qs.all fun q => !s.inScene p q) &&
    (List.range 8).all fun k => !s.pairWrong es k

/-- SCENE.BEGIN with BOUNDARY set (R260). -/
def Inst.boundary (i : Inst) : Bool := i.pkt.opcode == 0x01 && i.pkt.imm == 1

/-- Order 2 of SCENE.BEGIN (R260): BOUNDARY only with a resilience block, in STEP_QUEUE, under AT_CUE. -/
def State.beginFieldsOk (s : State) (i : Inst) : Bool :=
  i.pkt.imm == 0 || (match (s.partition i.part).res with
    | some r => r.stepQueue == i.queue && i.pkt.cueq == 2
    | none => false)

/-- SCENE.BEGIN at its issue: its block is read and judged; then it waits for its retirement. -/
def sceneBeginBody (s : State) (i : Inst) : State × Inst :=
  let d := i.dd 1
  if d.tier = tLocal ∨ d.tier = tPeer then (s, { i with immediate := true, event := Ev.scene })
  else
    let ev := s.readEvent d.tier (d.who (s.fnOf i) 0) d.base 64
    if ev ≠ 0 then (s, { i with immediate := true, event := ev })
    else
      let b := s.paramBytes d (s.fnOf i) 0 64
      if s.blockOk i.part b then
        (s, { i with params := b, wait := if i.boundary then .boundary else .sceneLimit, waitCue := s.time.cue })
      else (s, { i with immediate := true, event := Ev.scene })

/-- A SCENE.BEGIN may retire (R26, R260): fewer than 256 scenes ready; at a boundary no other scene and no other
instruction of the partition. -/
def State.mayOpen (s : State) (i : Inst) : Bool :=
  (match s.instsOf i.queue with
   | x :: _ => x.index == i.index
   | [] => false) &&
  (if i.boundary then (s.partition i.part).scenes.isEmpty && !(s.insts.any fun x => x.part == i.part && (x.queue != i.queue || x.index != i.index))
   else decide (((s.partition i.part).scenes.filter fun x => !x.running).length < 256))

/-! ## Rosters at a scene's beginning (R157, R270) -/

/-- The place of partition p of this device in a roster. -/
def State.ownPlace (s : State) (p addr size : Nat) : Option Nat :=
  (s.rosterAt addr size).findIdx? fun r => r.node == s.node && r.part == p

/-- NEXT_ROSTER takes effect in every company entry of a partition whose NEXT_EPOCH has come. A member that the new roster does not
name holds no rank from then on (R273). -/
def State.moveRosters (s : State) (p : Nat) : State :=
  s.over (s.companiesOf p) fun s e =>
    let c := e.2
    if c.nextRoster ≠ 0 ∧ c.nextEpoch + (s.partition p).cueOffset ≤ s.time.cue then
      let stays := ((s.rosterAt c.nextRoster c.size)[c.rank]?).any fun r => r.node == s.node && r.part == p
      s.setCompany e.1 { c with
        roster := c.nextRoster, epoch := c.nextEpoch, nextRoster := 0
        rank := if stays then c.rank else (s.ownPlace p c.nextRoster c.size).getD noRank }
    else s

/-- The rosters in force, by company entry: entry, roster, epoch. -/
def State.rostersNow (s : State) (p : Nat) : List (Nat × Nat × Nat) := (s.companiesOf p).map fun e => (e.1, e.2.roster, e.2.epoch)

/-- A standby device becomes a member when a roster plan names it at an epoch that has come (R273, R276): its rank is its
place in the new roster. -/
def State.joinPlan (s : State) (p : Nat) : State :=
  if s.fld (F.parRstatusPhase p) = 6 then
    s.over (s.companiesOf p) fun s e =>
      let c := e.2
      if c.nextRoster ≠ 0 ∧ c.nextEpoch + (s.partition p).cueOffset ≤ s.time.cue then
        match s.ownPlace p c.nextRoster c.size with
        | some r =>
          let s := s.setCompany e.1 { c with roster := c.nextRoster, epoch := c.nextEpoch, nextRoster := 0, rank := r }
          let v := s.partition p
          (s.setPartition p { v with res := v.res.map fun x => { x with standby := false } }).setFld (F.parRstatusPhase p) 0
        | none => s
      else s
  else s

/-! ## The replay record (R260 to R262) -/

/-- Bytes of a slot. -/
def PartBlock.slotBytes (b : PartBlock) : Nat := ceilDiv (64 + 4 * b.queueCount + 48 * b.companyCount + 2048) 64 * 64

/-- The entries of a partition's company range, free ones among them. -/
def State.companyRange (s : State) (p : Nat) : List Nat :=
  (List.range (s.block p).companyCount).map ((s.block p).companyFirst + ·)

/-- A company record. -/
def CompanyEntry.record (c : CompanyEntry) : Bytes :=
  natLE 8 c.company ++ natLE 8 c.collSeq ++ natLE 8 c.roster ++ natLE 8 c.epoch ++ natLE 8 c.nextRoster ++ natLE 8 c.nextEpoch

/-- The bytes of a slot: origin, SEQ, the prologue's bounds, the heads with the step queue's at its boundary, the company
records, the gate counts. -/
def State.slotImage (s : State) (p origin stepQueue boundary : Nat) : Bytes :=
  let b := s.block p
  let r := (s.partition p).replay
  natLE 8 origin ++ natLE 8 r.seq ++ natLE 4 r.proStart ++ natLE 4 r.proEnd ++ zeros 40 ++
    ((List.range b.queueCount).flatMap fun k =>
      let q := b.queueFirst + k
      natLE 4 (if q = stepQueue then boundary else (s.queue q).head)) ++
    ((s.companyRange p).flatMap fun c => (s.company c).record) ++
    ((List.range 1024).flatMap fun g => natLE 2 (s.gate p g).count)

/-- A boundary writes slot SEQ mod 2 of the replay record; the prologue queue's head moves to PRO_START; PHASE
REPLAYING ends (R260 to R262, R270). -/
def State.writeSlot (s : State) (i : Inst) : State :=
  let p := i.part
  match (s.partition p).res with
  | none => s
  | some v =>
    let r := (s.partition p).replay
    let tail := (s.queue v.prologueQueue).tail
    let r := { r with proStart := r.proEnd, proEnd := tail }
    let s := s.setPartition p { s.partition p with replay := r }
    let s := s.setQueue v.prologueQueue { s.queue v.prologueQueue with head := r.proStart }
    let origin := s.baseCueOf p i.queue none + i.pkt.cueOffset
    let at' := v.rrec + 0x100 + r.seq % 2 * (s.block p).slotBytes
    let s := s.writePart p tStacked 0 0 (cellsOf at' (s.slotImage p origin v.stepQueue i.index))
    let s := s.setPartition p { s.partition p with replay := { r with seq := r.seq + 1 } }
    s.when (s.fld (F.parRstatusPhase p) = 4) (·.setFld (F.parRstatusPhase p) 0)

/-! ## Opening, running, ending -/

/-- A scene becomes ready, with the rosters now in force (R26, R28, R157, R393). -/
def State.openScene (s : State) (i : Inst) : State :=
  let p := i.part
  let b := i.params
  let id := (s.partition p).nextScene
  let sc : Scene :=
    { id := id, ctrl := i.queue, entries := blockEntries b, queues := blockQueues b, dtab := field b 0 8
      baseRaw := field b 8 8, baseCue := field b 8 8, acct := field b 0x10 8, prio := field b 0x18 1
      lsWindow := field b 0x19 1, holdBudget := field b 0x1A 2, waitBudget := field b 0x1C 4
      rosters := s.rostersNow p }
  let s := s.setPartition p { s.partition p with scenes := (s.partition p).scenes ++ [sc], nextScene := id + 1 }
  let v := s.queue i.queue
  let s := s.setQueue i.queue (if v.openScene.isNone then { v with openScene := some id } else { v with nextScenes := v.nextScenes ++ [id] })
  s.noteRequest p

/-- The scene that runs next (R26): the ready one of highest priority, the oldest among equals. -/
def nextScene (l : List Scene) : Option Scene :=
  l.foldl (fun best x => match best with
    | none => some x
    | some y => if x.prio < y.prio ∨ (x.prio = y.prio ∧ x.id < y.id) then some x else best) none

/-- A scene runs (R26, R29, R31, R60): base cue at its first run; afterwards its window is undefined and the cues spent
switched out are counted; buffered descriptors are discarded; its rings go on. -/
def State.runScene (s : State) (p : Nat) (sc : Scene) : State :=
  let s := s.over (s.queuesOf p) State.dropBuffer
  let s := if sc.begun then s else s.moveRosters p
  let rosters := if sc.begun then sc.rosters else s.rostersNow p
  let s :=
    if sc.begun then
      s.over (s.clustersOf p) fun s c => s.undefine tLocal c 0 (65536 * sc.lsWindow)
    else s
  let base := if sc.baseRaw = 0 ∧ sc.begun = false then (s.time.cue : Int) - (s.partition p).cueOffset else sc.baseCue
  let out := match sc.switchedOut with
    | some c => s.time.cue - c
    | none => 0
  let s := s.setScene p { sc with running := true, begun := true, baseCue := base, switchedOut := none, rosters := rosters
                                  preemptedCues := sc.preemptedCues + out }
  s.over (s.insts.filter fun i => i.part == p && i.scene == some sc.id) fun s i =>
    match i.ring with
    | some r => s.flushRing i r
    | none => s

/-- SCENE_RUN's effect: points are settled, and with no scene running the next one runs. -/
def State.schedule (s : State) (p : Nat) : State :=
  let s := (s.joinPlan p).settlePart p
  if s.running = true ∧ s.fld (F.parStatusState p) = 1 ∧ (s.runningScene p).isNone then
    match nextScene (s.partition p).scenes with
    | some sc => s.runScene p sc
    | none => s
  else s

/-- SCENE.END at its issue (R27). -/
def sceneEndBody (s : State) (i : Inst) : State × Inst :=
  match i.scene with
  | none => (s, { i with immediate := true, event := Ev.scene })
  | some _ => (s, { i with wait := .sceneEnd, waitCue := s.time.cue })

/-- A listed queue has finished its part of a scene (R28): its mark has retired, or it stands halted with nothing in
flight. -/
def State.queueDone (s : State) (sc : Scene) (q : Nat) : Bool :=
  q == sc.ctrl || sc.marked.contains q || (s.qHalted q && (s.instsOf q).isEmpty)

/-- A packet rung into a queue and not yet issued, or in flight, is its scene mark. -/
def State.markRung (s : State) (p q : Nat) : Bool :=
  let isMark (k : Pkt) := k.opcode == 0x00 && bits k.imm 0 1 == 1
  ((s.instsOf q).any fun i => isMark i.pkt) ||
    (s.qOn q && (List.range (s.queue q).backlog).any fun k => isMark (s.packetAt p q (((s.queue q).head + k) % 2 ^ 32)))

/-- SCENE.END waits for a scene mark that has not been rung (R28, R42). -/
def State.unrung (s : State) (p : Nat) (sc : Scene) : Bool :=
  sc.queues.any fun q => !(q == sc.ctrl) && !sc.marked.contains q && !s.qHalted q && !s.markRung p q

/-- SCENE.END may retire (R27): every instruction of the scene but itself has retired and every listed queue is done. -/
def State.mayEnd (s : State) (i : Inst) (sc : Scene) : Bool :=
  (sc.queues.all (s.queueDone sc)) &&
    !(s.insts.any fun x => x.part == i.part && x.scene == some sc.id && (x.queue != i.queue || x.index != i.index))

/-- A SCENE.END retires with an event: its own, which may halt its queue, or the scene's first (R27, R47). -/
def State.retireEnd (s : State) (i : Inst) (event : Nat) (own : Bool) : State :=
  let s := s.retireWith i event 0 own
  match i.scene.bind (s.scene? i.part) with
  | none => s
  | some sc => (s.writeAccount i.part sc sc.firstEvent).dropScene i.part sc

/-! ## Retirement in its turn (R22, R27, R28, R242) -/

/-- An instruction that may retire does so, with what its retirement brings: a scene mark, a scene that is ready, a scene's
end; a GATE.REL whose writes are visible now returns its unit first. -/
def State.retireOf (s : State) (i : Inst) : State :=
  match i.pkt.opcode with
  | 0x00 =>
    let s := s.retire i i.event i.count
    if bits i.pkt.imm 0 1 = 1 ∧ i.event = 0 then
      match i.scene.bind (s.scene? i.part) with
      | some sc => s.setScene i.part { sc with marked := sc.marked ++ [i.queue] }
      | none => s
    else s
  | 0x01 =>
    let s := s.retire i i.event i.count
    if i.event = 0 then
      let s := if i.boundary then (s.moveRosters i.part).writeSlot i else s
      s.openScene i
    else s
  | 0x02 => s.retireEnd i i.event true
  | 0x05 => s.retireWith i i.event i.count (!i.broken)
  | 0x06 => (s.when (i.wait = .visible) (·.releaseGate i.part i.pkt.imm)).retire i i.event i.count
  | _ => s.retire i i.event i.count

/-- The oldest instruction of its queue, its packets acknowledged, waiting for nothing but earlier writes. -/
def State.canRetire (s : State) (i : Inst) : Bool :=
  decide (i.wait = .none ∨ i.wait = .visible) && s.mayRetire { i with wait := .none }

/-- An instruction in flight replaced by what its effect made of it; one that retires at issue does so when it may, and a
SCENE.BEGIN when it may open its scene. -/
def State.place (s : State) (i : Inst) : State :=
  let s := s.setInst i
  if i.immediate ∧ s.canRetire i then s.retireOf i
  else if (i.wait = .sceneLimit ∨ i.wait = .boundary) ∧ s.mayOpen i then s.retireOf { i with wait := .none }
  else s

end Sys2Proof.Machine
end

