-- ==== Sys2Proof/Machine/Partition.lean ====
section
/-!
DEFINITION. Partitions as their registers command them (R232 to R237, R243 to R251, R259, R272, R331): enable, disable,
reset, function resets, and the lock over the staged registers.
Readings of the rules that they leave open: log entry 31 (DEDUCED or DESIGN CHOICE, as the log marks each).
-/

namespace Sys2Proof.Machine

/-! ## The configuration check's notice (R375) -/

/-- A covered field changes: the check is DIRTY and its pass abandoned; a MISMATCH stays until a new COMMIT. -/
def State.configChanged (s : State) : State :=
  if s.flag F.crcCtrlEn then
    (s.setConfig { s.config with crcSecond := false }).setFld F.crcStatusState (if s.fld F.crcStatusState = 3 then 3 else 1)
  else s

/-! ## Blocks (R233, R259) -/

/-- A partition block from its 64 bytes. -/
def PartBlock.ofBytes (b : Bytes) : PartBlock where
  dtab := field b 0 8
  folds := field b 8 4
  fn := field b 0x0C 1
  queueFirst := field b 0x0E 2
  queueCount := field b 0x10 2
  vecBase := field b 0x12 2
  vecCount := field b 0x14 2
  vecFnBase := field b 0x16 2
  memBase := field b 0x18 2
  memSize := field b 0x1A 2
  directBase := field b 0x1C 2
  directSize := field b 0x1E 2
  companyFirst := field b 0x20 2
  companyCount := field b 0x22 2
  castFirst := field b 0x24 2
  castCount := field b 0x26 2
  tagOff := field b 0x28 4
  inflightMax := field b 0x2C 2
  holdDefault := field b 0x2E 2
  waitDefault := field b 0x30 4
  raw := b

/-- A resilience block from its 64 bytes; SETTLE and LOAD of 0 select their defaults. -/
def ResBlock.ofBytes (b : Bytes) : ResBlock where
  rrec := field b 0 8
  succ := field b 8 8
  wmap := field b 0x10 8
  seal0 := field b 0x18 8
  seal1 := field b 0x20 8
  jobCompany := field b 0x28 2
  wingsCompany := field b 0x2A 2
  wingsStride := field b 0x2C 2
  stepQueue := field b 0x2E 2
  prologueQueue := field b 0x30 2
  succCount := field b 0x32 2
  wmapCount := field b 0x34 2
  settle := if field b 0x36 2 = 0 then 2048 else field b 0x36 2
  load := if field b 0x38 4 = 0 then 100000 else field b 0x38 4
  standby := bits (field b 0x3C 1) 0 1 == 1
  noWings := bits (field b 0x3C 1) 1 1 == 1
  raw := b

/-- A value lies between two bounds, both included. -/
def between (lo hi v : Nat) : Bool := decide (lo ≤ v ∧ v ≤ hi)

/-- The fields of a partition block lie in the ranges of the table, reserved bytes 0 (check 9). -/
def PartBlock.fieldsOk (b : PartBlock) (vfs : Nat) : Bool :=
  b.dtab % 512 == 0 && decide (b.fn ≤ vfs) && between 1 8192 b.queueCount && between 0 1023 b.vecBase && between 1 1024 b.vecCount &&
    decide (1 ≤ b.memSize) && decide (2 ≤ b.directSize) && between 0 255 b.companyFirst && between 0 256 b.companyCount &&
    between 0 4095 b.castFirst && between 0 4096 b.castCount && (b.tagOff == 0xFFFFFFFF || b.tagOff % 64 == 0) &&
    between 1 4096 b.inflightMax && field b.raw 0x0D 1 == 0 && field b.raw 0x34 12 == 0

/-- The fields of a resilience block lie in their ranges (R259); m is the size of WINGS_COMPANY when an entry names it. -/
def ResBlock.fieldsOk (r : ResBlock) (m : Option Nat) : Bool :=
  r.rrec % 64 == 0 && decide (r.succCount ≤ 64) && decide (r.wmapCount ≤ 256) && decide (field r.raw 0x3C 1 < 4) &&
    field r.raw 0x3D 3 == 0 && decide (r.stepQueue < 8192) && decide (r.prologueQueue < 8192) &&
    (r.noWings || (decide (1 ≤ r.wingsStride) && ((m.map fun n => decide (r.wingsStride < n)).getD true)))

/-- The address of the partition block, and of the resilience block: 0 when the partition has none. -/
def State.pblk (s : State) (p : Nat) : Nat := s.pair (.parPblkLo p) (.parPblkHi p)
def State.rblk (s : State) (p : Nat) : Nat := s.pair (.parRblkLo p) (.parRblkHi p)

/-- 64 bytes of stacked memory can be read (R234). -/
def State.blockReads (s : State) (a : Nat) : Bool := s.readEvent tStacked 0 a 64 == 0

/-- The block that PAR.PBLK names, and the one that PAR.RBLK names. -/
def State.readBlock (s : State) (p : Nat) : PartBlock := PartBlock.ofBytes (s.tierBytes tStacked 0 (s.pblk p) 64)
def State.readRes (s : State) (p : Nat) : Option ResBlock :=
  if s.rblk p = 0 then none else some (ResBlock.ofBytes (s.tierBytes tStacked 0 (s.rblk p) 64))

/-! ## Enable checks (R234, R243) -/

/-- The other partitions that hold resources, with their blocks. -/
def State.otherBlocks (s : State) (p : Nat) : List (Nat × PartBlock) :=
  ((List.range 16).filter fun x => x != p && s.live x).map fun x => (x, s.block x)

/-- The reserved credits of weight w at a point of S credits, where the weights sum to W (R243). -/
def reservedCredits (points w total : Nat) : Nat := max 4 (points / 2 * w / total)

/-- The credit rule leaves a shared pool of 0 or more at a point. -/
def poolOk (points : Nat) (ws : List Nat) : Bool := decide ((ws.map fun w => reservedCredits points w ws.sum).sum ≤ points)

/-- The partition's weights leave a pool at channels, slices and ports: 64, 256 and 104 credits (R243, R323). -/
def State.creditsOk (s : State) (ps : List Nat) : Bool :=
  poolOk 64 (ps.map fun p => s.fld (F.parSharesMemW p)) && poolOk 256 (ps.map fun p => s.fld (F.parSharesCacheW p)) &&
    poolOk 104 (ps.map fun p => s.fld (F.parSharesLinkW p))

/-- Two ranges share no member. -/
def apart (a n b m : Nat) : Bool := !overlaps a n b m

/-- Whether enable check k passes for a partition and its block. -/
def State.enableCheck (s : State) (p : Nat) (b : PartBlock) (k : Nat) : Bool :=
  let os := s.otherBlocks p
  match k with
  | 1 => b.folds != 0 && os.all fun o => Nat.land o.2.folds b.folds == 0
  | 2 => decide (b.queueFirst + b.queueCount ≤ 8192) && os.all fun o => apart b.queueFirst b.queueCount o.2.queueFirst o.2.queueCount
  | 3 => b.vecBase != 0 && decide (b.vecBase + b.vecCount ≤ 1024) && (os.all fun o => apart b.vecBase b.vecCount o.2.vecBase o.2.vecCount) &&
      decide (b.vecFnBase + b.vecCount ≤ if b.fn = 0 then 1024 else 256)
  | 4 => decide (b.memLo + b.memLen ≤ s.capacity) && os.all fun o => apart b.memLo b.memLen o.2.memLo o.2.memLen
  | 5 => decide (b.directLo + b.directLen ≤ s.directWays * 2 ^ 24) && (os.all fun o => apart b.directLo b.directLen o.2.directLo o.2.directLen) &&
      (b.tagOff == 0xFFFFFFFF || decide (b.tagOff + 8192 ≤ b.directUse))
  | 6 => decide (b.companyFirst + b.companyCount ≤ 256) && decide (b.castFirst + b.castCount ≤ 4096) &&
      os.all fun o => apart b.companyFirst b.companyCount o.2.companyFirst o.2.companyCount && apart b.castFirst b.castCount o.2.castFirst o.2.castCount
  | 7 => decide (b.inflightMax + (os.map fun o => o.2.inflightMax).sum ≤ 4096)
  | 8 => s.creditsOk (os.map (·.1) ++ [p])
  | _ => true

/-- Check 9, judged first. -/
def State.blocksOk (s : State) (p : Nat) : Bool :=
  let b := s.readBlock p
  let size (n : Nat) := (s.comp.companies.find? fun e => within e.1 1 b.companyFirst b.companyCount && e.2.company == n).map (·.2.size)
  s.blockReads (s.pblk p) && b.fieldsOk s.host.vfEnabled &&
    match s.readRes p with
    | none => true
    | some r => s.blockReads (s.rblk p) && r.fieldsOk (size r.wingsCompany)

/-- The first check that an enable fails: 0 when it passes all. -/
def State.enableCause (s : State) (p : Nat) : Nat :=
  if !s.blocksOk p then 9
  else ((List.range 8).find? fun k => !s.enableCheck p (s.readBlock p) (k + 1)).elim 0 (· + 1)

/-! ## The clusters of a fold (R79, R255) -/

/-- One failure in a fold: the failed cluster's place goes to the lowest understudy left, or is lost. -/
def failOne (f : Nat) (gone : List Nat) (map : List Nat) (c : Nat) : List Nat :=
  let left := [66 * f + 64, 66 * f + 65].filter fun u => !gone.contains u && !map.contains u && u != c
  if map.contains c then
    match left with
    | u :: _ => map.map fun x => if x = c then u else x
    | [] => map.filter (· != c)
  else map

/-- The physical clusters of a fold in logical order, after the failures of the device in their order. -/
def foldClusters (failed : List Nat) (f : Nat) : List Nat :=
  ((failed.filter (· / 66 == f)).foldl (fun (acc : List Nat × List Nat) c => (c :: acc.1, failOne f acc.1 acc.2 c))
    ([], (List.range 64).map (66 * f + ·))).2

/-- Understudies left in a fold. -/
def understudiesLeft (failed : List Nat) (f : Nat) : List Nat :=
  [66 * f + 64, 66 * f + 65].filter fun u => !failed.contains u && !(foldClusters failed f).contains u

/-! ## Enable, disable, reset (R234, R245 to R247) -/

/-- A refused enable. -/
def State.refuseEnable (s : State) (p cause : Nat) : State :=
  (s.setFld (F.parStatusCfgCause p) cause).raiseGlobal Ev.parCfg p

/-- The gates of a partition as an enable leaves them: epoch tags 0, nobody waiting (R241). -/
def cleanGates (l : List (Nat × Gate)) : List (Nat × Gate) :=
  l.filterMap fun e =>
    let g : Gate := { e.2 with epoch := 0, brokenEpoch := 0, waiters := [] }
    if g = {} then none else some (e.1, g)

/-- An enable that passes: EN, the blocks' copies, epoch tags 0, the clusters, local stores zeroed; STATE follows (R234,
R241, R276). -/
def State.grantEnable (s : State) (p : Nat) : State :=
  let b := s.readBlock p
  let r := s.readRes p
  let v := s.partition p
  let s := s.setPartition p { v with
    block := some b, res := r, gates := cleanGates v.gates, hurdles := [], scenes := [], clusters := b.foldList.flatMap (foldClusters s.spare.failed)
    staging := {}, resetDisables := false, depleted := false, cueOffset := 0, replay := { used := v.replay.used }, pool := none }
  let s := s.zeroLocal b.foldList
  let s := s.setFld (F.parRstatusPhase p) (if (r.map (·.standby)).getD false then 6 else 0)
  (s.setFld (F.parCtrlEn p) 1).configChanged

/-- PAR.CTRL.EN written 1: judged when EN is 0 and STATE reads DISABLED. -/
def State.enablePart (s : State) (p : Nat) : State :=
  if s.flag (F.parCtrlEn p) ∨ s.fld (F.parStatusState p) ≠ 0 then s
  else
    let c := s.enableCause p
    if c = 0 then s.grantEnable p else s.refuseEnable p c

/-- The zeroing of an enable ends: STATE reads ENABLED. -/
def State.enableDone (s : State) (p : Nat) : State :=
  if s.flag (F.parCtrlEn p) ∧ s.fld (F.parStatusState p) = 0 then s.setFld (F.parStatusState p) 1 else s

/-- The lock of a partition is lost (R249). -/
def State.loseLock (s : State) (p : Nat) : State :=
  if s.flag (F.parLockHeld p) then
    let s := s.setPartition p { s.partition p with staging := {} }
    let s := ((s.setFld (F.parLockOwner p) 31).setFld (F.parLockHeld p) 0).setFld (F.parLockLeaseLeft p) 0
    (s.setFld (F.parStatusLockLost p) 1).raiseEvent p Ev.lockLost
  else s

/-- PAR.CTRL.EN written 0 while it is 1: the partition is reset, then disabled. -/
def State.disablePart (s : State) (p : Nat) : State :=
  if s.flag (F.parCtrlEn p) ∧ s.fld (F.parStatusState p) ≠ 2 then
    ((s.triggerReset p true).loseLock p).setFld (F.parCtrlEn p) 0
  else s

/-- A reset completes (R247). -/
def State.resetDone (s : State) (p : Nat) : State :=
  if s.fld (F.parStatusState p) = 2 then
    let v := s.partition p
    let s := s.setFld (F.parStatusState p) (if v.resetDisables then 0 else 1)
    let s := s.setPartition p { v with resetDisables := false }
    (s.setFld (F.parStatusResetDone p) 1).raiseEvent p Ev.parReset
  else s

/-- The partitions that a function's reset resets: all for the physical function (R245). -/
def State.fnParts (s : State) (fn : Nat) : List Nat :=
  (List.range 16).filter fun p => s.live p && (fn == 0 || (s.block p).fn == fn)

/-- Every partition of a function reset. -/
def State.resetFn (s : State) (fn : Nat) : State := s.over (s.fnParts fn) fun s p => s.triggerReset p

/-- The locks that a function holds are lost (R249). -/
def State.loseFnLocks (s : State) (fn : Nat) : State :=
  s.over ((List.range 16).filter fun p => s.fld (F.parLockOwner p) == fn) State.loseLock

/-- A function-level reset (R245, R249): the function's partitions are reset, its locks lost, and it is in D0 again. -/
def State.resetFunction (s : State) (fn : Nat) : State :=
  let s := (s.resetFn fn).loseFnLocks fn
  s.setHost { s.host with d3hot := if fn = 0 then [] else s.host.d3hot.filter (· != fn) }

/-- An entry into D3hot from D0 (R331). -/
def State.enterD3 (s : State) (fn : Nat) : State :=
  if fn ∈ s.host.d3hot then s
  else (s.resetFn fn).setHost { s.host with d3hot := fn :: s.host.d3hot }

/-! ## Locked sequences (R248, R249, R272) -/

/-- The OWNER code of an agent of a partition's lock: the owning function, the physical function, the Prompter. -/
def State.agentCode (s : State) (p : Nat) (who : Requester) : Option Nat :=
  match who with
  | .fn f => if f.val = 0 ∨ f.val = (s.block p).fn then some f.val else none
  | .prompter => some 17
  | .sideband => none

/-- An agent owns the lock. -/
def State.ownsLock (s : State) (p : Nat) (who : Requester) : Bool :=
  s.flag (F.parLockHeld p) && s.agentCode p who == some (s.fld (F.parLockOwner p))

/-- PAR.LOCK.ACQ: the lock is taken when it is free. -/
def State.takeLock (s : State) (p : Nat) (who : Requester) : State :=
  match s.agentCode p who with
  | none => s
  | some a =>
    if s.flag (F.parCtrlEn p) ∧ s.flag (F.parLockHeld p) = false then
      let s := ((s.setFld (F.parLockOwner p) a).setFld (F.parLockHeld p) 1).setFld (F.parLockLeaseLeft p) 100
      s.setPartition p { s.partition p with staging := {}, lockCue := s.time.cue }
    else s

/-- The lock freed, with its staging copy gone. -/
def State.freeLock (s : State) (p : Nat) : State :=
  let s := s.setPartition p { s.partition p with staging := {} }
  ((s.setFld (F.parLockOwner p) 31).setFld (F.parLockHeld p) 0).setFld (F.parLockLeaseLeft p) 0

/-- A staged write or COMMIT of an agent that is not the owner (R248). -/
def State.lockedOut (s : State) (p : Nat) : State := (s.setFld (F.parStatusLocked p) 1).raiseEvent p Ev.locked

/-- The four-bit fields of a word from bit lo sum to at most 16. -/
def sumOk (v lo : Nat) : Bool := decide (((List.range 4).map fun k => bits v (lo + 4 * k) 4).sum ≤ 16)

/-- A staged PAR.SHARES has no weight of 0. -/
def sharesOk (v : Word32) : Bool := (List.range 3).all fun k => bits v.toNat (8 * k) 8 != 0

/-- A staged PAR.PRIO keeps its sums. -/
def prioOk (v : Word32) : Bool := sumOk v.toNat 0 && sumOk v.toNat 16

/-- An entry of a roster plan: company, epoch, roster. -/
def planEntry (b : Bytes) : Nat × Nat × Nat := (field b 0 2, field b 8 8, field b 0x10 8)

/-- The entries of the plan at an address; none when it cannot be read. -/
def State.planAt (s : State) (a : Nat) : Option (List (Nat × Nat × Nat)) :=
  if s.readEvent tStacked 0 a 8 ≠ 0 then none
  else
    let n := leNat (s.tierBytes tStacked 0 a 8)
    if s.readEvent tStacked 0 a (8 + 32 * n) ≠ 0 then none
    else some ((List.range n).map fun k => planEntry (s.tierBytes tStacked 0 (a + 8 + 32 * k) 32))

/-- A plan entry that COMMIT may write. -/
def State.planOk (s : State) (p : Nat) (e : Nat × Nat × Nat) : Bool :=
  match s.companyOf p e.1 with
  | none => false
  | some c => c.2.nextRoster == 0 && decide (s.time.cue + 10000 ≤ e.2.1 + (s.partition p).cueOffset)

/-- A plan's entries written into the company entries. -/
def State.applyPlan (s : State) (p : Nat) (l : List (Nat × Nat × Nat)) : State :=
  s.over l fun s e =>
    match s.companyOf p e.1 with
    | none => s
    | some c => s.setCompany c.1 { c.2 with nextEpoch := e.2.1, nextRoster := e.2.2 }

/-- The plan that a staged set names, when it stages one: its address with the halves in effect. -/
def State.stagedPlan (s : State) (p : Nat) : Option Nat :=
  let t := (s.partition p).staging
  if t.planLo.isNone ∧ t.planHi.isNone then none
  else some ((t.planLo.getD (s.word (.parPlanLo p))).toNat + 2 ^ 32 * (t.planHi.getD (s.word (.parPlanHi p))).toNat)

/-- The plan entries of the staged set: none when the set is to be rejected for them. -/
def State.stagedEntries (s : State) (p : Nat) : Option (List (Nat × Nat × Nat)) :=
  match s.stagedPlan p with
  | none => some []
  | some a =>
    match s.planAt a with
    | none => none
    | some l => if l.all (s.planOk p) then some l else none

/-- A register given its staged value, when it has one. -/
def State.applyWord (s : State) (r : Reg) (v : Option Word32) : State :=
  match v with
  | none => s
  | some w => s.setWord r w

/-- COMMIT by the owner (R248, R272). -/
def State.commitLock (s : State) (p : Nat) : State :=
  let t := (s.partition p).staging
  let good := (t.shares.map sharesOk).getD true && (t.prio.map prioOk).getD true
  match if good then s.stagedEntries p else none with
  | none => (s.setFld (F.parLockRejected p) 1).freeLock p
  | some l =>
    let s := (((s.applyWord (.parShares p) t.shares).applyWord (.parPrio p) t.prio).applyWord (.parPlanLo p) t.planLo).applyWord (.parPlanHi p) t.planHi
    let s := s.applyPlan p l
    let s := if t.shares.isSome ∨ t.prio.isSome then s.configChanged else s
    (s.setFld (F.parLockRejected p) 0).freeLock p

/-- PAR.LOCK.COMMIT. -/
def State.commitBy (s : State) (p : Nat) (who : Requester) : State :=
  if s.flag (F.parCtrlEn p) then (if s.ownsLock p who then s.commitLock p else s.lockedOut p) else s

/-- PAR.LOCK.ABORT. -/
def State.abortBy (s : State) (p : Nat) (who : Requester) : State :=
  if s.flag (F.parCtrlEn p) ∧ s.ownsLock p who then s.freeLock p else s

/-- A lease runs out after 100 ms (R249). -/
def State.expireLease (s : State) (p : Nat) : State :=
  if s.flag (F.parLockHeld p) ∧ (s.partition p).lockCue + 100000 ≤ s.time.cue then s.loseLock p else s

/-! ## The commands -/

/-- A host command acts while the PCIe link serves requests (R354). -/
def State.byHost (s : State) (f : State → State) : State := if s.host.pcieUp then f s else s

/-- What an agent writes acts while it can write: a function while the link serves requests and it is not in D3hot (R331). -/
def State.byAgent (s : State) (who : Requester) (f : State → State) : State :=
  match who with
  | .fn n => if s.host.pcieUp ∧ n.val ∉ s.host.d3hot then f s else s
  | _ => s.clocked f

/-- PAR_ENABLE. -/
def execParEnable (p : PartNo) (s : State) : Result := .next (s.byHost (·.enablePart p))
/-- PAR_ENABLE_DONE. -/
def execParEnableDone (p : PartNo) (s : State) : Result := .next (s.enableDone p)
/-- PAR_DISABLE. -/
def execParDisable (p : PartNo) (s : State) : Result := .next (s.byHost (·.disablePart p))
/-- PAR_RESET. -/
def execParReset (p : PartNo) (s : State) : Result := .next (s.byHost (·.triggerReset p))
/-- PAR_RESET_DONE. -/
def execParResetDone (p : PartNo) (s : State) : Result := .next (s.resetDone p)
/-- PAR_LOCK_ACQ. -/
def execParLockAcq (p : PartNo) (agent : Requester) (s : State) : Result := .next (s.byAgent agent (·.takeLock p agent))
/-- PAR_LOCK_COMMIT. -/
def execParLockCommit (p : PartNo) (agent : Requester) (s : State) : Result := .next (s.byAgent agent (·.commitBy p agent))
/-- PAR_LOCK_ABORT. -/
def execParLockAbort (p : PartNo) (agent : Requester) (s : State) : Result := .next (s.byAgent agent (·.abortBy p agent))
/-- LOCK_LEASE_EXPIRY. -/
def execLockLeaseExpiry (p : PartNo) (s : State) : Result := .next (s.expireLease p)
/-- FUNCTION_LEVEL_RESET. -/
def execFunctionLevelReset (fn : FnNo) (s : State) : Result := .next (s.byHost (·.resetFunction fn))
/-- D3HOT_ENTRY. -/
def execD3hotEntry (fn : FnNo) (s : State) : Result := .next (s.byHost (·.enterD3 fn))
/-- A hot reset of the link: every partition is reset, and every function is in D0 again (R245). -/
def State.hotReset (s : State) : State := let s := s.resetFn 0; s.setHost { s.host with d3hot := [] }

/-- HOT_RESET. -/
def execHotReset (s : State) : Result := .next (s.byHost State.hotReset)

end Sys2Proof.Machine
end

