-- ==== Sys2Proof/Machine/Ledger.lean ====
section
/-!
DEFINITION. The ledger's writes and the stops (R278 to R282, R293 to R303): a record's end or its collapse, safe stops and the
Curtain save.
Readings of the rules that they leave open: log entry 38 (DEDUCED or DESIGN CHOICE, as the log marks each).
-/

namespace Sys2Proof.Machine

/-! ## A record's end (R301, R303) -/

/-- A record has its commit word: it is the current one (R299, R301). -/
def State.commitRecord (s : State) (w : LedgerWrite) : State :=
  let s := (s.setSlot w.slot w.record.seal).setPair .ldgSeqLo .ldgSeqHi w.record.seq
  let s := (s.setFld F.ldgStatusCurrent w.slot).setFld F.ldgStatusBusy 0
  s.setLedg { s.ledg with write := none }

/-- A record's write ends; what waited begins the next (R301). -/
def State.recordDone (s : State) : State :=
  match s.ledg.write with
  | none => s
  | some w =>
    if s.running then
      let s := s.commitRecord w
      if s.ledg.again then (s.setLedg { s.ledg with again := false }).beginRecord 2 else s
    else s

/-- A record caught by a collapse stands as one of the table's outcomes (R303), which of them is free. -/
def State.tearRecord (s : State) : State :=
  match s.ledg.write with
  | none => s
  | some w =>
    let d := s.drawNat
    let old := s.slot w.slot
    let whole := w.record.seal
    let v := match d.1 % 5 with
      | 0 => old
      | 1 => { old with seq := w.record.seq }
      | 2 => { whole with crcLo := old.crcLo, crcHi := old.crcHi, commitLo := old.commitLo, commitHi := old.commitHi }
      | 3 => { whole with commitLo := old.commitLo, commitHi := old.commitHi }
      | _ => whole
    let s := d.2.setSlot w.slot v
    s.setLedg { s.ledg with write := none, again := false }

/-! ## The Shepherd's events (R307) -/

/-- An event of the Shepherd (R307): history, and the global vector while the PCIe link is up or nothing has enabled the
event ring yet. -/
def State.shepEvent (s : State) (code : Nat) (unit : Nat := 0) : State :=
  let s := s.noteHistory code unit
  if s.host.pcieUp ∨ s.host.evtEver = false then s.raiseGlobal code unit else s

/-- SHP.STATUS.STATE changes, which begins a record (R301). -/
def State.setShp (s : State) (v : Nat) : State :=
  if s.fld F.shpStatusState = v then s else (s.setFld F.shpStatusState v).beginRecord 4

/-- The device runs on its remaining means: whether STATE then reads DEGRADED no rule says, and it is free. -/
def State.degrade (s : State) : State :=
  if s.fld F.shpStatusState = 1 then
    let d := s.drawBool
    if d.1 then d.2.setShp 2 else d.2
  else s

/-- E_SENSOR (R284 to R287, R292). -/
def State.sensorEvent (s : State) (unit : Nat) : State := (s.shepEvent 0x7005 unit).degrade

/-! ## Stops and the Curtain save (R282, R293 to R296) -/

/-- Numbers drawn in a row: what the hub registers measured. -/
def State.drawNats (s : State) (n : Nat) : List Nat × State :=
  ((List.range n).map fun k => Config.freeNat (s.free + k), s.setFree (s.free + n))

/-- The Curtain area, filled from hub registers; the rail currents are in no register, and free. -/
def State.fillCurtain (s : State) (cause unit : Nat) : Image × State :=
  let d := s.drawNats 11
  let s := d.2
  let m := s.imageNow
  ({ m with
     curtainCount := m.curtainCount + 1
     curtain := { cause := cause, unit := unit, cue := s.time.cue, temps := (List.range 32).map fun f => s.word (.shpTemp f), currents := d.1
                  vhold := s.fld F.shpHoldVhold, flow := s.fld F.shpCoolantFlowA, restarts := s.spare.restarts, events := s.ledg.hubEvents
                  log := s.prom.log } }, s)

/-- Clocks stopped, transmitters silent, the PCIe link down. -/
def State.halt (s : State) (v : Stop) : State :=
  (s.setHost { s.host with pcieUp := false }).setShep { s.shep with stop := v }

/-- HEALTHY_N and the SEQ outputs released. -/
def State.releaseRails (s : State) : State :=
  let s := s.setShep { s.shep with pins := { s.shep.pins with healthy := false, seq0 := false, seq1 := false, seq2 := false, seq3 := false } }
  s.setFld F.shpStatusHealthy 0

/-- A Curtain trigger: the save begins, in the slot of an ordinary write without its commit word or in the next (R293,
R296); before saves are enabled the device stops without a write,
and releases HEALTHY_N. A trigger during a save has no further effect. -/
def State.curtain (s : State) (cause unit : Nat) : State :=
  if s.running = false then s
  else if s.shep.savesEnabled = false ∨ s.ledg.held = true then (s.halt .halted).releaseRails
  else
    let f := s.fillCurtain cause unit
    let s := f.2.setLedg { f.2.ledg with shadow := f.1 }
    let n := match s.ledg.write with
      | some w => w.record.seq
      | none => s.ledgerSeq + 1
    let w : LedgerWrite := ⟨slotOf n, s.recordOf n 3 f.1⟩
    let s := s.setLedg { s.ledg with write := some w, again := false }
    (s.setFld F.ldgStatusBusy 1).halt .saving

/-- The cause of a stop as SHP.CAUSE keeps it. -/
def State.setCause (s : State) (event unit : Nat) : State := (s.setFld F.shpCauseEvent event).setFld F.shpCauseUnit unit

/-- An immediate safe stop (R282): its cause is recorded and the Curtain save follows; without one, HEALTHY_N is released
at once. -/
def State.stopNow (s : State) (event unit : Nat) : State :=
  if s.running = false then s else ((s.setCause event unit).setFld F.shpStatusState 3).curtain event unit

/-- An orderly safe stop begins (R282): the device withdraws from every job. -/
def State.stopOrderly (s : State) (event unit : Nat) : State :=
  match s.shep.stop with
  | .running => (s.setShep { s.shep with stop := .orderly event unit }).withdraw
  | _ => s

/-- The withdrawal is done: it proceeds as an immediate stop. -/
def State.stopWithdrawn (s : State) : State :=
  match s.shep.stop with
  | .orderly event unit => s.stopNow event unit
  | _ => s

/-! ## Restart (R347, R351) -/

/-- What memory held before the power went is undefined (R392). -/
def State.forgetMemory (s : State) : State :=
  ((s.undefineCells tLocal fun _ => true).undefineCells tCache fun _ => true).undefineCells tStacked fun _ => true

/-- The device starts again at SHEPHERD: everything at its reset value but the ledger, the boot flash, what lies outside the
device, and the levels of its input pins; keep says that THERMTRIP_N and PWRKILL_N stay asserted. The memories are undefined. -/
def State.restart (s : State) (keep : Bool) : State :=
  let m := s.forgetMemory
  let pins : Pins := { perst := s.shep.pins.perst, thermtrip := keep && s.shep.pins.thermtrip, pwrkill := keep && s.shep.pins.pwrkill }
  { State.reset with
    part := s.part, serial := s.serial, straps := s.straps, out := s.out, free := m.free, pending := s.pending
    mem := { State.reset.mem with loc := m.mem.loc, cache := m.mem.cache, stack := m.mem.stack, host := s.mem.host, refused := s.mem.refused }
    ledg := { State.reset.ledg with slots := s.ledg.slots }
    prom := { State.reset.prom with images := s.prom.images }
    shep := { State.reset.shep with pins := pins } }

/-- A stop that POR_N asked for ends in a restart (R347). -/
def State.afterStop (s : State) : State := if s.shep.pins.por ∧ s.shep.dark = false then s.restart true else s

/-- The Curtain record is committed (R294, R295): the device stays stopped, SAVED. -/
def State.saveDone (s : State) : State :=
  match s.shep.stop, s.ledg.write with
  | .saving, some w =>
    let s := (s.commitRecord w).releaseRails
    ((s.setShep { s.shep with stop := .saved }).setFld F.shpStatusState 4).afterStop
  | _, _ => s

/-- A supply trigger (R293): a Curtain save without an event code. -/
def State.supplyTrigger (s : State) (unit : Nat) : State := if s.running then (s.setCause 0 unit).curtain 0 unit else s

/-- VHOLD collapses (R296): the controller issues no further word. -/
def State.vholdCollapse (s : State) : State :=
  let s := s.tearRecord
  let s := s.setLedg { s.ledg with held := true }
  match s.shep.stop with
  | .saving => (s.setShep { s.shep with stop := .halted }).releaseRails.afterStop
  | _ => s

/-! ## The commands -/

/-- LEDGER_RECORD_DONE. -/
def execLedgerRecordDone (s : State) : Result := .next s.recordDone
/-- ORDERLY_STOP_WITHDRAWN. -/
def execOrderlyStopWithdrawn (s : State) : Result := .next s.stopWithdrawn
/-- PWRFAIL_N_ASSERT: the board asserts PWRFAIL_N; a Curtain trigger without an event code. -/
def execPwrfailNAssert (s : State) : Result :=
  .next ((s.setShep { s.shep with pins := { s.shep.pins with pwrfail := true } }).supplyTrigger 0)
/-- CURTAIN_SAVE_DONE. -/
def execCurtainSaveDone (s : State) : Result := .next s.saveDone
/-- VHOLD_COLLAPSE. -/
def execVholdCollapse (s : State) : Result := .next s.vholdCollapse

end Sys2Proof.Machine
end

