-- ==== Sys2Proof/Machine/Sparing.lean ====
section
/-!
DEFINITION. Sparing of clusters and local-store rows (R83 to R85, R186, R253 to R257, R305).
Readings of the rules that they leave open: log entry 39 (DEDUCED or DESIGN CHOICE, as the log marks each).
-/

namespace Sys2Proof.Machine

/-! ## Clusters (R84, R255, R256) -/

/-- The partitions that own a fold. -/
def State.foldOwners (s : State) (f : Nat) : List Nat := (List.range 16).filter fun p => s.live p && (s.block p).foldList.contains f

/-- FLD.STATUS of a fold after a failure of one of its clusters (R257). -/
def State.foldStatus (s : State) (f idx : Nat) (depleted : Bool) : State :=
  let s := if s.fld (F.fldStatusFailedA f) = 127 then s.setFld (F.fldStatusFailedA f) idx
    else if s.fld (F.fldStatusFailedB f) = 127 then s.setFld (F.fldStatusFailedB f) idx else s
  let s := s.setFld (F.fldStatusLeft f) (understudiesLeft s.spare.failed f).length
  if depleted then s.setFld (F.fldStatusDepleted f) 1 else s

/-- An understudy takes a failed cluster's logical index (R79, R255). -/
def State.takeOver (s : State) (c u : Nat) : State :=
  s.over (s.foldOwners (c / 66)) fun s p =>
    s.setPartition p { s.partition p with clusters := (s.partition p).clusters.map fun x => if x = c then u else x }

/-- A cluster is failed: FLD.STATUS. The answer includes the understudy that replaces it, none when it was one itself, unused,
and whether its fold is depleted by it. -/
def State.markFailed (s : State) (c : Nat) : State × Option Nat × Bool :=
  let f := c / 66
  let used := (foldClusters s.spare.failed f).contains c
  let left := (understudiesLeft s.spare.failed f).filter (· != c)
  let lost := used && left.isEmpty
  let s := s.setSpare { s.spare with failed := s.spare.failed ++ [c], failing := s.spare.failing.filter (· != c)
                                     lost := if lost then s.spare.lost ++ [c] else s.spare.lost }
  (s.foldStatus f (c % 66) lost, if used then left.head? else none, lost)

/-- A cluster is failed, and the ledger records it (R255, R301). -/
def State.declareFailed (s : State) (c : Nat) : State × Option Nat × Bool :=
  let m := s.markFailed c
  (m.1.spared (.cluster c), m.2)

/-- A fold is depleted (R256): the device withdraws, and every owner of the fold not reset by that is reset. -/
def State.deplete (s : State) (f : Nat) : State :=
  let ps := s.foldOwners f
  let s := s.over ps fun s p => s.setPartition p { s.partition p with depleted := true }
  let s := s.withdraw
  s.over ps fun s p => s.triggerReset p

/-- A local store copied whole, poisoned pieces as poisoned (R255). -/
def State.copyLocal (s : State) (src dst : Nat) : State :=
  let mine (k : Nat) := k / localBytes == src
  let cells := s.mem.loc.filter fun c => mine c.1
  let rest := s.mem.loc.filter fun c => !(c.1 / localBytes == dst)
  let loc := cells.foldl (fun m c => Memory.write m (dst * localBytes + c.1 % localBytes) c.2) rest
  let bad := (s.mem.locPoison.filter fun k => mine (16 * k)).map fun k => k + dst * (localBytes / 16) - src * (localBytes / 16)
  let keep := s.mem.locPoison.filter fun k => !(16 * k / localBytes == dst)
  s.setMem { s.mem with loc := loc, locPoison := bad ++ keep }

/-! ## K-steps (R83 to R85) -/

/-- Instructions whose K-steps, tiles or rows are residue-checked: tensor, vector, special-function, Apron (R83). -/
def checkedOp (op : Nat) : Bool := decide (0x10 ≤ op ∧ op < 0x60) || isOptOp op || op == 0x92 || op == 0x04
  where isOptOp (op : Nat) : Bool := decide (0x80 ≤ op ∧ op ≤ 0x82)

/-- The second failed check of a step (R84, R85): an understudy is brought in, or the instruction retires with E_RESIDUE
and the fold is depleted. -/
def State.failTwice (s : State) (i : Inst) (c : Nat) : State :=
  let d := s.declareFailed c
  match d.2.1 with
  | some u => d.1.setSpare { d.1.spare with restarts := d.1.spare.restarts ++ [⟨c, u, i.queue, i.index⟩] }
  | none => (d.1.endEarly i Ev.residue).deplete (c / 66)

/-- A CONV on the Apron engines (R97). -/
def Pkt.onApron (k : Pkt) : Bool := k.opcode == 0x18 && bits k.md 4 4 == 5

/-- A finished K-step of an instruction on one cluster, its check passed or failed. A step of an Apron engine belongs to no cluster:
one that fails is replayed until its check passes, since no rule says what a second failure there brings (DESIGN CHOICE, log entry
39). -/
def State.kStep (s : State) (q index c : Nat) (ok : Bool) : State :=
  match s.inst? q index with
  | none => s
  | some i =>
    if i.pkt.onApron then s.setInst { i with failedOn := if ok then [] else [c] }
    else if !checkedOp i.pkt.opcode || !(s.clustersOf i.part).contains c || s.spare.restarts.any (·.failed == c) then s
    else if ok then s.setInst { i with failedOn := i.failedOn.filter (· != c) }
    else if i.failedOn.contains c then s.failTwice { i with failedOn := i.failedOn.filter (· != c) } c
    else s.setInst { i with failedOn := i.failedOn ++ [c] }

/-- K_STEP_DONE. -/
def execKStepDone (q : QueueNo) (index : Word32) (cluster : ClusterNo) (ok : Bool) (s : State) : Result :=
  .next (s.kStep q.val index.toNat cluster.val ok)

/-- The understudy holds the failed cluster's local store and its logical index, and restarts the tile (R84, R255). -/
def State.restartDone (s : State) (c : Nat) : State :=
  match s.spare.restarts.find? (·.failed == c) with
  | none => s
  | some r =>
    let s := (s.copyLocal c r.understudy).takeOver c r.understudy
    s.setSpare { s.spare with restarts := s.spare.restarts.filter (·.failed != c) }

/-- UNDERSTUDY_RESTART. -/
def execUnderstudyRestart (failed : ClusterNo) (s : State) : Result := .next (s.restartDone failed.val)

/-! ## Rows (R186, R305) -/

/-- A row goes to a spare; with none left, or the ledger's area full, the cluster is to be declared failed. -/
def State.replaceRow (s : State) (c row : Nat) : State :=
  let used := tblGet 0 s.spare.rowsUsed c
  if s.spare.failed.contains c then s
  else if used < 48 ∧ s.ledg.shadow.rowRepl.length < 8192 then
    let s := s.setSpare { s.spare with rowsUsed := tblSet 0 s.spare.rowsUsed c (used + 1) }
    let m := s.ledg.shadow
    (s.setLedg { s.ledg with shadow := { m with rowRepl := m.rowRepl ++ [⟨c, used, row⟩] } }).spared (.cluster c)
  else if s.spare.failing.contains c then s
  else s.setSpare { s.spare with failing := s.spare.failing ++ [c] }

/-- An error shows in a row (R185, R186): one that cannot be corrected poisons its piece, and the row is replaced; a corrected one
counts, and the row is replaced when an earlier one was at another bit. The spare row starts without an earlier error. -/
def State.rowShows (s : State) (c row : Nat) (e : RowError) : State :=
  let k := c * 1536 + row
  match e with
  | .uncorrectable p =>
    let s := s.addPoison tLocal ((c * localBytes + 512 * row) / 16 + p.val)
    (s.setMem { s.mem with rowBit := tblSet 0 s.mem.rowBit k 0 }).replaceRow c row
  | .corrected b =>
    let old := tblGet 0 s.mem.rowBit k
    let s := s.setMem { s.mem with locCorr := tblSet 0 s.mem.locCorr c (tblGet 0 s.mem.locCorr c + 1) }
    if old = 0 then s.setMem { s.mem with rowBit := tblSet 0 s.mem.rowBit k (b.val + 1) }
    else if old = b.val + 1 then s
    else (s.setMem { s.mem with rowBit := tblSet 0 s.mem.rowBit k 0 }).replaceRow c row

/-- LS_ROW_REPLACE, with the error that the row shows. -/
def execLsRowReplace (cluster : ClusterNo) (fault : RowFault) (s : State) : Result :=
  .next (s.rowShows cluster.val fault.row.val fault.error)

/-- A cluster out of rows is declared failed while its partition has no running scene: its understudy takes over with an
undefined local store, or the fold is depleted (R31, R186, R255, R256). -/
def State.declareOut (s : State) (c : Nat) : State :=
  if s.spare.failing.contains c && (s.foldOwners (c / 66)).all fun p => (s.runningScene p).isNone then
    let d := s.declareFailed c
    match d.2.1 with
    | some u => (d.1.takeOver c u).undefine tLocal u 0 localBytes
    | none => if d.2.2 then d.1.deplete (c / 66) else d.1
  else s

/-- CLUSTER_DECLARED_FAILED. -/
def execClusterDeclaredFailed (cluster : ClusterNo) (s : State) : Result := .next (s.declareOut cluster.val)

end Sys2Proof.Machine
end

