-- ==== Sys2Proof/Machine/Cast.lean ====
section
/-!
DEFINITION. The cast table and decode (R150 to R153): CAST.LOAD, CAST.READ and DECODE.ATTN, with its pages, its
swaps and its rows.
Readings of the rules that they leave open: log entry 22 (DEDUCED or DESIGN CHOICE, as the log marks each).
-/

namespace Sys2Proof.Machine

/-! ## Entries (R150) -/

def castFree : Nat := 0
def castActive : Nat := 1
def castSwapped : Nat := 2
def castPaused : Nat := 3

/-- A cast-table entry from its 64 bytes. -/
def CastEntry.ofBytes (b : Bytes) : CastEntry where
  state := field b 0 1
  priority := field b 1 1
  qrows := field b 2 1
  length := field b 4 4
  pageList := field b 8 8
  pages := field b 0x10 4
  maxPages := field b 0x14 4
  hostSwap := field b 0x18 8
  lastCue := field b 0x20 8
  tag := field b 0x28 4

/-- The 64 bytes of a cast-table entry. -/
def CastEntry.bytes (e : CastEntry) : Bytes :=
  natLE 1 e.state ++ natLE 1 e.priority ++ natLE 1 e.qrows ++ natLE 1 0 ++ natLE 4 e.length ++ natLE 8 e.pageList ++
    natLE 4 e.pages ++ natLE 4 e.maxPages ++ natLE 8 e.hostSwap ++ natLE 8 e.lastCue ++ natLE 4 e.tag ++ zeros 20

/-! ## The pool (R152) -/

/-- One free bit of the pool at a base: 1 says that the page is free. -/
def State.pageFree (s : State) (base k : Nat) : Bool := bits (s.tierByte tStacked 0 (base + k / 8)).toNat (k % 8) 1 == 1

/-- A page's free bit set. -/
def State.setPageFree (s : State) (part base k : Nat) (v : Bool) : State :=
  let old := (s.tierByte tStacked 0 (base + k / 8)).toNat
  s.writePart part tStacked 0 0 [(base + k / 8, BitVec.ofNat 8 (setBits old (k % 8) 1 (b2n v)))]

/-- The free pages of a pool of n pages. -/
def State.freePages (s : State) (base n : Nat) : List Nat := (List.range n).filter (s.pageFree base)

/-- Where the pages of a pool of n pages begin: after the free bits, aligned to 64 bytes. -/
def poolStart (n : Nat) : Nat := ceilDiv (ceilDiv n 8) 64 * 64

/-- Page number k of an entry. -/
def State.pageAt (s : State) (e : CastEntry) (k : Nat) : Nat := leNat (s.tierBytes tStacked 0 (e.pageList + 4 * k) 4)

/-- The pages of an entry returned to the pool. -/
def State.returnPages (s : State) (part base : Nat) (e : CastEntry) : State :=
  s.over (List.range e.pages) fun s k => s.setPageFree part base (s.pageAt e k) true

/-- One more page for an entry: which of the free pages is taken is a free choice. -/
def State.takePage (s : State) (part base n : Nat) (e : CastEntry) : State × CastEntry :=
  let d := s.drawNat
  let fs := d.2.freePages base n
  match fs[d.1 % max 1 fs.length]? with
  | none => (d.2, e)
  | some k =>
    let t := d.2.setPageFree part base k false
    (t.writePart part tStacked 0 0 (cellsOf (e.pageList + 4 * e.pages) (natLE 4 k)), { e with pages := e.pages + 1 })

/-- m more pages for an entry. -/
def State.takePages (s : State) (part base n : Nat) (e : CastEntry) : Nat → State × CastEntry
  | 0 => (s, e)
  | m + 1 =>
    let r := s.takePage part base n e
    r.1.takePages part base n r.2 m

/-! ## CAST.LOAD and CAST.READ (R151) -/

/-- The checks of CAST.LOAD and CAST.READ, by order: entries of 64 BYTES within the partition's range. -/
def castCheck (s : State) (i : Inst) (order : Nat) : Nat :=
  let d := if i.pkt.opcode = 0x90 then i.dd 1 else i.dd 0
  match order with
  | 4 => if d.n0 = 64 ∧ d.n2 = 1 ∧ d.n3 = 1 ∧ i.pkt.imm + d.n1 ≤ (s.block i.part).castCount then 0 else Ev.desc
  | 5 => if d.format = 0x0E then 0 else Ev.format
  | _ => 0

/-- Entry e of a partition's range. -/
def State.castOf (s : State) (p e : Nat) : CastEntry := s.castEntry ((s.block p).castFirst + e)
def State.setCastOf (s : State) (p e : Nat) (v : CastEntry) : State := s.setCast ((s.block p).castFirst + e) v

/-- What CAST.LOAD refuses (R151): SWAPPED, or ACTIVE over a swapped entry. -/
def loadRefused (old new : CastEntry) : Bool := new.state == castSwapped || (new.state == castActive && old.state == castSwapped)

/-- CAST.LOAD: the entries of S1 from entry IMM on; one loaded as FREE returns its pages to the pool of the
partition's last DECODE.ATTN. -/
def castLoad (s : State) (i : Inst) : State × Inst :=
  let d := i.dd 1
  let cl := s.clusterAt i 0
  let ev := s.srcEvent i d [cl]
  let es := (List.range d.n1).map fun r => CastEntry.ofBytes (s.rowBytesOf d (s.fnOf i) cl (r, 0, 0))
  let pairs := es.zip (List.range d.n1)
  if ev ≠ 0 then (s, { i with event := ev })
  else if pairs.any fun x => loadRefused (s.castOf i.part (i.pkt.imm + x.2)) x.1 then (s, { i with event := Ev.desc })
  else
    let s := s.over pairs fun s x =>
      let old := s.castOf i.part (i.pkt.imm + x.2)
      let s := match (s.partition i.part).pool with
        | some pl => if x.1.state = castFree ∧ old.state ≠ castFree then s.returnPages i.part pl.1 old else s
        | none => s
      let new := if x.1.state = castFree ∧ old.state ≠ castFree then { x.1 with pages := 0 } else x.1
      s.setCastOf i.part (i.pkt.imm + x.2) new
    (s.consume [groupReads d], { i with count := 0 })

/-- CAST.READ: entries from IMM on to S0. -/
def castReadWork (s : State) (i : Inst) : Work :=
  let d := i.dd 0
  { count := d.elements
    pieces := (List.range d.rows).map fun r =>
      { d := d, row := r, cl := s.clusterAt i 0, bs := (s.castOf i.part (i.pkt.imm + r)).bytes } }

/-! ## DECODE.ATTN (R152) -/

/-- The decode block. -/
structure DecodeBlock where
  pool : Nat
  status : Nat
  pageLog2 : Nat
  scale : FVal
  pagesTotal : Nat
  clean : Bool

def DecodeBlock.ofBytes (b : Bytes) : DecodeBlock where
  pool := field b 0 2
  status := field b 2 2
  pageLog2 := field b 4 1
  scale := ofF32 (field b 8 4)
  pagesTotal := field b 0xC 4
  clean := allZero (slice b 5 3) && allZero (slice b 0x10 48)

/-- The descriptor indices of the decode block: POOL, STATUS. -/
def decodeAux (params : Bytes) : List Nat := [field params 0 2, field params 2 2]

/-- Pages that n tokens need. -/
def pagesFor (log2 n : Nat) : Nat := ceilDiv n (2 ^ log2)

/-- An entry's need in pages (R152). -/
def CastEntry.need (e : CastEntry) (log2 : Nat) : Nat := pagesFor log2 (e.length + e.qrows)

/-- An active entry's growth in pages (R153). -/
def CastEntry.growth (e : CastEntry) (log2 : Nat) : Nat := e.need log2 - e.pages

/-- Bytes of a page (R152). -/
def pageBytes (i : Inst) (log2 : Nat) : Nat :=
  let kv := i.dd 2
  2 ^ log2 * kv.n2 * kv.n0 * 2 * (pitchBits kv.format / 8)

/-- The entries of a partition's range. -/
def State.castList (s : State) (p : Nat) : List (Nat × CastEntry) :=
  (List.range (s.block p).castCount).map fun e => (e, s.castOf p e)

/-- DECODE.ATTN's own checks, by order (R152). R152 names no event for a SHAPE that differs from its operands', and no format for
Q: a SHAPE that differs is E_DESC at order 4, and Q is BF16 or FP16, as for ATTN (DEDUCED, log entry 63). -/
def decodeCheck (s : State) (i : Inst) (order : Nat) : Nat :=
  let b := DecodeBlock.ofBytes i.params
  let q := i.dd 1
  let kv := i.dd 2
  let o := i.dd 0
  let e := (s.block i.part).castCount
  let live := (s.castList i.part).filter fun x => x.2.state == castActive || x.2.state == castSwapped
  match order with
  | 4 =>
    let ok := decide (64 ≤ (i.dd 3).cap) && b.clean && inRange b.pageLog2 4 12 && b.scale.isFinite && !b.scale.isZero &&
      !b.scale.sign && (i.aux 0).isSome && (i.aux 1).isSome
    let shapes := q.n0 == i.pkt.c && decide (q.n1 ≤ 16) && q.n3 == e &&
      kv.n0 == q.n0 && kv.n1 == q.n1 && kv.n3 == 2 * e && q.n2 % kv.n2 == 0 && o.sameShape q &&
      ((i.aux 0).map (·.tier == tStacked)).getD false && ((i.aux 1).map (·.is e 1 1 1)).getD false
    if ok && shapes then 0 else Ev.desc
  | 5 =>
    if (q.format == 0x02 || q.format == 0x03) && kv.format == q.format && outFloat o.format && ((i.aux 1).map (·.format == 0x09)).getD true
    then 0 else Ev.format
  | 9 => if live.any fun x => decide (x.2.maxPages < x.2.need b.pageLog2) then Ev.shape else 0
  | 10 =>
    let required := poolStart b.pagesTotal + b.pagesTotal * pageBytes i b.pageLog2
    if ((i.aux 0).map (·.cap)).getD 0 < required then Ev.fit
    else if live.any fun x => decide (b.pagesTotal < x.2.need b.pageLog2) then Ev.fit
    else if i.pkt.b * i.pkt.c * 2 > 65536 then Ev.fit else 0
  | _ => 0

/-- Where page k of the pool lies. -/
def pagePlace (i : Inst) (b : DecodeBlock) (k : Nat) : Nat :=
  ((i.aux 0).getD {}).base + poolStart b.pagesTotal + k * pageBytes i b.pageLog2

/-- Where the row of a token lies in an entry's pages: keys of every head, then values (R152). -/
def State.tokenAddr (s : State) (i : Inst) (b : DecodeBlock) (e : CastEntry) (val : Bool) (h t : Nat) : Nat :=
  let kv := i.dd 2
  let n := 2 ^ b.pageLog2
  let row := kv.n0 * (pitchBits kv.format / 8)
  pagePlace i b (s.pageAt e (t / n)) + (if val then kv.n2 * n * row else 0) + (h * n + t % n) * row

/-- An entry brought back from host memory (R153 step 1): its held tokens' pages are allocated and read; the event of a
refused read otherwise. -/
def State.swapIn (s : State) (i : Inst) (b : DecodeBlock) (x : Nat × CastEntry) : State × Nat :=
  let n := pagesFor b.pageLog2 x.2.length
  let size := pageBytes i b.pageLog2
  let ev := s.readEvent tHost (s.fnOf i) x.2.hostSwap (n * size)
  if ev ≠ 0 then (s, ev)
  else
    let base := ((i.aux 0).getD {}).base
    let r := s.takePages i.part base b.pagesTotal { x.2 with pages := 0 } n
    let s := r.1.over (List.range n) fun s k =>
      s.writePart i.part tStacked 0 0
        (cellsOf (pagePlace i b (s.pageAt r.2 k)) (s.readHost (s.fnOf i) (x.2.hostSwap + k * size) size))
    (s.setCastOf i.part x.1 { r.2 with state := castActive }, 0)

/-- An entry swapped out (R153 step 2). -/
def State.swapOut (s : State) (i : Inst) (b : DecodeBlock) (x : Nat × CastEntry) : State × Nat :=
  let size := pageBytes i b.pageLog2
  let ev := s.writeEvent tHost (s.fnOf i) x.2.hostSwap (x.2.pages * size)
  let bad := firstEvent ((List.range x.2.pages).map fun k => s.readEvent tStacked 0 (pagePlace i b (s.pageAt x.2 k)) size)
  if ev ≠ 0 then (s, ev)
  else if bad ≠ 0 then (s, bad)
  else
    let s := s.over (List.range x.2.pages) fun s k =>
      s.writeHost (s.fnOf i) (x.2.hostSwap + k * size) (s.tierBytes tStacked 0 (pagePlace i b (s.pageAt x.2 k)) size)
    let s := s.returnPages i.part ((i.aux 0).getD {}).base x.2
    (s.setCastOf i.part x.1 { x.2 with state := castSwapped, pages := 0 }, 0)

/-- The growth of every ACTIVE entry. -/
def State.growthOf (s : State) (p log2 : Nat) : Nat :=
  (((s.castList p).filter fun x => x.2.state == castActive).map fun x => x.2.growth log2).sum

/-- Entries in order of a key, lowest first. -/
def byKey (key : Nat × CastEntry → Nat) (l : List (Nat × CastEntry)) : List (Nat × CastEntry) :=
  sortBy (fun a b => decide (key a ≤ key b)) l

/-- Step 1 of R153: the entries swapped in. -/
def State.swapsIn (s : State) (i : Inst) (b : DecodeBlock) : State × List Nat × Nat :=
  let base := ((i.aux 0).getD {}).base
  let cand := byKey (fun x => x.2.priority * 2 ^ 16 + x.1) ((s.castList i.part).filter fun x => x.2.state == castSwapped)
  cand.foldl (fun acc x =>
    if acc.2.2 ≠ 0 then acc
    else
      let s := acc.1
      if x.2.need b.pageLog2 + s.growthOf i.part b.pageLog2 ≤ (s.freePages base b.pagesTotal).length then
        let r := s.swapIn i b x
        (r.1, if r.2 = 0 then acc.2.1 ++ [x.1] else acc.2.1, r.2)
      else acc) (s, [], 0)

/-- Step 2 of R153: the entries swapped out. -/
def State.swapsOut (s : State) (i : Inst) (b : DecodeBlock) (keep : List Nat) : State × List Nat × Nat :=
  let base := ((i.aux 0).getD {}).base
  let cand := (byKey (fun x => x.2.priority * 2 ^ 16 + x.1)
    ((s.castList i.part).filter fun x => x.2.state == castActive && !keep.contains x.1)).reverse
  cand.foldl (fun acc x =>
    let s := acc.1
    if acc.2.2 ≠ 0 ∨ s.growthOf i.part b.pageLog2 ≤ (s.freePages base b.pagesTotal).length then acc
    else
      let r := s.swapOut i b x
      (r.1, if r.2 = 0 then acc.2.1 ++ [x.1] else acc.2.1, r.2)) (s, [], 0)

/-- A row of keys or values in an entry's pages. -/
def State.tokenRow (s : State) (i : Inst) (b : DecodeBlock) (e : CastEntry) (val : Bool) (h t : Nat) : List FVal :=
  let kv := i.dd 2
  rowVals kv.format kv.n0 (s.tierBytes tStacked 0 (s.tokenAddr i b e val h t) (kv.n0 * (pitchBits kv.format / 8)))

/-- One query row by the sweeps of R133 to R135 over tokens 0 to pos. -/
def State.decodeRow (s : State) (i : Inst) (b : DecodeBlock) (e : CastEntry) (q : List FVal) (h pos : Nat) : List Nat :=
  let js := List.range (pos + 1)
  let x0 : RowAcc := if q.any (fun v => !v.isFinite) then { bad := true, bound := some 0 } else {}
  let kv := js.map fun t => (s.tokenRow i b e false h t, s.tokenRow i b e true h t)
  let x := kv.foldl (fun acc y =>
    let kr := keyRecord y.1 y.2
    acc.boundPair b.scale q (quantVals kr.2.1 (quantRow kr.2.1 y.1)) kr) x0
  let x := kv.foldl (fun acc y => acc.sumPair b.scale q y.1 y.2) x
  (x.normalise (i.dd 0).format (i.dd 0).n0).1

/-- The event of reading an entry's held tokens. -/
def State.entryReadEvent (s : State) (i : Inst) (b : DecodeBlock) (e : CastEntry) : Nat :=
  firstEvent ((List.range e.pages).map fun k => s.readEvent tStacked 0 (pagePlace i b (s.pageAt e k)) (pageBytes i b.pageLog2))

/-- Step 3 of R153 for one ACTIVE entry: growth, the new keys and values, the rows of O. An entry whose QROWS is above QMAX takes
QMAX rows (DESIGN CHOICE, log entry 63). -/
def State.decodeEntry (s : State) (i : Inst) (b : DecodeBlock) (n : Nat) : State × List Piece × Nat :=
  let q := i.dd 1
  let kv := i.dd 2
  let o := i.dd 0
  let cl := s.clusterAt i 0
  let e := s.castOf i.part n
  let rows := min e.qrows q.n1
  let grown := s.takePages i.part ((i.aux 0).getD {}).base b.pagesTotal e (e.growth b.pageLog2)
  let e := grown.2
  let s := grown.1
  let bad := s.entryReadEvent i b e
  if bad ≠ 0 then (s, [], bad)
  else
    let s := s.over (List.range rows) fun s j => s.over (List.range kv.n2) fun s h => s.over [false, true] fun s v =>
      s.writePart i.part tStacked 0 0 (cellsOf (s.tokenAddr i b e v h (e.length + j))
        (s.rowBytesOf kv (s.fnOf i) cl (j, h, 2 * n + b2n v)))
    let pieces := (List.range q.n2).flatMap fun h => (List.range rows).map fun j =>
      let r := j + q.n1 * (h + q.n2 * n)
      { d := o, row := r, cl := cl
        bs := codeBytes o.format (s.decodeRow i b e (rowVals q.format q.n0 (s.rowBytesOf q (s.fnOf i) cl (j, h, n)))
          (h * kv.n2 / max 1 q.n2) (e.length + j)) : Piece }
    (s.setCastOf i.part n { e with length := e.length + rows, lastCue := s.time.cue }, pieces, 0)

/-- One step of DECODE.ATTN (R153). -/
def decodeRun (s : State) (i : Inst) : State × Inst :=
  let b := DecodeBlock.ofBytes i.params
  let st := (i.aux 1).getD {}
  let ev := firstEvent [s.srcEvent i (i.dd 1) [s.clusterAt i 0], s.srcEvent i (i.dd 2) [s.clusterAt i 0]]
  if ev ≠ 0 then (s.loseOuts i, { i with event := ev, count := 0 })
  else
    let s := s.setPartition i.part { s.partition i.part with pool := some (((i.aux 0).getD {}).base, b.pagesTotal) }
    let a := s.swapsIn i b
    let c := if a.2.2 = 0 then a.1.swapsOut i b a.2.1 else (a.1, [], a.2.2)
    let active := ((c.1.castList i.part).filter fun x => x.2.state == castActive).map (·.1)
    let d := active.foldl (fun acc n =>
      if acc.2.2 ≠ 0 then acc
      else
        let r := acc.1.decodeEntry i b n
        (r.1, acc.2.1 ++ r.2.1, r.2.2)) (c.1, [], c.2.2)
    if d.2.2 ≠ 0 then (d.1.loseOuts i, { i with event := d.2.2, count := 0 })
    else
      let codes := (d.1.castList i.part).map fun x =>
        if c.2.1.contains x.1 then 3
        else if x.2.state = castSwapped then 4
        else if a.2.1.contains x.1 then 2
        else if active.contains x.1 then 1 else 0
      d.1.finish i { count := (d.2.1.map fun x => x.d.n0).sum
                     pieces := d.2.1 ++ [{ d := st, row := 0, cl := d.1.clusterAt i 0, bs := codes.flatMap (natLE 4) }]
                     reads := [groupReads (i.dd 1), groupReads (i.dd 2)] }

end Sys2Proof.Machine
end

