-- ==== Sys2Proof/Machine/Runs.lean ====
section
/-!
DEFINITION. Running orders, prefetch and cleaning, and the FIFOs of a pair (R32 to R34, R202, R210 to R212).
Readings of the rules that they leave open: log entry 18 (DEDUCED or DESIGN CHOICE, as the log marks each).
-/

namespace Sys2Proof.Machine

/-! ## Running orders (R210 to R212) -/

/-- A running-order entry from its 32 bytes. -/
def RunEntry.ofBytes (b : Bytes) : RunEntry where
  src := field b 0 8
  dst := field b 8 8
  bytes := field b 0x10 4
  layer := field b 0x14 2
  copy := field b 0x16 1 == 1
  srcTier := bits (field b 0x17 1) 0 4
  dstTier := bits (field b 0x17 1) 4 4
  rank := field b 0x18 2
  hint := field b 0x1A 1

/-- One end of an entry is a place that the partition may use (R235); of the local store, within the scene's window (R184, R210). -/
def State.placeOk (s : State) (p window tier a n rank : Nat) : Bool :=
  let b := s.block p
  match tier with
  | 0 => decide (a + n ≤ window)
  | 1 => decide (a + n ≤ s.directBytes) && within a n b.directLo b.directUse
  | 2 => decide (a + n ≤ s.capacity) && within a n b.memLo b.memLen
  | 3 => decide (rank < (s.jobRoster p).length)
  | t => decide (t ≤ 4)

/-- The fields of an entry are in range (R210). -/
def State.entryOk (s : State) (p window : Nat) (raw : Bytes) : Bool :=
  let e := RunEntry.ofBytes raw
  let peer := e.srcTier == tPeer || (e.copy && e.dstTier == tPeer)
  e.bytes % 64 == 0 && decide (field raw 0x16 1 ≤ 1) && decide (e.hint < 3) && allZero (raw.drop 0x1B) &&
    (if e.copy then e.dstTier != tLocal && s.placeOk p window e.dstTier e.dst e.bytes e.rank else e.srcTier == tStacked) &&
    s.placeOk p window e.srcTier e.src e.bytes e.rank && (e.rank == 0 || peer)

/-- Layers in the order that RUN.LOAD asks for. -/
def layersOk (descending : Bool) : List RunEntry → Bool
  | x :: y :: t => (if descending then decide (y.layer ≤ x.layer) else decide (x.layer ≤ y.layer)) && layersOk descending (y :: t)
  | _ => true

/-- A layer number that no RUN.WAIT names: that of the entries of an order that has been replaced. -/
def oldLayer : Nat := 65536

/-- RUN.LOAD (R210): the table is read and judged whole; started entries of the old order complete. -/
def runLoadBody (s : State) (i : Inst) : State × Inst :=
  let d := i.dd 1
  let cl := s.clusterAt i 0
  let ev := s.srcEvent i d [cl]
  let raw := (List.range d.rows).map fun r => s.rowBytesOf d (s.fnOf i) cl (d.rowAt r)
  let es := raw.map RunEntry.ofBytes
  let down := bits i.pkt.imm 15 1 == 1
  if ev ≠ 0 then (s, { i with event := ev })
  else if !(raw.all (s.entryOk i.part (s.windowOf i)) && layersOk down es) then (s, { i with event := Ev.desc })
  else
    let v := s.queue i.queue
    let old := (v.runOrder.filter fun e => e.status == .started).map fun e => { e with layer := oldLayer }
    let s := s.setQueue i.queue { v with runOrder := old ++ es, lookahead := bits i.pkt.imm 0 4, descending := down }
    (s.consume [groupReads d], i)

/-- Whose memory an end of an entry is: the function's for HOST, the rank's for PEER, the first cluster's for LOCAL. -/
def State.entryWho (s : State) (p tier rank : Nat) : Nat :=
  if tier = tHost then (s.block p).fn else if tier = tPeer then rank else if tier = tLocal then (s.clustersOf p).headD 0 else 0

/-- An entry of a queue's running order replaced. -/
def State.setEntry (s : State) (q k : Nat) (e : RunEntry) : State :=
  s.setQueue q { s.queue q with runOrder := (s.queue q).runOrder.set k e }

/-- The bytes of an entry sent to its peer, and what it then awaits. -/
def State.sendEntry (s : State) (p : Nat) (e : RunEntry) : State × RunEntry :=
  let m := s.sendPeer p e.rank e.dst (s.tierBytes e.srcTier (s.entryWho p e.srcTier e.rank) e.src e.bytes)
  (m.1, { e with acks := e.acks ++ m.2 })

/-- The bytes of an entry asked for at its peer. -/
def State.askEntry (s : State) (p : Nat) (e : RunEntry) : State × RunEntry :=
  (List.range (ceilDiv e.bytes 16368)).foldl (fun acc j =>
    let m := acc.1.sendRead p e.rank (e.src + 16368 * j) (min 16368 (e.bytes - 16368 * j))
    (m.1, { acc.2 with reads := acc.2.reads ++ [m.2] })) (s, e)

/-- An entry starts: what it reads from a peer is asked for, what it writes to a peer is sent, from a peer once it has come. -/
def State.startEntry (s : State) (p q k : Nat) : State :=
  match (s.queue q).runOrder[k]? with
  | none => s
  | some e =>
    let e := { e with status := .started }
    let m := if !e.copy then (s, e) else if e.srcTier = tPeer then s.askEntry p e else if e.dstTier = tPeer then s.sendEntry p e else (s, e)
    m.1.setEntry q k m.2

/-- The running-order entry that awaits the response of a tag: its queue, its place, and the read. -/
def State.entryReader (s : State) (node tag : Nat) : Option (Nat × Nat × RunEntry × PeerRead) :=
  s.queues.findSome? fun x => (x.2.runOrder.zip (List.range x.2.runOrder.length)).findSome? fun e =>
    (e.1.reads.find? fun r => r.tag == tag && r.node == node).map fun r => (x.1, e.2, e.1, r)

/-- A response of a running-order entry's read: its data land in the receive space, and after the last one a copy to a peer is sent;
a refusal or poison is the entry's event (R211). -/
def State.entryResponse (s : State) (x : Nat × Nat × RunEntry × PeerRead) (st : PeerStatus) (bs : Bytes) : State :=
  let q := x.1
  let e := x.2.2.1
  let r := x.2.2.2
  let rest := e.reads.filter fun y => !(y.tag == r.tag && y.node == r.node)
  match st with
  | .outOfRange => s.setEntry q x.2.1 { e with reads := [], bad := Ev.peerRange }
  | .poisoned => s.setEntry q x.2.1 { e with reads := [], bad := Ev.eccUncorr }
  | .done =>
    let s := s.writeTier tPeer r.rank r.addr (bs.take r.len)
    if rest = [] ∧ e.dstTier = tPeer then
      let m := s.sendEntry ((s.partOf q).getD 0) { e with reads := [] }
      m.1.setEntry q x.2.1 m.2
    else s.setEntry q x.2.1 { e with reads := rest }

/-- A peer refuses a packet of a running-order entry: its event (R211, R216). -/
def State.entryRefused (s : State) (node n : Nat) : State :=
  s.setQueues (s.queues.map fun x =>
    (x.1, { x.2 with runOrder := x.2.runOrder.map fun e =>
      if (e.acks.any fun a => a.1 == node && decide (a.2.1 ≤ n ∧ n < a.2.2)) = true then { e with bad := Ev.peerRange } else e }))

/-- The waiting entries of a queue that a condition names, started in table order. -/
def State.startEntries (s : State) (p q : Nat) (which : RunEntry → Bool) : State :=
  s.over (List.range (s.queue q).runOrder.length) fun s k =>
    match (s.queue q).runOrder[k]? with
    | some e => if e.status = .waiting ∧ which e then s.startEntry p q k else s
    | none => s

/-- RUN.MARK (R211). -/
def runMarkBody (s : State) (i : Inst) : State × Inst :=
  let v := s.queue i.queue
  let l := i.pkt.imm
  (s.startEntries i.part i.queue fun e => if v.descending then decide (l ≤ e.layer + v.lookahead) else decide (e.layer ≤ l + v.lookahead), i)

/-- The COPY entries of a layer are complete, or have failed. -/
def Queue.layerDone (v : Queue) (l : Nat) : Bool :=
  v.runOrder.all fun e => !e.copy || e.layer != l ||
    (match e.status with
     | .waiting => false
     | .started => false
     | _ => true)

/-- The event that a failed COPY of a layer left for the next RUN.WAIT. -/
def Queue.layerEvent (v : Queue) (l : Nat) : Nat :=
  firstEvent (v.runOrder.map fun e =>
    if e.copy ∧ e.layer = l then (match e.status with
      | .failed ev => ev
      | _ => 0) else 0)

/-- A RUN.WAIT whose layer is done takes its event and is ready to retire. -/
def State.endRunWait (s : State) (i : Inst) (l : Nat) : State × Inst :=
  let v := s.queue i.queue
  let clear (e : RunEntry) : RunEntry := if e.copy ∧ e.layer = l then { e with status := .complete } else e
  (s.setQueue i.queue { v with runOrder := v.runOrder.map clear }, { i with wait := .none, event := v.layerEvent l })

/-- RUN.WAIT (R211). -/
def runWaitBody (s : State) (i : Inst) : State × Inst :=
  let l := i.pkt.imm
  let s := s.startEntries i.part i.queue fun e => e.copy && e.layer == l
  if (s.queue i.queue).layerDone l then s.endRunWait i l else (s, { i with wait := .runWait l, waitCue := s.time.cue })

/-- The event of a COPY: the one that its peer or its link reports, or that of its reads and writes here. -/
def State.copyEvent (s : State) (p : Nat) (e : RunEntry) (link : Nat) : Nat :=
  firstEvent
    [e.bad, if e.srcTier = tPeer ∨ e.dstTier = tPeer then link else 0,
     s.readEvent e.srcTier (s.entryWho p e.srcTier e.rank) e.src e.bytes,
     s.writeEvent e.dstTier (s.entryWho p e.dstTier e.rank) e.dst e.bytes]

/-- A started COPY completes: its bytes land, or its destination is undefined. -/
def State.copyDone (s : State) (p : Nat) (e : RunEntry) (link : Nat) : State × Nat :=
  let fn := (s.block p).fn
  let ev := s.copyEvent p e link
  if ev ≠ 0 then (s.undefineExtent fn [] ⟨e.dstTier, e.dst, e.bytes, e.rank⟩, ev)
  else
    let bs := s.tierBytes e.srcTier (s.entryWho p e.srcTier e.rank) e.src e.bytes
    let s := if e.srcTier = tStacked then s.readThrough e.hint [(List.range e.bytes).map (e.src + ·)] else s
    if e.dstTier = tPeer then (s, 0) else (s.writePart p e.dstTier (s.entryWho p e.dstTier e.rank) e.hint (cellsOf e.dst bs), 0)

/-- What an entry awaits of a peer has come (R211): it may complete; one that has met an event may at once. -/
def State.entryReady (s : State) (e : RunEntry) (link : Nat) : Bool :=
  e.bad != 0 || link != 0 || (e.reads.isEmpty && s.acked e.acks)

/-- An entry in the background completes (R211); a RUN.WAIT that waited for it may then retire. -/
def State.entryDone (s : State) (q k link : Nat) : State :=
  match s.partOf q, (s.queue q).runOrder[k]? with
  | some p, some e =>
    if e.status ≠ .started ∨ s.entryReady e link = false then s
    else
      let m := if e.copy then s.copyDone p e link else (s.touch e.hint false ((List.range e.bytes).map (e.src + ·)), 0)
      let st : RunStatus := if m.2 = 0 then .complete else .failed m.2
      let s := m.1.setEntry q k { e with status := st, reads := [], acks := [] }
      (match (s.instsOf q).find? (fun i => i.wait == .runWait e.layer) with
       | some i =>
         if (s.queue q).layerDone e.layer then
           let r := s.endRunWait i e.layer
           r.1.setInst r.2
         else s
       | none => s)
  | _, _ => s

/-! ## PREFETCH and CLEAN (R189, R202) -/

/-- PREFETCH: the lines of its range are requested. -/
def prefetchBody (s : State) (i : Inst) : State × Inst :=
  let d := i.dd 1
  (s.touch d.hint false ((List.range d.extent).map (d.base + ·)), i)

/-- CLEAN: the dirty lines of its range are written back, and with INVAL leave the cache. -/
def cleanBody (s : State) (i : Inst) : State × Inst :=
  let d := i.dd 1
  let mine (c : CacheLine) := overlaps (64 * c.line) 64 d.base d.extent
  let lines := if bits i.pkt.imm 0 1 = 1 then s.mem.lines.filter fun c => !mine c
    else s.mem.lines.map fun c => if mine c then { c with dirty := false } else c
  (s.setMem { s.mem with lines := lines }, i)

/-! ## FIFO pairs (R32 to R34) -/

/-- The number of the FIFO pair that a queue is in, as access or as execute queue (R25). -/
def State.pairOf (s : State) (sc : Scene) (q : Nat) : Option Nat :=
  match sc.entries.findIdx? (· == q) with
  | none => none
  | some j =>
    let k := j / 2
    if s.kindOf (sc.entries.getD (2 * k) 65535) = some 1 ∧ s.kindOf (sc.entries.getD (2 * k + 1) 65535) = some 0 then some k else none

/-- The pair of an instruction's queue in its scene. -/
def State.instPair (s : State) (i : Inst) : Option (Scene × Nat) :=
  match i.scene.bind (s.scene? i.part) with
  | none => none
  | some sc => (s.pairOf sc i.queue).map fun k => (sc, k)

/-- What the FIFOs of a pair hold on a logical cluster. -/
def Scene.fifo (sc : Scene) (pair c : Nat) : PairFifos := tblGet {} sc.fifos (pair * 4096 + c)

/-- Those replaced. -/
def Scene.setFifo (sc : Scene) (pair c : Nat) (v : PairFifos) : Scene :=
  { sc with fifos := tblSet {} sc.fifos (pair * 4096 + c) v }

/-- Bytes that a FIFO holds. -/
def fifoBytes (l : List Bytes) : Nat := (l.map List.length).sum

/-- The hand-over units of PUSH or POP. A POP that discards takes one unit. -/
def Inst.handUnits (i : Inst) : List (List Nat) :=
  match i.pkt.opcode with
  | 0x64 => (i.dd 1).units i.pkt.a i.pkt.b
  | 0x65 => if (i.d 0).isSome then (i.dd 0).units i.pkt.a i.pkt.b else [[]]
  | 0x60 => [[]]
  | _ => (i.dd 0).units i.pkt.a i.pkt.b

/-- PUSH and POP at their issue: in a pair they wait for their units; COUNT is their number (R202). -/
def unitBody (s : State) (i : Inst) : State × Inst :=
  let n := i.handUnits.length
  let ev := if i.pkt.opcode = 0x64 then s.srcEvent i (i.dd 1) (s.clustersFor i n) else 0
  if ev ≠ 0 then (s, { i with event := ev })
  else
    let s := if i.pkt.opcode = 0x64 then s.consume [(i.dd 1, i.handUnits)] else s
    match s.instPair i with
    | none => (s, { i with count := if i.pkt.opcode = 0x64 then n else 0 })
    | some _ => (s, { i with count := n, wait := .units, unitsLeft := n })

/-- MOVE with TOKEN waits, in a pair, for room for its token (R34). -/
def State.awaitToken (s : State) (i : Inst) : Inst :=
  if bits i.pkt.imm 0 1 = 1 ∧ i.event = 0 ∧ (s.instPair i).isSome then { i with wait := .units, unitsLeft := 1 } else i

/-- An execute instruction of a pair offers its result tiles to F2. -/
def State.offerUnits (s : State) (i : Inst) : Inst :=
  if (s.instPair i).isSome ∧ (i.d 0).isSome ∧ i.event = 0 then { i with unitsLeft := i.handUnits.length } else i

/-- One unit begun: the instruction with one unit less to begin. -/
def State.unitBegun (s : State) (i : Inst) (waits : Bool) : State :=
  let left := i.unitsLeft - 1
  s.setInst { i with unitsLeft := left, unitNo := i.unitNo + 1, wait := if waits ∧ left = 0 then .none else i.wait }

/-- The bytes at a unit's addresses. -/
def State.unitData (s : State) (i : Inst) (d : Desc) (cl : Nat) (as' : List Nat) : Bytes :=
  as'.map (s.tierByte d.tier (d.who (s.fnOf i) cl))

/-- The logical index of the cluster that unit n of an instruction belongs to: by the grid of R79, or the one that has claimed the
tile (R80). -/
def State.unitCluster (s : State) (i : Inst) (n : Nat) : Nat :=
  let cs := s.clustersOf i.part
  match i.claims with
  | none => n % max 1 cs.length
  | some _ => (cs.findIdx? (· == s.tileCluster i n)).getD 0

/-- Entries of 8 bytes that F3 holds (R32). -/
def f3Entries (l : List F3Entry) : Nat :=
  (l.map fun e => match e with
    | .unit bs => ceilDiv bs.length 8
    | _ => 1).sum

/-- A pop or another outbound unit, when F2 has it (R33 rule 3). What it sends to a peer is to be acknowledged (R319). -/
def State.popUnit (s : State) (i : Inst) (sc : Scene) (pair : Nat) : Option State :=
  let c := i.unitNo % max 1 (s.clustersOf i.part).length
  let f := sc.fifo pair c
  match f.f2 with
  | [] => none
  | u :: t =>
    let s := s.setScene i.part (sc.setFifo pair c { f with f2 := t })
    let m := match i.d 0 with
      | none => (s, [])
      | some d =>
        let as' := i.handUnits.getD i.unitNo []
        if d.tier = tPeer then
          (runsOf (as'.zip u)).foldl (fun acc (r : Nat × Bytes) =>
            let m := acc.1.sendPeer i.part d.rank r.1 r.2
            (m.1, acc.2 ++ m.2)) (s, [])
        else (s.writePart i.part d.tier (d.who (s.fnOf i) (s.clusterAt i i.unitNo)) d.hint (as'.zip u), [])
    some (m.1.unitBegun { i with acks := i.acks ++ m.2 } true)

/-- A push or a token, when its FIFO has room for the whole unit (R33 rule 1). -/
def State.pushUnit (s : State) (i : Inst) (sc : Scene) (pair : Nat) : Option State :=
  let c := i.unitNo % max 1 (s.clustersOf i.part).length
  let f := sc.fifo pair c
  let push := decide (i.pkt.opcode = 0x64)
  let bs := if push then s.unitData i (i.dd 1) (s.clusterAt i i.unitNo) (i.handUnits.getD i.unitNo []) else []
  let fifo := if push then bits i.pkt.imm 0 2 else 3
  let put (v : PairFifos) := some ((s.setScene i.part (sc.setFifo pair c v)).unitBegun i true)
  match fifo with
  | 0 => if fifoBytes f.f0 + bs.length ≤ 65536 then put { f with f0 := f.f0 ++ [bs] } else none
  | 1 => if fifoBytes f.f1 + bs.length ≤ 65536 then put { f with f1 := f.f1 ++ [bs] } else none
  | _ =>
    let f3 := f.f3 ++ [if push then F3Entry.unit bs else .token]
    if f3Entries f3 ≤ 512 then put { f with f3 := f3 } else none

/-- The access engine claims the next tile of a DYNAMIC instruction of its execute partner, and pushes the claim into F3 of the
cluster that has claimed it (R34, R80), when that has room. -/
def State.claimUnit (s : State) (i : Inst) (sc : Scene) (pair : Nat) : Option State :=
  if i.claims.isNone ∨ i.handUnits.length ≤ i.claimed then none
  else
    let c := s.unitCluster i i.claimed
    let f := sc.fifo pair c
    let f3 := f.f3 ++ [.claim i.claimed]
    if f3Entries f3 ≤ 512 then
      some ((s.setScene i.part (sc.setFifo pair c { f with f3 := f3 })).setInst { i with claimed := i.claimed + 1 })
    else none

/-- What F3 still holds when a unit of work has taken its entry: of a DYNAMIC instruction the claim of its tile, which must be there;
of another the oldest entry that is no claim. -/
def Inst.takeF3 (i : Inst) (l : List F3Entry) : Option (List F3Entry) :=
  match i.claims with
  | some _ => if l.contains (.claim i.unitNo) then some (l.erase (.claim i.unitNo)) else none
  | none => some (l.eraseP fun e => match e with
      | .claim _ => false
      | _ => true)

/-- A unit of work of an execute instruction, when F2 has room for its result (R33 rule 2): the units it consumes leave
F0, F1 and F3. -/
def State.workUnit (s : State) (i : Inst) (sc : Scene) (pair : Nat) : Option State :=
  let c := s.unitCluster i i.unitNo
  let f := sc.fifo pair c
  let bs := s.unitData i (i.dd 0) ((s.clustersOf i.part).getD c 0) (i.handUnits.getD i.unitNo [])
  match i.takeF3 f.f3 with
  | none => none
  | some f3 =>
    if fifoBytes f.f2 + bs.length ≤ 65536 then
      some ((s.setScene i.part (sc.setFifo pair c
        { f with f0 := f.f0.drop 1, f1 := f.f1.drop 1, f3 := f3, f2 := f.f2 ++ [bs] })).unitBegun i false)
    else none

/-- The execute queue of a pair whose access queue this is. -/
def State.executePartner (s : State) (q : Nat) : Option Nat :=
  (s.partOf q).bind fun p => (s.runningScene p).bind fun sc => (s.pairOf sc q).bind fun k => sc.entries[2 * k + 1]?

/-- An instruction of the inbound stream (R32). -/
def Inst.inbound (i : Inst) : Bool := i.pkt.opcode == 0x64 || i.pkt.opcode == 0x60

/-- FIFO_UNIT_BEGIN's effect: the oldest instruction of the outbound stream begins a unit if it can, else that of the
inbound stream, whose claims of tiles stand ahead of the tiles' operands (R34); on an execute queue, the oldest instruction with work
left. -/
def State.beginUnit (s : State) (q : Nat) : State :=
  let mine := (s.instsOf q).filter fun i => decide (0 < i.unitsLeft)
  let tryOn (i? : Option Inst) (f : Inst → Scene → Nat → Option State) : Option State :=
    i?.bind fun i => (s.instPair i).bind fun x => if x.1.running then f i x.1 x.2 else none
  if (s.queue q).block.kind = 0 then (tryOn mine.head? s.workUnit).getD s
  else
    match tryOn (mine.find? fun i => !i.inbound) s.popUnit with
    | some t => t
    | none =>
      let waits := (s.executePartner q).bind fun e => (s.instsOf e).find? fun i => i.claims.isSome && decide (i.claimed < i.handUnits.length)
      match tryOn waits s.claimUnit with
      | some t => t
      | none => (tryOn (mine.find? Inst.inbound) s.pushUnit).getD s

end Sys2Proof.Machine
end

