-- ==== Sys2Proof/Machine/Judge.lean ====
section
/-!
DEFINITION. The issue checks of a whole instruction in their order (R36, R37, R60, R66, R67, R394): its own slots, the
descriptors that its parameter block names, its opcode's own checks, and the rules of a CHAIN.
-/

namespace Sys2Proof.Machine

/-! ## Opcodes -/

/-- The fused collectives (R172). -/
def isColl (op : Nat) : Bool := decide (0x11 ≤ op ∧ op ≤ 0x15)

/-- The ring instructions (R126). -/
def isRing (op : Nat) : Bool := op == 0x1C || op == 0x1D

/-- The vector and special-function opcodes (R88). -/
def isVector (op : Nat) : Bool := decide (0x30 ≤ op ∧ op ≤ 0x53)

/-- The optimiser opcodes (R221). -/
def isOpt (op : Nat) : Bool := decide (0x80 ≤ op ∧ op ≤ 0x82)

/-- The tile class of an instruction; none on an Apron engine (R62, R93, R97). -/
def Pkt.cls (k : Pkt) : TileClass :=
  match opInfo k.opcode with
  | none => .none
  | some o => match o.cls with
    | .conv => if k.convMode = 5 then .none else convClass k.convMode
    | c => c

/-- The working area of one instruction (R62); ATTN.BWD needs both orientations (R128). -/
def Pkt.area (k : Pkt) : Nat :=
  if k.opcode = 0x1D then max (workArea k.cls k) (workArea k.cls { k with ta := k.tb, tb := k.ta }) else workArea k.cls k

/-! ## What a parameter block names -/

/-- Descriptor indices in a parameter block. -/
def auxIndices (op : Nat) (params : Bytes) : List Nat :=
  if isColl op then collAux params
  else if isRing op then attnAux params
  else if isOpt op then optAux params
  else if op = 0x92 then decodeAux params else []

/-- What becomes of the operand that field k of a block names: an output, a working buffer used over all its CAPACITY, or a receive
buffer. -/
inductive AuxRole where
  | input
  | output
  | buffer
  | receive
  deriving DecidableEq, Repr

/-- The roles of a block's operands (R126, R128, R152, R171, R173, R225). -/
def auxRole (op k : Nat) : AuxRole :=
  match op, k with
  | 0x12, 2 => .buffer
  | 0x14, 8 => .output
  | 0x1C, 1 => .output
  | 0x1C, 2 => .buffer
  | 0x1C, 5 => .output
  | 0x1D, 2 => .buffer
  | 0x1D, 5 => .output
  | 0x1D, 8 => .output
  | 0x92, 0 => .buffer
  | 0x92, 1 => .output
  | _, k =>
    if isColl op ∧ k = 2 then .receive
    else if isColl op ∧ k = 4 then .output
    else if isOpt op then .output else .input

/-- The operands that a block names; a working buffer is judged as any output is. -/
def Inst.auxOperands (i : Inst) : List Operand :=
  (i.auxDescs.zip (List.range i.auxDescs.length)).flatMap fun x =>
    match x.1 with
    | none => []
    | some d =>
      match auxRole i.pkt.opcode x.2 with
      | .input => [{ d := d }]
      | .output => [{ d := d, out := true }]
      | .buffer => [{ d := d, out := true, area := true }]
      | .receive => [{ d := d, out := true, fit := true }]

/-- The operands in slots. -/
def Inst.slotOperands (i : Inst) : List Operand :=
  let outs := match opInfo i.pkt.opcode with
    | some o => o.outs
    | none => []
  (i.descs.zip (List.range 4)).flatMap fun x =>
    match x.1 with
    | none => []
    | some d => [{ d := d, out := outs.contains x.2 }]

/-- Every operand. -/
def Inst.operands (i : Inst) : List Operand := i.slotOperands ++ i.auxOperands

/-- The slot that holds a parameter block. -/
def Inst.paramSlot (i : Inst) : Option Desc :=
  match opInfo i.pkt.opcode with
  | none => none
  | some o => o.params.findSome? fun k => match i.d k with
    | some d => if d.kind = kParams ∧ i.pkt.opcode ≠ 0x01 then some d else none
    | none => none

/-- A stage as the checks see it: its instruction, whether it stands in a CHAIN and may read from a chain port and write to one,
what its block's reading met, and whether the read of a descriptor that the block names met poison. -/
structure Judged where
  i : Inst
  chain : Bool := false
  first : Bool := false
  last : Bool := false
  bad : Nat := 0
  poison : Bool := false
  deriving DecidableEq, Repr

/-- The parameter block and the descriptors that it names, read at issue (R53, R60, R67, R189): the event of a bad read. A block
in a peer's memory is free. -/
def State.loadParams (s : State) (i : Inst) (table : Nat) : State × Judged :=
  match i.paramSlot with
  | none => (s, { i := i })
  | some d =>
    let cl := s.clusterAt i 0
    let n := min 64 d.cap
    let ev := s.readEvent d.tier (d.who (s.fnOf i) cl) d.base n
    if ev ≠ 0 then (s, { i := i, bad := ev })
    else
      let m := if d.tier = tPeer then s.drawBytes 64 else (s.paramBytes d (s.fnOf i) cl 64, s)
      let s := if d.tier = tStacked then m.2.touch d.hint false ((List.range n).map (d.base + ·)) else m.2
      let i := { i with params := m.1 }
      let ix := auxIndices i.pkt.opcode m.1
      if ix.any fun k => decide (4096 ≤ k) then (s, { i := i, bad := Ev.desc })
      else
        let f := s.fetchDescs i.queue table ix
        (f.1, { i := { i with auxDescs := f.2.1 }, poison := f.2.2 })

/-! ## An opcode's own checks -/

/-- Order 2 of the common instructions beyond their fields (R24, R36, R41, R260, R393). -/
def State.commonFieldsOk (s : State) (i : Inst) : Bool :=
  match i.pkt.opcode with
  | 0x01 => s.beginFieldsOk i
  | 0x04 => inRange i.pkt.imm 2 8
  | 0x07 => inRange (bits i.pkt.imm 8 8) 2 64 && i.scene.isSome
  | 0x0A => (s.resumeTarget i).isSome
  | _ => true

/-- The own checks of an opcode at an order. -/
def State.opCheck (s : State) (i : Inst) (order : Nat) : Nat :=
  let op := i.pkt.opcode
  if op = 0x08 then stampCheck i 16 order
  else if op = 0x09 then stampCheck i 8 order
  else if op = 0x10 then (if order = 10 ∧ matrixUnitsOk i = false then Ev.fit else mmaCheck i order)
  else if isColl op then collCheck s i order
  else if op = 0x18 then convCheck i order
  else if isRing op then attnCheck s i order
  else if isVector op then vectorCheck i order
  else if 0x60 ≤ op ∧ op ≤ 0x71 then accessCheck i order
  else if isOpt op then optCheck i order
  else if op = 0x90 ∨ op = 0x91 then castCheck s i order
  else if op = 0x92 then decodeCheck s i order
  else if order = 2 ∧ s.commonFieldsOk i = false then Ev.desc
  else 0

/-! ## The checks of one instruction, or of one stage of a CHAIN (R66) -/

/-- A chain port may stand in a slot (R37): inputs of the first stage, S0 of the last. -/
def Judged.portOk (j : Judged) (k : Nat) : Bool :=
  match opInfo j.i.pkt.opcode with
  | none => false
  | some o => if k = 0 then j.last && o.outs.contains 0 else j.first && !o.outs.contains k && !o.params.contains k

/-- A port is written by its writer and read by its reader (R37). -/
def State.portSide (s : State) (i : Inst) (o : Operand) : Bool :=
  o.d.kind != kPort || (match s.portOf o.d with
    | some b => if o.out then b.writer == i.part else b.reader == i.part
    | none => false)

/-- The checks of one instruction at an order. Order 4 is judged over the slots first: the block and what it names can be
read only then. -/
def State.judge (s : State) (kind : Nat) (j : Judged) (order : Nat) : Nat :=
  let i := j.i
  let own := s.opCheck i order
  match opInfo i.pkt.opcode with
  | none => if order = 1 then Ev.opcode else 0
  | some o =>
    let ops := i.operands
    match order with
    | 2 => if check2 o kind i.pkt i.descs j.portOk && !(j.chain && i.pkt.opcode == 0x18 && i.pkt.convMode == 5) then own else Ev.desc
    | 4 =>
      if !i.slotOperands.all (fun x => s.check4 i x && s.portSide i x) then Ev.desc
      else if i.paramSlot.isSome && j.bad != 0 then j.bad
      else if i.pkt.opcode = 0x01 ∧ (i.dd 1).cap < 64 then Ev.desc
      else if !(i.auxDescs.all fun d => ((d.map fun d => d.kind == kTensor).getD true)) then Ev.desc
      else if !i.auxOperands.all (s.check4 i) then Ev.desc
      else own
    | 5 => if ops.all (check5 i.pkt.cls) then own else Ev.format
    | 6 => if ops.all fun x => x.d.aligned x.out then own else Ev.align
    | 7 => if ops.all s.check7 then own else Ev.readonly
    | 9 => if ops.all check9 then own else Ev.shape
    | 10 => own
    | _ => 0

/-- A zero SHAPE entry in some operand, order 8 (R68). -/
def Inst.zeroShape (i : Inst) : Bool := i.operands.any fun x => x.d.kind != kParams && x.d.isZero

/-! ## CHAIN, order 3 (R36, R394) -/

/-- Instructions that may be stages. -/
def stageKind (k : Pkt) : Bool :=
  k.opcode == 0x10 || isColl k.opcode || isVector k.opcode || isOpt k.opcode || k.opcode == 0x18

/-- A matrix-class stage. -/
def matrixStage (k : Pkt) : Bool := k.cls == .matrix || k.cls == .matrixPartial

/-- The tile that a stage takes: none when any tile of the stage before it will do: an element-wise stage, and a row-wise one
whose rows have no element, for which R394's row group is not defined (DESIGN CHOICE, log entry 28). -/
def Inst.inTile (i : Inst) : Option (Nat × Nat) :=
  let k := i.pkt
  if matrixStage k then some (k.a, k.c)
  else if rowWise k.opcode then
    let w := (i.dd 1).n0
    if w = 0 then none else if w ≤ k.a then some (min 256 (k.a / w), w) else some (0, 0)
  else none

/-- GLU.ACT in its second form: twice its block width (R91). -/
def Inst.gluBlock (i : Inst) : Option Nat :=
  if i.pkt.opcode = 0x50 ∧ (i.d 2).isNone then some (2 * 2 ^ bits i.pkt.imm 0 4) else none

/-- The tile that a stage hands over, fed with a tile or first: none where R394's rules for it are broken. -/
def Inst.outTile (i : Inst) (fed : Option (Nat × Nat)) : Option (Nat × Nat) :=
  let k := i.pkt
  let w := (i.dd 0).n0
  if matrixStage k then some (k.a, k.b)
  else if rowWise k.opcode then
    let x := (i.dd 1).n0
    if x = 0 then some (fed.getD (1, k.a)) else if x ≤ k.a then some (min 256 (k.a / x), w) else some (1, k.a)
  else
    let t := fed.getD (if w ≤ k.a ∧ 0 < w then (min 256 (k.a / w), w) else (1, k.a))
    match fed, i.gluBlock with
    | some t, some g => if t.2 % g = 0 ∧ t.1 * (t.2 / 2) ≤ k.a then some (t.1, t.2 / 2) else none
    | some t, none => if t.1 * t.2 ≤ k.a then some t else none
    | none, _ => some t

/-- The stages after the first agree with what is handed to them. -/
def tilesAgree (tile : Nat × Nat) : List Inst → Bool
  | [] => true
  | i :: t =>
    ((i.inTile.map (· == tile)).getD true) &&
      (match i.outTile (some tile) with
       | none => false
       | some o => tilesAgree o t)

/-- Two consecutive stages name one intermediate tensor. -/
def handOk (x y : Inst) : Bool :=
  match x.d 0, y.d 1 with
  | some a, some b => a.sameShape b && a.format == b.format
  | _, _ => false

/-- The rules of R36 and R394. -/
def chainOk (js : List Inst) : Bool :=
  js.all (fun i => stageKind i.pkt) &&
    (js.dropLast.all fun i => !matrixStage i.pkt || bits i.pkt.md 0 2 == 0) &&
    ((js.zip (js.drop 1)).all fun x => handOk x.1 x.2) &&
    (match js with
     | [] => false
     | i :: t => (match i.outTile none with
       | some o => tilesAgree o t
       | none => false))

/-! ## The first check that fails, over the packet and its stages -/

/-- The verdict at issue: an event, a zero shape, or none. -/
inductive Verdict where
  | fails (event : Nat)
  | zero
  | passes
  deriving DecidableEq, Repr

/-- Order 10 over the whole instruction: working areas and LOCAL operands in the window (R61); a LOCAL block of SCENE.BEGIN
is judged by R25. -/
def State.fits (s : State) (window : Nat) (js : List Judged) : Bool :=
  let w := (js.map fun j => j.i.pkt.area).sum
  let top := localTop (js.flatMap fun j => if j.i.pkt.opcode = 0x01 then [] else j.i.operands)
  decide (w ≤ window ∧ top ≤ window - w)

/-- The verdict on an instruction: own is the CHAIN packet itself, when it is one. -/
def State.verdict (s : State) (kind window : Nat) (own : Option Inst) (js : List Judged) : Verdict :=
  let all := (own.toList.map fun i => ({ i := i } : Judged)) ++ js
  let at' (order : Nat) : Nat :=
    if order = 3 then (match own with
      | some _ => if chainOk (js.map (·.i)) then 0 else Ev.chain
      | none => 0)
    else if order = 10 then
      (if s.fits window js then firstEvent (js.map fun j => s.judge kind j 10) else Ev.fit)
    else firstEvent (all.map fun j => s.judge kind j order)
  match firstEvent ([1, 2, 3, 4, 5, 6, 7].map at') with
  | 0 =>
    if js.any fun j => j.i.zeroShape then .zero
    else match firstEvent ([9, 10].map at') with
      | 0 => .passes
      | e => .fails e
  | e => .fails e

end Sys2Proof.Machine
end

