-- ==== Sys2Proof/Machine/Issue.lean ====
section
/-!
DEFINITION. Issue (R19 to R22, R28, R36, R37, R44, R45, R60, R65 to R69, R158, R238, R393): when a queue's next packet
may issue, its verdict, and how what passes takes effect, at once or when what it waits for has come.
Readings of the rules that they leave open: log entries 16 and 28 (DEDUCED or DESIGN CHOICE, as the log marks each).
-/

namespace Sys2Proof.Machine

/-! ## CHAIN in flight (R36, R37) -/

/-- A tensor handed on through local store: the same rows in order, in the place that belongs to its queue. -/
def Desc.hand (d : Desc) (q place : Nat) : Desc :=
  { d with kind := kTensor, tier := tHand, rank := q, base := place * 2 ^ 48, cap := 2 ^ 48, layout := 0, packed := false, hint := 0
           st1 := d.row, st2 := d.n1 * d.row, st3 := d.n2 * (d.n1 * d.row) }

/-- Where a chain-port operand of slot k, and the output to a port, are held. -/
def portPlace (k : Nat) : Nat := 16 + k

/-- The descriptors of stage k of n as it runs: fed by the stage before, feeding the one after, ports held apart. -/
def stageViews (q k n : Nat) (ds : List (Option Desc)) : List (Option Desc) :=
  (ds.zip (List.range 4)).map fun x => x.1.map fun d =>
    if x.2 = 0 ∧ k + 1 < n then d.hand q k
    else if x.2 = 1 ∧ 0 < k then d.hand q (k - 1)
    else if d.kind = kPort then d.hand q (portPlace x.2) else d

/-- The instruction of stage k. -/
def Inst.stageInst (i : Inst) (k : Nat) : Inst :=
  match i.stages[k]? with
  | none => i
  | some t => { i with pkt := t.pkt, descs := t.descs, auxDescs := t.auxDescs, params := t.params, stageNo := k }

/-- What a CHAIN's queue holds of hand-over, dropped. -/
def State.clearHand (s : State) (q : Nat) : State :=
  s.setMem { s.mem with hand := s.mem.hand.filter fun c => c.1 / 2 ^ 64 != q }

/-- A port stands BROKEN for the partition of an instruction (R37). -/
def State.portBroken (s : State) (i : Inst) (port : Nat) : Bool := (s.chainPort port).brokenFor.contains i.part

/-- A broken port's other side (R37): the stage retires with E_BROKEN, and the mark is spent. -/
def State.brokenEnd (s : State) (i : Inst) (port : Nat) : State :=
  let v := s.chainPort port
  (s.setChainPort port { v with brokenFor := v.brokenFor.filter (· != i.part) }).endEarly i Ev.broken

/-- The port number of a chain-port operand as its book names it. -/
def State.portNo (s : State) (d : Desc) : Nat := ((s.portOf d).map (·.port)).getD 65536

/-! ## Work by opcode -/

/-- The work of an instruction that computes from its operands alone. -/
def opWork (s : State) (i : Inst) : Work :=
  let op := i.pkt.opcode
  if op = 0x10 then mmaWork s i
  else if op = 0x18 then convWork s i
  else if isVector op then vectorWork s i
  else if isOpt op then optWork s i
  else
    match op with
    | 0x60 => moveWork s i
    | 0x61 => fillWork s i
    | 0x62 => gatherWork s i
    | 0x63 => scatterWork s i
    | 0x70 => atomWork s i
    | 0x71 => casWork s i
    | 0x91 => castReadWork s i
    | _ => {}

/-- CONV: in APRON mode its tiles are dealt to the engines, and it waits for them (R97). -/
def convBody (s : State) (i : Inst) : State × Inst :=
  let m := s.finish i (opWork s i)
  if i.pkt.convMode = 5 ∧ m.2.event = 0 then (m.1, { m.2 with wait := .apron, apronTiles := apronDeal (s.block i.part).dies i.apronCount })
  else m

/-- What an instruction does when it issues, but for collectives, ring instructions and CHAIN. -/
def opBody (s : State) (i : Inst) : State × Inst :=
  match i.pkt.opcode with
  | 0x00 => (s, { i with immediate := true })
  | 0x01 => sceneBeginBody s i
  | 0x02 => sceneEndBody s i
  | 0x03 => preemptOkBody s i
  | 0x05 => gateAcqBody s i
  | 0x06 => gateRelBody s i
  | 0x07 => hurdleBody s i
  | 0x08 => cueStampBody s i
  | 0x09 => propReadBody s i
  | 0x0A => queueResumeBody s i
  | 0x18 => convBody s i
  | 0x60 =>
    let m := s.finish i (opWork s i)
    (m.1, m.1.awaitToken m.2)
  | 0x64 => unitBody s i
  | 0x65 => unitBody s i
  | 0x66 => prefetchBody s i
  | 0x67 => cleanBody s i
  | 0x68 => runLoadBody s i
  | 0x69 => runMarkBody s i
  | 0x6A => runWaitBody s i
  | 0x90 => castLoad s i
  | 0x92 => decodeRun s i
  | op =>
    let m := s.finish i (opWork s i)
    let i := if op < 0x60 ∨ isOpt op then m.1.offerUnits m.2 else m.2
    (m.1, if isOpt op then m.1.awaitSeal i else i)

/-! ## Effect, of an instruction in flight -/

/-- An instruction's outputs that are memory of the machine. -/
def Inst.realOuts (i : Inst) : List Extent :=
  (i.operands.filter fun x => x.out && x.d.kind == kTensor && x.d.tier != tHand && !x.area).map (·.d.toExtent)

/-- The outputs of every stage of a CHAIN. -/
def Inst.chainOuts (i : Inst) : List Extent := (List.range i.stages.length).flatMap fun k => (i.stageInst k).realOuts

/-- An event after which an instruction has written nothing more: any but the overflow of an accumulator (R114). -/
def stops (ev : Nat) : Bool := ev != 0 && ev != Ev.anchOvf

/-- A CHAIN takes from a port what is there for a slot (R37). -/
def State.pullPort (s : State) (i : Inst) (u : PortUse) : State × Inst :=
  let v := s.chainPort u.port
  let n := min (u.need - u.got) v.fill.length
  let s := s.writeTier tHand i.queue (portPlace u.slot * 2 ^ 48 + u.got) (v.fill.take n)
  (s.setChainPort u.port { v with fill := v.fill.drop n },
    { i with portIn := i.portIn.map fun x => if x.slot = u.slot then { x with got := x.got + n } else x })

/-- The size of a chain port, from the book (R371). -/
def State.portBytes (s : State) (port : Nat) : Nat := ((s.bookPorts.find? (·.port == port)).map (·.bytes)).getD 0

/-- A CHAIN writes to its port what fits (R37). -/
def State.pushPort (s : State) (i : Inst) (port : Nat) : State × Inst :=
  let v := s.chainPort port
  let room := s.portBytes port - v.fill.length
  (s.setChainPort port { v with fill := v.fill ++ i.portOut.take room }, { i with portOut := i.portOut.drop room })

/-- The instruction waits at a chain port; the wait begins again when something has moved. -/
def State.atPort (s : State) (i : Inst) (port : Nat) (moved : Bool) : State :=
  s.setInst { i with wait := .chainPort port, waitCue := if i.wait = .chainPort port ∧ moved = false then i.waitCue else s.time.cue }

/-- A stage has finished with what its work made of the instruction: its COUNT and the first event are kept, and what the
last one hands to a port is taken up. -/
def State.stageDone (s : State) (i : Inst) : Inst :=
  let k := i.stageNo
  let out := if k + 1 = i.stages.length ∧ i.portTo.isSome then
      (List.range (i.dd 0).rows).flatMap fun r => s.rowBytesOf (i.dd 0) 0 0 ((i.dd 0).rowAt r)
    else []
  { i with stages := (i.stages.zip (List.range i.stages.length)).map fun t => if t.2 = k then { t.1 with count := i.count } else t.1
           stageNo := k + 1, portOut := out, outs := i.chainOuts, coll := none }

/-- The instructions whose seals an instruction writes (R226): itself, or the stages of a CHAIN. -/
def Inst.sealers (i : Inst) : List Inst :=
  (if i.stages = [] then [i] else (List.range i.stages.length).map i.stageInst).filter fun x =>
    isOpt x.pkt.opcode && (OptBlock.ofBytes x.params).seals

/-- A CHAIN whose stages are done: its seals are still to be written unless an event makes them none (R226), then it may retire. -/
def State.chainEnd (s : State) (i : Inst) : Inst :=
  { i with wait := if i.event = 0 ∧ i.sealers ≠ [] then .sealAck else .none, waitCue := s.time.cue
           count := (i.stages.getLast?.map (·.count)).getD 0 }

/-- A CHAIN in flight goes on as far as it can: it takes from its ports, runs its stages in turn up to one that is a fused
collective, and writes to its port (R36, R37). -/
def State.chainGo (s : State) (i : Inst) : Nat → State
  | 0 => s.setInst i
  | fuel + 1 =>
    match i.portIn.find? (fun u => decide (u.got < u.need)) with
    | some u =>
      if s.portBroken i u.port then s.brokenEnd i u.port
      else
        let m := s.pullPort i u
        let moved := !(s.chainPort u.port).fill.isEmpty
        if m.2.portIn.any fun x => x.slot == u.slot && decide (x.got < x.need) then m.1.atPort m.2 u.port moved
        else m.1.chainGo m.2 fuel
    | none =>
      match i.stages[i.stageNo]? with
      | some t =>
        let j := i.stageInst i.stageNo
        if isColl t.pkt.opcode then
          (match t.coll, s.collEntry j with
           | some c, some e =>
             let j := { j with wait := .none, event := 0, count := 0, outs := j.realOuts }
             s.startColl j (s.collHead j e c.seq)
           | _, _ => s.endEarly i Ev.desc)
        else
          let m := s.finish j (opWork s j)
          if stops m.2.event then m.1.endEarly i m.2.event
          else m.1.chainGo (m.1.stageDone { m.2 with event := if i.event = 0 then m.2.event else i.event }) fuel
      | none =>
        match i.portTo with
        | none => (s.clearHand i.queue).place (s.chainEnd i)
        | some port =>
          if i.portOut = [] then (s.clearHand i.queue).place (s.chainEnd i)
          else if s.portBroken i port then s.brokenEnd i port
          else
            let m := s.pushPort i port
            if m.2.portOut = [] then m.1.chainGo m.2 fuel else m.1.atPort m.2 port (m.2.portOut.length != i.portOut.length)

/-- Steps enough for a CHAIN to go on to its end. -/
def Inst.chainFuel (i : Inst) : Nat := i.portIn.length + i.stages.length + 4

/-- A CHAIN whose collective stage has closed goes on, or ends with its event. -/
def State.nextStage (s : State) (i : Inst) : State :=
  if stops i.event then s.endEarly i i.event
  else
    let j := s.stageDone i
    s.chainGo j j.chainFuel

/-- Every CHAIN with a closed stage goes on. -/
def State.advance (s : State) : State :=
  s.over s.insts fun s x =>
    match s.inst? x.queue x.index with
    | some i => if i.wait = .stage then s.nextStage i else s
    | none => s

/-- What follows from a change in the exchanges or in what is visible: a member that waited for it sends DONE (R170), a CHAIN whose
stage has closed goes on, and points are settled. -/
def State.follow (s : State) : State := s.pumpAll.advance.settle

/-! ## The Apron engines (R97, R98) -/

/-- Output tiles that an instruction has left on a die's engine. -/
def Inst.tilesOn (i : Inst) (die : Nat) : Nat := if i.wait = .apron then ((i.apronTiles.find? (·.1 == die)).map (·.2)).getD 0 else 0

/-- The instruction whose tile an engine takes: of the waiting ones of highest priority, the oldest that it has not served, else
the one that it served longest ago. -/
def State.apronNext (s : State) (die : Nat) : Option Inst :=
  let l := s.insts.filter fun i => 0 < i.tilesOn die
  let top := l.filter fun i => l.all fun x => decide (i.level ≤ x.level)
  let served := (s.apron die).served
  match top.find? (fun i => !served.contains (i.queue, i.index)) with
  | some i => some i
  | none => served.findSome? fun k => top.find? fun i => (i.queue, i.index) == k

/-- An engine takes its next tile, if there is one; of those that it has served it remembers the ones still waiting. -/
def State.apronTake (s : State) (die : Nat) : State :=
  match s.apronNext die with
  | none => s.setApron die {}
  | some i =>
    let k := (i.queue, i.index)
    let waiting := s.insts.filter fun x => 0 < x.tilesOn die
    let served := (s.apron die).served.filter fun x => x != k && waiting.any fun w => (w.queue, w.index) == x
    s.setApron die ⟨some k, served ++ [k]⟩

/-- Every idle engine takes a tile. -/
def State.apronStart (s : State) : State :=
  s.over (List.range 4) fun s die => if (s.apron die).current.isNone then s.apronTake die else s

/-- An engine finishes its tile (R98): the instruction has one left fewer, and goes on when none is left on any die; the
engine takes its next. -/
def State.apronEnd (s : State) (die : Nat) : State :=
  match (s.apron die).current with
  | none => s
  | some c =>
    let s := match s.inst? c.1 c.2 with
      | none => s
      | some i =>
        if i.tilesOn die = 0 then s
        else
          let tiles := i.apronTiles.map fun (t : Nat × Nat) => if t.1 = die then (t.1, t.2 - 1) else t
          s.setInst { i with apronTiles := tiles, wait := if tiles.all (·.2 == 0) then .none else .apron }
    s.apronTake die

/-- The effect of an instruction in flight begins: at its issue, or when what it reads from its peers has come. -/
def State.launch (s : State) (i : Inst) : State :=
  let m := s.claimTiles { i with wait := .none }
  let s := m.1
  let i := m.2
  if i.stages ≠ [] then s.chainGo i i.chainFuel
  else if isColl i.pkt.opcode then
    (match i.coll, s.collEntry i with
     | some c, some e => s.startColl i (s.collHead i e c.seq)
     | _, _ => s.endEarly i Ev.desc)
  else if isRing i.pkt.opcode then
    (match i.ring, s.ringEntry i with
     | some r, some e => s.startRing i e r.seq
     | _, _ => s.endEarly i Ev.desc)
  else
    let m := opBody s i
    (m.1.place m.2).apronStart

/-! ## May the head of a queue issue (R20, R21, R28, R238, R262) -/

/-- An instruction in flight behind which nothing of its queue issues. -/
def Inst.holdsIssue (i : Inst) : Bool :=
  (match i.wait with
   | .gate _ => true
   | .hurdle _ => true
   | .runWait _ => true
   | .sceneLimit => true
   | .boundary => true
   | .sceneEnd => true
   | .preempt _ => true
   | _ => false) ||
  i.pkt.opcode == 0x01 || i.pkt.opcode == 0x02 || (i.pkt.opcode == 0x00 && bits i.pkt.imm 0 1 == 1 && i.stages.isEmpty)

/-- A share of the instructions in flight is left at a level (R21, R238). -/
def State.shareOk (s : State) (p level : Nat) : Bool :=
  let mine := s.insts.filter (·.part == p)
  let b := s.block p
  let floor (l : Nat) := b.inflightMax * bits (s.word (.parPrio p)).toNat (16 + 4 * l) 4 / 16
  let at' (l : Nat) := (mine.filter (·.level == l)).length
  let unused := (((List.range 4).filter (· != level)).map fun l => floor l - at' l).sum
  decide (s.insts.length < 4096) && (decide (at' level < floor level) || decide (mine.length + unused < b.inflightMax))

/-- What the phase of a job lets its queues issue (R262, R268, R269, R271, R273, R276): on a standby device none, and from a
decision until the replay epoch the prologue queue and those that its scenes list. -/
def State.phaseOk (s : State) (p q : Nat) : Bool :=
  let v := s.partition p
  match v.res with
  | none => true
  | some r =>
    let prologue := r.prologueQueue == q
    if r.standby then false
    else
      match s.fld (F.parRstatusPhase p) with
      | 0 => !prologue
      | 1 => !prologue && !v.replay.hold
      | 3 => (s.queue q).block.kind != 3 || (prologue && some (s.queue q).head != v.replay.proTo)
      | 4 => !prologue && !v.replay.hold
      | _ => false

/-- The scene rules (R26, R28, R393): a control queue issues outside a scene or while its scene runs, any other queue while
the running scene lists it and its mark has not retired. -/
def State.sceneLets (s : State) (p q : Nat) : Bool :=
  let v := s.queue q
  if v.block.kind = 3 then
    match v.openScene with
    | none => true
    | some id => ((s.scene? p id).map (·.running)).getD true
  else
    match s.runningScene p with
    | none => false
    | some sc => sc.queues.contains q && !sc.marked.contains q

/-- The head of a queue may issue, but for its packet's own conditions. -/
def State.mayIssue (s : State) (p q : Nat) : Bool :=
  let v := s.queue q
  s.running && s.qOn q && !s.qHalted q && v.backlog != 0 && s.fld (F.parStatusState p) == 1 && !v.areaWait &&
    s.sceneLets p q && s.phaseOk p q && !((s.instsOf q).any Inst.holdsIssue)

/-! ## Hazards, areas, peers (R45, R54, R65) -/

/-- Ranges that an instruction writes, and all that it names. -/
def Inst.writes (i : Inst) : List Extent :=
  if i.stages = [] then (i.operands.filter (·.out)).map Operand.range
  else (List.range i.stages.length).flatMap fun k => ((i.stageInst k).operands.filter (·.out)).map Operand.range

def Inst.names (i : Inst) : List Extent :=
  if i.stages = [] then i.operands.map Operand.range
  else (List.range i.stages.length).flatMap fun k => (i.stageInst k).operands.map Operand.range

/-- The entries of a descriptor table that an instruction's packet and its parameter block name (R50, R59). -/
def Inst.tableReads (i : Inst) (table : Nat) : List Extent :=
  (([i.pkt.s0, i.pkt.s1, i.pkt.s2, i.pkt.s3] ++ auxIndices i.pkt.opcode i.params).filter fun k => 0 < k && k < 4096).map fun k =>
    ⟨tStacked, table + 64 * k, 64, 0⟩

/-- The cast-table instructions (R151, R152). -/
def isCast (op : Nat) : Bool := op == 0x90 || op == 0x91 || op == 0x92

/-- A cast-table instruction waits for those of its queue before it, and CAST.LOAD and CAST.READ for every step of DECODE.ATTN in
flight in their partition (R151). -/
def State.castWaits (s : State) (i : Inst) : Bool :=
  isCast i.pkt.opcode && s.insts.any fun x =>
    x.part == i.part && isCast x.pkt.opcode && !s.visible x &&
      (x.queue == i.queue || (i.pkt.opcode != 0x92 && x.pkt.opcode == 0x92))

/-- An earlier instruction of the queue whose effect is still to come meets the ranges of this one, or writes what this one has
read of a descriptor table (R45 rule 1, R60), or one of the cast table's stands before it (R151). -/
def State.hazard (s : State) (i : Inst) (reads : List Extent) : Bool :=
  s.castWaits i || (s.instsOf i.queue).any fun x => !s.visible x &&
    (((i.names ++ reads).any fun a => x.writes.any a.meets) || (i.writes.any fun a => x.names.any a.meets))

/-- The place of a working area of w bytes below those already placed (R65): none when it must wait. -/
def State.placeArea (s : State) (i : Inst) (window w top : Nat) : Option (Nat × Nat) :=
  let lows := (s.insts.filter fun x => x.part == i.part && x.scene == i.scene).flatMap fun x => (x.area.map (·.1)).toList
  let low := lows.foldl min window
  if top + w ≤ low then some (low - w, w) else none

/-- What an instruction reads of its peers' memory (R54): its inputs there, and outputs that it updates in place. -/
def Inst.peerInputs (i : Inst) : List Desc :=
  let acc := (i.pkt.opcode == 0x10 || i.pkt.opcode == 0x12) && bits i.pkt.imm 0 1 == 1
  let both (d : Desc) := (acc && some d == i.d 0) || (isOpt i.pkt.opcode && (some d == i.d 0 || some d == i.d 2))
  (i.operands.filter fun x => x.d.tier == tPeer && x.d.kind == kTensor && (!x.out || both x.d)).map (·.d)

/-- Requests for a peer operand's bytes, 16,368 at a time. -/
def State.askPeer (s : State) (p : Nat) (d : Desc) : State × List PeerRead :=
  (List.range (ceilDiv d.extent 16368)).foldl (fun acc k =>
    let m := acc.1.sendRead p d.rank (d.base + 16368 * k) (min 16368 (d.extent - 16368 * k))
    (m.1, acc.2 ++ [m.2])) (s, [])

/-! ## Sequence numbers of collectives (R158, R69) -/

/-- A collective takes its company's number, when its entry is known: the instruction with what its headers need. -/
def State.takeNumber (s : State) (i : Inst) : State × Inst :=
  if isColl i.pkt.opcode then
    match s.collEntry i with
    | some e => (s.takeSeq e, { i with coll := some (s.collHead i e e.2.collSeq) })
    | none => (s, i)
  else if isRing i.pkt.opcode then
    match s.ringEntry i with
    | some e => (s.takeSeq e, { i with ring := some (s.ringHead i e e.2.collSeq) })
    | none => (s, i)
  else (s, i)

/-- What a collective sends when it ends at issue, with an event or a zero shape (R68, R69, R129, R165, R166). -/
def State.endAtIssue (s : State) (i : Inst) (event : Nat) : State :=
  if isColl i.pkt.opcode then
    match s.collEntry i with
    | some e => (s.takeSeq e).collAtIssue i (s.collHead i e e.2.collSeq) event
    | none => s
  else if isRing i.pkt.opcode then
    match s.ringEntry i with
    | some e => (s.takeSeq e).ringAtIssue i e e.2.collSeq event
    | none => s
  else s

/-! ## Issue -/

/-- The instruction as it stands before its checks. -/
def State.newInst (s : State) (p q idx : Nat) (k : Pkt) (sc : Option Scene) (late : Bool) : Inst :=
  { queue := q, index := idx, part := p, pkt := k, level := (sc.map (·.prio)).getD 0, scene := sc.map (·.id)
    issueCue := s.time.cue, issueCycles := s.refCycles p, late := late }

/-- The queue's head moves past what has issued, and the scene notes its first issue and what was late (R44, R47). -/
def State.noteIssue (s : State) (i : Inst) (n : Nat) : State :=
  let v := s.queue i.queue
  let s := s.setQueue i.queue { v with head := (v.head + n) % 2 ^ 32 }
  match i.scene.bind (s.scene? i.part) with
  | none => s
  | some sc => s.setScene i.part { sc with
      issued := true, beginCue := if sc.issued then sc.beginCue else s.time.cue, lateCount := sc.lateCount + b2n i.late }

/-- An instruction goes in flight. -/
def State.enter (s : State) (i : Inst) : State := s.setInsts (s.insts ++ [i])

/-- The stages that a CHAIN packet names, when its count is legal. A CHAIN whose count is not is one packet without stages
(DESIGN CHOICE, log entry 28). -/
def Pkt.stageCount (k : Pkt) : Nat := if k.opcode = 0x04 ∧ 2 ≤ k.imm ∧ k.imm ≤ 8 then k.imm else 0

/-- A packet retires at issue, with an event or as a zero shape: COUNT 0, nothing written (R66, R68). How many packets a CHAIN of
an illegal stage count takes is the model's choice: the CHAIN alone (DESIGN CHOICE, log entry 28). -/
def State.retireAtIssue (s : State) (i : Inst) (js : List Inst) (event : Nat) : State :=
  let s := s.over js fun s j => s.endAtIssue j event
  let i := { i with event := event, count := 0, immediate := true
                    stages := if i.pkt.stageCount = 0 then [] else js.map fun j => { pkt := j.pkt, descs := j.descs } }
  ((s.noteIssue i i.span).enter i).place i

/-- The slots' descriptors of several packets, fetched in turn (R60); whether a read met poison. -/
def State.fetchAll (s : State) (table : Nat) : List Inst → State × List Inst × Bool
  | [] => (s, [], false)
  | i :: t =>
    let f := s.fetchDescs i.queue table [i.pkt.s0, i.pkt.s1, i.pkt.s2, i.pkt.s3]
    let r := f.1.fetchAll table t
    (r.1, { i with descs := f.2.1 } :: r.2.1, f.2.2 || r.2.2)

/-- The parameter blocks of several packets, read in turn. -/
def State.loadAll (s : State) (table : Nat) : List Inst → State × List Judged
  | [] => (s, [])
  | i :: t =>
    let f := s.loadParams i table
    let r := f.1.loadAll table t
    (r.1, f.2 :: r.2)

/-- First and last stages marked. -/
def markEnds (chain : Bool) (js : List Judged) : List Judged :=
  (js.zip (List.range js.length)).map fun x =>
    { x.1 with chain := chain, first := chain && x.2 == 0, last := chain && x.2 + 1 == js.length }

/-- A CHAIN that passed its checks, as it goes in flight. -/
def State.chainInst (s : State) (i : Inst) (js : List Inst) : Inst :=
  let n := js.length
  let stages := (js.zip (List.range n)).map fun x =>
    { pkt := x.1.pkt, descs := stageViews i.queue x.2 n x.1.descs, auxDescs := x.1.auxDescs, params := x.1.params, coll := x.1.coll : Stage }
  let ins := match js.head? with
    | none => []
    | some j => ((j.descs.zip (List.range 4)).drop 1).flatMap fun x =>
        x.1.toList.flatMap fun d => if d.kind = kPort then [({ slot := x.2, port := s.portNo d, need := d.rows * d.row } : PortUse)] else []
  let out := match js.getLast? with
    | none => none
    | some j => (j.d 0).bind fun d => if d.kind = kPort then some (s.portNo d) else none
  let i := { i with stages := stages, chainIrq := i.pkt.irq, portIn := ins, portTo := out }
  { i with outs := i.chainOuts }

/-- Peer operands of the stages, but for those that a stage before them hands on. -/
def chainPeers (js : List Inst) : List Desc :=
  (js.zip (List.range js.length)).flatMap fun x =>
    if x.2 = 0 then x.1.peerInputs else { x.1 with descs := x.1.descs.set 1 none }.peerInputs

/-- An instruction that passed its checks issues, unless the place for its area makes it wait. s0 is the state before the
fetch. -/
def State.issuePass (s s0 : State) (i : Inst) (js : List Inst) (window : Nat) : State :=
  let q := i.queue
  let w := (js.map fun j => j.pkt.area).sum
  let top := localTop (js.flatMap Inst.operands)
  match (if w = 0 then some none else (s.placeArea i window w top).map some) with
  | none => s0.setQueue q { s0.queue q with areaWait := true }
  | some area =>
    let m := js.foldl (fun acc j =>
      let r := acc.1.takeNumber j
      (r.1, acc.2 ++ [r.2])) (s, [])
    let s := m.1
    let i := if i.pkt.opcode = 0x04 then s.chainInst i m.2 else
      (let j := m.2.headD i
       { j with outs := j.realOuts })
    let i := { i with area := area }
    let s := (s.noteIssue i i.span).enter i
    let a := (chainPeers js).foldl (fun acc d =>
      let r := acc.1.askPeer i.part d
      (r.1, acc.2 ++ r.2)) (s, [])
    if a.2 = [] then a.1.launch i else a.1.setInst { i with wait := .peer, reads := a.2 }

/-- The target cue of a qualifier is met (R44). -/
def State.cueMet (s : State) (base : Nat) (k : Pkt) : Bool :=
  !(k.cueq == 1 || k.cueq == 2) || decide (base + k.cueOffset ≤ s.time.cue)

/-- An AT_CUE whose target cue has passed (R44). -/
def State.cueLate (s : State) (base : Nat) (k : Pkt) : Bool := k.cueq == 2 && decide (base + k.cueOffset < s.time.cue)

/-- The slots of a CHAIN packet itself, where only their presence counts (R36). -/
def Pkt.slotMarks (k : Pkt) : List (Option Desc) := [k.s0, k.s1, k.s2, k.s3].map fun n => if n = 0 then none else some {}

/-- The head of a queue issues, when it may and it is the instruction that is meant; a packet whose opcode is assigned to
nothing is any instruction's (R19, R20, R36, R44, R60, R66). -/
def State.issue (s : State) (q op : Nat) : State :=
  match s.partOf q with
  | none => s
  | some p =>
    let v := s.queue q
    if s.mayIssue p q = false then s
    else
      let ev := s.fetchEvent p q v.head
      if ev ≠ 0 then (s.retireAtIssue (s.newInst p q v.head {} (s.sceneOf p q) false) [] ev).settle
      else
        let k := s.packetAt p q v.head
        let sc := if k.opcode = 0x01 then none else s.sceneOf p q
        let n := k.stageCount
        let base := s.baseCueOf p q sc
        let idx (j : Nat) := (v.head + j) % 2 ^ 32
        let ks := (List.range n).map fun j => s.packetAt p q (idx (j + 1))
        if (k.opcode ≠ op ∧ (opInfo k.opcode).isSome) ∨ v.backlog < n + 1 then s
        else if s.shareOk p ((sc.map (·.prio)).getD 0) = false ∨ ((k :: ks).all (s.cueMet base)) = false then s
        else
          let late := (k :: ks).any (s.cueLate base)
          let i := s.newInst p q v.head k sc late
          let packets := if n = 0 then [i] else (ks.zip (List.range n)).map fun x => s.newInst p q (idx (x.2 + 1)) x.1 sc late
          let bad := firstEvent ((List.range n).map fun j => s.fetchEvent p q (idx (j + 1)))
          if bad ≠ 0 then (s.retireAtIssue i packets bad).settle
          else
            let table := s.dtabOf p sc k.opcode
            let f := s.fetchAll table packets
            let m := f.1.loadAll table f.2.1
            let js := markEnds (n != 0) m.2
            let whole := if k.opcode = 0x04 then m.1.chainInst i (js.map (·.i)) else (js.map (·.i)).headD i
            let done :=
              if m.1.hazard whole (js.flatMap fun j => j.i.tableReads table) then s
              else if f.2.2 || js.any (·.poison) then m.1.retireAtIssue i (js.map (·.i)) Ev.eccUncorr
              else
                match m.1.verdict v.block.kind (m.1.windowOf i) (if n = 0 then none else some { i with descs := k.slotMarks }) js with
                | .fails e => m.1.retireAtIssue i (js.map (·.i)) e
                | .zero => m.1.retireAtIssue i (js.map (·.i)) 0
                | .passes => m.1.issuePass s i (js.map (·.i)) (m.1.windowOf i)
            done.settle

end Sys2Proof.Machine
end

