-- ==== Sys2Proof/Machine/Upkeep.lean ====
section
/-!
DEFINITION. Stacked memory and the shared cache in service: enables, Rehearsal runs, scrubbing, repairs, ways, channel
map-out (R192, R193, R197 to R199, R213 to R215, R353, R358, R392).
Readings of the rules that they leave open: log entry 40 (DEDUCED or DESIGN CHOICE, as the log marks each).
-/

namespace Sys2Proof.Machine

/-! ## Contents left undefined (R213, R392) -/

/-- A device address may lie on a channel: it is placed there as shipped (R194), or its logical channel has been mapped out, whose
granules the remap holds in places that no rule gives (R197). -/
def State.maybeOn (s : State) (c a : Nat) : Bool := a / 256 % 384 == c || s.spare.mappedOut.contains (a / 256 % 384)

/-! ## Map-out (R197, R199) -/

/-- Channels that may be mapped out: at most 8. -/
def State.maxMapped (s : State) : Nat := min 8 (s.fld F.hbcLimitsMaxMapped)

/-- A channel is mapped out. -/
def State.markMapped (s : State) (c : Nat) : State :=
  let s := s.setSpare { s.spare with mappedOut := s.spare.mappedOut ++ [c] }
  (s.setFld F.hbcMappedCount s.spare.mappedOut.length).setFld (F.hbcChstatState c) 2

/-- A channel is mapped out, and the ledger records it. -/
def State.mapOut (s : State) (c : Nat) : State := (s.markMapped c).spared (.channel c)

/-- E_CHAN_MAPPED on the global vector and on every partition's vectors (R197). -/
def State.raiseMapped (s : State) (c : Nat) : State :=
  s.over ((List.range 16).filter s.live) (fun s p => s.over (List.range (s.block p).vecCount) fun s v => s.raiseVector p v)
    |>.raiseGlobal Ev.chanMapped c

/-- An instruction in flight whose access to the band is still to come (R198). -/
def State.inBand (s : State) (i : Inst) : Bool :=
  !s.visible i && i.names.any fun e => e.tier == tStacked && decide (s.capacity < e.base + e.len ∧ 0 < e.len)

/-- A channel starts to drain: capacity drops, and accesses in flight to the band end. -/
def State.startDrain (s : State) (c : Nat) (waiting : List Nat) : State :=
  let s := s.setSpare { s.spare with drain := some ⟨c, waiting⟩ }
  let s := ((s.setFld (F.hbcChstatState c) 1).setFld F.hbcMappedDrainCh c).setFld F.hbcMappedDraining 1
  let s := s.raiseMapped c
  s.over (s.insts.filter s.inBand) fun s x =>
    match s.inst? x.queue x.index with
    | some i => s.endEarly i Ev.chanMapped
    | none => s

/-- A channel in service is found beyond repair: it drains, waits for the one that drains, or is one too many and makes the
device fail (R199, R258). -/
def State.beyondRepair (s : State) (c : Nat) : State :=
  if s.fld (F.hbcChstatState c) ≠ 0 ∨ s.flag F.hbcCtrlEn = false then s
  else
    match s.spare.drain with
    | some d =>
      if d.waiting.contains c then s
      else if s.maxMapped ≤ s.spare.mappedOut.length + 1 + d.waiting.length then s.withdraw
      else s.setSpare { s.spare with drain := some { d with waiting := d.waiting ++ [c] } }
    | none => if s.maxMapped ≤ s.spare.mappedOut.length then s.withdraw else s.startDrain c []

/-- Granules that hold a sector with an uncorrectable error cannot be read without error: they stand at their new places poisoned
(R198). Which granules of a channel that is mapped out stand on this one is free. -/
def State.drainPoison (s : State) (c : Nat) : State :=
  let on := fun x => x / 4 % 384 == c || (s.spare.mappedOut.contains (x / 4 % 384) && Config.freeBool (s.free + x))
  (s.setFree (s.free + 2 ^ 40)).over (s.mem.stackPoison.filter fun x => on x && decide (64 * x < s.capacity)) fun s x =>
    s.over (List.range 4) fun s k => s.addPoison tStacked (x / 4 * 4 + k)

/-- The draining channel is mapped out, its unreadable granules poisoned; the next one that waits starts to drain. -/
def State.drainDone (s : State) : State :=
  match s.spare.drain with
  | none => s
  | some d =>
    let s := s.drainPoison d.chan
    let s := (s.setSpare { s.spare with drain := none }).setFld F.hbcMappedDraining 0
    let s := s.mapOut d.chan
    match d.waiting with
    | [] => s
    | c :: t => s.startDrain c t

/-- CHANNEL_DRAIN_START. -/
def execChannelDrainStart (chan : ChanNo) (s : State) : Result := .next (s.beyondRepair chan.val).settle
/-- CHANNEL_DRAIN_DONE. -/
def execChannelDrainDone (s : State) : Result := .next s.drainDone.settle

/-! ## Enables (R190, R215, R353, R392) -/

/-- HBC.CTRL.EN written 1. -/
def State.hbcOn (s : State) : State := s.setFld F.hbcCtrlEn 1

/-- HBC.CTRL.EN written 0. -/
def State.hbcOff (s : State) : State := s.setFld F.hbcCtrlEn 0

/-- CAC.CTRL.EN goes from 0 to 1: the directly addressed region is undefined, each line with a valid code. -/
def State.cacOn (s : State) : State :=
  if s.flag F.cacCtrlEn then s
  else
    let s := s.undefineCells tCache fun _ => true
    (s.setMem { s.mem with cachePoison := [], lines := [] }).setFld F.cacCtrlEn 1

/-- HBC_ENABLE. -/
def execHbcEnable (s : State) : Result := .next (s.byHost State.hbcOn)
/-- HBC_DISABLE. -/
def execHbcDisable (s : State) : Result := .next (s.byHost State.hbcOff)
/-- CAC_ENABLE. -/
def execCacEnable (s : State) : Result := .next (s.byHost State.cacOn)

/-! ## Rehearsal (R213, R215, R358) -/

/-- HBC.REH_CTRL.GO: ignored with E_WIGN while EN is 1 or the bring-up sequencer runs; a run in progress, or a reserved
mode, takes no other. The contents of its channels are destroyed. -/
def State.rehearse (s : State) : State :=
  if s.flag F.hbcCtrlEn ∨ s.fld F.hubBootPhase = 3 then s.wignOther none Reg.hbcRehCtrl.addr
  else if s.flag F.hbcRehStatusBusy ∨ s.fld F.hbcRehCtrlMode = 3 then s
  else
    let c := s.fld F.hbcRehCtrlChannel
    let all := s.flag F.hbcRehCtrlAll
    let hit (a : Nat) := all || s.maybeOn c a
    let s := s.undefineCells tStacked hit
    let s := s.when (s.fld F.hbcRehCtrlMode ≠ 2) fun s =>
      s.setMem { s.mem with stackPoison := s.mem.stackPoison.filter fun k => !(all || k * 64 / 256 % 384 == c) }
    s.setFld F.hbcRehStatusBusy 1

/-- GO written with a mode. -/
def State.rehearseMode (s : State) (mode : Nat) : State :=
  if s.flag F.hbcCtrlEn then s.rehearse else (s.setFld F.hbcRehCtrlMode mode).rehearse

/-- A channel that a run cannot repair is recorded MAPPED_OUT, unless it is one too many (R199). -/
def State.mapUnused (s : State) (c : Nat) : State :=
  if s.spare.mappedOut.contains c then s
  else if s.maxMapped ≤ s.spare.mappedOut.length then s.withdraw
  else (s.mapOut c).raiseGlobal Ev.chanMapped c

/-- One more lane repaired on a channel. -/
def State.laneRepaired (s : State) (c : Nat) : State := s.countFld (F.hbcChstatLanes c) 1

/-- A post-package repair of a channel counts. -/
def State.rowRepaired (s : State) (c : Nat) : State := s.setFld (F.hbcChstatPprLeft c) (s.fld (F.hbcChstatPprLeft c) - 1)

/-- The stack of a channel (R7). -/
def stackOf (c : Nat) : Nat := c / 32

/-- A run ends with its outcome, and the stack's test report is repair work (R336). -/
def State.rehearsalEnds (s : State) (o : RehOutcome) : State :=
  if s.flag F.hbcRehStatusBusy then
    let repair := s.flag F.hbcRehCtrlRepair
    let lanes := if repair then o.repairedLanes else []
    let rows := if repair then o.repairedRows else []
    let outs := if repair then o.unrepairable else []
    let s := s.setFld F.hbcRehStatusBusy 0
    let s := s.setFld F.hbcRehStatusPass (b2n (o.failSectors == 0 || (repair && outs.isEmpty)))
    let s := s.setFld F.hbcRehStatusRepaired (b2n (!lanes.isEmpty || !rows.isEmpty))
    let s := s.setFld F.hbcRehStatusUnrepairable (b2n !outs.isEmpty)
    let s := s.setFld F.hbcRehStatusFailCount (sat 65535 o.failSectors)
    let s := if s.fld F.hbcRehCtrlMode = 2 then s.setFld F.hbcRehStatusTrafficGbs (sat 4095 o.traffic) else s
    let s := if o.failSectors = 0 then s
      else (((s.setFld F.hbcRehFailChannel o.firstChan.val).setFld F.hbcRehFailPseudo (b2n o.firstPseudo)).setFld F.hbcRehFailBank
        o.firstBank.toNat).setFld F.hbcRehFailRow o.firstRow.toNat
    let s := s.over (lanes.map (·.val)) State.laneRepaired
    let s := s.over (rows.map (·.val)) State.rowRepaired
    let s := s.over ((lanes ++ rows).map (·.val)).eraseDups fun s c => s.spared (.channel c)
    let s := s.over (outs.map (·.val)) State.mapUnused
    let c := s.fld F.hbcRehCtrlChannel
    s.over (if s.flag F.hbcRehCtrlAll then List.range 12 else [stackOf c]) fun s k => s.queueRepair (.stack k)
  else s

/-- PATTERN. -/
def execPattern (s : State) : Result := .next (s.byHost (·.rehearseMode 0))
/-- MARCH. -/
def execMarch (s : State) : Result := .next (s.byHost (·.rehearseMode 1))
/-- TRAFFIC. -/
def execTraffic (s : State) : Result := .next (s.byHost (·.rehearseMode 2))
/-- REHEARSAL_DONE. -/
def execRehearsalDone (outcome : RehOutcome) (s : State) : Result := .next (s.rehearsalEnds outcome)

/-! ## Scrubbing (R192, R195, R214) -/

/-- A corrected error of a channel counts, and makes the channel beyond repair when the hour's count reaches CORR_RATE (R197,
R214). -/
def State.corrected (s : State) (c : Nat) : State :=
  let s := s.countFld (F.hbcChstatCorr c) 1
  if s.fld F.hbcLimitsCorrRate ≤ s.fld (F.hbcChstatCorr c) then s.beyondRepair c else s

/-- The scrub reads a sector: a corrected error counts, an uncorrectable one poisons the sector. Its bank and row, whose
place no rule gives, are free. -/
def State.scrub (s : State) (c a : Nat) (o : ScrubOutcome) : State :=
  if s.flag F.hbcCtrlEn = false ∨ s.flag F.hbcCtrlScrubEn = false ∨ s.capacity ≤ a then s
  else
    match o with
    | .clean => s
    | .corrected => s.corrected c
    | .uncorrectable =>
      let d := s.drawNat
      let s := d.2.addPoison tStacked (a / 64)
      let s := (s.setFld F.hbcRehFailChannel c).setFld F.hbcRehFailPseudo (d.1 % 2)
      let s := (s.setFld F.hbcRehFailBank (d.1 / 2 % 64)).setFld F.hbcRehFailRow (d.1 / 128 % 65536)
      s.raiseGlobal Ev.scrubUncorr c

/-- SCRUB_SECTOR. -/
def execScrubSector (chan : ChanNo) (addr : Nat) (outcome : ScrubOutcome) (s : State) : Result :=
  .next (s.scrub chan.val addr outcome).settle

/-- An uncorrectable error in the cache: the affected 8 bytes of a directly addressed or dirty line are poisoned, a clean line is
fetched again (R192). -/
def State.poisonLine (s : State) (way a : Nat) : State :=
  if way < s.directWays then
    if a < s.directBytes then (s.addPoison tCache (a / 8)).setFld F.cacStatusPoisonSeen 1 else s
  else if s.mem.lines.any fun l => l.line == a / 64 && l.dirty then
    (s.setMem { s.mem with linePoison := a / 8 :: s.mem.linePoison.filter (· != a / 8) }).setFld F.cacStatusPoisonSeen 1
  else s

/-- The scrub of a slice reads a line: a corrected error counts for its way. -/
def State.scrubLine (s : State) (slice way a : Nat) (o : ScrubOutcome) : State :=
  if s.flag F.cacCtrlEn = false ∨ s.flag F.cacCtrlScrubEn = false then s
  else
    match o with
    | .clean => s
    | .corrected =>
      let k := slice * 18 + way
      s.setMem { s.mem with wayCorr := tblSet 0 s.mem.wayCorr k (tblGet 0 s.mem.wayCorr k + 1) }
    | .uncorrectable => s.poisonLine way a

/-- CACHE_SCRUB. -/
def execCacheScrub (slice : DieNo) (way : Fin 18) (addr : Nat) (outcome : ScrubOutcome) (s : State) : Result :=
  .next (s.scrubLine slice.val way.val addr outcome)

/-- CORR_HOUR_ROLLOVER: the counts of corrected errors of the hour begin again. -/
def execCorrHourRollover (s : State) : Result :=
  .next ((s.setMem { s.mem with wayCorr := [] }).over (List.range 384) fun s c => s.setFld (F.hbcChstatCorr c) 0)

/-! ## Ways and lanes (R192, R193, R253) -/

/-- Lines of a slice that its way held: at most one of each set; which, no rule tells, and it is free. -/
def wayLines (free slice : Nat) (ls : List CacheLine) : List CacheLine :=
  ls.foldl (fun out l =>
    if sliceOf l.line = slice ∧ Config.freeBool (free + l.line) = true ∧ (out.all fun x => !sameSet x.line l.line) = true then out ++ [l]
    else out) []

/-- A way whose corrected errors reached the limit goes to an understudy of its slice, or is mapped out. Its clean lines are
dropped, its dirty lines written back; those of a directly addressed way are copied (R192). -/
def State.replaceWay (s : State) (slice way : Nat) : State :=
  let k := slice * 18 + way
  if s.mem.waysOut.contains k ∨ tblGet 0 s.mem.wayCorr k < s.fld F.cacLimitsWayCorr then s
  else
    let left : Fld := ⟨.cacStatus, 2 * slice, 2⟩
    let n := s.fld left
    let s := if n = 0 then s.countFld F.cacStatusMappedWays 1 else s.setFld left (n - 1)
    let gone := if way < s.directWays then [] else wayLines s.free slice s.mem.lines
    let s := s.setFree (s.free + 2 ^ 40)
    let s := s.setMem { s.mem with
      waysOut := s.mem.waysOut ++ [k], wayCorr := tblSet 0 s.mem.wayCorr k 0, lines := s.mem.lines.filter fun l => !gone.contains l }
    s.spared (.slice slice)

/-- CACHE_WAY_REPLACE. -/
def execCacheWayReplace (slice : DieNo) (way : Fin 18) (s : State) : Result := .next (s.replaceWay slice.val way.val)

/-- A stack reports a lane or a row repaired in operation. -/
def State.stackRepair (s : State) (c : Nat) (k : HbmRepair) : State :=
  if s.fld (F.hbcChstatState c) ≠ 0 then s
  else
    let s := match k with
      | .lane => s.laneRepaired c
      | .row => s.rowRepaired c
    s.spared (.channel c)

/-- HBM_LANE_REPAIR. -/
def execHbmLaneRepair (chan : ChanNo) (kind : HbmRepair) (s : State) : Result := .next (s.stackRepair chan.val kind)

end Sys2Proof.Machine
end

