-- ==== Sys2Proof/Machine/Boot.lean ====
section
/-!
DEFINITION. Start-up and reset (R302, R345, R347 to R356): cold start, power-on reset, fundamental and test reset, ledger
recovery, the rail sequence, bring-up.
Readings of the rules that they leave open: log entries 37 and 46 (DEDUCED or DESIGN CHOICE, as the log marks each).
-/

namespace Sys2Proof.Machine

/-! ## Phases (R351) -/

def State.phase (s : State) : Nat := s.fld F.hubBootPhase
def State.setPhase (s : State) (v : Nat) : State := s.setFld F.hubBootPhase v

/-- The Shepherd's self-tests pass. -/
def State.selfTested (s : State) : State := if s.phase = 0 then s.setPhase 1 else s

/-! ## Ledger recovery (R302) -/

/-- A slot whose commit word matches its SEQ and whose CRC fails: against its contents, its complement, or the commit word's copy. -/
def LedgerSlot.corrupt (r : LedgerSlot) : Bool :=
  r.commitLo == BitVec.ofNat 32 r.seq && !(r.commitHi == r.crcLo && r.crcLo == r.crc && r.crcHi == ~~~r.crcLo)

/-- The committed slot with the highest SEQ, with its number. -/
def bestSlot (l : List (Nat × LedgerSlot)) : Option (Nat × LedgerSlot) :=
  (l.filter (·.2.committed)).foldl (fun b x =>
    match b with
    | none => some x
    | some y => if y.2.seq < x.2.seq then some x else b) none

/-- E_TORN for a slot that is newer than the current record and not committed. -/
def State.tornSlot (s : State) (cur : Nat) (x : Nat × LedgerSlot) : State :=
  if cur < x.2.seq ∧ x.2.committed = false then
    let s := ((s.setFld F.ldgTornSlot x.1).setFld F.ldgTornSeq (x.2.seq % 2 ^ 27)).setFld F.ldgStatusTornSeen 1
    s.shepEvent 0x8001 x.1
  else s

/-- E_LDG_CRC for a corrupt slot. -/
def State.corruptSlot (s : State) (x : Nat × LedgerSlot) : State :=
  if x.2.corrupt then (s.setFld F.ldgStatusCrcSeen 1).shepEvent 0x8002 x.1 else s

/-- The limits of the SHO registers as the image keeps them. -/
def State.applyLimits (s : State) : State :=
  s.over s.ledg.shadow.limits fun s x =>
    match regAt x.1 with
    | some r => s.setWord r x.2
    | none => s

/-- A Curtain record as the current one: E_CURTAIN, with its cause. -/
def State.reportCurtain (s : State) (r : LedgerSlot) : State :=
  if r.kind = 3 then (s.setCause r.image.curtain.cause r.image.curtain.unit).shepEvent 0x7008 else s

/-- All 32 slots read: the current record's image is loaded and Curtain saves are enabled; with no committed slot the Shepherd
stays where it is. -/
def State.recover (s : State) : State :=
  if s.phase ≠ 1 ∨ s.shep.savesEnabled = true then s
  else
    match bestSlot s.ledg.slots with
    | none => s.setFld F.shpCauseEvent 0x8001
    | some (k, r) =>
      let s := (s.setPair .ldgSeqLo .ldgSeqHi r.seq).setFld F.ldgStatusCurrent k
      let s := (s.setLedg { s.ledg with shadow := r.image }).applyLimits
      let s := s.setShep { s.shep with savesEnabled := true }
      let s := s.over s.ledg.slots fun s x => s.tornSlot r.seq x
      let s := s.over s.ledg.slots State.corruptSlot
      s.reportCurtain r

/-! ## Rails (R348, R352) -/

/-- One SEQ output driven low. -/
def Pins.driveSeq (v : Pins) (k : Nat) : Pins :=
  match k with
  | 0 => { v with seq0 := true }
  | 1 => { v with seq1 := true }
  | 2 => { v with seq2 := true }
  | _ => { v with seq3 := true }

/-- A rail group enabled; its range is waited for. -/
def State.enableGroup (s : State) (k : Nat) : State :=
  s.setShep { s.shep with pins := s.shep.pins.driveSeq k, rails := { s.shep.rails with waiting := true } }

/-- HEALTHY_N and SEQ0_N driven low. -/
def State.powerRails (s : State) : State :=
  let s := s.setShep { s.shep with pins := { s.shep.pins with healthy := true }, rails := { s.shep.rails with inRange := 0 } }
  (s.setFld F.shpStatusHealthy 1).enableGroup 0

/-- VHOLD stands at 10.8 V. -/
def State.holdCharged (s : State) : Bool := decide (1080 ≤ s.fld F.shpHoldVhold)

/-- The Shepherd enters RAILS: with a committed slot, and VHOLD charged. -/
def State.railsEntry (s : State) : State :=
  if s.phase = 1 ∧ s.shep.savesEnabled = true ∧ s.holdCharged = true then (s.setPhase 2).powerRails else s

/-- VHOLD short 1 s after LEDGER: RAILS all the same, with E_HOLD_LOW. -/
def State.railsAnyway (s : State) : State :=
  if s.phase = 1 ∧ s.shep.savesEnabled = true ∧ s.holdCharged = false then ((s.setPhase 2).powerRails).shepEvent 0x7007 else s

/-! ## Bring-up (R353) -/

/-- Clusters of a fold lost without an understudy, from the failures in their order. -/
def lostOf (failed : List Nat) (f : Nat) : List Nat :=
  let mine := failed.filter (· / 66 == f)
  mine.drop (mine.length - (64 - (foldClusters failed f).length))

/-- Spare rows used per cluster, from the row-replacement area. -/
def rowsUsedOf (l : List RowRepl) : List (Nat × Nat) := l.foldl (fun t r => tblSet 0 t r.cluster (tblGet 0 t r.cluster + 1)) []

/-- The recovered sparing state applied: replaced rows, understudy clusters, ways, lane maps, mapped-out channels. -/
def State.applySparing (s : State) : State :=
  let m := s.ledg.shadow
  let s := s.setSpare { s.spare with
    rowsUsed := rowsUsedOf m.rowRepl, failed := m.failed, lost := (List.range 32).flatMap (lostOf m.failed), mappedOut := m.mapped }
  let s := s.over m.folds fun s x => s.setWord (.fldStatus x.1) x.2
  let s := (s.setFld F.cacStatusUnderstudies (bits m.wayStatus.toNat 0 8)).setFld F.cacStatusMappedWays (bits m.wayStatus.toNat 8 8)
  let s := s.setMem { s.mem with waysOut := m.waysOut }
  let s := s.over m.laneMap fun s x => (s.setFld (F.oxlPortStatUnderstudy x.1) 1).setFld (F.oxlPortStatSparedLane x.1) x.2
  s.over m.mapped (fun s c => s.setFld (F.hbcChstatState c) 2) |>.setFld F.hbcMappedCount m.mapped.length

/-- A group comes into range; after group 3 the bring-up sequencer starts, and the Prompter boots. -/
def State.groupInRange (s : State) : State :=
  let r := s.shep.rails
  if s.phase = 2 ∧ r.waiting = true then
    let s := s.setShep { s.shep with rails := { r with inRange := r.inRange + 1, waiting := false } }
    if r.inRange = 3 then ((s.setProm { s.prom with cores := .booting }).setPhase 3).applySparing else s
  else s

/-- 1 ms after a group is in range. -/
def State.nextGroup (s : State) : State :=
  let r := s.shep.rails
  if s.phase = 2 ∧ r.waiting = false ∧ 0 < r.inRange ∧ r.inRange < 4 then s.enableGroup r.inRange else s

/-- A group not in range in time: everything is released, once to be tried again. -/
def State.groupLate (s : State) : State :=
  let r := s.shep.rails
  if s.phase = 2 ∧ r.waiting = true then
    let s := s.releaseRails
    let s := s.setShep { s.shep with rails := { inRange := 0, waiting := false, tries := r.tries + 1, held := decide (1 ≤ r.tries) } }
    s.shepEvent 0x700A r.inRange
  else s

/-- The one retry. -/
def State.retryRails (s : State) : State :=
  let r := s.shep.rails
  if s.phase = 2 ∧ r.tries = 1 ∧ r.waiting = false ∧ r.inRange = 0 ∧ s.shep.pins.healthy = false then s.powerRails else s

/-- A channel trained and tested: IN_SERVICE unless it is mapped out; the repairs left to it are found, and free. -/
def State.channelTested (s : State) (c : Nat) : State :=
  let d := s.drawNat
  let s := d.2.setFld (F.hbcChstatPprLeft c) (d.1 % 256)
  s.setFld (F.hbcChstatState c) (if s.spare.mappedOut.contains c then 2 else 0)

/-- The bring-up sequencer ends (R353): clusters tested and local stores zeroed, channels tested with their contents
destroyed, a BOOT record; then READY or FAILED. -/
def State.broughtUp (s : State) (o : BringupOutcome) : State :=
  if s.phase ≠ 3 then s
  else
    let s := s.over (o.failedClusters.map (·.val)) fun s c =>
      if s.spare.failed.contains c then s else (s.markFailed c).1.queueRepair (.cluster c)
    let s := s.over ((o.unrepairable.map (·.val)).eraseDups) fun s c =>
      if s.spare.mappedOut.contains c then s else ((s.markMapped c).queueRepair (.channel c)).raiseGlobal Ev.chanMapped c
    let s := s.over (List.range 384) State.channelTested
    let s := s.undefineCells tStacked fun _ => true
    let s := s.setMem { s.mem with loc := [], locPoison := [], stackPoison := [] }
    let m := s.ledg.shadow
    let s := (s.setLedg { s.ledg with shadow := { m with bootCount := m.bootCount + 1 } }).beginRecord 1
    if s.maxMapped < s.spare.mappedOut.length ∨ (List.range 32).any (fun f => (foldClusters s.spare.failed f).isEmpty) then s.setPhase 5
    else (s.setPhase 4).setFld F.shpStatusState 1

/-! ## Resets (R347) -/

/-- The PCI block, MSI-X and every function as a fundamental reset leaves them; the link is down. -/
def State.resetPcie (s : State) : State :=
  let s := (((s.setWord .pciEvtCtrl 0).setWord .pciEvtStat 0).setWord .pciEvtBaseLo 0).setWord .pciEvtBaseHi 0
  s.setHost { s.host with pcieUp := false, msixOff := [], d3hot := [], evtPhase := true, evtEver := false }

/-- PERST_N low: a fundamental reset. -/
def State.fundamental (s : State) : State :=
  let s := (s.resetFn 0).resetPcie
  s.setShep { s.shep with pins := { s.shep.pins with perst := true } }

/-- PERST_N rises: the link trains and serves requests, unless the device has stopped or its rails are off (R354). -/
def State.perstUp (s : State) : State :=
  let s := s.setShep { s.shep with pins := { s.shep.pins with perst := false } }
  if s.running = true ∧ 3 ≤ s.phase then s.setHost { s.host with pcieUp := true } else s

/-- POR_N low: in operation first an immediate safe stop without a cause, then a start from the Shepherd's ROM. -/
def State.powerOnReset (s : State) : State :=
  let s := s.setShep { s.shep with pins := { s.shep.pins with por := true } }
  let s := s.stopNow 0 0
  match s.shep.stop with
  | .saving => s
  | _ => if s.shep.dark then s else s.restart true

/-! ## The commands -/

/-- COLD_START: the Shepherd supply rises. -/
def execColdStart (straps : BitVec 2) (s : State) : Result := .next { s.restart false with straps := straps }
/-- POR_N_ASSERT. -/
def execPorNAssert (s : State) : Result := .next s.powerOnReset
/-- PERST_N_ASSERT. -/
def execPerstNAssert (s : State) : Result := .next s.fundamental
/-- PERST_N_RISE. -/
def execPerstNRise (s : State) : Result := .next s.perstUp
/-- TRST_N_ASSERT: the IEEE 1149.1 test logic alone is reset, and everything else kept. -/
def execTrstNAssert (s : State) : Result := .next s
/-- SHEPHERD_SELF_TEST_DONE. -/
def execShepherdSelfTestDone (s : State) : Result := .next (s.clocked State.selfTested)
/-- LEDGER_RECOVERY_DONE. -/
def execLedgerRecoveryDone (s : State) : Result := .next (s.clocked State.recover)
/-- RAILS_ENTRY. -/
def execRailsEntry (s : State) : Result := .next (s.clocked State.railsEntry)
/-- VHOLD_WAIT_TIMEOUT. -/
def execVholdWaitTimeout (s : State) : Result := .next (s.clocked State.railsAnyway)
/-- RAIL_GROUP_IN_RANGE. -/
def execRailGroupInRange (s : State) : Result := .next (s.clocked State.groupInRange)
/-- RAIL_GROUP_NEXT_ENABLE. -/
def execRailGroupNextEnable (s : State) : Result := .next (s.clocked State.nextGroup)
/-- RAIL_GROUP_TIMEOUT. -/
def execRailGroupTimeout (s : State) : Result := .next (s.clocked State.groupLate)
/-- RAIL_RETRY. -/
def execRailRetry (s : State) : Result := .next (s.clocked State.retryRails)
/-- BRINGUP_DONE. -/
def execBringupDone (outcome : BringupOutcome) (s : State) : Result := .next (s.clocked (·.broughtUp outcome))

end Sys2Proof.Machine
end

