-- ==== Sys2Proof/Machine/Routes.lean ====
section
/-!
DEFINITION. Packets and their ways over the links (R311, R317 to R324): route headers, frames, receive-buffer credits, the
choice of a port, the escape channel, delivery and relaying.
Readings of the rules that they leave open: log entry 42 (DEDUCED or DESIGN CHOICE, as the log marks each).
-/

namespace Sys2Proof.Machine

/-! ## Route headers and frames (R311, R317) -/

/-- The 128 bits of a route header. -/
def routeNat (h : RouteHeader) : Nat :=
  h.dst.toNat + h.src.toNat * 2 ^ 16 + h.pseq.toNat * 2 ^ 32 + h.msgIdx.toNat * 2 ^ 64 + b2n h.msgLast * 2 ^ 86 + h.vc.toNat * 2 ^ 87 +
    b2n h.esc * 2 ^ 90 + b2n h.cls * 2 ^ 91 + h.kind.toNat * 2 ^ 92 + h.frames.toNat * 2 ^ 95 + h.hops.toNat * 2 ^ 101 + h.part.toNat * 2 ^ 109

/-- A route header from its 128 bits. -/
def routeOf (n : Nat) : RouteHeader where
  dst := BitVec.ofNat 16 n
  src := BitVec.ofNat 16 (bits n 16 16)
  pseq := BitVec.ofNat 32 (bits n 32 32)
  msgIdx := BitVec.ofNat 22 (bits n 64 22)
  msgLast := bits n 86 1 == 1
  vc := BitVec.ofNat 3 (bits n 87 3)
  esc := bits n 90 1 == 1
  cls := bits n 91 1 == 1
  kind := BitVec.ofNat 3 (bits n 92 3)
  frames := BitVec.ofNat 6 (bits n 95 6)
  hops := BitVec.ofNat 8 (bits n 101 8)
  part := BitVec.ofNat 4 (bits n 109 4)

/-- Frames of a packet. -/
def frameCount (k : Packet) : Nat := k.route.frames.toNat + 1

/-- The payloads of a packet's frames: its route header opens the first, and unused bytes of the last are 0. -/
def framePayloads (k : Packet) : List Bytes :=
  let all := natLE 16 (routeNat k.route) ++ k.body
  (List.range (frameCount k)).map fun i => let b := slice all (256 * i) 256; b ++ zeros (256 - b.length)

/-- A packet from the payloads of its frames. -/
def packetOf (ps : List Bytes) : Packet := let b := ps.flatten; ⟨routeOf (field b 0 16), b.drop 16⟩

/-- KIND codes of a frame. -/
def fData : Nat := 0
def fIdle : Nat := 1
def fLink : Nat := 2

/-- The header word of a frame: FSEQ, VC, KIND, and the FSEQ of the last frame received in order. -/
def frameHeader (fseq vc kind ack : Nat) : Nat := fseq % 4096 + vc * 2 ^ 12 + kind * 2 ^ 15 + ack % 4096 * 2 ^ 17 + 2 ^ 29

/-- The 260 bytes that a frame's CRC covers. -/
def frameBytes (header : Word32) (payload : Bytes) : Bytes := natLE 4 header.toNat ++ payload

/-- A frame with its CRC. -/
def mkFrame (header : Nat) (payload : Bytes) : Frame :=
  let h := BitVec.ofNat 32 header
  ⟨h, payload, BitVec.ofNat 32 (crc32c (frameBytes h payload))⟩

/-- A frame whose CRC fails. -/
def badCrc (f : Frame) : Bool := f.crc.toNat != crc32c (frameBytes f.header f.payload)

/-! ## Ports -/

/-- The port is ACTIVE (R314). -/
def State.active (s : State) (p : Nat) : Bool := s.fld (F.oxlPortStatState p) == 5

/-- The port carries LINK frames: in IDENTIFY and when ACTIVE. -/
def State.framed (s : State) (p : Nat) : Bool := s.fld (F.oxlPortStatState p) == 4 || s.active p

/-- Frames put into the replay buffer, each with the next FSEQ (R312); the last ends a packet. -/
def State.putFrames (s : State) (p vc kind : Nat) (ends : Option Queued) : List Bytes → State
  | [] => s
  | b :: t =>
    let v := s.port p
    let f := mkFrame (frameHeader v.txNext vc kind (v.rxNext + 4095)) b
    let e : Replayed := { fseq := v.txNext % 4096, frame := f, ends := if t.isEmpty then ends else none }
    (s.setPort p { v with replay := v.replay ++ [e], txNext := (v.txNext + 1) % 4096 }).putFrames p vc kind ends t

/-- Frames that a port's replay buffer holds. -/
def replayFrames : Nat := 2048

/-- What a LINK frame carries goes out (R311): it takes a FSEQ like a DATA frame. The place of the fields in its payload is
not laid out, and its bytes are free. -/
def State.sendLink (s : State) (p : Nat) (o : Out) : State :=
  if (s.port p).replay.length < replayFrames then
    let d := s.drawBytes 256
    (d.2.putFrames p 0 fLink none [d.1]).emit o
  else s.emit o

/-! ## Credits (R244, R323) -/

/-- The level of a virtual channel: the scene's priority on VC2 to VC5; no rule names one for PEER packets, which act at the
lowest. -/
def vcLevel (vc : Nat) : Nat := if 2 ≤ vc ∧ vc ≤ 5 then vc - 2 else 3

/-- The reserve of a partition at an OXL port. -/
def State.linkReserve (s : State) (p : Nat) : Nat :=
  if s.live p then
    let total := (((List.range 16).filter s.live).map fun x => s.fld (F.parSharesLinkW x)).sum
    reservedCredits 104 (s.fld (F.parSharesLinkW p)) total
  else 0

/-- The reserve of a level of it: the field CRED_L of PAR.PRIO. -/
def State.levelReserve (s : State) (p l : Nat) : Nat := s.linkReserve p * bits (s.word (.parPrio p)).toNat (4 * l) 4 / 16

/-- The shares that a packet draws on, in order: share number and size. Own data: its level's reserve, what no level
reserves, the pool, lower levels' reserves. Relayed data: its channel's reserve, the shared rest. VC0 and VC1: its escape
class. -/
def State.sharesFor (s : State) (own : Bool) (k : Packet) : List (Nat × Nat) :=
  let vc := k.route.vc.toNat
  let p := k.route.part.toNat
  let l := vcLevel vc
  let levels := (List.range 4).map (s.levelReserve p)
  if vc = 0 then [(200 + b2n k.route.cls, 128)]
  else if vc = 1 then [(210 + b2n k.route.cls, 256)]
  else if own then
    [(5 * p + l, s.levelReserve p l), (5 * p + 4, s.linkReserve p - levels.sum), (80, 104 - ((List.range 16).map s.linkReserve).sum)] ++
      ((List.range 4).filter (l < ·)).map fun m => (5 * p + m, s.levelReserve p m)
  else [(100 + vc, 16), (110, 8)]

/-- What is held of a share at a port. -/
def Port.held (v : Port) (share : Nat) : Nat := ((v.credits.flatMap (·.takes)).filter (·.1 == share)).map (·.2) |>.sum

/-- Credits that a packet needs: whole frames on VC0 and VC1, 16 frames each on the data channels. -/
def creditNeed (k : Packet) : Nat := if k.route.vc.toNat ≤ 1 then frameCount k else ceilDiv (frameCount k) 16

/-- The free credits of a packet's shares at a port. -/
def State.freeCredits (s : State) (p : Nat) (own : Bool) (k : Packet) : Nat :=
  ((s.sharesFor own k).map fun x => x.2 - (s.port p).held x.1).sum

/-- Credits taken share by share. -/
def takeFrom (v : Port) : List (Nat × Nat) → Nat → List (Nat × Nat)
  | [], _ => []
  | x :: t, n =>
    let m := min n (x.2 - v.held x.1)
    if m = 0 then takeFrom v t n else (x.1, m) :: takeFrom v t (n - m)

/-! ## The choice of a port (R322, R324) -/

/-- Where a packet goes next. -/
inductive Hop where
  | deliver
  | drop
  | to (port : Nat) (packet : Packet)
  deriving DecidableEq, Repr

/-- The ACTIVE port of a mask with the most free credits, the lowest number on a tie. -/
def State.bestPort (s : State) (mask : Nat) (own : Bool) (k : Packet) : Option Nat :=
  ((List.range 16).filter fun p => bits mask p 1 == 1 && s.active p).foldl (fun b p =>
    match b with
    | none => some p
    | some q => if s.freeCredits q own k < s.freeCredits p own k then some p else b) none

/-- The escape way: ESC_PORT, in class 1 from a dateline on. -/
def State.escapeHop (s : State) (n : Nat) (k : Packet) : Hop :=
  if s.flag (F.oxlRteEscValid n) then
    let p := s.fld (F.oxlRteEscPort n)
    .to p { k with route := { k.route with cls := k.route.cls || s.flag (F.oxlPortCfgDateline p) } }
  else .drop

/-- A packet on VC1. -/
def onEscape (k : Packet) : Packet := { k with route := { k.route with vc := 1, esc := true } }

/-- The next hop of a packet, received on a port or its own; a relay takes one from HOPS. -/
def State.hop (s : State) (origin : Option Nat) (k : Packet) : Hop :=
  let n := k.route.dst.toNat
  if n = s.node then .deliver
  else if n ≥ 4096 ∨ (origin.isSome ∧ k.route.hops = 0) then .drop
  else
    let k := if origin.isSome then { k with route := { k.route with hops := k.route.hops - 1 } } else k
    if k.route.vc.toNat ≤ 1 then s.escapeHop n k
    else
      match s.bestPort (s.fld (F.oxlRtPrimary n)) origin.isNone k with
      | some p => .to p k
      | none =>
        match s.bestPort (s.fld (F.oxlRtAlternate n)) origin.isNone k with
        | some p => .to p k
        | none => s.escapeHop n (onEscape k)

/-! ## Sending -/

/-- A packet that came over a port leaves its receive buffer (R323). -/
def State.leaveBuffer (s : State) (x : Queued) : State :=
  match x.origin with
  | none => s
  | some p => if x.freed then s else s.sendLink p (.creditReturn p x.packet.route.vc.toNat (frameCount x.packet))

/-- A packet transmitted: its credits held, its frames in the replay buffer. -/
def State.transmit (s : State) (p : Nat) (x : Queued) (k : Packet) : State :=
  let v := s.port p
  let use : CreditUse := { vc := k.route.vc.toNat, frames := frameCount k, takes := takeFrom v (s.sharesFor x.origin.isNone k) (creditNeed k) }
  let s := (s.setPort p { v with credits := v.credits ++ [use] }).putFrames p k.route.vc.toNat fData (some { x with freed := true }) (framePayloads k)
  (s.emit (.packet p k)).leaveBuffer x

/-- The port can transmit a packet now: ACTIVE, with credits for its whole length and room in the replay buffer. -/
def State.canSend (s : State) (p : Nat) (own : Bool) (k : Packet) : Bool :=
  s.active p && decide (creditNeed k ≤ s.freeCredits p own k) && decide ((s.port p).replay.length + frameCount k ≤ replayFrames)

/-- A packet discarded under R324: counted on the port that it came over, and E_ROUTE. -/
def State.discardPacket (s : State) (x : Queued) : State :=
  let s := s.leaveBuffer x
  let s := match x.origin with
    | some p => s.countFld (F.oxlPortErrHopsDrops p) 1
    | none => s
  s.raiseGlobal Ev.route (x.origin.getD 0)

/-! ## Delivery (R318, R319) -/

/-- The full number of a packet from its 32 bits, when it is not below the lowest not yet accepted. -/
def aheadSeq (lowest n : Nat) : Option Nat :=
  let d := (2 ^ 32 + n - lowest % 2 ^ 32) % 2 ^ 32
  if d < 2 ^ 31 then some (lowest + d) else none

/-- The lowest number not yet accepted, after the numbers accepted ahead of it. -/
def closeGap : Nat → Nat → List Nat → Nat × List Nat
  | 0, n, l => (n, l)
  | fuel + 1, n, l => if l.contains n then closeGap fuel (n + 1) (l.filter (· != n)) else (n, l)

/-- A pair with one more number accepted. -/
def Pair.accept (v : Pair) (n : Nat) : Pair :=
  let r := closeGap (v.ahead.length + 1) v.accepted (n :: v.ahead)
  { v with accepted := r.1, ahead := r.2 }

/-- A packet of a pair accepted by its number; none when it is a duplicate. -/
def State.acceptSeq (s : State) (src pseq : Nat) : Option State :=
  (aheadSeq (s.peerPair src).accepted pseq).bind fun n =>
    if (s.peerPair src).ahead.contains n then none else some (s.setPeerPair src ((s.peerPair src).accept n))

/-- An E2E ACK goes back, naming the lowest number not yet accepted. -/
def State.sendAck (s : State) (src : Nat) (st : PeerStatus) : State := s.emit (.e2eAck src (s.peerPair src).accepted st)

/-- The number of a message's first packet. -/
def messageBase (k : Packet) : Nat := (2 ^ 32 + k.route.pseq.toNat - k.route.msgIdx.toNat) % 2 ^ 32

/-- Packets of one message. -/
def sameMessage (x y : Packet) : Bool := x.route.src == y.route.src && messageBase x == messageBase y

/-- A message whose packets are all there is whole. -/
def State.assemble (s : State) (k : Packet) : State :=
  let all := k :: s.link.assembly
  let mine := all.filter (sameMessage k)
  match mine.find? (·.route.msgLast) with
  | none => s.setLink { s.link with assembly := all }
  | some l =>
    let parts := (List.range (l.route.msgIdx.toNat + 1)).map fun i => mine.find? fun x => x.route.msgIdx.toNat == i
    if parts.all Option.isSome then
      s.setLink { s.link with assembly := s.link.assembly.filter fun x => !sameMessage k x
                              messages := s.link.messages ++ [(k.route.src.toNat, (parts.flatMap Option.toList).flatMap (·.body))] }
    else s.setLink { s.link with assembly := all }

/-- A packet delivered here: a message packet is accepted once by its number and kept until its message is whole; the other
kinds go to the commands that serve them. -/
def State.deliver (s : State) (x : Queued) : State :=
  let s := s.leaveBuffer x
  let k := x.packet
  if k.route.kind = 0 then
    match s.acceptSeq k.route.src.toNat k.route.pseq.toNat with
    | none => s
    | some s => (s.assemble k).sendAck k.route.src.toNat .done
  else s

/-! ## Routing -/

/-- A packet routed: delivered, discarded, transmitted, queued to its port while the replay buffer is full, or left waiting
for credits or for its escape port. -/
def State.route (s : State) (x : Queued) : State :=
  match s.hop x.origin x.packet with
  | .deliver => s.deliver x
  | .drop => s.discardPacket x
  | .to p k =>
    if s.canSend p x.origin.isNone k then s.transmit p x k
    else if s.active p ∧ creditNeed k ≤ s.freeCredits p x.origin.isNone k then
      s.setPort p { s.port p with queue := (s.port p).queue ++ [x] }
    else s.setLink { s.link with waiting := s.link.waiting ++ [x] }

/-- Packets routed in turn. -/
def State.routeAll (s : State) (l : List Queued) : State := s.over l State.route

/-- The partitions in the order of their turns (R243): the one whose turn it is, while it has grants of its weight left, and the
others round after it. -/
def State.turnOrder (s : State) : List Nat :=
  let ps := (List.range 16).map fun k => (s.link.turn + k) % 16
  if s.fld (F.parSharesLinkW s.link.turn) ≤ s.link.grants then ps.drop 1 ++ ps.take 1 else ps

/-- The request that is tried next: the oldest of the first partition in turn that has one. -/
def State.inTurn (s : State) (l : List Queued) : Option Queued :=
  s.turnOrder.findSome? fun p => l.find? fun x => x.packet.route.part.toNat == p

/-- A grant counted: a partition's turn lasts as many grants as its weight. -/
def State.countGrant (s : State) (p : Nat) : State :=
  let more := s.link.turn == p && decide (s.link.grants < s.fld (F.parSharesLinkW p))
  s.setLink { s.link with turn := p, grants := if more then s.link.grants + 1 else 1 }

/-- Own data packets that wait for credits are tried in weighted round robin among their partitions (R243, R244): one that still waits
uses up no grant. -/
def State.routeInTurn (s : State) : Nat → List Queued → State
  | 0, _ => s
  | n + 1, l =>
    match s.inTurn l with
    | none => s
    | some x =>
      let t := s.route x
      (t.when (t.link.waiting.length ≤ s.link.waiting.length) (·.countGrant x.packet.route.part.toNat)).routeInTurn n (l.erase x)

/-- Packets queued to a port, and those that wait, are routed again, since something has changed for them: what is relayed and what
runs on VC0 and VC1 in its order of arrival, then the device's own data. -/
def State.pumpLinks (s : State) : State :=
  let l := ((List.range 16).filter s.active).flatMap (fun p => (s.port p).queue) ++ s.link.waiting
  let s := s.over ((List.range 16).filter s.active) fun s p => s.setPort p { s.port p with queue := [] }
  let own (x : Queued) := x.origin.isNone && decide (2 ≤ x.packet.route.vc.toNat)
  let s := (s.setLink { s.link with waiting := [] }).routeAll (l.filter (!own ·))
  s.routeInTurn (l.filter own).length (l.filter own)

/-- Credits come back from the neighbour: the oldest packets of the channel have left its buffer. -/
def creditsBack (vc : Nat) : Nat → List CreditUse → List CreditUse
  | _, [] => []
  | n, u :: t =>
    if u.vc = vc then
      (if u.frames ≤ n then creditsBack vc (n - u.frames) t else { u with frames := u.frames - n } :: t)
    else u :: creditsBack vc n t

/-- LINK_CREDIT_RETURN on a port that carries frames. -/
def State.creditReturned (s : State) (p vc n : Nat) : State :=
  if s.active p then
    (s.setPort p { s.port p with credits := creditsBack vc n (s.port p).credits }).pumpLinks
  else s

/-- The virtual channel of a packet by its KIND (R321): PEER writes and read requests on VC6, read responses on VC7, E2E ACKs and
BEACONs on VC0; a message on the one that it was given, VC0 for a control header and VC2 to VC5 by its scene's priority. -/
def ownChannel (h : RouteHeader) : BitVec 3 :=
  match h.kind.toNat with
  | 1 => 6
  | 2 => 6
  | 3 => 7
  | 4 => 0
  | 5 => 0
  | _ => h.vc

/-- A packet to be routed: its own takes its channel, and HOPS from HOPS_INIT; one received over a port leaves the port's list. -/
def State.routePacket (s : State) (origin : PacketOrigin) (k : Packet) : State :=
  match origin with
  | .own => s.route { origin := none, packet := { k with route := { k.route with
    vc := ownChannel k.route, hops := BitVec.ofNat 8 (s.fld F.oxlCtrlHopsInit) } } }
  | .port p =>
    if s.flag F.oxlCtrlEn then
      (s.setPort p { s.port p with rxPackets := (s.port p).rxPackets.erase k }).route { origin := some p.val, packet := k }
    else s

/-- Two packets are one but for the HOPS and the channel that routing has set. -/
def samePacket (x y : Packet) : Bool := { x.route with hops := 0, vc := 0 } == { y.route with hops := 0, vc := 0 } && x.body == y.body

/-- A packet that has waited ESC_WAIT for credits moves to the escape channel (R322). -/
def State.escapeWait (s : State) (origin : PacketOrigin) (k : Packet) : State :=
  let o := match origin with
    | .own => none
    | .port p => some p.val
  match s.link.waiting.find? fun x => x.origin == o && samePacket x.packet k && decide (2 ≤ x.packet.route.vc.toNat) with
  | none => s
  | some x => (s.setLink { s.link with waiting := s.link.waiting.erase x }).route { x with packet := onEscape x.packet }

/-- PACKET_ROUTE. -/
def execPacketRoute (origin : PacketOrigin) (packet : Packet) (s : State) : Result :=
  .next (s.clocked fun s => s.routePacket origin packet)
/-- ESC_WAIT_EXPIRY. -/
def execEscWaitExpiry (origin : PacketOrigin) (packet : Packet) (s : State) : Result :=
  .next (s.clocked fun s => s.escapeWait origin packet)
/-- LINK_CREDIT_RETURN. -/
def execLinkCreditReturn (port : PortNo) (vc : VcNo) (frames : Nat) (s : State) : Result :=
  .next (s.clocked fun s => s.creditReturned port.val vc.val frames)

end Sys2Proof.Machine
end

