-- ==== Sys2Proof/Machine/Ports.lean ====
section
/-!
DEFINITION. The OXL ports (R160, R308 to R316): training, frames with their acknowledgements and replays, lanes, identity
records, BEACONs.
Readings of the rules that they leave open: log entries 42 and 43 (DEDUCED or DESIGN CHOICE, as the log marks each).
-/

namespace Sys2Proof.Machine

/-! ## Ports that leave ACTIVE (R314, R316) -/

/-- The port's STATE. -/
def State.portState (s : State) (p : Nat) : Nat := s.fld (F.oxlPortStatState p)

/-- A port gives back its packets, those in its replay buffer first, and forgets its frames. -/
def State.reclaim (s : State) (p : Nat) : State :=
  let v := s.port p
  let back := v.replay.filterMap (·.ends)
  let s := s.setPort p { v with replay := [], queue := [], credits := [], rxFrames := [], rxNext := 0, txNext := 0, crcFails := 0, swap := none }
  s.setLink { s.link with waiting := s.link.waiting ++ back ++ v.queue }

/-- A port goes DOWN; one that was in service raises E_LINK_DOWN, and its packets are routed again. -/
def State.goDown (s : State) (p : Nat) (served : Bool) : State :=
  let s := (s.setFld (F.oxlPortStatState p) 7).reclaim p
  if served then (s.raiseGlobal 0x4002 p).pumpLinks else s.pumpLinks

/-- OXL.CTRL.EN written 1: every port that may train goes to DETECT. -/
def State.oxlOn (s : State) : State :=
  if s.flag F.oxlCtrlEn then s
  else
    s.over (List.range 16) (fun s p =>
      let s := s.setFld (F.oxlPortErrRetrains p) 0
      if s.flag (F.oxlPortCfgEnable p) then s.setFld (F.oxlPortStatState p) 1 else s) |>.setFld F.oxlCtrlEn 1

/-- OXL.CTRL.EN written 0: every port is DISABLED and silent; its packets wait. -/
def State.oxlOff (s : State) : State :=
  (s.over (List.range 16) fun s p => (s.setFld (F.oxlPortStatState p) 0).reclaim p).setFld F.oxlCtrlEn 0

/-! ## Frames (R311, R312, R313) -/

/-- Frames acknowledged up to one leave the replay buffer. -/
def State.ackFrames (s : State) (p fseq : Nat) : State :=
  let v := s.port p
  match v.replay.findIdx? (·.fseq == fseq) with
  | none => s
  | some k => (s.setPort p { v with replay := v.replay.drop (k + 1) }).pumpLinks

/-- Frames sent again. -/
def State.resend (s : State) (p : Nat) (l : List Replayed) : State :=
  (s.over l fun s f => s.emit (.frame p f.fseq f.frame)).countFld (F.oxlPortErrReplays p) l.length

/-- A NAK: every frame from the one named onward is sent again. -/
def State.nakFrames (s : State) (p fseq : Nat) : State :=
  let v := s.port p
  match v.replay.findIdx? (·.fseq == fseq) with
  | none => s
  | some k => s.resend p (v.replay.drop k)

/-- A frame unacknowledged for 4 µs is sent again. -/
def State.replayFrame (s : State) (p fseq : Nat) : State := s.resend p ((s.port p).replay.filter (·.fseq == fseq))

/-- The port retrains (R314). -/
def State.retrain (s : State) (p : Nat) : State :=
  (s.setFld (F.oxlPortStatState p) 6).countFld (F.oxlPortErrRetrains p) 1

/-- A frame discarded and NAKed: the NAK names the frame expected next. -/
def State.nakBack (s : State) (p : Nat) : State := s.sendLink p (.nak p (s.port p).rxNext)

/-- A frame whose CRC fails: NAKed, counted, and at the limit of the second the port retrains with E_LINK_CRC (R313). -/
def State.crcFailed (s : State) (p : Nat) : State :=
  let s := s.nakBack p
  let n := (s.port p).crcFails + 1
  if s.active p ∧ 16 * s.fld (F.oxlPortCfgCrcLimit p) ≤ n then
    ((s.setPort p { s.port p with crcFails := 0 }).raiseGlobal 0x4001 p).retrain p
  else s.setPort p { s.port p with crcFails := n }

/-- The acknowledgement in a frame's header taken. -/
def State.headerAck (s : State) (p : Nat) (f : Frame) : State :=
  if bits f.header.toNat 29 1 = 1 then s.ackFrames p (bits f.header.toNat 17 12) else s

/-- A frame that takes a FSEQ, received: whether it is the next in order, and the state after. -/
def State.acceptFrame (s : State) (p : Nat) (f : Frame) : Bool × State :=
  if badCrc f then (false, s.crcFailed p)
  else
    let s := s.headerAck p f
    let v := s.port p
    if bits f.header.toNat 0 12 = v.rxNext then (true, (s.setPort p { v with rxNext := (v.rxNext + 1) % 4096 }).emit (.ack p v.rxNext))
    else (false, s.nakBack p)

/-- The payload of a DATA frame in order: a packet whose last frame it is has been received whole. -/
def State.takePayload (s : State) (p : Nat) (b : Bytes) : State :=
  let v := s.port p
  let fs := v.rxFrames ++ [b]
  if fs.length < frameCount (packetOf fs) then s.setPort p { v with rxFrames := fs }
  else s.setPort p { v with rxFrames := [], rxPackets := v.rxPackets ++ [packetOf fs] }

/-- A DATA frame on an ACTIVE port. -/
def State.dataFrame (s : State) (p : Nat) (f : Frame) : State :=
  if s.active p ∧ (badCrc f = true ∨ bits f.header.toNat 15 2 = fData) then
    let r := s.acceptFrame p f
    if r.1 then r.2.takePayload p f.payload else r.2
  else s

/-- An IDLE frame carries an acknowledgement in its header and nothing else. -/
def State.idleFrame (s : State) (p : Nat) (f : Frame) : State :=
  if s.active p then (if badCrc f then s.crcFailed p else if bits f.header.toNat 15 2 = fIdle then s.headerAck p f else s) else s

/-! ## Lanes (R309) -/

/-- A swap of a data lane to the understudy begins, and the neighbour is told. -/
def State.swapLane (s : State) (p lane : Nat) : State :=
  (s.setPort p { s.port p with swap := some lane }).sendLink p (.laneSwap p lane)

/-- A lane fails on an ACTIVE port: the understudy takes a data lane's place, or with no understudy left the port goes DOWN. -/
def State.laneFails (s : State) (p lane : Nat) : State :=
  if s.active p = false then s
  else
    let v := s.port p
    let used := s.flag (F.oxlPortStatUnderstudy p)
    let spared := s.fld (F.oxlPortStatSparedLane p)
    if v.swap = some lane ∨ (used = true ∧ lane = spared) then s
    else
      let s := s.setPort p { v with lanes := setBits v.lanes lane 1 0 }
      if lane = 8 ∧ used = false ∧ v.swap = none then s
      else if used = false ∧ v.swap = none ∧ bits v.lanes 8 1 = 1 then s.swapLane p lane
      else s.goDown p true

/-- The neighbour commands a swap: agreed once, and carried out on both sides. -/
def State.swapCommand (s : State) (p lane : Nat) : State :=
  if s.active p ∧ lane < 8 ∧ (s.port p).swap = none ∧ s.flag (F.oxlPortStatUnderstudy p) = false then s.swapLane p lane else s

/-- The swap completes at a frame boundary, and the ledger records it. -/
def State.swapDone (s : State) (p : Nat) : State :=
  match (s.port p).swap with
  | none => s
  | some l =>
    let s := s.setPort p { s.port p with swap := none }
    ((s.setFld (F.oxlPortStatUnderstudy p) 1).setFld (F.oxlPortStatSparedLane p) l).spared (.port p)

/-! ## Training (R314) -/

/-- The data lane that the understudy replaces, of the lanes that pass: none (15) when the understudy fails, the one that
fails, or when all nine pass the one that the ledger has. The answer is none when fewer than 8 lanes pass. -/
def chooseSpare (good kept : Nat) : Option Nat :=
  match (List.range 9).filter fun l => bits good l 1 == 0 with
  | [] => some kept
  | [l] => some (if l = 8 then 15 else l)
  | _ => none

/-- The identity record of a port (R315). The turnaround and the probe's stamp are measured, and free. -/
def State.identityOf (s : State) (p : Nat) : IdRecord × State :=
  let a := s.drawNat
  let b := a.2.drawNat
  ({ bookDigest := BitVec.ofNat 64 s.digest, node := BitVec.ofNat 16 s.node, port := BitVec.ofNat 8 p, stepping := 0x11
     turnaround := BitVec.ofNat 32 a.1, probe := BitVec.ofNat 64 b.1 }, b.2)

/-- The port sends its identity record, whose probe measures the round trip. -/
def State.sendIdentity (s : State) (p : Nat) : State :=
  let r := s.identityOf p
  (r.2.setPort p { r.2.port p with probed := true }).sendLink p (.identity p r.1)

/-- Every ACTIVE port sends its identity record again (R315, R372). -/
def State.sendIdentities (s : State) : State := s.over ((List.range 16).filter s.active) State.sendIdentity

/-- A receiver in DETECT looks for signal. -/
def State.detect (s : State) (p : Nat) (signal : Bool) : State :=
  if s.portState p = 1 ∧ signal = true then s.setFld (F.oxlPortStatState p) 2 else s

/-- Equalisation done, or not in time. -/
def State.equalised (s : State) (p : Nat) : State := if s.portState p = 2 then s.setFld (F.oxlPortStatState p) 3 else s
def State.equaliseLate (s : State) (p : Nat) : State := if s.portState p = 2 then s.goDown p false else s

/-- The lane check ends. -/
def State.lanesChecked (s : State) (p good : Nat) : State :=
  if s.portState p ≠ 3 then s
  else
    let was := s.fld (F.oxlPortStatSparedLane p)
    let s := s.setPort p { s.port p with lanes := good }
    match chooseSpare good was with
    | none => s.goDown p false
    | some l =>
      let s := (s.setFld (F.oxlPortStatUnderstudy p) (b2n (l != 15))).setFld (F.oxlPortStatSparedLane p) l
      let s := if l = was then s else s.spared (.port p)
      (s.setFld (F.oxlPortStatState p) 4).sendIdentity p

/-- A port becomes ACTIVE: what waits for it may go. -/
def State.becomeActive (s : State) (p : Nat) : State :=
  ((s.setFld (F.oxlPortStatState p) 5).setPort p { s.port p with everActive := true }).pumpLinks

/-- Two devices hold different books: the port is marked, and E_BOOK_SPLIT raised (R160, R315). -/
def State.bookSplit (s : State) (p : Nat) : State := (s.setFld (F.oxlPortStatSplit p) 1).raiseGlobal Ev.bookSplit p

/-- An identity record received (R315). -/
def State.identity (s : State) (p : Nat) (r : IdRecord) : State :=
  let st := s.portState p
  if st ≠ 4 ∧ st ≠ 5 then s
  else
    let s := (s.setFld (F.oxlPortStatNeighbour p) r.node.toNat).setFld (F.oxlPortStatNeighbourPort p) r.port.toNat
    let s := s.sendLink p (.probeEcho p r.probe)
    let wrong := s.flag (F.oxlPortCfgCheck p) && !(r.node.toNat == s.fld (F.oxlPortCfgPeerNode p) && r.port.toNat == s.fld (F.oxlPortCfgPeerPort p))
    let split := decide (r.bookDigest.toNat ≠ 0 ∧ s.digest ≠ 0 ∧ r.bookDigest.toNat ≠ s.digest)
    if st = 4 then
      if wrong then s.raiseGlobal 0x4003 p
      else if s.node = 65535 then s
      else
        let s := if split then s.bookSplit p else s
        s.becomeActive p
    else if split then s.bookSplit p else s

/-- An ACTIVE port loses lock. -/
def State.lockLost (s : State) (p : Nat) : State := if s.active p then s.retrain p else s

/-- A retrained port replays every unacknowledged frame. -/
def State.retrained (s : State) (p : Nat) : State :=
  if s.portState p = 6 then (s.setFld (F.oxlPortStatState p) 5).resend p (s.port p).replay |>.pumpLinks else s

/-- A retrain not done in time. -/
def State.retrainLate (s : State) (p : Nat) : State := if s.portState p = 6 then s.goDown p true else s

/-- 100 ms after DOWN. -/
def State.downOver (s : State) (p : Nat) : State := if s.portState p = 7 then s.setFld (F.oxlPortStatState p) 1 else s

/-! ## BEACONs (R160) -/

/-- The header of a BEACON: digest, node, cue; every other field 0. -/
def State.beaconHeader (s : State) : CollHeader :=
  { bookDigest := BitVec.ofNat 64 s.digest, collSeq := 0, company := 0, srcRank := BitVec.ofNat 16 s.node, opcode := 0, dstRank := 0, node := 0
    reason := 0, paramDigest := 0, epoch := 0, count := 0, payloadLen := 0, absentRank := 0, slot := 0, unit := 0
    sendCue := BitVec.ofNat 64 s.time.cue }

/-- A BEACON on every ACTIVE port, at a cue that is a multiple of 2^20. -/
def State.sendBeacons (s : State) : State :=
  if s.time.cue % 2 ^ 20 = 0 then s.over ((List.range 16).filter s.active) fun s p => s.emit (.beacon p (collBytes s.beaconHeader 8)) else s

/-- A BEACON received. -/
def State.beaconIn (s : State) (p : Nat) (h : CollHeader) : State :=
  if s.active p ∧ h.bookDigest.toNat ≠ s.digest then s.bookSplit p else s

/-! ## The commands -/

/-- OXL_ENABLE. -/
def execOxlEnable (s : State) : Result := .next (s.byHost State.oxlOn)
/-- OXL_DISABLE. -/
def execOxlDisable (s : State) : Result := .next (s.byHost State.oxlOff)
/-- DATA_FRAME. -/
def execDataFrame (port : PortNo) (frame : Frame) (s : State) : Result := .next (s.clocked (·.dataFrame port.val frame))
/-- IDLE_FRAME. -/
def execIdleFrame (port : PortNo) (frame : Frame) (s : State) : Result := .next (s.clocked (·.idleFrame port.val frame))
/-- FRAME_ACK. -/
def execFrameAck (port : PortNo) (fseq : BitVec 12) (s : State) : Result :=
  .next (s.clocked fun s => if s.framed port then s.ackFrames port fseq.toNat else s)
/-- FRAME_NAK. -/
def execFrameNak (port : PortNo) (fseq : BitVec 12) (s : State) : Result :=
  .next (s.clocked fun s => if s.framed port then s.nakFrames port fseq.toNat else s)
/-- FRAME_REPLAY_TIMEOUT. -/
def execFrameReplayTimeout (port : PortNo) (fseq : BitVec 12) (s : State) : Result :=
  .next (s.clocked fun s => if s.framed port then s.replayFrame port fseq.toNat else s)
/-- LANE_SWAP_COMMAND. -/
def execLaneSwapCommand (port : PortNo) (lane : LaneNo) (s : State) : Result := .next (s.clocked (·.swapCommand port.val lane.val))
/-- LANE_SWAP_DONE. -/
def execLaneSwapDone (port : PortNo) (s : State) : Result := .next (s.clocked (·.swapDone port.val))
/-- LANE_FAULT. -/
def execLaneFault (port : PortNo) (lane : LaneNo) (s : State) : Result := .next (s.clocked (·.laneFails port.val lane.val))
/-- IDENTITY_RECORD. -/
def execIdentityRecord (port : PortNo) (record : IdRecord) (s : State) : Result := .next (s.clocked (·.identity port.val record))
/-- PORT_DETECT_POLL. -/
def execPortDetectPoll (port : PortNo) (signal : Bool) (s : State) : Result := .next (s.clocked (·.detect port.val signal))
/-- EQUALISE_DONE. -/
def execEqualiseDone (port : PortNo) (s : State) : Result := .next (s.clocked (·.equalised port.val))
/-- EQUALISE_TIMEOUT. -/
def execEqualiseTimeout (port : PortNo) (s : State) : Result := .next (s.clocked (·.equaliseLate port.val))
/-- LANE_CHECK_DONE. -/
def execLaneCheckDone (port : PortNo) (good : BitVec 9) (s : State) : Result := .next (s.clocked (·.lanesChecked port.val good.toNat))
/-- LOSS_OF_LOCK. -/
def execLossOfLock (port : PortNo) (s : State) : Result := .next (s.clocked (·.lockLost port.val))
/-- RETRAIN_DONE. -/
def execRetrainDone (port : PortNo) (s : State) : Result := .next (s.clocked (·.retrained port.val))
/-- RETRAIN_TIMEOUT. -/
def execRetrainTimeout (port : PortNo) (s : State) : Result := .next (s.clocked (·.retrainLate port.val))
/-- DOWN_TIMER. -/
def execDownTimer (port : PortNo) (s : State) : Result := .next (s.clocked (·.downOver port.val))
/-- BEACON. -/
def execBeacon (port : PortNo) (hdr : CollHeader) (s : State) : Result := .next (s.clocked (·.beaconIn port.val hdr))
/-- BEACON_SEND. -/
def execBeaconSend (s : State) : Result := .next (s.clocked State.sendBeacons)

end Sys2Proof.Machine
end

