-- ==== Sys2Proof/Machine/Cue.lean ====
section
/-!
DEFINITION. The cue (R43, R249, R311, R325 to R327, R346, R351, R356): its ticks and what is counted with them, reports and
probes over the links, silence of the parent.
Readings of the rules that they leave open: log entry 44 (DEDUCED or DESIGN CHOICE, as the log marks each).
-/

namespace Sys2Proof.Machine

/-! ## Ticks (R43, R325) -/

/-- This device is the cue root. -/
def State.isRoot (s : State) : Bool := s.fld F.oxlCueStatMode == 3

/-- OXL.CUE_CFG.ROOT makes the device root, with depth 0; without it a device that is not on its own cue is UNLOCKED. -/
def State.rootConfigured (s : State) : State :=
  if s.flag F.oxlCueCfgRoot then ((s.setFld F.oxlCueStatMode 3).setFld F.oxlCueStatDepth 0).setFld F.oxlCueStatOnBackup 0
  else if s.isRoot then (s.setFld F.oxlCueStatMode 0).setFld F.oxlCueStatDepth 31
  else s

/-- Every fold whose clock runs counts the cycles of one cue: its clock, in units of 10 MHz, times 10. -/
def State.countCycles (s : State) : State :=
  if s.running = false ∨ s.fld F.hubBootPhase < 3 then s
  else
    s.over ((List.range 32).filter fun f => !s.time.diesStopped.contains (f / 8)) fun s f =>
      s.setTime { s.time with cycles := tblSet 0 s.time.cycles f (s.foldCycle f + 10 * s.foldClock f) }

/-- What a second of cues brings: the counts of the last second begin again (R313, R328), and SHP.WDOG.RESETS counts the last hour's
(R306). -/
def State.secondOver (s : State) : State :=
  if s.time.cue % 1000000 = 0 then
    (s.over (List.range 16) fun s p => (s.setPort p { s.port p with crcFails := 0 }).setFld (F.oxlPortErrReplays p) 0).setFld
      F.shpWdogResets (sat 255 s.recentResets)
  else s

/-- LEASE_LEFT of every lock held, in milliseconds (R249). -/
def State.leases (s : State) : State :=
  s.over ((List.range 16).filter fun p => s.flag (F.parLockHeld p)) fun s p =>
    s.setFld (F.parLockLeaseLeft p) (100 - (s.time.cue - (s.partition p).lockCue) / 1000)

/-- The mailboxes with a telemetry page: the partitions', the global one. -/
def telemBoxes : List Nat := List.range 17

/-- AGE_MS of every telemetry page, saturating (R346). -/
def State.telemAges (s : State) : State :=
  if s.time.cue % 1000 = 0 then s.over telemBoxes fun s b => s.countFld (F.pmtTelemStatAgeMs b) 1 else s

/-- This device's cue report on every ACTIVE port (R325). The time from the edge to its LINK frame is free. -/
def State.reportCue (s : State) : State :=
  s.over ((List.range 16).filter s.active) fun s p =>
    let d := s.drawNat
    d.2.sendLink p (.cueReport p (BitVec.ofNat 64 s.time.cue) d.1 (s.fld F.oxlCueStatDepth))

/-- One cue edge: the count, and what is counted with it. A count held for the parent stays (R356). -/
def State.cueEdge (s : State) : State :=
  let s := s.setTime { s.time with cue := if s.time.holding then s.time.cue else (s.time.cue + 1) % 2 ^ 64, silence := s.time.silence + 1 }
  let s := s.countCycles.secondOver.leases.telemAges
  s.clocked State.reportCue

/-- The device counts from CUE_IN. -/
def State.fromPin (s : State) : Bool := s.isRoot && s.flag F.oxlCueCfgExt

/-- CUE_TICK: the device's own microsecond; a root with EXT counts from CUE_IN instead. -/
def execCueTick (s : State) : Result := .next (if s.fromPin then s else s.cueEdge)
/-- CUE_IN_EDGE. -/
def execCueInEdge (s : State) : Result := .next (if s.fromPin then s.cueEdge else s)

/-! ## The parent's report (R325, R356) -/

/-- An integer held between two bounds. -/
def clamp (lo hi v : Int) : Int := max lo (min hi v)

/-- A report on a port is this device's cue source: the parent's, or the backup's while the parent is silent. -/
def State.cueSource (s : State) (p : Nat) : Bool :=
  (s.flag F.oxlCueCfgParentEn && s.fld F.oxlCueCfgParent == p) ||
    (s.flag F.oxlCueCfgBackupEn && s.fld F.oxlCueCfgBackup == p && (s.flag F.oxlCueStatOnBackup || s.fld F.oxlCueStatMode == 2))

/-- The port's one-way delay shown in CUE_STAT.DELAY, in 1/16 ns. -/
def State.showDelay (s : State) (p : Nat) : State := s.setFld F.oxlCueStatDelay (sat 65535 ((s.port p).delay / 4))

/-- The count at a first report: the parent's, while no partition is enabled or the parent is ahead; else the count is held
until the parent reaches it. -/
def State.firstReport (s : State) (count : Nat) : State :=
  if s.time.cue ≤ count ∨ (List.range 16).all (fun p => !s.flag (F.parCtrlEn p)) then
    (s.setTime { s.time with cue := count, holding := false }).setFld F.oxlCueStatMode 1
  else s.setTime { s.time with holding := true }

/-- The edge steered toward the parent's, by at most 1 ns. -/
def State.steer (s : State) (p : Nat) (r : CueReport) : State :=
  let err : Int := r.arrival - r.elapsed - (s.port p).delay + ((s.time.cue : Int) - r.count.toNat) * 64000
  let s := s.setTime { s.time with slew := s.time.slew + clamp (-64) 64 err }
  (s.setFld F.oxlCueStatPhaseErr (unsigned 8 (clamp (-128) 127 (err / 4)))).setFld F.oxlCueStatMode 1

/-- A cue report received. -/
def State.cueReportIn (s : State) (p : Nat) (r : CueReport) : State :=
  if s.active p = false ∨ s.isRoot = true ∨ s.cueSource p = false then s
  else
    let parent := s.flag F.oxlCueCfgParentEn && s.fld F.oxlCueCfgParent == p
    let s := s.setTime { s.time with silence := 0 }
    let s := (s.setFld F.oxlCueStatOnBackup (b2n !parent)).setFld F.oxlCueStatDepth (min 31 (r.depth + 1))
    let s := s.showDelay p
    if s.fld F.oxlCueStatMode = 0 then s.firstReport r.count.toNat else s.steer p r

/-- 16 cues without a report while locked: to BACKUP, to root, or to HOLDOVER (R327). -/
def State.parentSilent (s : State) : State :=
  if s.fld F.oxlCueStatMode ≠ 1 ∨ s.time.silence < 16 then s
  else if s.flag F.oxlCueStatOnBackup = false ∧ s.flag F.oxlCueCfgBackupEn = true then
    (s.setFld F.oxlCueStatOnBackup 1).setTime { s.time with silence := 0 }
  else if s.flag F.oxlCueCfgBackupRoot then
    (((s.setFld F.oxlCueStatMode 3).setFld F.oxlCueStatDepth 0).setFld F.oxlCueStatOnBackup 0).raiseGlobal 0x4010
  else (s.setFld F.oxlCueStatMode 2).raiseGlobal 0x4010

/-! ## Round trips (R325) -/

/-- A probe is echoed; an echo gives the one-way delay. -/
def State.probeIn (s : State) (p : Nat) (r : RttProbe) : State :=
  if s.framed p = false then s
  else
    match r with
    | .request stamp => s.sendLink p (.probeEcho p stamp)
    | .echo rt ta =>
      if (s.port p).probed then
        let s := s.setPort p { s.port p with probed := false, delay := (rt - ta) / 2 }
        if s.cueSource p then s.showDelay p else s
      else s

/-- The delays to the parent and the backup are measured again. -/
def State.remeasure (s : State) : State :=
  let ps := (if s.flag F.oxlCueCfgParentEn then [s.fld F.oxlCueCfgParent] else []) ++
    (if s.flag F.oxlCueCfgBackupEn then [s.fld F.oxlCueCfgBackup] else [])
  s.over (ps.eraseDups.filter s.active) fun s p =>
    let d := s.drawNat
    (d.2.setPort p { d.2.port p with probed := true }).sendLink p (.probe p (BitVec.ofNat 64 d.1))

/-! ## LINK frames (R311) -/

/-- A change for each field that a LINK frame carries. -/
def State.withField {α : Type} (s : State) (o : Option α) (f : State → α → State) : State :=
  match o with
  | none => s
  | some x => f s x

/-- The fields of a LINK frame taken. -/
def State.linkFields (s : State) (p : Nat) (x : LinkFields) : State :=
  let s := s.withField x.nak fun s n => s.nakFrames p n.toNat
  let s := s.over x.credits fun s c => s.creditReturned p c.1 c.2
  let s := s.withField x.laneSwap fun s l => s.swapCommand p l
  let s := s.withField x.probe fun s r => s.probeIn p r
  let s := s.withField x.identity fun s r => s.identity p r
  s.withField x.cue fun s r => s.cueReportIn p r

/-- A LINK frame received. -/
def State.linkFrame (s : State) (p : Nat) (f : Frame) (x : LinkFields) : State :=
  if s.framed p = true ∧ (badCrc f = true ∨ bits f.header.toNat 15 2 = fLink) then
    let r := s.acceptFrame p f
    if r.1 then r.2.linkFields p x else r.2
  else s

/-- LINK_FRAME. -/
def execLinkFrame (port : PortNo) (frame : Frame) (fields : LinkFields) (s : State) : Result :=
  .next (s.clocked (·.linkFrame port.val frame fields))
/-- RTT_PROBE. -/
def execRttProbe (port : PortNo) (probe : RttProbe) (s : State) : Result := .next (s.clocked (·.probeIn port.val probe))
/-- DELAY_REMEASURE. -/
def execDelayRemeasure (s : State) : Result := .next (s.clocked State.remeasure)
/-- CUE_REPORT. -/
def execCueReport (port : PortNo) (report : CueReport) (s : State) : Result := .next (s.clocked (·.cueReportIn port.val report))
/-- PARENT_SILENT. -/
def execParentSilent (s : State) : Result := .next (s.clocked State.parentSilent)

end Sys2Proof.Machine
end

