-- ==== Sys2Proof/Machine/Resilience.lean ====
section
/-!
DEFINITION. The device-fault path (R262 to R271, R276, R277): the decision at D, the rewind of a surviving device, the promotion of a
successor, its wings copy, and the resumed issue.
Readings of the rules that they leave open: log entries 47, 48 and 49 (DEDUCED or DESIGN CHOICE, as the log marks each).
-/

namespace Sys2Proof.Machine

/-! ## The decision (R267) -/

/-- The decision cue of the round in progress: the least SEND_CUE held, SETTLE and 256 cues later. -/
def Replay.leastCue (r : Replay) : Nat := (r.absents.map (·.2)).foldl min (2 ^ 64)

/-- The end of the settle window. -/
def Replay.settleEnd (r : Replay) (b : ResBlock) : Nat := r.leastCue + b.settle

/-- The absent set of a round, in increasing NODE. -/
def Replay.absentSet (r : Replay) (b : ResBlock) : List Nat :=
  sortBy (fun x y => decide (x ≤ y)) ((r.absents.filter fun x => decide (x.2 < r.settleEnd b)).map (·.1))

/-- Successors for absent nodes, from the succession entries left: pairs of successor and absent node, and entries consumed; none
when the list runs out. A successor that is absent itself is skipped. -/
def succeed (absent : List Nat) : List Nat → List RosterEntry → Nat → Option (List (RosterEntry × Nat) × Nat)
  | [], _, n => some ([], n)
  | _ :: _, [], _ => none
  | a :: t, x :: l, n =>
    if absent.contains x.node then succeed absent (a :: t) l (n + 1)
    else (succeed absent t l (n + 1)).map fun m => ((x, a) :: m.1, m.2)

/-- The address of a slot of the replay record (R261). -/
def State.slotAt (s : State) (p : Nat) (b : ResBlock) (k : Nat) : Nat := b.rrec + 0x100 + k * (s.block p).slotBytes

/-- The slots that this device has written since its enable: the number of boundaries tells which. -/
def State.slotsOf (s : State) (p : Nat) : List Nat := [0, 1].filter fun k => decide (k < (s.partition p).replay.seq)

/-- The origin in a slot. -/
def State.originAt (s : State) (p : Nat) (b : ResBlock) (k : Nat) : Nat := leNat (s.tierBytes tStacked 0 (s.slotAt p b k) 8)

/-- The company records' place in a slot. -/
def PartBlock.recordsAt (b : PartBlock) : Nat := 64 + 4 * b.queueCount

/-- The rosters that a job's company entries and record slots name: address and entries. -/
def State.jobRosters (s : State) (p : Nat) (b : ResBlock) : List (Nat × Nat) :=
  let mine := (s.companiesOf p).flatMap fun e => [(e.2.roster, e.2.size), (e.2.nextRoster, e.2.size)]
  let old := (s.slotsOf p).flatMap fun k => (s.companiesOf p).flatMap fun e =>
    let a := s.slotAt p b k + (s.block p).recordsAt + 48 * (e.1 - (s.block p).companyFirst)
    let rec' := s.tierBytes tStacked 0 a 48
    [(field rec' 0x10 8, e.2.size), (field rec' 0x20 8, e.2.size)]
  ((mine ++ old).filter fun x => x.1 != 0).eraseDups

/-- A roster in memory with absent nodes replaced by their successors, PARTITION unchanged (R156, R267). -/
def State.rewriteRoster (s : State) (p : Nat) (moved : List (RosterEntry × Nat)) (a : Nat × Nat) : State :=
  s.over (List.range a.2) fun s k =>
    let e := RosterEntry.ofBytes (s.tierBytes tStacked 0 (a.1 + 8 * k) 8)
    match moved.find? (·.2 == e.node) with
    | none => s
    | some x =>
      let w := x.1.node + e.part * 2 ^ 16 + x.1.pen * 2 ^ 20 + x.1.penSlot * 2 ^ 29
      s.writePart p tStacked 0 0 (cellsOf (a.1 + 8 * k) (natLE 4 w))

/-- EPOCH of every company of the job becomes the replay epoch. -/
def State.setEpochs (s : State) (p epoch : Nat) : State :=
  s.over (s.companiesOf p) fun s e => s.setCompany e.1 { s.company e.1 with epoch := epoch }

/-- The slot with the largest origin not above a cue: slot and origin. -/
def State.target (s : State) (p : Nat) (b : ResBlock) (a0 : Nat) : Option (Nat × Nat) :=
  (((s.slotsOf p).map fun k => (k, s.originAt p b k)).filter fun x => decide (x.2 ≤ a0)).foldl
    (fun best x => match best with
      | none => some x
      | some y => if y.2 < x.2 then some x else best) none

/-! ## Rewind (R262, R265, R268, R270) -/

/-- A queue as a rewind leaves it: nothing open, its head restored; a started running-order entry completes. -/
def State.rewindQueue (s : State) (q head : Nat) : State :=
  let v := s.queue q
  let s := s.setQueue q { v with head := head, openScene := none, nextScenes := [], held := [], buffer := [], areaWait := false
                                 runOrder := v.runOrder.filter fun e => e.status == .started }
  s.setFld (F.queQctrlHalted q) 0

/-- Every head of a partition restored from a slot; the prologue queue's is PRO_START. The step queue's base cue is the one that its
boundary's origin was counted from. -/
def State.rewindQueues (s : State) (p : Nat) (b : ResBlock) (at' origin : Nat) : State :=
  let first := (s.block p).queueFirst
  let s := s.over (s.queuesOf p) fun s q =>
    let head := if q = b.prologueQueue then leNat (s.tierBytes tStacked 0 (at' + 0x10) 4)
      else leNat (s.tierBytes tStacked 0 (at' + 0x40 + 4 * (q - first)) 4)
    s.rewindQueue q head
  let v := s.queue b.stepQueue
  s.setQueue b.stepQueue { v with baseCue := (origin : Int) - (s.partition p).cueOffset - (s.packetAt p b.stepQueue v.head).cueOffset }

/-- The company records of a slot restored. -/
def State.rewindCompanies (s : State) (p at' : Nat) : State :=
  let b := s.block p
  s.over (s.companiesOf p) fun s e =>
    let r := s.tierBytes tStacked 0 (at' + b.recordsAt + 48 * (e.1 - b.companyFirst)) 48
    s.setCompany e.1 { s.company e.1 with
      company := field r 0 2, collSeq := field r 8 8, roster := field r 0x10 8, epoch := field r 0x18 8, nextRoster := field r 0x20 8
      nextEpoch := field r 0x28 8 }

/-- The gate counts of a slot restored; BROKEN flags are cleared, nobody waits. -/
def State.rewindGates (s : State) (p at' : Nat) : State :=
  let b := s.block p
  s.over (List.range 1024) fun s g =>
    let n := leNat (s.tierBytes tStacked 0 (at' + b.recordsAt + 48 * b.companyCount + 2 * g) 2)
    s.setGate p g { s.gate p g with count := n, broken := false, waiters := [] }

/-- The wings partner of a device: its roster entry in WINGS_COMPANY (R259). -/
def State.wingsPartner (s : State) (p : Nat) (b : ResBlock) : Option RosterEntry :=
  match s.companyOf p b.wingsCompany with
  | none => none
  | some e => (s.rosterAt e.2.roster e.2.size)[(e.2.rank + b.wingsStride) % max 1 e.2.size]?

/-- SEALED of a seal record at the partner becomes 0 (R265). -/
def State.unseal (s : State) (p addr : Nat) (x : RosterEntry) : State :=
  s.sendPackets x.node p 1 fun q => .peerWrite x.node q x.part addr (zeros 8)

/-- Own seals of the target's cue or later are unsealed at the partner (R265). -/
def State.unsealFrom (s : State) (p : Nat) (b : ResBlock) (origin : Nat) : State :=
  match s.wingsPartner p b with
  | none => s
  | some x =>
    if b.noWings then s
    else
      let l := (s.partition p).replay.seals
      let s := s.over (l.filter fun e => decide (origin ≤ e.2)) fun s e => s.unseal p (if e.1 = 0 then b.seal0 else b.seal1) x
      let v := s.partition p
      s.setPartition p { v with replay := { v.replay with seals := l.filter fun e => decide (e.2 < origin) } }

/-- The chain ports between the partitions of a job, emptied (R268). -/
def State.emptyPorts (s : State) (p : Nat) : State :=
  let ps := s.jobOf p
  s.over (s.bookPorts.filter fun b => ps.contains b.writer && ps.contains b.reader) fun s b =>
    s.setChainPort b.port { s.chainPort b.port with fill := [] }

/-- Every instruction and scene of a partition abandoned, without disabling queues or breaking gates (R268). -/
def State.abandonAll (s : State) (p : Nat) : State :=
  let s := s.over (s.insts.filter (·.part == p)) State.abandonInst
  let s := s.setInsts (s.insts.filter (·.part != p))
  s.setPartition p { s.partition p with scenes := [], hurdles := [] }

/-- The head of the replay record as a replay leaves it (R261). -/
def State.recordHead (s : State) (p origin epoch : Nat) (absent : List Nat) : Bytes :=
  let v := s.partition p
  natLE 8 origin ++ natLE 8 v.cueOffset ++ natLE 8 epoch ++ natLE 2 (s.fld (F.parRstatusReplays p)) ++ natLE 2 v.replay.used ++
    natLE 2 absent.length ++ zeros 2 ++ (absent.take 32).flatMap (natLE 2)

/-- A surviving device goes back to slot k, of origin T (R268, R270). -/
def State.rewind (s : State) (p : Nat) (b : ResBlock) (k origin epoch : Nat) (absent : List Nat) : State :=
  let at' := s.slotAt p b k
  let s := (s.abandonAll p).emptyPorts p
  let s := s.rewindQueues p b at' origin
  let s := ((s.rewindCompanies p at').setEpochs p epoch).rewindGates p at'
  let s := s.unsealFrom p b origin
  let v := s.partition p
  let s := s.setPartition p { v with
    cueOffset := v.cueOffset + (epoch - origin)
    replay := { v.replay with
      proEnd := leNat (s.tierBytes tStacked 0 (at' + 0x10) 4), proTo := some (leNat (s.tierBytes tStacked 0 (at' + 0x14) 4)), hold := true } }
  let s := (s.countFld (F.parRstatusReplays p) 1).setFld (F.parRstatusReplayed p) 1
  let s := s.writePart p tStacked 0 0 (cellsOf b.rrec (s.recordHead p origin epoch absent))
  (s.setFld (F.parRstatusPhase p) 3).raiseEvent p Ev.replay

/-! ## Suspension and promotion (R269, R271) -/

/-- A partition of a job that suspends, with E_SUCCESSION or E_WINGS: its queues are halted where they stand, PHASE reads
SUSPENDED. -/
def State.suspend (s : State) (p code : Nat) : State :=
  let s := s.over ((s.queuesOf p).filter fun q => s.qOn q) State.haltQueue
  ((s.setFld (F.parRstatusPhase p) 5).setFld (F.parRstatusSuspended p) 1).raiseEvent p code

/-- A standby device becomes the successor of a node: STANDBY clear, its ranks those of the rewritten rosters, the ledger's record of
the replacement (R253), E_PROMOTED on both vectors. -/
def State.promote (s : State) (p : Nat) (b : ResBlock) : State :=
  let v := s.partition p
  let s := s.setPartition p { v with res := some { b with standby := false }, replay := { v.replay with proTo := none, hold := true, copying := none } }
  let s := s.over (s.companiesOf p) fun s e =>
    match s.ownPlace p e.2.roster e.2.size with
    | some r => s.setCompany e.1 { s.company e.1 with rank := r }
    | none => s
  let s := (s.setFld (F.parRstatusPromoted p) 1).setFld (F.parRstatusPhase p) 2
  ((s.recordSparing s.node).raiseEvent p Ev.promoted).raiseGlobal Ev.promoted p

/-! ## D (R266, R267, R271) -/

/-- What a round leaves of the absences held: those sent after its window begin the next one. -/
def State.nextRound (s : State) (p : Nat) (left : List (Nat × Nat)) : State :=
  let v := s.partition p
  let s := s.setPartition p { v with replay := { v.replay with absents := left } }
  let ph := s.fld (F.parRstatusPhase p)
  s.when (left ≠ [] ∧ ph ≠ 5 ∧ ph ≠ 7) (·.setFld (F.parRstatusPhase p) 1)

/-- The decision of a round on partition p. -/
def State.decideRound (s : State) (p : Nat) (b : ResBlock) : State :=
  let v := s.partition p
  let r := v.replay
  let limit := r.settleEnd b
  let at' := limit + 256
  let epoch := at' + b.load
  let absent := r.absentSet b
  let left := r.absents.filter fun x => !decide (x.2 < limit)
  match (if b.standby then some (0, 0) else s.target p b r.leastCue) with
  | none => s.withdraw
  | some t =>
    match succeed absent absent ((s.successionOf b).drop r.used) 0 with
    | none =>
      let s := s.setPartition p { v with replay := { r with decided := at', lastSet := absent, moved := [] } }
      let s := if b.standby then s else s.rewind p b t.1 t.2 epoch absent
      (s.suspend p Ev.succession).nextRound p []
    | some m =>
      let s := s.setPartition p { v with replay := { r with
        decided := at', lastSet := absent, moved := m.1.map (fun x => (x.1.node, x.2)), epoch := epoch, used := r.used + m.2 } }
      let s := s.setFld (F.parRstatusUsed p) (sat 255 (r.used + m.2))
      let s := s.over (s.jobRosters p b) fun s a => s.rewriteRoster p m.1 a
      let s :=
        if b.standby = false then s.rewind p b t.1 t.2 epoch absent
        else
          let s := s.setEpochs p epoch
          if m.1.any (·.1.node == s.node) then s.promote p b else s.setFld (F.parRstatusPhase p) 6
      s.nextRound p left

/-- The decision cue has come (R266). -/
def State.decisionCue (s : State) (p : Nat) : State :=
  match (s.partition p).res with
  | none => s
  | some b =>
    let r := (s.partition p).replay
    if s.fld (F.parRstatusPhase p) = 1 ∧ r.absents ≠ [] ∧ r.settleEnd b + 256 ≤ s.time.cue then (s.decideRound p b).settle else s

/-! ## The wings copy (R264, R265, R269) -/

/-- What a read of a wings copy is for: the record's head, a seal, data, or a slot's origin or company records of the entry's
lowest surviving rank. -/
def wRecord : Nat := 0
def wSeal (g : Nat) : Nat := 1 + g
def wData : Nat := 3
def wOrigin (entry slot : Nat) : Nat := 16 + 4 * entry + 2 * slot
def wCompanies (entry slot : Nat) : Nat := wOrigin entry slot + 1

/-- A read of peer memory on behalf of a wings copy, in requests of 16,368 bytes (R319, R321). -/
def State.wingsRead (s : State) (p : Nat) (x : RosterEntry) (what addr dst len : Nat) : State :=
  s.over (List.range (ceilDiv len 16368)) fun s k =>
    let n := min 16368 (len - 16368 * k)
    let tag := (s.peerPair x.node).nextPseq % 2 ^ 32
    let s := s.sendPackets x.node p 1 fun _ => .peerRead x.node tag x.part (addr + 16368 * k) n
    let v := s.partition p
    let c := v.replay.copying.getD {}
    s.setPartition p { v with replay := { v.replay with
      copying := some { c with reads := c.reads ++ [⟨tag, x.node, what, dst + 16368 * k, n⟩] } } }

/-- The lowest surviving rank of a company entry: its roster entry. -/
def State.lowestSurvivor (s : State) (p : Nat) (c : CompanyEntry) : Option RosterEntry :=
  let gone := (s.partition p).replay.moved.map (·.1)
  (s.rosterAt c.roster c.size).find? fun x => !gone.contains x.node

/-- The copy begins: TARGET and CUE_OFFSET, both seals, and where COLL_SEQ is recorded, are asked for. -/
def State.wingsStart (s : State) (p : Nat) (b : ResBlock) : State :=
  let v := s.partition p
  let s := s.setPartition p { v with replay := { v.replay with copying := some {} } }
  match (if b.noWings then none else s.wingsPartner p b) with
  | none => s.setPartition p { v with replay := { v.replay with copying := some { bad := true } } }
  | some x =>
    let s := ((s.wingsRead p x wRecord b.rrec 0 16).wingsRead p x (wSeal 0) b.seal0 0 64).wingsRead p x (wSeal 1) b.seal1 0 64
    s.over (s.companiesOf p) fun s e =>
      match s.lowestSurvivor p e.2 with
      | none => s
      | some y => s.over [0, 1] fun s k =>
          (s.wingsRead p y (wOrigin e.1 k) (s.slotAt p b k) 0 8).wingsRead p y (wCompanies e.1 k)
            (s.slotAt p b k + (s.block p).recordsAt) 0 (48 * (s.block p).companyCount)

/-- What a wings copy has read for a purpose. -/
def WingsCopy.bytes (c : WingsCopy) (what : Nat) : Bytes := ((c.got.find? (·.1 == what)).map (·.2)).getD []

/-- The sealed generation with the larger SEAL_CUE below the target (R265), with its seal. -/
def WingsCopy.generation (c : WingsCopy) : Option (Nat × Bytes) :=
  let t := field (c.bytes wRecord) 0 8
  ([0, 1].map fun g => (g, c.bytes (wSeal g))).foldl (fun best x =>
    if field x.2 0 8 = 0 ∨ t ≤ field x.2 8 8 then best
    else match best with
      | none => some x
      | some y => if field y.2 8 8 < field x.2 8 8 then some x else best) none

/-- A wings-map entry (R264): DST, SRC, BYTES, GEN. -/
def State.wmapAt (s : State) (b : ResBlock) (k : Nat) : Nat × Nat × Nat × Nat :=
  let e := s.tierBytes tStacked 0 (b.wmap + 32 * k) 32
  (field e 0 8, field e 8 8, field e 0x10 4, field e 0x14 1)

/-- The generation is chosen once TARGET and both seals have come, and its entries' bytes are asked for. -/
def State.wingsChoose (s : State) (p : Nat) (b : ResBlock) : State :=
  let v := s.partition p
  match v.replay.copying with
  | none => s
  | some c =>
    if c.chosen ∨ c.bad ∨ ([wRecord, wSeal 0, wSeal 1].all fun w => c.got.any (·.1 == w)) = false then s
    else
      let mark (m : WingsCopy) := s.setPartition p { v with
        cueOffset := field (c.bytes wRecord) 8 8, replay := { v.replay with copying := some m } }
      match c.generation, s.wingsPartner p b with
      | some g, some x =>
        if field g.2 0x10 8 ≠ s.digest then mark { c with bad := true }
        else
          (mark { c with chosen := true }).over (List.range b.wmapCount) fun s k =>
            let e := s.wmapAt b k
            if e.2.2.2 = g.1 then s.wingsRead p x wData e.2.1 e.1 e.2.2.1 else s
      | _, _ => mark { c with bad := true }

/-- A response to a read of a wings copy of partition p: its bytes are kept, or land at their place. -/
def State.wingsResponse (s : State) (p src tag : Nat) (st : PeerStatus) (bs : Bytes) : State :=
  let v := s.partition p
  match v.res, v.replay.copying with
  | some b, some c =>
    match c.reads.find? (fun r => r.tag == tag && r.node == src) with
    | none => s
    | some r =>
      let c := { c with reads := c.reads.filter fun x => !(x.tag == tag && x.node == src) }
      let put (s : State) (m : WingsCopy) := s.setPartition p { s.partition p with replay := { v.replay with copying := some m } }
      match st with
      | .done =>
        if r.what = wData then (put s c).writePart p tStacked 0 0 (cellsOf r.dst (bs.take r.len))
        else (put s { c with got := c.got ++ [(r.what, bs.take r.len)] }).wingsChoose p b
      | _ => put s { c with bad := true }
  | _, _ => s

/-- COLL_SEQ of every company entry, from the slot of the target that its lowest surviving rank has recorded (R269). -/
def State.wingsNumbers (s : State) (p : Nat) (c : WingsCopy) : State :=
  let t := field (c.bytes wRecord) 0 8
  s.over (s.companiesOf p) fun s e =>
    match [0, 1].find? (fun k => c.got.any fun x => x.1 == wOrigin e.1 k && leNat x.2 == t) with
    | none => s
    | some k =>
      let l := (List.range (s.block p).companyCount).map fun j => slice (c.bytes (wCompanies e.1 k)) (48 * j) 48
      (match l.find? (fun r => field r 0 2 == e.2.company) with
       | some r => s.setCompany e.1 { s.company e.1 with collSeq := field r 8 8 }
       | none => s)

/-- The copy has ended: PROLOGUE follows, or the job suspends with E_WINGS, in each of its partitions (R271). -/
def State.wingsEnd (s : State) (p : Nat) : State :=
  let v := s.partition p
  match v.replay.copying with
  | none => s
  | some c =>
    if s.fld (F.parRstatusPhase p) ≠ 2 then s
    else
      let s' := s.setPartition p { v with replay := { v.replay with copying := none } }
      if c.bad then s'.over (s'.jobOf p) fun s x => s.suspend x Ev.wings
      else if c.chosen ∧ c.reads = [] then (s'.wingsNumbers p c).setFld (F.parRstatusPhase p) 3
      else s

/-! ## The commands -/

/-- ABSENT_RECEIVED. -/
def execAbsentReceived (p : PartNo) (absent : AbsentHeader) (s : State) : Result :=
  .next (s.clocked fun s => (s.holdAbsent p absent.company.toNat absent.absentRank.toNat absent.sendCue.toNat).settle)

/-- DECISION_CUE. -/
def execDecisionCue (p : PartNo) (s : State) : Result := .next (s.clocked (·.decisionCue p))

/-- WINGS_COPY_START: at D + 64 on a successor. -/
def execWingsCopyStart (p : PartNo) (s : State) : Result :=
  .next (s.clocked fun s =>
    let r := (s.partition p).replay
    match (s.partition p).res with
    | some b =>
      if s.fld (F.parRstatusPhase p) = 2 ∧ r.copying = none ∧ r.decided + 64 ≤ s.time.cue then s.wingsStart p b else s
    | none => s)

/-- WINGS_COPY_DONE. -/
def execWingsCopyDone (p : PartNo) (s : State) : Result := .next (s.clocked (·.wingsEnd p))

/-- At the replay epoch, with the prologues of the job's partitions ended, the queues issue again (R268, R270). -/
def State.resumeReplay (s : State) (p : Nat) : State :=
  let s := s.settle
  let v := s.partition p
  let waits := (s.jobOf p).any fun x => decide (1 ≤ s.fld (F.parRstatusPhase x) ∧ s.fld (F.parRstatusPhase x) ≤ 3)
  if v.replay.hold ∧ s.fld (F.parRstatusPhase p) = 4 ∧ v.replay.epoch ≤ s.time.cue ∧ waits = false then
    s.setPartition p { v with replay := { v.replay with hold := false } }
  else s

/-- REPLAY_RESUME. -/
def execReplayResume (p : PartNo) (s : State) : Result := .next (s.clocked (·.resumeReplay p))

end Sys2Proof.Machine
end

