-- ==== Sys2Proof/Machine/Peers.lean ====
section
/-!
DEFINITION. Accesses between devices (R235, R319 to R321, R373): PEER writes and reads as their target serves them, responses,
acknowledgements, and the access that nobody answers.
-/

namespace Sys2Proof.Machine

/-- The target serves a range for a partition: within its memory window and the present capacity (R235). -/
def State.peerAllows (s : State) (p a n : Nat) : Bool :=
  s.live p && within a n (s.block p).memLo (s.block p).memLen && decide (a + n ≤ s.capacity)

/-- A PEER write packet: accepted once, and written, or refused outside the window or in a read-only range of the book. -/
def State.peerWriteIn (s : State) (src pseq p a : Nat) (bs : Bytes) : State :=
  match s.acceptSeq src pseq with
  | none => s
  | some s =>
    if s.peerAllows p a bs.length && !s.readOnly tStacked a bs.length then
      (s.writePart p tStacked 0 0 (cellsOf a bs)).sendAck src .done
    else s.sendAck src .outOfRange

/-- A PEER read request: served once through the shared cache. -/
def State.peerReadIn (s : State) (src pseq p a n tag : Nat) : State :=
  match s.acceptSeq src pseq with
  | none => s
  | some s =>
    let s := s.sendAck src .done
    if s.peerAllows p a n = false then s.emit (.peerResponse src tag .outOfRange [])
    else if s.rangeBad tStacked 0 a n then s.emit (.peerResponse src tag .poisoned [])
    else (s.touch 0 false ((List.range n).map (a + ·))).emit (.peerResponse src tag .done (s.tierBytes tStacked 0 a n))

/-- The instruction that waits for the response of a tag, with the read. -/
def State.readerOf (s : State) (src tag : Nat) : Option (Inst × PeerRead) :=
  s.insts.findSome? fun i => (i.reads.find? fun r => r.tag == tag && r.node == src).map fun r => (i, r)

/-- A response: its data land in the receive space, and with the last one the instruction goes on; one that no instruction waits
for may be a wings copy's (R269). -/
def State.peerResponseIn (s : State) (src tag : Nat) (st : PeerStatus) (bs : Bytes) : State :=
  match s.readerOf src tag with
  | none =>
    (match s.entryReader src tag with
     | some x => s.entryResponse x st bs
     | none => s.over (List.range 16) fun s p => s.wingsResponse p src tag st bs)
  | some (i, r) =>
    match st with
    | .outOfRange => s.endEarly i Ev.peerRange
    | .poisoned => s.endEarly i Ev.eccUncorr
    | .done =>
      let s := s.writeTier tPeer r.rank r.addr (bs.take r.len)
      let i := { i with reads := i.reads.filter fun x => x.tag != tag }
      if i.reads = [] ∧ i.wait = .peer then s.launch i else s.setInst i

/-- The full number that an E2E ACK names, within the packets outstanding. -/
def Pair.ackedTo (v : Pair) (pseq : Nat) : Nat :=
  match aheadSeq v.acked pseq with
  | some n => if n ≤ v.nextPseq then n else v.acked
  | none => v.acked

/-- The instruction that waits for a packet of a node to be acknowledged. -/
def State.writerOf (s : State) (node n : Nat) : Option Inst :=
  s.insts.find? fun i => i.acks.any fun a => a.1 == node && decide (a.2.1 ≤ n ∧ n < a.2.2)

/-- An E2E ACK: packets below its number are acknowledged; one that reports a refusal ends the instruction of the last packet
that it covers. -/
def State.e2eAckIn (s : State) (src pseq : Nat) (st : PeerStatus) : State :=
  let n := (s.peerPair src).ackedTo pseq
  let s := s.ackPackets src n
  let s := match st with
    | .done => s
    | _ => (match s.writerOf src (n - 1) with
      | some i => s.endEarly i Ev.peerRange
      | none => s.entryRefused src (n - 1))
  s.follow

/-- PEER_TIMEOUT in ms; 0 acts as 10. -/
def State.peerTimeout (s : State) : Nat := if s.fld F.oxlCtrlPeerTimeout = 0 then 10 else s.fld F.oxlCtrlPeerTimeout

/-- A PEER access unanswered for PEER_TIMEOUT ends its instruction (R320). -/
def State.peerLost (s : State) (q index : Nat) : State :=
  match s.inst? q index with
  | none => s
  | some i =>
    let open' := i.reads ≠ [] ∨ s.acked i.acks = false
    if open' ∧ i.issueCue + 1000 * s.peerTimeout ≤ s.time.cue then (s.endEarly i Ev.peerLost).settle else s

/-- PEER_WRITE. -/
def execPeerWrite (src : Word16) (pseq : Word32) (_part : PartNo) (access : PeerAccess) (data : Bytes) (s : State) : Result :=
  .next (s.clocked fun s => s.peerWriteIn src.toNat pseq.toNat access.target access.addr data)
/-- PEER_READ_REQUEST: the response carries the request's number as its tag. -/
def execPeerReadRequest (src : Word16) (pseq : Word32) (_part : PartNo) (access : PeerAccess) (len : Nat) (s : State) : Result :=
  .next (s.clocked fun s => s.peerReadIn src.toNat pseq.toNat access.target access.addr len pseq.toNat)
/-- PEER_READ_RESPONSE. -/
def execPeerReadResponse (src : Word16) (tag : Word32) (status : PeerStatus) (data : Bytes) (s : State) : Result :=
  .next (s.clocked fun s => (s.peerResponseIn src.toNat tag.toNat status data).follow)
/-- E2E_ACK. -/
def execE2eAck (src : Word16) (pseq : Word32) (status : PeerStatus) (s : State) : Result :=
  .next (s.clocked fun s => s.e2eAckIn src.toNat pseq.toNat status)
/-- PEER_TIMEOUT. -/
def execPeerTimeout (q : QueueNo) (index : Word32) (s : State) : Result := .next (s.clocked fun s => s.peerLost q.val index.toNat)

end Sys2Proof.Machine
end

