-- ==== Sys2Proof/Machine/Prompter.lean ====
section
/-!
DEFINITION. The Prompter (R291, R336 to R344): mailboxes and their commands, telemetry pages, the watchdog, the boot image and the
repair queue. A mailbox command's row acts twice: it claims a submitted command, and later completes it.
Readings of the rules that they leave open: log entry 35 (DEDUCED or DESIGN CHOICE, as the log marks each).
-/

namespace Sys2Proof.Machine

/-! ## Mailboxes (R338, R339, R342) -/

/-- A mailbox's number: a partition's, 16 the global one, 17 the sideband's. -/
def boxNo (b : Mailbox) : Nat :=
  match b with
  | .part p => p.val
  | .global => 16
  | .sideband => 17

/-- The function that owns a mailbox's page: the partition's, or the physical function. -/
def State.boxFn (s : State) (b : Nat) : Nat := if b < 16 then (s.block b).fn else 0

/-- The address of a mailbox page. -/
def State.boxPage (s : State) (b : Nat) : Nat := s.pair (.pmtMbxPageLo b) (.pmtMbxPageHi b)

/-- Bytes of a mailbox's page; the sideband's stand in the hub. -/
def State.pageBytes (s : State) (b off n : Nat) : Bytes :=
  if b = 17 then Memory.readN s.prom.sideband off n else s.readHost (s.boxFn b) (s.boxPage b + off) n

/-- A field of a page. -/
def State.pageNat (s : State) (b off n : Nat) : Nat := leNat (s.pageBytes b off n)

/-- Bytes of a page written. -/
def State.pageWrite (s : State) (b off : Nat) (bs : Bytes) : State :=
  if b = 17 then s.setProm { s.prom with sideband := Memory.writeN s.prom.sideband off bs }
  else s.writeHost (s.boxFn b) (s.boxPage b + off) bs

def State.boxOp (s : State) (b : Nat) : Nat := s.pageNat b 0 2
def State.arg0 (s : State) (b : Nat) : Nat := s.pageNat b 8 8
def State.arg1 (s : State) (b : Nat) : Nat := s.pageNat b 0x10 8
def State.bufAt (s : State) (b : Nat) : Nat := s.pageNat b 0x18 8
def State.bufLen (s : State) (b : Nat) : Nat := s.pageNat b 0x20 4

/-- The values of STATUS (R338). -/
def stOk : Nat := 0
def stBusy : Nat := 1
def stInvalid : Nat := 2
def stDenied : Nat := 3
def stHeld : Nat := 4
def stAborted : Nat := 5

/-- The front end answers: TAG and STATUS, DONE, then the vector; the sideband mailbox has none (R339). -/
def State.respond (s : State) (b status : Nat) : State :=
  let s := s.pageWrite b 0x40 (s.pageBytes b 2 2 ++ natLE 2 status)
  let s := ((s.setFld (F.pmtMbxStatDone b) 1).setFld (F.pmtMbxStatOutstanding b) 0).setFld (F.pmtMbxStatClaimed b) 0
  let s := s.setBox b { s.box b with command := 0 }
  s.when (b < 17) fun s => s.msix (s.boxFn b) (s.fld (F.pmtMbxCtrlVector b))

/-- BUSY with the time before a retry. -/
def State.respondBusy (s : State) (b retry : Nat) : State := (s.pageWrite b 0x44 (natLE 4 retry)).respond b stBusy

/-- OK with RESULT, the response payload and its length. -/
def State.respondOk (s : State) (b result : Nat) (payload : Bytes) : State :=
  let s := s.pageWrite b 0x48 (natLE 8 result)
  let s := s.pageWrite b 4 (natLE 4 payload.length)
  (s.pageWrite b 0x80 payload).respond b stOk

/-- The Prompter's estimate of its class 2 wait, as PMT.LOAD reads now (R346). -/
def State.loadNow (s : State) : Nat × State := (Config.promptLoad s.free % 2 ^ 32, s.setFree (s.free + 1))

/-- A command submitted: taken by the front end, or answered at once (R339). -/
def State.submit (s : State) (b : Nat) : State :=
  if s.flag (F.pmtMbxStatOutstanding b) then s.setFld (F.pmtMbxStatOverrun b) 1
  else
    match s.prom.cores with
    | .running => (s.setFld (F.pmtMbxStatOutstanding b) 1).setBox b { s.box b with command := 0, goCue := s.time.cue }
    | .held => s.respond b stHeld
    | _ => s.respondBusy b 255

/-- MAILBOX_GO: a host's GO while the link serves requests; the sideband's always. -/
def execMailboxGo (box : Mailbox) (s : State) : Result :=
  .next (s.clocked fun s => if box = .sideband ∨ (s.host.pcieUp ∧ s.boxFn (boxNo box) ∉ s.host.d3hot) then s.submit (boxNo box) else s)

/-- A command unclaimed 10 ms after its GO is withdrawn. -/
def State.boxTimeout (s : State) (b : Nat) : State :=
  if s.flag (F.pmtMbxStatOutstanding b) ∧ s.flag (F.pmtMbxStatClaimed b) = false ∧ (s.box b).goCue + 10000 ≤ s.time.cue then
    let l := s.loadNow
    l.2.respondBusy b l.1
  else s

/-- MAILBOX_TIMEOUT. -/
def execMailboxTimeout (box : Mailbox) (s : State) : Result := .next (s.clocked (·.boxTimeout (boxNo box)))

/-! ## Claim and service (R336, R339 to R341) -/

/-- The mailbox that class 2 serves next: the first with an unclaimed command, from the turn on. -/
def State.nextBox (s : State) : Option Nat :=
  ((List.range 18).map fun k => (s.prom.turn + k) % 18).find? fun b => s.flag (F.pmtMbxStatOutstanding b) && !s.flag (F.pmtMbxStatClaimed b)

/-- An opcode of the table. -/
def mailboxOp (o : Nat) : Bool := decide (1 ≤ o ∧ o ≤ 8)

/-- The mailboxes that a command is allowed to use. -/
def mailboxAllows (op b : Nat) : Bool :=
  if op ≤ 2 then true else if op = 7 then b == 16 else decide (16 ≤ b)

/-- The inactive copy of the boot image. -/
def State.spareImage (s : State) : Nat := 1 - s.prom.activeImage

/-- A copy of the boot image. -/
def State.image (s : State) (k : Nat) : BootImage := tblGet {} s.prom.images k

/-- A copy replaced. -/
def State.setImage (s : State) (k : Nat) (v : BootImage) : State := s.setProm { s.prom with images := tblSet {} s.prom.images k v }

/-- IMAGE_WRITE first invalidates the inactive copy's header. -/
def State.beginImage (s : State) (b : Nat) : State :=
  if b = 16 then s.setImage s.spareImage { s.image s.spareImage with valid := false } else s

/-- The Prompter claims a command. -/
def State.claim (s : State) (b : Nat) : State :=
  let op := s.boxOp b
  let s := (s.setFld (F.pmtMbxStatClaimed b) 1).setBox b { s.box b with command := op }
  let s := s.setProm { s.prom with turn := (b + 1) % 18 }
  s.when (op = 7) (·.beginImage b)

/-- A row of the Prompter's commands on a mailbox: it claims the command when it is the next to serve and no repair work waits, and
completes a claimed one; an opcode of no command is answered INVALID, a command from a wrong mailbox DENIED. -/
def State.serve (s : State) (box : Mailbox) (op : Nat) (f : State → Nat → State) : State :=
  let b := boxNo box
  if s.prom.cores ≠ .running then s
  else if s.flag (F.pmtMbxStatClaimed b) then
    let c := (s.box b).command
    if mailboxOp c = false then s.respond b stInvalid
    else if c ≠ op then s
    else if mailboxAllows op b = false then s.respond b stDenied
    else f s b
  else if s.nextBox = some b ∧ s.prom.repairs = [] ∧ (s.boxOp b = op ∨ mailboxOp (s.boxOp b) = false) then s.claim b
  else s

/-! ## Responses in pieces (R342) -/

/-- A full response answered: whole as payload in a host mailbox, and in the sideband's when it is at most 128 bytes; else there a
piece of 128 bytes, at offset ARG1. -/
def State.answer (s : State) (b result : Nat) (full : Bytes) : State :=
  if b = 17 ∧ 128 < full.length then
    let off := s.arg1 b
    if off % 128 ≠ 0 ∨ full.length ≤ off then s.respond b stInvalid else s.respondOk b result (slice full off 128)
  else s.respondOk b result (full.take 3968)

/-- A full response whose bulk goes to BUF in a host mailbox. -/
def State.answerBulk (s : State) (b result : Nat) (full : Bytes) : State :=
  if b = 17 then s.answer b result full
  else if s.bufAt b % 64 ≠ 0 then s.respond b stInvalid
  else (s.writeHost (s.boxFn b) (s.bufAt b) (full.take (s.bufLen b))).respondOk b result []

/-- A RESULT that no rule states is free. -/
def State.freeResult (s : State) : Nat × State := (s.drawNat.1 % 2 ^ 64, s.drawNat.2)

/-! ## The commands (R341) -/

/-- IDENT: serial, ordering number, stepping, active image version and SEQ. -/
def State.doIdent (s : State) (b : Nat) : State :=
  let m := s.image s.prom.activeImage
  let r := s.freeResult
  r.2.answer b r.1 (Config.report 1 [s.serial, if s.part = .l16 then 0 else 1, (s.word .hubId).toNat, m.version, m.seq])

/-- TELEM_CFG. -/
def State.doTelemCfg (s : State) (b : Nat) : State :=
  let a := s.arg0 b
  let t := s.arg1 b
  if a % 4096 = 0 ∧ 1 ≤ t ∧ t ≤ 1000 then
    let r := s.freeResult
    (r.2.setBox b { r.2.box b with telemAddr := a, telemPeriod := t }).respondOk b r.1 []
  else s.respond b stInvalid

/-- A ledger record's bytes (R300): its header, the image, the CRC word and the commit word. -/
def LedgerSlot.bytes (r : LedgerSlot) : Bytes :=
  natLE 8 r.seq ++ natLE 4 r.magic.toNat ++ natLE 4 r.length ++ natLE 2 r.kind ++ natLE 2 1 ++ zeros 4 ++ natLE 8 r.cue ++
    natLE 8 r.bookDigest.toNat ++ natLE 8 r.part.toNat ++ zeros 16 ++
    ((List.range 258048).map (Config.imageByte r.image.digestBytes)) ++
    natLE 4 r.crcLo.toNat ++ natLE 4 r.crcHi.toNat ++ natLE 4 r.commitLo.toNat ++ natLE 4 r.commitHi.toNat

/-- LEDGER_READ: slot bank × 16 + index; RESULT its SEQ. -/
def State.doLedgerRead (s : State) (b : Nat) : State :=
  let k := s.arg0 b
  if 32 ≤ k ∨ (b ≠ 17 ∧ s.bufLen b < 258128) then s.respond b stInvalid
  else s.answerBulk b (s.slot k).seq (s.slot k).bytes

/-- SHARES_SET (R248): staged and committed as OWNER 17; a held lock answers BUSY, a rejected set INVALID. A partition that is not
enabled takes the values directly. -/
def State.doSharesSet (s : State) (b : Nat) : State :=
  let p := s.arg0 b
  let sh := (Reg.parShares p).held (s.arg1 b)
  let pr := (Reg.parPrio p).held (s.arg1 b / 2 ^ 32)
  let r := s.freeResult
  if 16 ≤ p then s.respond b stInvalid
  else if s.flag (F.parCtrlEn p) = false then
    if sharesOk sh && prioOk pr then
      ((r.2.setWord (.parShares p) sh).setWord (.parPrio p) pr).configChanged.respondOk b r.1 []
    else s.respond b stInvalid
  else if s.flag (F.parLockHeld p) then s.respondBusy b (s.fld (F.parLockLeaseLeft p))
  else
    let s := r.2.takeLock p .prompter
    let s := s.setPartition p { s.partition p with staging := { shares := some sh, prio := some pr } }
    let s := s.commitLock p
    if s.flag (F.parLockRejected p) then s.respond b stInvalid else s.respondOk b r.1 []

/-- CHANNEL_REPORT: the repair history and the post-package repairs left are in no state of the device's rules, and free. -/
def State.doChannelReport (s : State) (b : Nat) : State :=
  if 384 ≤ s.arg0 b then s.respond b stInvalid
  else
    let r := s.freeResult
    r.2.answer b r.1 (Config.report 5 [s.arg0 b, s.free])

/-- PORT_MARGIN: the eye of each lane as measured now, free. -/
def State.doPortMargin (s : State) (b : Nat) : State :=
  if 16 ≤ s.arg0 b then s.respond b stInvalid
  else
    let r := s.freeResult
    r.2.answer b r.1 (Config.report 6 [s.arg0 b, s.free])

/-- IMAGE_WRITE ends: the body, then the header with the active SEQ plus 1 (R344). -/
def State.doImageWrite (s : State) (b : Nat) : State :=
  let n := s.bufLen b
  if 16776960 < n ∨ s.bufAt b % 64 ≠ 0 then s.respond b stInvalid
  else
    let body := s.readHost (s.boxFn b) (s.bufAt b) n
    let r := s.freeResult
    (r.2.setImage s.spareImage { valid := Config.imageSigned body, seq := ((s.image s.prom.activeImage).seq + 1) % 2 ^ 32
                                 version := Config.imageVersion body, body := body }).respondOk b r.1 []

/-- PROMPTER_LOG: the log ring. -/
def State.doLog (s : State) (b : Nat) : State :=
  let r := s.freeResult
  r.2.answerBulk b r.1 (Config.report 8 (s.prom.log.flatMap fun e => [e.cue, e.code, e.unit, e.detail]))

/-- IDENT. -/
def execIdent (box : Mailbox) (s : State) : Result := .next (s.clocked (·.serve box 1 State.doIdent))
/-- TELEM_CFG. -/
def execTelemCfg (box : Mailbox) (s : State) : Result := .next (s.clocked (·.serve box 2 State.doTelemCfg))
/-- LEDGER_READ. -/
def execLedgerRead (box : Mailbox) (s : State) : Result := .next (s.clocked (·.serve box 3 State.doLedgerRead))
/-- SHARES_SET. -/
def execSharesSet (box : Mailbox) (s : State) : Result := .next (s.clocked (·.serve box 4 State.doSharesSet))
/-- CHANNEL_REPORT. -/
def execChannelReport (box : Mailbox) (s : State) : Result := .next (s.clocked (·.serve box 5 State.doChannelReport))
/-- PORT_MARGIN. -/
def execPortMargin (box : Mailbox) (s : State) : Result := .next (s.clocked (·.serve box 6 State.doPortMargin))
/-- IMAGE_WRITE. -/
def execImageWrite (box : Mailbox) (s : State) : Result := .next (s.clocked (·.serve box 7 State.doImageWrite))
/-- PROMPTER_LOG. -/
def execPrompterLog (box : Mailbox) (s : State) : Result := .next (s.clocked (·.serve box 8 State.doLog))

/-! ## Telemetry (R343, R346) -/

/-- What a telemetry page reports (R343): SEQ, SAMPLE_CUE and STALE; of each fold both temperatures, the clock and its cap; of each
rail the current, in no register and free; the flow and VHOLD; of each port its state and replays; of each channel its state and
corrected errors. A partition's page has its own folds only. -/
def State.telemetry (s : State) (b : Nat) (stale : Bool) : List Nat :=
  let folds := if b < 16 then (s.block b).foldList else List.range 32
  [(s.box b).telemSeq + 1, s.time.cue, b2n stale] ++
    (folds.flatMap fun f => [s.fld (F.shpTempSensorA f), s.fld (F.shpTempSensorB f), s.foldClock f, s.fld (F.shpTempClockCap f)]) ++
    (s.drawNats 11).1 ++ [s.fld F.shpCoolantFlowA, s.fld F.shpHoldVhold] ++
    ((List.range 16).flatMap fun p => [s.fld (F.oxlPortStatState p), s.fld (F.oxlPortErrReplays p)]) ++
    (List.range 384).flatMap fun c => [s.fld (F.hbcChstatState c), s.fld (F.hbcChstatCorr c)]

/-- A telemetry page written. No rule lays it out: its bytes are an open function of what it reports, and of a free number where not
every source could be sampled. -/
def State.writeTelem (s : State) (b : Nat) (sampledAll : Bool) : State :=
  let x := s.box b
  if s.prom.cores ≠ .running ∨ x.telemPeriod = 0 then s
  else
    let d := s.drawNat
    let page := (List.range 4096).map (Config.telemByte (s.telemetry b (!sampledAll)) (if sampledAll then none else some d.1))
    let s := ((d.2.setFree (d.2.free + 11)).writeHost (s.boxFn b) x.telemAddr page).setBox b { x with telemSeq := x.telemSeq + 1, pageStale := !sampledAll }
    s.when (b < 17) fun s => (s.setFld (F.pmtTelemStatStale b) 0).setFld (F.pmtTelemStatAgeMs b) 0

/-- TELEM_WRITE. -/
def execTelemWrite (box : Mailbox) (sampledAll : Bool) (s : State) : Result :=
  .next (s.clocked fun s => s.writeTelem (boxNo box) sampledAll)

/-- STALE of every page that has not been written for two periods. -/
def State.markStale (s : State) : State :=
  s.over (List.range 17) fun s b =>
    let t := (s.box b).telemPeriod
    s.when (t ≠ 0 ∧ 2 * t ≤ s.fld (F.pmtTelemStatAgeMs b)) (·.setFld (F.pmtTelemStatStale b) 1)

/-- TELEM_STALE. -/
def execTelemStale (s : State) : Result := .next (s.clocked State.markStale)

/-! ## The watchdog (R291, R340, R344) -/

/-- A kick: key 0x5A from the Prompter while its cores run; from anyone else it has no effect. -/
def State.kick (s : State) (who : Requester) (v : Nat) : State :=
  if who = .prompter ∧ v % 256 = 0x5A ∧ s.prom.cores = .running then s.setProm { s.prom with lastKick := s.time.cue } else s

/-- PMT_KICK. -/
def execPmtKick (who : Requester) (value : Word32) (s : State) : Result := .next (s.clocked (·.kick who value.toNat))

/-- A claimed command whose Prompter is reset: ABORTED; the buffer of a LEDGER_READ is undefined (R340). -/
def State.abortBox (s : State) (b : Nat) : State :=
  if s.flag (F.pmtMbxStatClaimed b) = false then s
  else
    let s :=
      if (s.box b).command = 3 ∧ b ≠ 17 then
        let d := s.drawBytes (min 258128 (s.bufLen b))
        d.2.writeHost (s.boxFn b) (s.bufAt b) d.1
      else s
    s.respond b stAborted

/-- The watchdog runs out: the cores are held in reset, for good with the fourth in an hour. -/
def State.watchdog (s : State) : State :=
  if s.prom.cores = .running ∧ s.prom.lastKick + 1000 * s.fld F.shpWdogTimeout ≤ s.time.cue then
    let stay := decide (3 ≤ s.recentResets)
    let s := s.setProm { s.prom with cores := if stay then .held else .reset, resets := s.prom.resets ++ [s.time.cue] }
    let s := s.setFld F.shpWdogResets (sat 255 s.recentResets)
    let s := s.when (stay = true) (·.setFld F.shpWdogHeld 1)
    let s := s.over (List.range 18) State.abortBox
    let s := s.over ((List.range 16).filter fun p => s.fld (F.parLockOwner p) == 17) State.loseLock
    s.shepEvent 0x7006
  else s

/-- WATCHDOG_EXPIRY. -/
def execWatchdogExpiry (s : State) : Result := .next (s.clocked State.watchdog)

/-- The cores are released 5 ms after the reset. -/
def State.releaseCores (s : State) : State :=
  if s.prom.cores = .reset ∧ s.prom.resets.getLastD 0 + 5000 ≤ s.time.cue then s.setProm { s.prom with cores := .restarting } else s

/-- PROMPTER_RESET_RELEASE. -/
def execPrompterResetRelease (s : State) : Result := .next (s.clocked State.releaseCores)

/-- The valid copy with the higher SEQ. -/
def State.bestImage (s : State) : Option Nat :=
  match (s.image 0).valid, (s.image 1).valid with
  | true, true => some (if (s.image 0).seq < (s.image 1).seq then 1 else 0)
  | true, false => some 0
  | false, true => some 1
  | false, false => none

/-- The Prompter runs, with its watchdog started. -/
def State.coresRun (s : State) : State := s.setProm { s.prom with cores := .running, lastKick := s.time.cue }

/-- The boot ROM has loaded and checked an image; with no valid copy the Prompter is held. A restart reuses the resident image. -/
def State.booted (s : State) : State :=
  match s.prom.cores with
  | .booting =>
    (match s.bestImage with
     | some k => (s.setProm { s.prom with activeImage := k, resident := true }).coresRun
     | none => (s.setProm { s.prom with cores := .held }).setFld F.shpWdogHeld 1)
  | .restarting => s.when (s.prom.resident = true) State.coresRun
  | _ => s

/-- PROMPTER_BOOT_DONE. -/
def execPrompterBootDone (s : State) : Result := .next (s.clocked State.booted)

/-! ## Repair work (R336, R337) -/

/-- The oldest entry of the repair queue is done; its note in the Prompter's log is free. -/
def State.repairOne (s : State) : State :=
  match s.prom.repairs with
  | [] => s
  | u :: t =>
    if s.prom.cores ≠ .running then s
    else
      let a := s.drawNat
      let b := a.2.drawNat
      b.2.setProm { s.prom with repairs := t, log := s.prom.log ++ [⟨s.time.cue, a.1 % 65536, u.number, b.1 % 2 ^ 32⟩] }

/-- REPAIR_WORK. -/
def execRepairWork (s : State) : Result := .next (s.clocked State.repairOne)

end Sys2Proof.Machine
end

