-- ==== Sys2Proof/Machine/Queues.lean ====
section
/-!
DEFINITION. Queues as their registers and doorbells command them (R18, R19, R23, R236, R246, R367, R370, R393).
Readings of the rules that they leave open: log entry 32 (DEDUCED or DESIGN CHOICE, as the log marks each).
-/

namespace Sys2Proof.Machine

/-! ## Enable and disable (R18, R370) -/

/-- The fields of a queue block are in range (R18), its vector among the partition's. -/
def queueBlockOk (b : Bytes) (vectors : Nat) : Bool :=
  field b 0 8 % 64 == 0 && field b 8 8 % 64 == 0 && between 4 16 (field b 0x10 1) && decide (field b 0x11 1 ≤ 3) &&
    decide (field b 0x12 1 < 16) && decide (field b 0x14 2 < vectors)

/-- The queue table of a partition. -/
def State.qtab (s : State) (p : Nat) : Nat := s.pair (.queQtabLo p) (.queQtabHi p)

/-- The block of a partition's queue, when its enable passes: the partition ENABLED with no fold depleted since, the entry
aligned, in the window and readable, its fields in range. -/
def State.queueEntry (s : State) (p q : Nat) : Option QueueBlock :=
  let v := s.block p
  let a := s.qtab p + 64 * (q - v.queueFirst)
  let b := s.tierBytes tStacked 0 a 64
  if s.fld (F.parStatusState p) = 1 ∧ (s.partition p).depleted = false ∧ s.qtab p % 64 = 0 ∧ within a 64 v.memLo v.memLen = true ∧
      s.readEvent tStacked 0 a 64 = 0 ∧ queueBlockOk b v.vecCount = true then some (QueueBlock.ofBytes b)
  else none

/-- A refused queue enable. -/
def State.refuseQueue (s : State) (p q : Nat) : State := (s.setFld (F.queQctrlEnFail q) 1).raiseEvent p Ev.desc

/-- A queue starts with HEAD, TAIL and base cue 0, not halted, and outside a scene (R393); a gate that it held outside a scene it
holds still (log entry 32). -/
def State.startQueue (s : State) (q : Nat) (b : QueueBlock) : State :=
  let s := (s.setFld (F.queQctrlEn q) 1).setFld (F.queQctrlHalted q) 0
  s.setQueue q { s.queue q with block := b, head := 0, tail := 0, baseCue := 0, openScene := none, nextScenes := [], buffer := [],
                                  areaWait := false }

/-- QUE.QCTRL.EN written 1: nothing while it is 1. -/
def State.enableQueue (s : State) (q : Nat) : State :=
  if s.qOn q then s
  else
    match s.partOf q with
    | none => s.setFld (F.queQctrlEnFail q) 1
    | some p =>
      match s.queueEntry p q with
      | none => s.refuseQueue p q
      | some b => s.startQueue q b

/-- QUE.QCTRL.EN written 0: issue stops at once; nobody waits for the queue at a point any more. -/
def State.disableQueue (s : State) (q : Nat) : State := (s.setFld (F.queQctrlEn q) 0).settle

/-! ## Doorbells (R19, R236, R367) -/

/-- The queue ranges of a function's partitions, in increasing device queue number. -/
def State.fnRanges (s : State) (fn : Nat) : List (Nat × Nat) :=
  let l := ((List.range 16).filter fun p => s.live p && (s.block p).fn == fn).map fun p => ((s.block p).queueFirst, (s.block p).queueCount)
  sortBy (fun a b => decide (a.1 ≤ b.1)) l

/-- The device queue of a number within ranges. -/
def rangeAt : List (Nat × Nat) → Nat → Option Nat
  | [], _ => none
  | r :: t, n => if n < r.2 then some (r.1 + n) else rangeAt t (n - r.2)

/-- The tail of a queue rung. -/
def State.ring (s : State) (p q tail : Nat) : State :=
  let v := s.queue q
  if !s.qOn q then s
  else if v.size < (2 ^ 32 + tail - v.head) % 2 ^ 32 then s.raiseEvent p Ev.doorbell
  else s.setQueue q { v with tail := tail }

/-- A doorbell of a function's queue number: ignored for a number that it does not own, and while it is in D3hot. -/
def State.doorbell (s : State) (fn number tail : Nat) : State :=
  if fn ∈ s.host.d3hot then s
  else
    match rangeAt (s.fnRanges fn) number with
    | none => s
    | some q =>
      match s.partOf q with
      | none => s
      | some p => s.ring p q tail

/-- DOORBELL: bits [31:0] are the new tail. -/
def execDoorbell (fn : FnNo) (number : Nat) (value : Word64) (s : State) : Result :=
  .next (s.byHost (·.doorbell fn.val number (value.toNat % 2 ^ 32)))

/-- QUEUE_ENABLE. -/
def execQueueEnable (q : QueueNo) (s : State) : Result := .next (s.byHost (·.enableQueue q.val))
/-- QUEUE_DISABLE. -/
def execQueueDisable (q : QueueNo) (s : State) : Result :=
  .next (s.byHost fun s => if s.qOn q.val then s.disableQueue q.val else s)
/-- QCTRL_RESUME: no effect on a queue that is not halted. -/
def execQctrlResume (q : QueueNo) (s : State) : Result := .next (s.byHost (·.resumeQueue q.val))

end Sys2Proof.Machine
end

