-- ==== Sys2Proof/Machine/Hub.lean ====
section
/-!
DEFINITION. The hub's own commands (R332 to R335, R354, R357, R364, R371 to R375): BAR4, SNAP, the book, the configuration check, the
global event ring.
Readings of the rules that they leave open: log entries 33 and 36 (DEDUCED or DESIGN CHOICE, as the log marks each).
-/

namespace Sys2Proof.Machine

/-! ## BAR4 (R332, R333) -/

/-- What a function's BAR4 shows, in order: all of stacked memory, or the memory windows of its partitions. -/
def State.bar4Windows (s : State) (fn : Nat) : List (Nat × Nat) :=
  if fn = 0 then [(0, s.capacity)] else (s.fnParts fn).map fun p => ((s.block p).memLo, (s.block p).memLen)

/-- The device address of n bytes at an offset: none beyond the windows, or across two. -/
def barAddress : List (Nat × Nat) → Nat → Nat → Option Nat
  | [], _, _ => none
  | w :: t, off, n => if off + n ≤ w.2 then some (w.1 + off) else if off < w.2 then none else barAddress t (off - w.2) n

/-- A BAR4 access that is served: its device address, within current capacity, by a function in D0. -/
def State.bar4At (s : State) (fn off n : Nat) : Option Nat :=
  match barAddress (s.bar4Windows fn) off n with
  | none => none
  | some a => if fn ∉ s.host.d3hot ∧ a + n ≤ s.capacity then some a else none

/-- An access of a function that completes as an Unsupported Request. -/
def State.refuseFn (s : State) (fn : FnNo) : State := s.emit (.unsupported (.fn fn))

/-- BAR4_WRITE: through the shared cache with STREAM. -/
def execBar4Write (fn : FnNo) (offset : Nat) (data : Bytes) (s : State) : Result :=
  .next (s.byHost fun s =>
    match s.bar4At fn offset data.length with
    | none => s.refuseFn fn
    | some a => (s.writeTier tStacked 0 a data).touch 0 true ((List.range data.length).map (a + ·)))

/-- BAR4_READ: poisoned data complete as an Unsupported Request. -/
def execBar4Read (fn : FnNo) (offset : Nat) (len : Nat) (s : State) : Result :=
  .next (s.byHost fun s =>
    match s.bar4At fn offset len with
    | none => s.refuseFn fn
    | some a =>
      if s.rangeBad tStacked 0 a len then s.refuseFn fn
      else (s.touch 0 false ((List.range len).map (a + ·))).emit (.bar4Data fn (s.tierBytes tStacked 0 a len)))

/-! ## Registers that are views (R363, R365, R369, R370) -/

/-- Registers with covered fields (R374): 4 of CRC, CAC and HBC, 1,030 of each partition, 8,211 of OXL, 32 of QUE. -/
def coveredCount : Nat := 24727

/-- The length of the configuration image in bytes (R374). -/
def State.configLength (s : State) : Nat := 4 * coveredCount + 16 * 128 + ((s.config.book.map (·.bytes.length)).getD 0)

/-- The static 7-bit address of the sideband port (R383). -/
def State.sidebandAddress (s : State) : Nat := 0x60 + s.straps.toNat

/-- A register as a read returns it: views of other state are computed, the rest stands in the file. PMT.LOAD is measured at each
read and reads 0 here. -/
def State.readReg (s : State) (r : Reg) : Word32 :=
  match r with
  | .cueCountLo => BitVec.ofNat 32 s.time.cue
  | .cueCountHi => BitVec.ofNat 32 (s.time.cue / 2 ^ 32)
  | .hubSerialLo => BitVec.ofNat 32 s.serial
  | .hubSerialHi => BitVec.ofNat 32 (s.serial / 2 ^ 32)
  | .hbcCapLo => BitVec.ofNat 32 s.capacity
  | .hbcCapHi => BitVec.ofNat 32 (s.capacity / 2 ^ 32)
  | .hubPropLo i => BitVec.ofNat 32 (s.property i)
  | .hubPropHi i => BitVec.ofNat 32 (s.property i / 2 ^ 32)
  | .queHead q => BitVec.ofNat 32 (s.queue q).head
  | .queTail q => BitVec.ofNat 32 (s.queue q).tail
  | .queQstat q =>
    let inScene := (s.partOf q).any fun p => s.inScene p q
    BitVec.ofNat 32 (sat 8191 (s.instsOf q).length + b2n inScene * 2 ^ 13 + (s.queue q).block.kind * 2 ^ 14)
  | .crcImage => BitVec.ofNat 32 (s.configLength % 2 ^ 24)
  | .parGate p g =>
    let v := s.gate p g
    BitVec.ofNat 32 (v.count + v.rank * 2 ^ 16 + b2n v.broken * 2 ^ 24 + b2n (!v.waiters.isEmpty) * 2 ^ 25)
  | _ => s.word r

/-! ## SNAP (R357, R364) -/

/-- Every register of the global window below the mirror, in no order that matters. -/
def snapRegs : List Reg :=
  fixedRegs ++ (regFamilies.flatMap fun f => (List.range f.2.2.1).map f.2.2.2) ++
    (List.range 16).flatMap fun p => (List.range 1024).map fun g => .parGate p g

/-- The bits of a register that the mirror keeps: those of its RO, SHO and W1C fields. -/
def Reg.mirrored (r : Reg) (v : Nat) : Nat :=
  r.fields.foldl (fun acc f =>
    match f.access with
    | .ro => setBits acc f.lo f.len (bits v f.lo f.len)
    | .sho => setBits acc f.lo f.len (bits v f.lo f.len)
    | .w1c => setBits acc f.lo f.len (bits v f.lo f.len)
    | _ => acc) 0

/-- A capture is asked for. -/
def State.snap (s : State) : State := (s.setFld F.hubSnapDone 0).setFld F.hubSnapPending 1

/-- The capture: every register's counters and states at one cue edge. -/
def State.capture (s : State) : State :=
  if s.flag F.hubSnapPending then
    let m := (snapRegs.filter fun r => decide (r.addr < 0x800000)).foldl
      (fun m r => tblSet 0 m r.addr (BitVec.ofNat 32 (r.mirrored (s.readReg r).toNat))) s.regs.mirror
    ((s.setRegs { s.regs with mirror := m }).setFld F.hubSnapDone 1).setFld F.hubSnapPending 0
  else s

/-- SNAP_GO. -/
def execSnapGo (s : State) : Result := .next (s.byHost State.snap)
/-- TAP_SNAP: the test access port's SNAP. -/
def execTapSnap (s : State) : Result := .next (s.clocked State.snap)
/-- SNAP_CAPTURE. -/
def execSnapCapture (s : State) : Result := .next (s.clocked State.capture)

/-! ## The book (R371, R372) -/

/-- The header of a book, as its checks use it. -/
structure BookHead where
  length : Nat
  sysOff : Nat
  sysLen : Nat
  roOff : Nat
  roCount : Nat
  portCount : Nat
  portOff : Nat
  deriving DecidableEq, Repr

/-- A header from a book's first 64 bytes. -/
def BookHead.ofBytes (b : Bytes) : BookHead :=
  ⟨field b 8 4, field b 0x0C 4, field b 0x10 4, field b 0x14 4, field b 0x18 2, field b 0x1A 2, field b 0x1C 4⟩

/-- Sections that hold something: offset and bytes. -/
def BookHead.sections (h : BookHead) : List (Nat × Nat) :=
  [(0, 64), (h.sysOff, h.sysLen), (h.roOff, 32 * h.roCount), (h.portOff, 32 * h.portCount)].filter fun x => x.2 != 0

/-- Check 4 of the header: lengths, offsets and counts in range, sections inside LENGTH, aligned and disjoint. -/
def BookHead.ok (h : BookHead) : Bool :=
  between 64 1048576 h.length && h.length % 64 == 0 && between 64 65536 h.sysLen && h.sysLen % 64 == 0 && decide (h.roCount ≤ 256) &&
    decide (h.portCount ≤ 64) && (h.sections.all fun x => x.1 % 64 == 0 && decide (x.1 + x.2 ≤ h.length)) &&
    decide (h.sections.Pairwise fun a b => overlaps a.1 a.2 b.1 b.2 = false)

/-- A read-only range is well formed, and within its tier. -/
def RoRange.formed (r : RoRange) : Bool := r.clean && r.len != 0 && r.len % 64 == 0
def State.roWithin (s : State) (r : RoRange) : Bool :=
  match r.tier with
  | 1 => decide (r.base + r.len ≤ s.directWays * 2 ^ 24)
  | 2 => decide (r.base + r.len ≤ s.capacity)
  | 4 => decide (r.base + r.len ≤ 2 ^ 64)
  | _ => false

/-- A chain port is well formed, and inside its writer's window, as the block that PAR.PBLK names gives it. -/
def BookPort.formed (b : BookPort) : Bool := b.clean && between 4096 16777216 b.bytes && b.bytes % 64 == 0
def State.portWithin (s : State) (b : BookPort) : Bool :=
  let v := s.readBlock b.writer
  decide (b.writer < 16) && decide (b.reader < 16) && b.writer != b.reader && within b.base b.bytes v.directLo v.directUse

/-- The first check that a COMMIT fails, as its CAUSE: 0 when it passes all. -/
def State.bookCause (s : State) : Nat :=
  let a := s.pair .hubBookAddrLo .hubBookAddrHi
  let head := s.tierBytes tStacked 0 a 64
  let h := BookHead.ofBytes head
  let k : Book := ⟨s.tierBytes tStacked 0 a h.length⟩
  if (List.range 16).any fun p => s.flag (F.parCtrlEn p) then 6
  else if a % 64 ≠ 0 ∨ s.readEvent tStacked 0 a 64 ≠ 0 ∨ (h.length ≤ 1048576 ∧ s.readEvent tStacked 0 a h.length ≠ 0) then 1
  else if field head 0 4 ≠ 0x424F4F4B ∨ field head 4 2 ≠ 1 then 2
  else if field head 6 2 ≠ 0 ∨ allZero (slice head 0x20 32) = false ∨ h.ok = false ∨ (k.roRanges.all RoRange.formed) = false ∨
      (k.ports.all BookPort.formed) = false then 3
  else if (k.roRanges.all s.roWithin) = false then 4
  else if (k.ports.all s.portWithin) = false ∨ ((k.ports.map (·.port)).eraseDups.length == k.ports.length) = false then 5
  else 0

/-- COMMIT: refused at the first check that fails, else in progress. -/
def State.commitBook (s : State) : State :=
  if s.flag F.hubBookCtrlBusy then s
  else
    let c := s.bookCause
    if c ≠ 0 then ((s.setFld F.hubBookCtrlRefused 1).setFld F.hubBookCtrlCause c).raiseGlobal Ev.bookRefused
    else
      let a := s.pair .hubBookAddrLo .hubBookAddrHi
      let n := (BookHead.ofBytes (s.tierBytes tStacked 0 a 64)).length
      (s.setConfig { s.config with pending := some ⟨s.tierBytes tStacked 0 a n⟩ }).setFld F.hubBookCtrlBusy 1

/-- The digest of a book: CRC-64/XZ of its system section (R159). -/
def Book.digest (k : Book) : Nat := crc64 (slice k.bytes (field k.bytes 0x0C 4) (field k.bytes 0x10 4))

/-- The commit is done. -/
def State.bookDone (s : State) : State :=
  match s.config.pending with
  | none => s
  | some k =>
    let s := s.setConfig { s.config with book := some k, pending := none }
    let s := s.setPair .hubBookDigestLo .hubBookDigestHi k.digest
    let s := (s.setFld F.hubBookCtrlCommitted 1).setFld F.hubBookCtrlBusy 0
    s.configChanged.sendIdentities

/-- BOOK_COMMIT. -/
def execBookCommit (s : State) : Result := .next (s.byHost State.commitBook)
/-- BOOK_COMMIT_DONE. -/
def execBookCommitDone (s : State) : Result := .next (s.clocked State.bookDone)

/-! ## The configuration check (R374, R375) -/

/-- A covered field: every RWL field but PAR.GATE COUNT, and every field of OXL.RT, OXL.RTE, PAR.SHARES and PAR.PRIO. -/
def Reg.covers (r : Reg) (f : FieldSpec) : Bool :=
  match r with
  | .parGate _ _ => f.lo == 16
  | .oxlRt _ => true
  | .oxlRte _ => true
  | .parShares _ => true
  | .parPrio _ => true
  | _ => f.access == .rwl

/-- A register's word with uncovered fields as 0. -/
def Reg.covered (r : Reg) (v : Nat) : Nat :=
  r.fields.foldl (fun acc f => if r.covers f then setBits acc f.lo f.len (bits v f.lo f.len) else acc) 0

/-- The registers with covered fields, in increasing offset of the global window. -/
def coveredRegs : List Reg :=
  [.crcCtrl, .cacCtrl, .hbcCtrl, .hbcRehCtrl] ++
  ((List.range 16).flatMap fun p =>
    [.parShares p, .parPrio p, .parPblkLo p, .parPblkHi p, .parRblkLo p, .parRblkHi p] ++ (List.range 1024).map (.parGate p)) ++
  [.oxlCtrl, .oxlNode, .oxlCueCfg] ++ (List.range 16).map .oxlPortCfg ++ (List.range 4096).map .oxlRt ++ (List.range 4096).map .oxlRte ++
  (List.range 16).flatMap fun p => [.queQtabLo p, .queQtabHi p]

/-- The configuration image: covered registers, block copies, the book. -/
def State.configImage (s : State) : Bytes :=
  (coveredRegs.flatMap fun r => natLE 4 (r.covered (s.readReg r).toNat)) ++
    ((List.range 16).flatMap fun p =>
      (match (s.partition p).block with
       | some b => b.raw
       | none => zeros 64) ++
      (match (s.partition p).res with
       | some b => b.raw
       | none => zeros 64)) ++
    (match s.config.book with
     | some k => k.bytes
     | none => [])

/-- CRC.CTRL.EN written 1. -/
def State.crcOn (s : State) : State :=
  if s.flag F.crcCtrlEn then s
  else ((s.setConfig { s.config with crcSecond := false }).setFld F.crcCtrlEn 1).setFld F.crcStatusState 1

/-- CRC.CTRL.EN written 0. -/
def State.crcOff (s : State) : State :=
  ((s.setConfig { s.config with crcSecond := false }).setFld F.crcCtrlEn 0).setFld F.crcStatusState 0

/-- CRC.CTRL.COMMIT: the reference is taken, and a fresh pass starts. -/
def State.crcTake (s : State) : State :=
  if s.flag F.crcCtrlEn then
    (s.setConfig { s.config with crcRef := some (s.pair .crcRefLo .crcRefHi), crcSecond := false }).setFld F.crcStatusState 1
  else s

/-- A second pass disagrees too: MISMATCH, and under ENFORCE a withdrawal. -/
def State.drift (s : State) : State :=
  let s := ((s.setFld F.crcStatusState 3).setFld F.crcStatusDrift 1).raiseGlobal Ev.configDrift
  s.when (s.flag F.crcCtrlEnforce = true) State.withdraw

/-- A pass ends (R375): equal to the reference makes MATCH, unless it is a second pass or a MISMATCH stands; unequal makes a second
pass, and again MISMATCH. Before a first COMMIT there is no reference to meet. -/
def State.crcPass (s : State) : State :=
  if s.flag F.crcCtrlEn = false then s
  else
    let v := crc64 s.configImage
    let second := s.config.crcSecond
    let s := (s.setPair .crcLastLo .crcLastHi v).countFld F.crcStatusPasses 1
    match s.config.crcRef with
    | none => s
    | some r =>
      if v = r then
        let s := s.setConfig { s.config with crcSecond := false }
        if second ∨ s.fld F.crcStatusState = 3 then s else s.setFld F.crcStatusState 2
      else if second then
        let s := s.setConfig { s.config with crcSecond := false }
        if s.fld F.crcStatusState = 3 then s else s.drift
      else s.setConfig { s.config with crcSecond := true }

/-- CRC_ENABLE. -/
def execCrcEnable (s : State) : Result := .next (s.byHost State.crcOn)
/-- CRC_DISABLE. -/
def execCrcDisable (s : State) : Result := .next (s.byHost State.crcOff)
/-- CRC_COMMIT. -/
def execCrcCommit (s : State) : Result := .next (s.byHost State.crcTake)
/-- CRC_PASS_END. -/
def execCrcPassEnd (s : State) : Result := .next (s.clocked State.crcPass)

/-! ## The global event ring (R335, R354) -/

/-- PCI.EVT_CTRL.EN goes to 1: at the first time the events held since start-up are written into the ring. -/
def State.evtOn (s : State) : State :=
  if s.flag F.pciEvtCtrlEn then s
  else
    let held := s.host.evtHeld
    let s := (s.setFld F.pciEvtCtrlEn 1).setHost { s.host with evtEver := true, evtHeld := [] }
    s.over held fun s e => s.eventWrite e.1 e.2.1 e.2.2.1 e.2.2.2

/-- EVT_RING_ENABLE. -/
def execEvtRingEnable (s : State) : Result := .next (s.byHost State.evtOn)

end Sys2Proof.Machine
end

