-- ==== Sys2Proof/Machine/Instructions.lean ====
section
/-!
DEFINITION. The instructions as commands: each row of an opcode issues the head packet of its queue, when that packet is of
the row's opcode and may issue now (R19 to R22). What the instruction does stands in the families' files.
A packet takes effect at issue or when what it waits for has come (DEDUCED, log entry 16).
-/

namespace Sys2Proof.Machine


/-- NOP (R52). -/
def execNop (q : QueueNo) (s : State) : Result := .next (s.issue q.val 0x00)

/-- SCENE.BEGIN (R25). -/
def execSceneBegin (q : QueueNo) (s : State) : Result := .next (s.issue q.val 0x01)

/-- SCENE.END (R27). -/
def execSceneEnd (q : QueueNo) (s : State) : Result := .next (s.issue q.val 0x02)

/-- PREEMPT.OK (R30). -/
def execPreemptOk (q : QueueNo) (s : State) : Result := .next (s.issue q.val 0x03)

/-- CHAIN (R36). -/
def execChain (q : QueueNo) (s : State) : Result := .next (s.issue q.val 0x04)

/-- GATE.ACQ (R38). -/
def execGateAcq (q : QueueNo) (s : State) : Result := .next (s.issue q.val 0x05)

/-- GATE.REL (R38). -/
def execGateRel (q : QueueNo) (s : State) : Result := .next (s.issue q.val 0x06)

/-- HURDLE (R41). -/
def execHurdle (q : QueueNo) (s : State) : Result := .next (s.issue q.val 0x07)

/-- CUE.STAMP (R43). -/
def execCueStamp (q : QueueNo) (s : State) : Result := .next (s.issue q.val 0x08)

/-- PROP.READ (R70). -/
def execPropRead (q : QueueNo) (s : State) : Result := .next (s.issue q.val 0x09)

/-- QUEUE.RESUME (R24). -/
def execQueueResume (q : QueueNo) (s : State) : Result := .next (s.issue q.val 0x0A)

/-- MMA (R72). -/
def execMma (q : QueueNo) (s : State) : Result := .next (s.issue q.val 0x10)

/-- MMA.SEND (R175). -/
def execMmaSend (q : QueueNo) (s : State) : Result := .next (s.issue q.val 0x11)

/-- MMA.RSUM (R176). -/
def execMmaRsum (q : QueueNo) (s : State) : Result := .next (s.issue q.val 0x12)

/-- GATHER.MMA (R178). -/
def execGatherMma (q : QueueNo) (s : State) : Result := .next (s.issue q.val 0x13)

/-- A2A.MMA (R179). -/
def execA2aMma (q : QueueNo) (s : State) : Result := .next (s.issue q.val 0x14)

/-- MMA.A2A (R181). -/
def execMmaA2a (q : QueueNo) (s : State) : Result := .next (s.issue q.val 0x15)

/-- CONV (R92). -/
def execConv (q : QueueNo) (s : State) : Result := .next (s.issue q.val 0x18)

/-- ATTN.FWD (R133). -/
def execAttnFwd (q : QueueNo) (s : State) : Result := .next (s.issue q.val 0x1C)

/-- ATTN.BWD (R147). -/
def execAttnBwd (q : QueueNo) (s : State) : Result := .next (s.issue q.val 0x1D)

/-- VADD (R87). -/
def execVadd (q : QueueNo) (s : State) : Result := .next (s.issue q.val 0x30)

/-- VSUB (R87). -/
def execVsub (q : QueueNo) (s : State) : Result := .next (s.issue q.val 0x31)

/-- VMUL (R87). -/
def execVmul (q : QueueNo) (s : State) : Result := .next (s.issue q.val 0x32)

/-- VFMA (R87). -/
def execVfma (q : QueueNo) (s : State) : Result := .next (s.issue q.val 0x33)

/-- VMAX (R87). -/
def execVmax (q : QueueNo) (s : State) : Result := .next (s.issue q.val 0x34)

/-- VMIN (R87). -/
def execVmin (q : QueueNo) (s : State) : Result := .next (s.issue q.val 0x35)

/-- VCVT (R87). -/
def execVcvt (q : QueueNo) (s : State) : Result := .next (s.issue q.val 0x36)

/-- VSCALE (R87). -/
def execVscale (q : QueueNo) (s : State) : Result := .next (s.issue q.val 0x37)

/-- VRSUM (R87). -/
def execVrsum (q : QueueNo) (s : State) : Result := .next (s.issue q.val 0x38)

/-- VRMAX (R87). -/
def execVrmax (q : QueueNo) (s : State) : Result := .next (s.issue q.val 0x39)

/-- VRSQSUM (R87). -/
def execVrsqsum (q : QueueNo) (s : State) : Result := .next (s.issue q.val 0x3A)

/-- EXP (R87). -/
def execExp (q : QueueNo) (s : State) : Result := .next (s.issue q.val 0x40)

/-- EXP2 (R87). -/
def execExp2 (q : QueueNo) (s : State) : Result := .next (s.issue q.val 0x41)

/-- LOG (R87). -/
def execLog (q : QueueNo) (s : State) : Result := .next (s.issue q.val 0x42)

/-- RCP (R87). -/
def execRcp (q : QueueNo) (s : State) : Result := .next (s.issue q.val 0x43)

/-- RSQRT (R87). -/
def execRsqrt (q : QueueNo) (s : State) : Result := .next (s.issue q.val 0x44)

/-- TANH (R87). -/
def execTanh (q : QueueNo) (s : State) : Result := .next (s.issue q.val 0x45)

/-- SIGMOID (R87). -/
def execSigmoid (q : QueueNo) (s : State) : Result := .next (s.issue q.val 0x46)

/-- SILU (R87). -/
def execSilu (q : QueueNo) (s : State) : Result := .next (s.issue q.val 0x47)

/-- GELU (R87). -/
def execGelu (q : QueueNo) (s : State) : Result := .next (s.issue q.val 0x48)

/-- SIN (R87). -/
def execSin (q : QueueNo) (s : State) : Result := .next (s.issue q.val 0x49)

/-- COS (R87). -/
def execCos (q : QueueNo) (s : State) : Result := .next (s.issue q.val 0x4A)

/-- GLU.ACT (R91). -/
def execGluAct (q : QueueNo) (s : State) : Result := .next (s.issue q.val 0x50)

/-- SOFTMAX (R89). -/
def execSoftmax (q : QueueNo) (s : State) : Result := .next (s.issue q.val 0x51)

/-- RMSNORM (R87). -/
def execRmsnorm (q : QueueNo) (s : State) : Result := .next (s.issue q.val 0x52)

/-- ROPE (R88). -/
def execRope (q : QueueNo) (s : State) : Result := .next (s.issue q.val 0x53)

/-- MOVE (R202). -/
def execMove (q : QueueNo) (s : State) : Result := .next (s.issue q.val 0x60)

/-- FILL (R202). -/
def execFill (q : QueueNo) (s : State) : Result := .next (s.issue q.val 0x61)

/-- GATHER (R203). -/
def execGather (q : QueueNo) (s : State) : Result := .next (s.issue q.val 0x62)

/-- SCATTER (R204). -/
def execScatter (q : QueueNo) (s : State) : Result := .next (s.issue q.val 0x63)

/-- PUSH (R202). -/
def execPush (q : QueueNo) (s : State) : Result := .next (s.issue q.val 0x64)

/-- POP (R202). -/
def execPop (q : QueueNo) (s : State) : Result := .next (s.issue q.val 0x65)

/-- PREFETCH (R202). -/
def execPrefetch (q : QueueNo) (s : State) : Result := .next (s.issue q.val 0x66)

/-- CLEAN (R202). -/
def execClean (q : QueueNo) (s : State) : Result := .next (s.issue q.val 0x67)

/-- RUN.LOAD (R210). -/
def execRunLoad (q : QueueNo) (s : State) : Result := .next (s.issue q.val 0x68)

/-- RUN.MARK (R211). -/
def execRunMark (q : QueueNo) (s : State) : Result := .next (s.issue q.val 0x69)

/-- RUN.WAIT (R211). -/
def execRunWait (q : QueueNo) (s : State) : Result := .next (s.issue q.val 0x6A)

/-- ATOM (R205). -/
def execAtom (q : QueueNo) (s : State) : Result := .next (s.issue q.val 0x70)

/-- ATOM.CAS (R205). -/
def execAtomCas (q : QueueNo) (s : State) : Result := .next (s.issue q.val 0x71)

/-- OPT.ADAMW (R222). -/
def execOptAdamw (q : QueueNo) (s : State) : Result := .next (s.issue q.val 0x80)

/-- OPT.LION (R222). -/
def execOptLion (q : QueueNo) (s : State) : Result := .next (s.issue q.val 0x81)

/-- OPT.SGDM (R222). -/
def execOptSgdm (q : QueueNo) (s : State) : Result := .next (s.issue q.val 0x82)

/-- CAST.LOAD (R152). -/
def execCastLoad (q : QueueNo) (s : State) : Result := .next (s.issue q.val 0x90)

/-- CAST.READ (R152). -/
def execCastRead (q : QueueNo) (s : State) : Result := .next (s.issue q.val 0x91)

/-- DECODE.ATTN (R153). -/
def execDecodeAttn (q : QueueNo) (s : State) : Result := .next (s.issue q.val 0x92)

end Sys2Proof.Machine
end

