-- ==== Sys2Proof/Machine/Progress.lean ====
section
/-!
DEFINITION. What happens to instructions in flight: messages of collectives and rings, ring steps, retirement in ring
order, the ends of waits, FIFO units, working areas, Apron tiles, seals (R22, R26, R27, R33, R37 to R42, R65, R98, R138 to
R146, R161 to R168, R226, R239, R240). A command whose event cannot happen in the state as it stands changes nothing (DESIGN CHOICE,
log entry 1).
-/

namespace Sys2Proof.Machine

/-! ## Messages of fused collectives (R161 to R170) -/

/-- COLL_READY. -/
def execCollReady (p : PartNo) (hdr : CollHeader) (s : State) : Result := .next (s.clocked fun s => (s.collMessage p hReady hdr []).follow)
/-- COLL_GO. -/
def execCollGo (p : PartNo) (hdr : CollHeader) (s : State) : Result := .next (s.clocked fun s => (s.collMessage p hGo hdr []).follow)
/-- COLL_OPEN. -/
def execCollOpen (p : PartNo) (hdr : CollHeader) (payload : Bytes) (s : State) : Result :=
  .next (s.clocked fun s => (s.collMessage p hOpen hdr payload).follow)
/-- COLL_CREDIT. -/
def execCollCredit (p : PartNo) (hdr : CollHeader) (s : State) : Result := .next (s.clocked fun s => (s.collMessage p hCredit hdr []).follow)
/-- COLL_DATA. -/
def execCollData (p : PartNo) (hdr : CollHeader) (payload : Bytes) (s : State) : Result :=
  .next (s.clocked fun s => (s.collMessage p hData hdr payload).follow)
/-- COLL_DONE. -/
def execCollDone (p : PartNo) (hdr : CollHeader) (s : State) : Result := .next (s.clocked fun s => (s.collMessage p hDone hdr []).follow)
/-- COLL_CLOSE. -/
def execCollClose (p : PartNo) (hdr : CollHeader) (s : State) : Result := .next (s.clocked fun s => (s.collMessage p hClose hdr []).follow)
/-- COLL_POISON. -/
def execCollPoison (p : PartNo) (hdr : CollHeader) (s : State) : Result := .next (s.clocked fun s => (s.collMessage p hPoison hdr []).follow)
/-- COLL_ZERO. -/
def execCollZero (p : PartNo) (hdr : CollHeader) (s : State) : Result := .next (s.clocked fun s => (s.collMessage p hZero hdr []).follow)
/-- COLL_ABSENT. -/
def execCollAbsent (p : PartNo) (hdr : CollHeader) (s : State) : Result :=
  .next (s.clocked fun s => ((s.collMessage p hAbsent hdr []).follow).holdAbsent p hdr.company.toNat hdr.absentRank.toNat hdr.sendCue.toNat)

/-- The oldest fused collective of a queue. -/
def State.collOn (s : State) (q : Nat) : Option (Inst × Coll) := (s.instsOf q).findSome? fun i => i.coll.map fun c => (i, c)

/-- COLL_SLIP_EXPIRY (R168). -/
def execCollSlipExpiry (q : QueueNo) (rank : Word16) (s : State) : Result :=
  .next (s.clocked fun s => match s.collOn q.val with
    | some (i, c) => if i.wait = .exchange then (s.collSlip i c rank.toNat).follow else s
    | none => s)

/-! ## Ring steps and messages (R138 to R146) -/

/-- RING_STEP_BEGIN. -/
def execRingStepBegin (q : QueueNo) (s : State) : Result :=
  .next (s.clocked fun s => match s.ringOn q with
    | some (i, r) => (s.beginStep i r).follow
    | none => s)

/-- RING_STEP_END. -/
def execRingStepEnd (q : QueueNo) (s : State) : Result :=
  .next (s.clocked fun s => match s.ringOn q with
    | some (i, r) => (s.endStep i r).follow
    | none => s)

/-- RING_DATA. -/
def execRingData (p : PartNo) (hdr : RingHeader) (payload : Bytes) (s : State) : Result :=
  .next (s.clocked fun s => (s.ringMessage p hData hdr payload).follow)
/-- RING_CREDIT. -/
def execRingCredit (p : PartNo) (hdr : RingHeader) (s : State) : Result := .next (s.clocked fun s => (s.ringMessage p hCredit hdr []).follow)
/-- RING_DONE. -/
def execRingDone (p : PartNo) (hdr : RingHeader) (s : State) : Result := .next (s.clocked fun s => (s.ringMessage p hDone hdr []).follow)
/-- RING_POISON. -/
def execRingPoison (p : PartNo) (hdr : RingHeader) (s : State) : Result := .next (s.clocked fun s => (s.ringMessage p hPoison hdr []).follow)
/-- RING_ABSENT. -/
def execRingAbsent (p : PartNo) (hdr : RingHeader) (s : State) : Result :=
  .next (s.clocked fun s => ((s.ringMessage p hAbsent hdr []).follow).holdAbsent p hdr.company.toNat hdr.absentRank.toNat hdr.sendCue.toNat)
/-- RING_ZERO. -/
def execRingZero (p : PartNo) (hdr : RingHeader) (s : State) : Result := .next (s.clocked fun s => (s.ringMessage p hZero hdr []).follow)

/-- RING_SLIP_EXPIRY (R146). -/
def execRingSlipExpiry (q : QueueNo) (fromNext : Bool) (s : State) : Result :=
  .next (s.clocked fun s => match s.ringOn q with
    | some (i, r) => (s.ringSlip i r fromNext).follow
    | none => s)

/-! ## Retirement and scenes (R22, R26, R27) -/

/-- The oldest instruction in flight of a queue. -/
def State.oldest (s : State) (q : Nat) : Option Inst := (s.instsOf q).head?

/-- The oldest instruction of a queue writes what it held back and retires, when it may (R22, R77). -/
def State.retireOldest (s : State) (q : Nat) : State :=
  match s.oldest q with
  | some i =>
    let m := s.land i
    if m.1.canRetire m.2 then m.1.retireOf m.2 else m.1.setInst m.2
  | none => s

/-- INSTRUCTION_RETIRE. -/
def execInstructionRetire (q : QueueNo) (s : State) : Result := .next (s.clocked fun s => (s.retireOldest q).follow)

/-- A SCENE.BEGIN that waited opens its scene once it may (R26, R260): with E_SCENE when its block has come to name a queue
of another scene (R25). -/
def State.beginWaited (s : State) (q : Nat) : State :=
  match s.oldest q with
  | none => s
  | some i =>
    if (i.wait = .sceneLimit ∨ i.wait = .boundary) ∧ s.mayOpen i then
      s.retireOf { i with wait := .none, event := if s.blockOk i.part i.params then 0 else Ev.scene }
    else s

/-- SCENE_BEGIN_RETIRE. -/
def execSceneBeginRetire (q : QueueNo) (s : State) : Result := .next (s.clocked fun s => (s.beginWaited q).settle)

/-- A SCENE.END retires once its scene is done (R27). -/
def State.endWaited (s : State) (q : Nat) : State :=
  match s.oldest q with
  | none => s
  | some i =>
    match i.scene.bind (s.scene? i.part) with
    | none => s
    | some sc => if i.wait = .sceneEnd ∧ s.mayEnd i sc then s.retireEnd i sc.firstEvent false else s

/-- SCENE_END_RETIRE. -/
def execSceneEndRetire (q : QueueNo) (s : State) : Result := .next (s.clocked fun s => (s.endWaited q).settle)

/-- SCENE_RUN (R26). -/
def execSceneRun (p : PartNo) (s : State) : Result := .next (s.clocked fun s => s.schedule p)

/-! ## Gates, hurdles and chain ports (R37, R38, R41) -/

/-- The oldest waiter of a gate acquires it, once its count is above 0 (R38, R242). -/
def State.grant (s : State) (p g : Nat) : State :=
  let v := s.gate p g
  match v.waiters with
  | [] => s
  | q :: t =>
    if v.count = 0 then s
    else
      match (s.instsOf q).find? (fun i => i.wait == .gate g) with
      | none => s.setGate p g { v with waiters := t }
      | some i =>
        let m := (s.setGate p g { v with waiters := t }).acquire i g
        m.1.place m.2

/-- GATE_ACQ_GRANT. -/
def execGateAcqGrant (p : PartNo) (g : GateNo) (s : State) : Result := .next (s.clocked fun s => (s.grant p g).settle)

/-- HURDLE_GENERATION_COMPLETE. -/
def execHurdleGenerationComplete (p : PartNo) (h : HurdleNo) (s : State) : Result := .next (s.clocked fun s => (s.completeGen p h).settle)

/-- Every CHAIN that waits at a port goes on as far as it can (R37). -/
def State.portGoes (s : State) (port : Nat) : State :=
  s.over (s.insts.filter fun i => decide (i.wait = .chainPort port)) fun s x =>
    match s.inst? x.queue x.index with
    | some i => s.chainGo i i.chainFuel
    | none => s

/-- CHAIN_PORT_CREDIT. -/
def execChainPortCredit (port : Word16) (s : State) : Result := .next (s.clocked fun s => (s.portGoes port.toNat).follow)

/-! ## Budgets (R42, R239, R240) -/

/-- The budget that bounds an instruction's wait: the partition's default outside a scene. -/
def State.budgetOf (s : State) (i : Inst) : Nat := s.waitBudget i.part (i.scene.bind (s.scene? i.part))

/-- A wait that the budget bounds: SCENE.END's only while a mark has not been rung (R28). -/
def State.bounded (s : State) (i : Inst) : Bool :=
  match i.wait with
  | .gate _ => true
  | .hurdle _ => true
  | .chainPort _ => true
  | .runWait _ => true
  | .sceneLimit => true
  | .boundary => true
  | .sceneEnd => ((i.scene.bind (s.scene? i.part)).map (s.unrung i.part)).getD false
  | _ => false

/-- A bounded wait whose budget is out ends as R42 states for its kind. -/
def State.expire (s : State) (i : Inst) : State :=
  let out : Inst := { i with wait := .none, immediate := true, event := Ev.waitBudget }
  match i.wait with
  | .gate g =>
    let v := s.gate i.part g
    (s.setGate i.part g { v with waiters := v.waiters.filter (· != i.queue) }).place out
  | .hurdle h => s.expireGen i.part h i.queue
  | .chainPort _ => s.endEarly i Ev.waitBudget
  | .sceneEnd =>
    (match i.scene.bind (s.scene? i.part) with
     | none => s
     | some sc => (s.abortScene i.part sc Ev.waitBudget).raiseEvent i.part Ev.waitBudget)
  | _ => s.place out

/-- The oldest bounded wait of a queue that is out of budget ends. -/
def State.expireWait (s : State) (q : Nat) : State :=
  match (s.instsOf q).find? (fun i => s.bounded i && decide (i.waitCue + s.budgetOf i ≤ s.time.cue)) with
  | none => s
  | some i => s.expire i

/-- WAIT_BUDGET_EXPIRY. -/
def execWaitBudgetExpiry (q : QueueNo) (s : State) : Result := .next (s.clocked fun s => (s.expireWait q).settle)

/-- The hold budget of the running scene runs out: it is aborted while held back, or else stays spent (R239, R240). -/
def State.expireHold (s : State) (p : Nat) : State :=
  match s.runningScene p with
  | none => s
  | some sc =>
    match sc.request with
    | none => s
    | some c =>
      if s.requested p sc && !sc.holdSpent && decide (c + s.holdBudget p sc ≤ s.time.cue) then
        if s.heldBack p sc then s.abortHold p sc else s.setScene p { sc with holdSpent := true }
      else s

/-- HOLD_BUDGET_EXPIRY. -/
def execHoldBudgetExpiry (p : PartNo) (s : State) : Result := .next (s.clocked fun s => (s.expireHold p).settle)

/-! ## Units, areas, tiles, entries, seals (R33, R65, R98, R211, R226) -/

/-- FIFO_UNIT_BEGIN. -/
def execFifoUnitBegin (q : QueueNo) (s : State) : Result := .next (s.clocked fun s => s.beginUnit q)

/-- A queue whose head waited for the place of its area tries again (R65). -/
def State.placeWaiting (s : State) (q : Nat) : State :=
  match s.partOf q with
  | none => s
  | some p =>
    let v := s.queue q
    if v.areaWait then (s.setQueue q { v with areaWait := false }).issue q (s.packetAt p q v.head).opcode else s

/-- WORK_AREA_PLACE. -/
def execWorkAreaPlace (q : QueueNo) (s : State) : Result := .next (s.clocked fun s => s.placeWaiting q)

/-- APRON_TILE_END. -/
def execApronTileEnd (die : DieNo) (s : State) : Result := .next (s.clocked fun s => (s.apronEnd die).follow)

/-- RUN_ENTRY_DONE: a background transfer completes, with the event that its link reports, if any. -/
def execRunEntryDone (q : QueueNo) (entry : Nat) (event : Word16) (s : State) : Result :=
  .next (s.clocked fun s => (s.entryDone q entry event.toNat).settle)

/-- The seal of an instruction may be written (R226): every PEER write of its queue before it, and its own, is acknowledged. -/
def State.maySeal (s : State) (i : Inst) : Bool :=
  decide (i.wait = .sealAck) && s.acked i.acks && ((s.instsOf i.queue).takeWhile fun x => x.index != i.index).all s.visible

/-- The oldest instruction of a queue whose seal may be written writes it (R226). -/
def State.writeSeal (s : State) (q : Nat) : State :=
  match (s.instsOf q).find? s.maySeal with
  | some i =>
    let m := i.sealers.foldl (fun acc x =>
      let r := acc.1.sendSeal x
      (r.1, acc.2 ++ r.2)) (s, [])
    m.1.setInst { i with wait := .none, acks := i.acks ++ m.2 }
  | none => s

/-- SEAL_WRITE. -/
def execSealWrite (q : QueueNo) (s : State) : Result := .next (s.clocked fun s => (s.writeSeal q).follow)

end Sys2Proof.Machine
end

