-- ==== Sys2Proof/Machine/Registers.lean ====
section
/-!
DEFINITION. Register accesses (R5, R248, R251, R345, R359 to R366): where an offset of BAR0 leads, the slot aliases, fields that are
written only while disabled, E_WIGN, what a write commands, reads and their latches.
Readings of the rules that they leave open: log entries 7, 8 and 9 (DEDUCED or DESIGN CHOICE, as the log marks each).
-/

namespace Sys2Proof.Machine

/-! ## Where an access leads (R345, R359, R364 to R366) -/

/-- What an offset names: a register with the partition window and window offset it was reached through; the holding mirror; the
sideband's buffer; nothing; or no access at all. -/
inductive Place where
  | reg (window : Option Nat) (offset : Nat) (r : Reg)
  | mirror (offset : Nat)
  | buffer (offset : Nat)
  | unused
  | unsupported
  deriving DecidableEq, Repr

/-- A place from what the register map gives. -/
def placeOf (window : Option Nat) (offset : Nat) (r : Option Reg) : Place :=
  match r with
  | some r => .reg window offset r
  | none => .unused

/-- An offset of the sideband's own registers and buffer (R377). -/
def sidebandOnly (a : Nat) : Bool := between 0x20200 0x2021F a || between 0x20400 0x204FF a

/-- An offset of the global window. -/
def globalPlace (sideband : Bool) (a : Nat) : Place :=
  if 0x800000 ≤ a then .mirror (a - 0x800000)
  else if sidebandOnly a then
    (if sideband = false then .unused else if 0x20400 ≤ a then .buffer (a - 0x20400) else placeOf none a (regAt (a / 16 * 16)))
  else placeOf none a (regAt (a / 16 * 16))

/-- The registers that a partition window shows of HUB and CUE (R366). -/
def windowAlias (w : Nat) : Option Reg :=
  if w = 0x8000 then some .hubId
  else if w = 0x8010 then some .hubSerialLo
  else if w = 0x8020 then some .hubSerialHi
  else if between 0x9000 0xAFFF w then regAt (w - 0x8000)
  else if w = 0xC000 then some .cueCountLo
  else if w = 0xC010 then some .cueCountHi
  else none

/-- A queue's register by its place in its 64 bytes. -/
def queueReg (q k : Nat) : Reg :=
  match k with
  | 0 => .queQctrl q
  | 1 => .queHead q
  | 2 => .queTail q
  | _ => .queQstat q

/-- An offset of the window of partition p (R366). -/
def State.windowPlace (s : State) (p w : Nat) : Place :=
  let a := w / 16 * 16
  let b := s.block p
  if a < 0x8000 then placeOf (some p) w (regAt (0x100000 + 0x8000 * p + a))
  else if a < 0x10000 then placeOf (some p) w (windowAlias a)
  else if a < 0x10080 then placeOf (some p) w (regAt (pmtBase p + (a - 0x10000)))
  else if a < 0x20000 then .unused
  else if a = 0x20000 then .reg (some p) w (.queQtabLo p)
  else if a = 0x20010 then .reg (some p) w (.queQtabHi p)
  else if 0x21000 ≤ a ∧ (a - 0x21000) / 64 < b.queueCount ∧ s.live p then
    .reg (some p) w (queueReg (b.queueFirst + (a - 0x21000) / 64) ((a - 0x21000) / 16 % 4))
  else .unused

/-- Where an access of a requester leads: the physical function, and the Prompter as it, see the global window and every partition
window; a virtual function those of its partitions, in increasing number; the sideband port the global window. -/
def State.placeAt (s : State) (who : Requester) (off : Nat) : Place :=
  let wide : Place :=
    if off < 0x1000000 then globalPlace false off
    else if off < 0x2000000 then s.windowPlace ((off - 0x1000000) / 0x100000) (off % 0x100000)
    else .unsupported
  if off % 4 ≠ 0 then .unsupported
  else
    match who with
    | .fn f =>
      if f.val ∈ s.host.d3hot then .unsupported
      else if f.val = 0 then wide
      else
        (match (s.fnParts f.val)[off / 0x100000]? with
         | some p => s.windowPlace p (off % 0x100000)
         | none => .unsupported)
    | .prompter => wide
    | .sideband => if off < 0x1000000 then globalPlace true off else .unsupported

/-- An access that a requester can make now: a function while the link serves requests, the Prompter while its cores run, the
sideband while the device is powered. -/
def State.canAccess (s : State) (who : Requester) : Bool :=
  match who with
  | .fn _ => s.host.pcieUp
  | .prompter => s.running && s.prom.cores == .running
  | .sideband => !s.shep.dark

/-! ## Reads (R360, R363) -/

/-- A requester's number. -/
def requesterNo (who : Requester) : Nat :=
  match who with
  | .fn f => f.val
  | .prompter => 17
  | .sideband => 18

/-- The _HI register that a read of a latching _LO register latches. -/
def Reg.latched (r : Reg) : Option Reg :=
  match r with
  | .cueCountLo => some .cueCountHi
  | .hubSerialLo => some .hubSerialHi
  | .hubBookDigestLo => some .hubBookDigestHi
  | .hubPropLo i => some (.hubPropHi i)
  | .crcLastLo => some .crcLastHi
  | .hbcCapLo => some .hbcCapHi
  | .ldgSeqLo => some .ldgSeqHi
  | _ => none

/-- A _HI register with a latch. -/
def Reg.isLatch (r : Reg) : Bool :=
  match r with
  | .cueCountHi => true
  | .hubSerialHi => true
  | .hubBookDigestHi => true
  | .hubPropHi _ => true
  | .crcLastHi => true
  | .hbcCapHi => true
  | .ldgSeqHi => true
  | _ => false

/-- The key of a requester's shadow of a register. -/
def shadowKey (who : Requester) (r : Reg) : Nat := requesterNo who * 2 ^ 32 + r.addr

/-- A register read by a requester: its value, and the state with the half latched. -/
def State.readBy (s : State) (who : Requester) (r : Reg) : Word32 × State :=
  match r with
  | .pmtLoad =>
    let l := s.loadNow
    (BitVec.ofNat 32 l.1, l.2)
  | _ =>
    match r.latched with
    | some h => (s.readReg r, s.setRegs { s.regs with shadows := tblSet none s.regs.shadows (shadowKey who h) (some (s.readReg h)) })
    | none => (if r.isLatch then (tblGet none s.regs.shadows (shadowKey who r)).getD (s.readReg r) else s.readReg r, s)

/-- A read of a requester at an offset. -/
def State.readAt (s : State) (who : Requester) (off : Nat) : State :=
  match s.placeAt who off with
  | .reg _ _ r =>
    let m := s.readBy who r
    m.2.emit (.readData who m.1)
  | .mirror a => s.emit (.readData who (tblGet 0 s.regs.mirror (a / 16 * 16)))
  | .buffer a => s.emit (.readData who (BitVec.ofNat 32 (leNat (Memory.readN s.prom.sideband a 4))))
  | .unused => s.emit (.readData who 0)
  | .unsupported => s.emit (.unsupported who)

/-- LO_READ_LATCH: a register read; one of a latching _LO register latches its _HI half for the requester. -/
def execLoReadLatch (who : Requester) (offset : Nat) (s : State) : Result :=
  .next (if s.canAccess who then s.readAt who offset else s)

/-! ## What a write makes of a register's fields (R5, R360, R362) -/

/-- The EN that governs a register's RWL fields stands at 1. -/
def State.lockedBy (s : State) (r : Reg) : Bool :=
  match r with
  | .cacCtrl => s.flag F.cacCtrlEn
  | .hbcCtrl => s.flag F.hbcCtrlEn
  | .hbcRehCtrl => s.flag F.hbcCtrlEn
  | .crcCtrl => s.flag F.crcCtrlEn
  | .oxlCtrl => s.flag F.oxlCtrlEn
  | .oxlNode => s.flag F.oxlCtrlEn
  | .oxlCueCfg => s.flag F.oxlCtrlEn
  | .oxlPortCfg _ => s.flag F.oxlCtrlEn
  | .parGate p _ => s.flag (F.parCtrlEn p)
  | .parPblkLo p => s.flag (F.parCtrlEn p)
  | .parPblkHi p => s.flag (F.parCtrlEn p)
  | .parRblkLo p => s.flag (F.parCtrlEn p)
  | .parRblkHi p => s.flag (F.parCtrlEn p)
  | .queQtabLo p => s.flag (F.parCtrlEn p)
  | .queQtabHi p => s.flag (F.parCtrlEn p)
  | _ => false

/-- A readable and writable field after a write: at slot offset 0 the value, at 4 bits set, at 8 cleared, at 12 inverted. -/
def rwAfter (sub old v : Nat) : Nat :=
  match sub with
  | 0 => v
  | 4 => Nat.lor old v
  | 8 => Nat.land old (Nat.xor old v)
  | _ => Nat.xor old v

/-- A field after a write. A W1C count is cleared by a 1 in any of its bits. -/
def FieldSpec.after (f : FieldSpec) (sub old v : Nat) (locked : Bool) : Nat :=
  match f.access with
  | .rw => rwAfter sub old v
  | .rwl => if locked then old else rwAfter sub old v
  | .w1c => if sub = 0 ∧ v ≠ 0 then 0 else old
  | _ => old

/-- A register's word after a write, field by field. -/
def Reg.after (r : Reg) (sub old v : Nat) (locked : Bool) : Nat :=
  r.fields.foldl (fun acc f => setBits acc f.lo f.len (f.after sub (bits old f.lo f.len) (bits v f.lo f.len) locked)) old

/-- A write that reaches a locked field is ignored there (R5, R252, R360): one at slot offset 0 writes every field of the register,
one through an alias those in which it has a 1. -/
def Reg.ignores (r : Reg) (sub v : Nat) : Bool :=
  r.fields.any fun f => f.access == .rwl && (sub == 0 || bits v f.lo f.len != 0)

/-- A WO bit written 1: at slot offset 0 or through the set alias. -/
def commands (sub v lo : Nat) : Bool := decide (sub = 0 ∨ sub = 4) && bits v lo 1 == 1

/-! ## What a write commands -/

/-- A control register with an EN bit at bit 0: its other fields take the word, and then EN rises or falls as its own command does. -/
def State.writeCtrl (s : State) (r : Reg) (old w : Nat) (on off : State → State) : State :=
  let s := s.setWord r (BitVec.ofNat 32 (setBits w 0 1 (bits old 0 1)))
  if bits old 0 1 = 0 ∧ bits w 0 1 = 1 then on s else if bits old 0 1 = 1 ∧ bits w 0 1 = 0 then off s else s

/-- PAR.CTRL. -/
def State.writeParCtrl (s : State) (p old w : Nat) (reset : Bool) : State :=
  let s := if bits old 0 1 = 0 ∧ bits w 0 1 = 1 then s.enablePart p else if bits old 0 1 = 1 ∧ bits w 0 1 = 0 then s.disablePart p else s
  s.when (reset = true) (·.triggerReset p)

/-- PAR.LOCK: ACQ, COMMIT and ABORT in that order. -/
def State.writeLock (s : State) (p : Nat) (who : Requester) (acq commit abort : Bool) : State :=
  ((s.when (acq = true) (·.takeLock p who)).when (commit = true) (·.commitBy p who)).when (abort = true) (·.abortBy p who)

/-- The staged value of a staged register (R248, R272). -/
def Staging.get (t : Staging) (r : Reg) : Option Word32 :=
  match r with
  | .parShares _ => t.shares
  | .parPrio _ => t.prio
  | .parPlanLo _ => t.planLo
  | .parPlanHi _ => t.planHi
  | _ => none

/-- A value staged. -/
def Staging.put (t : Staging) (r : Reg) (v : Word32) : Staging :=
  match r with
  | .parShares _ => { t with shares := some v }
  | .parPrio _ => { t with prio := some v }
  | .parPlanLo _ => { t with planLo := some v }
  | .parPlanHi _ => { t with planHi := some v }
  | _ => t

/-- A write of a staged register: at once while EN is 0; else into the staging copy of the lock's owner. -/
def State.writeStaged (s : State) (p : Nat) (who : Requester) (r : Reg) (sub v : Nat) : State :=
  if s.flag (F.parCtrlEn p) = false then s.setWord r (BitVec.ofNat 32 (r.after sub (s.word r).toNat v false))
  else if s.ownsLock p who then
    let t := (s.partition p).staging
    let old := ((t.get r).getD (s.word r)).toNat
    s.setPartition p { s.partition p with staging := t.put r (BitVec.ofNat 32 (r.after sub old v false)) }
  else s.lockedOut p

/-- QUE.QCTRL: EN_FAIL, EN, then RESUME. -/
def State.writeQctrl (s : State) (q old w : Nat) (resume : Bool) : State :=
  let s := s.setFld (F.queQctrlEnFail q) (bits w 3 1)
  let s := if bits old 0 1 = 0 ∧ bits w 0 1 = 1 then s.enableQueue q else if bits old 0 1 = 1 ∧ bits w 0 1 = 0 then s.disableQueue q else s
  s.when (resume = true) (·.resumeQueue q)

/-- A register given its new word w, with what writing it commands. old is the word before, v the value written. -/
def State.store (s : State) (who : Requester) (window : Option Nat) (r : Reg) (sub v old w : Nat) : State :=
  let word : State → State := fun s => s.setWord r (BitVec.ofNat 32 w)
  match r with
  | .parCtrl p => s.writeParCtrl p old w (commands sub v 1)
  | .parLock p => s.writeLock p who (commands sub v 0) (commands sub v 1) (commands sub v 2)
  | .parShares p => s.writeStaged p who r sub v
  | .parPrio p => s.writeStaged p who r sub v
  | .parPlanLo p => s.writeStaged p who r sub v
  | .parPlanHi p => s.writeStaged p who r sub v
  | .parGate p g => s.setGate p g { s.gate p g with count := bits w 0 16, rank := bits w 16 8 }
  | .parPblkLo _ => s.when (window = none) word
  | .parPblkHi _ => s.when (window = none) word
  | .parRblkLo _ => s.when (window = none) word
  | .parRblkHi _ => s.when (window = none) word
  | .queQctrl q => s.writeQctrl q old w (commands sub v 1)
  | .cacCtrl => s.writeCtrl r old w State.cacOn (·.setFld F.cacCtrlEn 0)
  | .hbcCtrl => s.writeCtrl r old w State.hbcOn State.hbcOff
  | .hbcRehCtrl => (word s).when (commands sub v 16 = true) State.rehearse
  | .oxlCtrl => s.writeCtrl r old w State.oxlOn State.oxlOff
  | .oxlCueCfg => (word s).rootConfigured
  | .crcCtrl => (s.writeCtrl r old w State.crcOn State.crcOff).when (commands sub v 1 = true) State.crcTake
  | .pciEvtCtrl => s.writeCtrl r old w State.evtOn (·.setFld F.pciEvtCtrlEn 0)
  | .hubSnap => s.when (commands sub v 0 = true) State.snap
  | .hubBookCtrl => (word s).when (commands sub v 0 = true) State.commitBook
  | .pmtMbxCtrl b => (word s).when (commands sub v 0 = true) (·.submit b)
  | .pmtKick => s.when (sub = 0 ∨ sub = 4) (·.kick who v)
  | _ => s.when (w ≠ old) word

/-- The partition of a PAR register, whose STATUS.WIGN keeps an ignored write (R362). -/
def Reg.parOf (r : Reg) : Option Nat :=
  match r with
  | .parGate p _ => some p
  | .parPblkLo p => some p
  | .parPblkHi p => some p
  | .parRblkLo p => some p
  | .parRblkHi p => some p
  | _ => none

/-- E_WIGN for a register reached through a window. -/
def State.wign (s : State) (window : Option Nat) (off : Nat) (r : Reg) : State :=
  match r.parOf with
  | some p => s.wignPar window p
  | none => s.wignOther window off

/-- A register written by a requester: its fields by the access codes and slot aliases, what the write commands, the check's notice
of a covered field that changed (R375), and E_WIGN. -/
def State.writeReg (s : State) (who : Requester) (window : Option Nat) (off : Nat) (r : Reg) (v : Nat) : State :=
  let sub := off % 16
  let old := (s.readReg r).toNat
  let locked := s.lockedBy r
  let shut := window.isSome && (r.parOf.isSome && r.addr % 0x8000 < 0x1000)
  let before := r.covered old
  let s := s.store who window r sub v old (r.after sub old v locked)
  let s := s.when (r.covered (s.readReg r).toNat ≠ before) State.configChanged
  let told := r == .hbcRehCtrl && commands sub v 16
  s.when (locked && !shut && !told && r.ignores sub v) (·.wign window off r)

/-- A write of the sideband port: its buffer, and the GO register of its mailbox, whose other fields take the write too (R5, R377);
any other is ignored (R345). -/
def State.sidebandWrite (s : State) (place : Place) (v : Nat) : State :=
  match place with
  | .buffer a => s.setProm { s.prom with sideband := Memory.writeN s.prom.sideband a (natLE 4 v) }
  | .reg _ off (.pmtMbxCtrl 17) =>
    let r : Reg := .pmtMbxCtrl 17
    (s.setWord r (BitVec.ofNat 32 (r.after (off % 16) (s.word r).toNat v false))).when (commands (off % 16) v 0 = true) (·.submit 17)
  | _ => s

/-- A write of a requester at an offset. -/
def State.writeAt (s : State) (who : Requester) (off v : Nat) : State :=
  let place := s.placeAt who off
  if who = .sideband then s.sidebandWrite place v
  else
    match place with
    | .reg window o r => s.writeReg who window o r v
    | .unsupported => s.emit (.unsupported who)
    | _ => s

/-- REGISTER_WRITE. -/
def execRegisterWrite (who : Requester) (offset : Nat) (value : Word32) (s : State) : Result :=
  .next (if s.canAccess who then s.writeAt who offset value.toNat else s)

end Sys2Proof.Machine
end

