-- ==== Sys2Proof/Machine/Shepherd.lean ====
section
/-!
DEFINITION. The Shepherd's watch (R283 to R292, R298): temperatures, currents, coolant, leaks, the VHOLD bank, its own cores
and supply, and the bounds on the adaptive loops.
Readings of the rules that they leave open: log entry 45 (DEDUCED or DESIGN CHOICE, as the log marks each).
-/

namespace Sys2Proof.Machine

/-! ## Units (R306: fold, rail or input concerned) -/

/-- The number of a rail in UNIT; no rule numbers the rails. -/
def railUnit : CurrentRail → Nat
  | .vcore d => d.val
  | .memory d => 4 + d.val
  | .link => 8
  | .io => 9
  | .shepherd => 10

/-- The number of a rail with an undervoltage threshold. -/
def savedUnit : SavedRail → Nat
  | .vcore d => d.val
  | .vlink => 8
  | .vddcM => 11
  | .vddqM => 12
  | .vppM => 13

/-- The dies that a rail's trip or warning affects: its own, or all for a rail of the whole device. -/
def railDies : CurrentRail → List Nat
  | .vcore d => [d.val]
  | .memory d => [d.val]
  | _ => [0, 1, 2, 3]

/-- The limit of a rail in mA (R285, table Current limits). -/
def railLimit : CurrentRail → Nat
  | .vcore _ => 900000
  | .memory _ => 150000
  | .link => 80000
  | .io => 25000
  | .shepherd => 2000

/-- The undervoltage threshold of a rail in mV (R294). -/
def savedThreshold : SavedRail → Nat
  | .vcore _ => 900
  | .vddcM => 970
  | .vddqM => 690
  | .vppM => 1620
  | .vlink => 790

/-- The number of a sensors' place: a fold's own, 32 for the hub, 33 on for the stacks; no rule numbers the last two. -/
def heatUnit : HeatPlace → Nat
  | .fold f => f.val
  | .hub => 32
  | .stack k => 33 + k.val

/-- The folds of a die (R10). -/
def dieFolds (d : Nat) : List Nat := (List.range 8).map (8 * d + ·)

/-! ## Clocks and caps (R283 to R286) -/

/-- 0.9 GHz, and 2.0 GHz, in units of 10 MHz. -/
def slowClock : Nat := 90
def fastClock : Nat := 200

/-- The Shepherd's cap on a fold: 0.9 GHz at ALARM, with both sensors failed, or with the flow low; and a clock within it. -/
def State.applyCap (s : State) (f : Nat) : State :=
  let low := s.flag (F.shpTempAlarm f) || s.fld (F.shpTempFailed f) == 3 || s.shep.flowCapped
  let cap := if low then slowClock else fastClock
  (s.setFld (F.shpTempClockCap f) cap).setFoldClock f (min cap (s.foldClock f))

/-- The loop reduces a fold's clock, by how much no rule says: to a free setting above the lowest. -/
def State.reduceClock (s : State) (f : Nat) : State :=
  let c := s.foldClock f
  if c ≤ slowClock then s
  else
    let d := s.drawNat
    d.2.setFoldClock f (slowClock + d.1 % (c - slowClock))

/-- Every fold capped by the flow. -/
def State.capAll (s : State) : State :=
  (s.setShep { s.shep with flowCapped := true }).over (List.range 32) State.applyCap

/-! ## Temperature (R283, R284) -/

/-- The fold's temperature: the higher of its two sensors, in quarters of a degree. -/
def State.foldTemp (s : State) (f : Nat) : Nat := max (s.fld (F.shpTempSensorA f)) (s.fld (F.shpTempSensorB f))

/-- TARGET and ALARM of a fold in quarters: 6 K lower while its sensors disagree. -/
def State.targetOf (s : State) (f : Nat) : Nat := 4 * s.fld F.shpTlimitsTarget - if s.flag (F.shpTempDisagree f) then 24 else 0
def State.alarmOf (s : State) (f : Nat) : Nat := 4 * s.fld F.shpTlimitsAlarm - if s.flag (F.shpTempDisagree f) then 24 else 0

/-- Both sensors of a fold have been read. -/
def State.hasTemp (s : State) (f : Nat) : Bool := s.shep.sampled.contains (2 * f) && s.shep.sampled.contains (2 * f + 1)

/-- Both sensors, once read, differ from the temperature of every neighbouring fold that has been read by more than 15 K. -/
def State.oddOneOut (s : State) (f : Nat) : Bool :=
  let ns := (Config.foldNeighbours f).filter s.hasTemp
  let far (v t : Nat) := decide (60 < v - t ∨ 60 < t - v)
  s.hasTemp f && !ns.isEmpty && ns.all fun n => far (s.fld (F.shpTempSensorA f)) (s.foldTemp n) && far (s.fld (F.shpTempSensorB f)) (s.foldTemp n)

/-- Sensors newly counted as failed, by the mask of FAILED: E_SENSOR; a fold with both failed is capped, and a second such
fold makes the device stop. -/
def State.sensorsFail (s : State) (f mask : Nat) : State :=
  let was := s.fld (F.shpTempFailed f)
  let now := Nat.lor was mask
  if now = was then s
  else
    let s := ((s.setFld (F.shpTempFailed f) now).sensorEvent f).applyCap f
    let lost := (List.range 32).filter fun x => s.fld (F.shpTempFailed x) == 3
    if now = 3 ∧ 2 ≤ lost.length then s.stopOrderly 0x7005 f else s

/-- What the Shepherd's cores make of a sample: the range check, the loop above TARGET, the cap at ALARM and its lifting. -/
def State.judgeTemp (s : State) (f mask : Nat) (reading : Int) : State :=
  let s := if reading < 0 ∨ 600 < reading then s.sensorsFail f mask else s
  let s := if s.oddOneOut f then s.sensorsFail f 3 else s
  let t := s.foldTemp f
  let alarm := s.flag (F.shpTempAlarm f)
  if s.alarmOf f ≤ t ∧ alarm = false then
    ((s.setFld (F.shpTempAlarm f) 1).applyCap f).shepEvent 0x7001 f
  else if alarm = true ∧ t < s.targetOf f then (s.setFld (F.shpTempAlarm f) 0).applyCap f
  else if s.targetOf f ≤ t then s.reduceClock f
  else s

/-- The hardwired trip (R279, R283): THERMTRIP_N low whatever else runs, and an immediate safe stop of a device that does. -/
def State.thermalTrip (s : State) (unit : Nat) : State :=
  let s := s.setShep { s.shep with pins := { s.shep.pins with thermtrip := true } }
  if s.running then (s.noteHistory 0x7001 unit).stopNow 0x7001 unit else s

/-- A reading as a register holds it, in quarters of a degree. -/
def tempCode (r : Int) : Nat := (max 0 (min 1023 r)).toNat

/-- A sensor of a fold has been read. -/
def State.noteSample (s : State) (k : Nat) : State :=
  if s.shep.sampled.contains k then s else s.setShep { s.shep with sampled := k :: s.shep.sampled }

/-- A reading outside 0 to 150 °C (R284). -/
def outOfRange (r : Int) : Bool := decide (r < 0 ∨ 600 < r)

/-- A sample of one sensor of a fold: the register, the trip on that sensor alone, and while the cores run what they make of it. A
reading above 150 °C counts its sensor as failed, and trips as well (DEDUCED, log entry 45). -/
def State.tempSample (s : State) (f : Nat) (a : Bool) (reading : Int) : State :=
  let s := if a then s.setFld (F.shpTempSensorA f) (tempCode reading) else s.setFld (F.shpTempSensorB f) (tempCode reading)
  let s := s.noteSample (2 * f + if a then 0 else 1)
  let mask := if a then 1 else 2
  let judged := s.running && !s.shep.restarting
  if 4 * s.fld F.shpTlimitsTrip ≤ reading.toNat then (s.when (judged && outOfRange reading) (·.sensorsFail f mask)).thermalTrip f
  else s.when (judged = true) (·.judgeTemp f mask reading)

/-- A sample of one sensor of the hub die or of a stack: the trip acts on it, and a reading out of range counts it as failed. No rule
gives these places a threshold below TRIP. -/
def State.heatSample (s : State) (unit : Nat) (a : Bool) (reading : Int) : State :=
  let s := s.setShep { s.shep with heat := tblSet 0 s.shep.heat (2 * unit + if a then 0 else 1) (tempCode reading) }
  let was := tblGet 0 s.shep.heatFailed unit
  let now := Nat.lor was (if a then 1 else 2)
  let s := s.when (s.running ∧ s.shep.restarting = false ∧ outOfRange reading ∧ now ≠ was) fun s =>
    (s.setShep { s.shep with heatFailed := tblSet 0 s.shep.heatFailed unit now }).sensorEvent unit
  if 4 * s.fld F.shpTlimitsTrip ≤ reading.toNat then s.thermalTrip unit else s

/-- A sample where a sensor stands, while the Shepherd has its supply. -/
def State.sampleAt (s : State) (x : HeatPlace) (a : Bool) (reading : Int) : State :=
  if s.shep.dark then s
  else
    match x with
    | .fold f => s.tempSample f a reading
    | .hub => s.heatSample (heatUnit .hub) a reading
    | .stack k => s.heatSample (heatUnit (.stack k)) a reading

/-- Two sensors of a fold more than 6 K apart for 10 ms. -/
def State.sensorsDisagree (s : State) (f : Nat) : State :=
  let a := s.fld (F.shpTempSensorA f)
  let b := s.fld (F.shpTempSensorB f)
  if s.shep.restarting = false ∧ s.flag (F.shpTempDisagree f) = false ∧ (24 < a - b ∨ 24 < b - a) then
    (s.setFld (F.shpTempDisagree f) 1).sensorEvent f
  else s

/-! ## Current (R285) -/

/-- The part of a rail's limit, in hundredths, above which the loop lowers clocks: 95, or 80 while the rail's comparator has failed its
test. -/
def State.warnAt (s : State) (r : CurrentRail) : Nat := if r ∈ s.shep.failedComparators then 80 else 95

/-- A rail at 95 % of its limit, or at the 80 % that a failed comparator leaves it: the loop lowers the clocks of its die. -/
def State.currentWarn (s : State) (r : CurrentRail) (milliamps : Nat) : State :=
  if s.warnAt r * railLimit r ≤ 100 * milliamps then s.over ((railDies r).flatMap dieFolds) State.reduceClock else s

/-- A rail at its limit: the comparator stops the clocks of its die. -/
def State.currentTrip (s : State) (r : CurrentRail) (milliamps : Nat) : State :=
  if railLimit r ≤ milliamps then
    let s := s.setTime { s.time with diesStopped := (s.time.diesStopped ++ railDies r).eraseDups }
    s.shepEvent 0x7004 (railUnit r)
  else s

/-- The folds of a stopped die restart at 0.9 GHz. -/
def State.currentRestart (s : State) (d : Nat) : State :=
  if s.time.diesStopped.contains d then
    (s.setTime { s.time with diesStopped := s.time.diesStopped.filter (· != d) }).over (dieFolds d) fun s f => s.setFoldClock f slowClock
  else s

/-- A rail above its limit for 50 µs with its folds stopped. -/
def State.currentHeld (s : State) (r : CurrentRail) (milliamps : Nat) : State :=
  if railLimit r < milliamps ∧ (railDies r).all s.time.diesStopped.contains = true then s.stopNow 0x7004 (railUnit r) else s

/-- A comparator's test. -/
def State.comparatorTested (s : State) (r : CurrentRail) (pass : Bool) : State :=
  if pass then s
  else (s.setShep { s.shep with failedComparators := (s.shep.failedComparators ++ [r]).eraseDups }).sensorEvent (railUnit r)

/-! ## Coolant (R286, R287) -/

/-- The two inputs of a sample, in SHP.COOLANT. -/
def State.readFlow (s : State) (x : FlowSample) : State :=
  (s.setFld F.shpCoolantFlowA (sat 4095 x.flowA)).setFld F.shpCoolantFlowB (b2n x.flowBClosed)

/-- The flow of a sample: below TRIP when the switch is open while the meter reads at or above ALARM, or when it is the one
input left. -/
def State.flowOf (s : State) (x : FlowSample) : Nat :=
  if s.shep.meterFailed then (if x.flowBClosed then 4095 else 0)
  else if x.flowBClosed = false ∧ s.fld F.shpFlimitsAlarm ≤ x.flowA then 0
  else x.flowA

/-- Flow below ALARM for 1 s. -/
def State.flowAlarm (s : State) (x : FlowSample) : State :=
  let s := s.readFlow x
  if s.flowOf x < s.fld F.shpFlimitsAlarm then s.capAll.shepEvent 0x7002 else s

/-- Flow below TRIP for 2 s. -/
def State.flowTrip (s : State) (x : FlowSample) : State :=
  let s := s.readFlow x
  if s.flowOf x < s.fld F.shpFlimitsTrip then (s.shepEvent 0x7002).stopOrderly 0x7002 0 else s

/-- No flow for 200 ms with the switch open. -/
def State.flowZero (s : State) (x : FlowSample) : State :=
  let s := s.readFlow x
  if x.flowA = 0 ∧ x.flowBClosed = false then (s.noteHistory 0x7002 0).stopNow 0x7002 0 else s

/-- No flow for 1 s with the switch closed: the meter has failed. -/
def State.meterFails (s : State) (x : FlowSample) : State :=
  let s := s.readFlow x
  if x.flowA = 0 ∧ x.flowBClosed = true ∧ s.shep.meterFailed = false then
    ((s.setShep { s.shep with meterFailed := true }).capAll).sensorEvent 0
  else s

/-- The fields of a leak cable. -/
def leakFld : LeakCable → Fld
  | .a => F.shpCoolantLeakA
  | .b => F.shpCoolantLeakB
def openFld : LeakCable → Fld
  | .a => F.shpCoolantOpenA
  | .b => F.shpCoolantOpenB
def cableUnit : LeakCable → Nat
  | .a => 0
  | .b => 1

/-- A leak: PWRKILL_N low, whatever else runs; E_LEAK while the link is up, and an immediate safe stop of a device that runs. -/
def State.leak (s : State) (c : LeakCable) : State :=
  let s := s.setShep { s.shep with pins := { s.shep.pins with pwrkill := true } }
  if s.running = false then s
  else
  let s := if s.host.pcieUp then s.shepEvent 0x7003 (cableUnit c) else s.noteHistory 0x7003 (cableUnit c)
  s.stopNow 0x7003 (cableUnit c)

/-- A sample of a leak cable: a leak below 10 kΩ, an open cable above 2 MΩ. -/
def State.leakSample (s : State) (c : LeakCable) (ohms : Nat) : State :=
  if s.shep.dark then s
  else
    let wasOpen := s.flag (openFld c)
    let s := (s.setFld (leakFld c) (b2n (decide (ohms < 10000)))).setFld (openFld c) (b2n (decide (2000000 < ohms)))
    if ohms < 10000 then s.leak c
    else s.when (2000000 < ohms ∧ wasOpen = false ∧ s.running = true) (·.sensorEvent (cableUnit c))

/-! ## The VHOLD bank (R298) -/

/-- The energy above 6 V, in units of 0.5 nJ: volts in 10 mV, capacitance in 10 µF. -/
def bankEnergy (x : BankSample) : Nat := x.cap * (x.volts * x.volts - 360000)

/-- A bank test: SHP.HOLD, HOLD_OK, and E_HOLD_LOW below 120 mJ. -/
def State.bankTest (s : State) (x : BankSample) : State :=
  let ok := decide (240000000 ≤ bankEnergy x)
  let s := ((s.setFld F.shpHoldVhold (sat 4095 x.volts)).setFld F.shpHoldCap (sat 4095 x.cap)).setFld F.shpHoldEnergy
    (sat 255 (bankEnergy x / 4000000))
  let s := s.setFld F.shpStatusHoldOk (b2n ok)
  if ok then s else s.shepEvent 0x7007

/-- VHOLD below 10.8 V for 1 ms with the other rails in range. -/
def State.holdLow (s : State) (x : BankSample) : State :=
  let s := s.setFld F.shpHoldVhold (sat 4095 x.volts)
  if x.volts < 1080 ∧ 3 ≤ s.fld F.hubBootPhase then s.shepEvent 0x7007 else s

/-! ## The Shepherd's cores and supply (R288, R292) -/

/-- 24 hours in cues. -/
def dayCues : Nat := 86400000000

/-- The cores disagree: both restart; the second time within 24 hours the device stops. -/
def State.lockstepError (s : State) : State :=
  let recent := s.shep.lockstepCues.filter fun c => decide (s.time.cue < c + dayCues)
  let s := s.countFld F.shpStatusLockstepErrs 1
  let s := s.setShep { s.shep with restarting := true, lockstepCues := recent ++ [s.time.cue] }
  let s := s.shepEvent 0x7009
  if recent.isEmpty then s else s.stopOrderly 0x7009 0

/-- The Shepherd supply falls below its minimum: every output is released, and but for a save, which VHOLD carries, all
stops. -/
def State.shepherdDark (s : State) : State :=
  let s := s.releaseRails
  let s := s.setShep { s.shep with dark := true, pins := { s.shep.pins with thermtrip := false, pwrkill := false } }
  match s.shep.stop with
  | .saving => s
  | _ => s.tearRecord.halt .halted

/-! ## The adaptive loops (R80, R290) -/

/-- A fold is capped as placement counts it. -/
def State.foldCapped (s : State) (f : Nat) : Bool := s.fld (F.shpTempClockCap f) == slowClock || decide (s.alarmOf f ≤ s.foldTemp f)

/-- A request granted as it stands, or clamped and counted. -/
def State.countClamp (s : State) (clamped : Bool) : State := if clamped then s.setShep { s.shep with clamps := s.shep.clamps + 1 } else s

/-- A fold's clock: from 0.9 to 2.0 GHz, within the fused curve and the cap; no faster than now while the cores restart. -/
def State.askClock (s : State) (f want mv : Nat) : State :=
  let hi := min (min fastClock (Config.fusedCurve f mv)) (s.fld (F.shpTempClockCap f))
  let hi := max slowClock (if s.shep.restarting then min hi (s.foldClock f) else hi)
  let v := max slowClock (min hi want)
  (s.setFoldClock f v).countClamp (v != want)

/-- Another fold of the partition that owns a fold is not capped. -/
def State.otherFree (s : State) (f : Nat) : Bool :=
  (List.range 16).any fun p => s.live p && (s.block p).foldList.contains f && (s.block p).foldList.any fun g => g != f && !s.foldCapped g

/-- Placement: claims go to a capped fold only when no fold of its partition is free, and are held back from no other. -/
def State.askClaims (s : State) (f : Nat) (on : Bool) : State :=
  let stop := s.foldCapped f && s.otherFree f
  let s := s.setTime { s.time with claimsStopped := if stop then (f :: s.time.claimsStopped.filter (· != f)) else s.time.claimsStopped.filter (· != f) }
  s.countClamp (on == stop)

/-- A loop's request, held in its bounds. -/
def State.loopRequest (s : State) (r : LoopRequest) : State :=
  match r with
  | .clock f t mv => s.askClock f t mv
  | .claims f on => s.askClaims f on
  | .tap p l v =>
    let w := max (Config.tapLow p l) (min (Config.tapHigh p l) v)
    (s.setShep { s.shep with taps := tblSet 0 s.shep.taps (9 * p + l) w }).countClamp (w != v)
  | .refresh c t reported =>
    let w := min t (Config.refreshMax c reported)
    (s.setShep { s.shep with refresh := tblSet 0 s.shep.refresh c w
                             reported := tblSet 0 s.shep.reported (c / 32) reported }).countClamp (w != t)

/-! ## The commands -/

/-- TEMP_SAMPLE_A. -/
def execTempSampleA (place : HeatPlace) (reading : SensorReading) (s : State) : Result := .next (s.sampleAt place true reading)
/-- TEMP_SAMPLE_B. -/
def execTempSampleB (place : HeatPlace) (reading : SensorReading) (s : State) : Result := .next (s.sampleAt place false reading)
/-- SENSOR_DISAGREE. -/
def execSensorDisagree (fold : FoldNo) (s : State) : Result := .next (s.clocked (·.sensorsDisagree fold))
/-- CURRENT_WARN. -/
def execCurrentWarn (reading : RailCurrent) (s : State) : Result := .next (s.clocked (·.currentWarn reading.rail reading.milliamps))
/-- CURRENT_LIMIT. -/
def execCurrentLimit (reading : RailCurrent) (s : State) : Result := .next (s.clocked (·.currentTrip reading.rail reading.milliamps))
/-- CURRENT_RESTART. -/
def execCurrentRestart (die : DieNo) (s : State) : Result := .next (s.clocked (·.currentRestart die))
/-- CURRENT_SUSTAINED. -/
def execCurrentSustained (reading : RailCurrent) (s : State) : Result :=
  .next (s.clocked (·.currentHeld reading.rail reading.milliamps))
/-- COMPARATOR_TEST. -/
def execComparatorTest (rail : CurrentRail) (pass : Bool) (s : State) : Result := .next (s.clocked (·.comparatorTested rail pass))
/-- FLOW_ALARM. -/
def execFlowAlarm (sample : FlowSample) (s : State) : Result := .next (s.clocked (·.flowAlarm sample))
/-- FLOW_TRIP. -/
def execFlowTrip (sample : FlowSample) (s : State) : Result := .next (s.clocked (·.flowTrip sample))
/-- FLOW_ZERO. -/
def execFlowZero (sample : FlowSample) (s : State) : Result := .next (s.clocked (·.flowZero sample))
/-- FLOW_METER_FAIL. -/
def execFlowMeterFail (sample : FlowSample) (s : State) : Result := .next (s.clocked (·.meterFails sample))
/-- LEAK_SAMPLE. -/
def execLeakSample (cable : LeakCable) (ohms : Nat) (s : State) : Result := .next (s.leakSample cable ohms)
/-- BANK_TEST. -/
def execBankTest (sample : BankSample) (s : State) : Result := .next (s.clocked (·.bankTest sample))
/-- VHOLD_LOW. -/
def execVholdLow (sample : BankSample) (s : State) : Result := .next (s.clocked (·.holdLow sample))
/-- LOCKSTEP_MISMATCH. -/
def execLockstepMismatch (s : State) : Result := .next (s.clocked State.lockstepError)
/-- SHEPHERD_RESTART_DONE: the cores run in lockstep again. -/
def execShepherdRestartDone (s : State) : Result := .next (s.setShep { s.shep with restarting := false })
/-- VSHP_LOSS. -/
def execVshpLoss (s : State) : Result := .next s.shepherdDark
/-- LOOP_SETTING_REQUEST. -/
def execLoopSettingRequest (request : LoopRequest) (s : State) : Result := .next (s.clocked (·.loopRequest request))
/-- RAIL_UNDERVOLTAGE: a rail's voltage for 2 µs; below its threshold a Curtain trigger without an event code. -/
def execRailUndervoltage (reading : RailVoltage) (s : State) : Result :=
  .next (if reading.millivolts < savedThreshold reading.rail then s.supplyTrigger (savedUnit reading.rail) else s)

end Sys2Proof.Machine
end

