-- ==== Sys2Proof/Machine/Dispatch.lean ====
section
/-!
DEFINITION. The command switch: one arm per constructor of Instr, each a direct call of its meaning.
-/

namespace Sys2Proof.Machine

/-- The effect of a command on everything but the queue of waiting commands. -/
def exec (i : Instr) (s : State) : Host.Outcome State Fault Refusal :=
  match i with
  | .nop q => Sys2Proof.Machine.execNop q s
  | .sceneBegin q => Sys2Proof.Machine.execSceneBegin q s
  | .sceneBeginRetire q => Sys2Proof.Machine.execSceneBeginRetire q s
  | .sceneEnd q => Sys2Proof.Machine.execSceneEnd q s
  | .sceneEndRetire q => Sys2Proof.Machine.execSceneEndRetire q s
  | .sceneRun p => Sys2Proof.Machine.execSceneRun p s
  | .preemptOk q => Sys2Proof.Machine.execPreemptOk q s
  | .chain q => Sys2Proof.Machine.execChain q s
  | .chainPortCredit port => Sys2Proof.Machine.execChainPortCredit port s
  | .gateAcq q => Sys2Proof.Machine.execGateAcq q s
  | .gateAcqGrant p g => Sys2Proof.Machine.execGateAcqGrant p g s
  | .gateRel q => Sys2Proof.Machine.execGateRel q s
  | .hurdle q => Sys2Proof.Machine.execHurdle q s
  | .hurdleGenerationComplete p h => Sys2Proof.Machine.execHurdleGenerationComplete p h s
  | .cueStamp q => Sys2Proof.Machine.execCueStamp q s
  | .propRead q => Sys2Proof.Machine.execPropRead q s
  | .queueResume q => Sys2Proof.Machine.execQueueResume q s
  | .mma q => Sys2Proof.Machine.execMma q s
  | .mmaSend q => Sys2Proof.Machine.execMmaSend q s
  | .mmaRsum q => Sys2Proof.Machine.execMmaRsum q s
  | .gatherMma q => Sys2Proof.Machine.execGatherMma q s
  | .a2aMma q => Sys2Proof.Machine.execA2aMma q s
  | .mmaA2a q => Sys2Proof.Machine.execMmaA2a q s
  | .conv q => Sys2Proof.Machine.execConv q s
  | .apronTileEnd die => Sys2Proof.Machine.execApronTileEnd die s
  | .attnFwd q => Sys2Proof.Machine.execAttnFwd q s
  | .attnBwd q => Sys2Proof.Machine.execAttnBwd q s
  | .ringStepBegin q => Sys2Proof.Machine.execRingStepBegin q s
  | .ringStepEnd q => Sys2Proof.Machine.execRingStepEnd q s
  | .ringData p hdr payload => Sys2Proof.Machine.execRingData p hdr payload s
  | .ringCredit p hdr => Sys2Proof.Machine.execRingCredit p hdr s
  | .ringDone p hdr => Sys2Proof.Machine.execRingDone p hdr s
  | .ringPoison p hdr => Sys2Proof.Machine.execRingPoison p hdr s
  | .ringAbsent p hdr => Sys2Proof.Machine.execRingAbsent p hdr s
  | .ringZero p hdr => Sys2Proof.Machine.execRingZero p hdr s
  | .ringSlipExpiry q fromNext => Sys2Proof.Machine.execRingSlipExpiry q fromNext s
  | .collReady p hdr => Sys2Proof.Machine.execCollReady p hdr s
  | .collGo p hdr => Sys2Proof.Machine.execCollGo p hdr s
  | .collOpen p hdr payload => Sys2Proof.Machine.execCollOpen p hdr payload s
  | .collCredit p hdr => Sys2Proof.Machine.execCollCredit p hdr s
  | .collData p hdr payload => Sys2Proof.Machine.execCollData p hdr payload s
  | .collDone p hdr => Sys2Proof.Machine.execCollDone p hdr s
  | .collClose p hdr => Sys2Proof.Machine.execCollClose p hdr s
  | .collPoison p hdr => Sys2Proof.Machine.execCollPoison p hdr s
  | .collZero p hdr => Sys2Proof.Machine.execCollZero p hdr s
  | .collAbsent p hdr => Sys2Proof.Machine.execCollAbsent p hdr s
  | .collSlipExpiry q rank => Sys2Proof.Machine.execCollSlipExpiry q rank s
  | .beacon port hdr => Sys2Proof.Machine.execBeacon port hdr s
  | .beaconSend => Sys2Proof.Machine.execBeaconSend s
  | .vadd q => Sys2Proof.Machine.execVadd q s
  | .vsub q => Sys2Proof.Machine.execVsub q s
  | .vmul q => Sys2Proof.Machine.execVmul q s
  | .vfma q => Sys2Proof.Machine.execVfma q s
  | .vmax q => Sys2Proof.Machine.execVmax q s
  | .vmin q => Sys2Proof.Machine.execVmin q s
  | .vcvt q => Sys2Proof.Machine.execVcvt q s
  | .vscale q => Sys2Proof.Machine.execVscale q s
  | .vrsum q => Sys2Proof.Machine.execVrsum q s
  | .vrmax q => Sys2Proof.Machine.execVrmax q s
  | .vrsqsum q => Sys2Proof.Machine.execVrsqsum q s
  | .exp q => Sys2Proof.Machine.execExp q s
  | .exp2 q => Sys2Proof.Machine.execExp2 q s
  | .log q => Sys2Proof.Machine.execLog q s
  | .rcp q => Sys2Proof.Machine.execRcp q s
  | .rsqrt q => Sys2Proof.Machine.execRsqrt q s
  | .tanh q => Sys2Proof.Machine.execTanh q s
  | .sigmoid q => Sys2Proof.Machine.execSigmoid q s
  | .silu q => Sys2Proof.Machine.execSilu q s
  | .gelu q => Sys2Proof.Machine.execGelu q s
  | .sin q => Sys2Proof.Machine.execSin q s
  | .cos q => Sys2Proof.Machine.execCos q s
  | .gluAct q => Sys2Proof.Machine.execGluAct q s
  | .softmax q => Sys2Proof.Machine.execSoftmax q s
  | .rmsnorm q => Sys2Proof.Machine.execRmsnorm q s
  | .rope q => Sys2Proof.Machine.execRope q s
  | .kStepDone q index cluster ok => Sys2Proof.Machine.execKStepDone q index cluster ok s
  | .understudyRestart failed => Sys2Proof.Machine.execUnderstudyRestart failed s
  | .move q => Sys2Proof.Machine.execMove q s
  | .fill q => Sys2Proof.Machine.execFill q s
  | .gather q => Sys2Proof.Machine.execGather q s
  | .scatter q => Sys2Proof.Machine.execScatter q s
  | .push q => Sys2Proof.Machine.execPush q s
  | .pop q => Sys2Proof.Machine.execPop q s
  | .fifoUnitBegin q => Sys2Proof.Machine.execFifoUnitBegin q s
  | .workAreaPlace q => Sys2Proof.Machine.execWorkAreaPlace q s
  | .prefetch q => Sys2Proof.Machine.execPrefetch q s
  | .clean q => Sys2Proof.Machine.execClean q s
  | .runLoad q => Sys2Proof.Machine.execRunLoad q s
  | .runMark q => Sys2Proof.Machine.execRunMark q s
  | .runWait q => Sys2Proof.Machine.execRunWait q s
  | .runEntryDone q entry event => Sys2Proof.Machine.execRunEntryDone q entry event s
  | .atom q => Sys2Proof.Machine.execAtom q s
  | .atomCas q => Sys2Proof.Machine.execAtomCas q s
  | .optAdamw q => Sys2Proof.Machine.execOptAdamw q s
  | .optLion q => Sys2Proof.Machine.execOptLion q s
  | .optSgdm q => Sys2Proof.Machine.execOptSgdm q s
  | .sealWrite q => Sys2Proof.Machine.execSealWrite q s
  | .castLoad q => Sys2Proof.Machine.execCastLoad q s
  | .castRead q => Sys2Proof.Machine.execCastRead q s
  | .decodeAttn q => Sys2Proof.Machine.execDecodeAttn q s
  | .instructionRetire q => Sys2Proof.Machine.execInstructionRetire q s
  | .waitBudgetExpiry q => Sys2Proof.Machine.execWaitBudgetExpiry q s
  | .holdBudgetExpiry p => Sys2Proof.Machine.execHoldBudgetExpiry p s
  | .cueTick => Sys2Proof.Machine.execCueTick s
  | .cueInEdge => Sys2Proof.Machine.execCueInEdge s
  | .doorbell fn number value => Sys2Proof.Machine.execDoorbell fn number value s
  | .queueEnable q => Sys2Proof.Machine.execQueueEnable q s
  | .queueDisable q => Sys2Proof.Machine.execQueueDisable q s
  | .qctrlResume q => Sys2Proof.Machine.execQctrlResume q s
  | .parEnable p => Sys2Proof.Machine.execParEnable p s
  | .parEnableDone p => Sys2Proof.Machine.execParEnableDone p s
  | .parDisable p => Sys2Proof.Machine.execParDisable p s
  | .parReset p => Sys2Proof.Machine.execParReset p s
  | .parResetDone p => Sys2Proof.Machine.execParResetDone p s
  | .parLockAcq p agent => Sys2Proof.Machine.execParLockAcq p agent s
  | .parLockCommit p agent => Sys2Proof.Machine.execParLockCommit p agent s
  | .parLockAbort p agent => Sys2Proof.Machine.execParLockAbort p agent s
  | .lockLeaseExpiry p => Sys2Proof.Machine.execLockLeaseExpiry p s
  | .functionLevelReset fn => Sys2Proof.Machine.execFunctionLevelReset fn s
  | .d3hotEntry fn => Sys2Proof.Machine.execD3hotEntry fn s
  | .hotReset => Sys2Proof.Machine.execHotReset s
  | .perstNAssert => Sys2Proof.Machine.execPerstNAssert s
  | .perstNRise => Sys2Proof.Machine.execPerstNRise s
  | .porNAssert => Sys2Proof.Machine.execPorNAssert s
  | .coldStart straps => Sys2Proof.Machine.execColdStart straps s
  | .trstNAssert => Sys2Proof.Machine.execTrstNAssert s
  | .bar4Write fn offset data => Sys2Proof.Machine.execBar4Write fn offset data s
  | .bar4Read fn offset len => Sys2Proof.Machine.execBar4Read fn offset len s
  | .registerWrite who offset value => Sys2Proof.Machine.execRegisterWrite who offset value s
  | .loReadLatch who offset => Sys2Proof.Machine.execLoReadLatch who offset s
  | .snapGo => Sys2Proof.Machine.execSnapGo s
  | .tapSnap => Sys2Proof.Machine.execTapSnap s
  | .snapCapture => Sys2Proof.Machine.execSnapCapture s
  | .bookCommit => Sys2Proof.Machine.execBookCommit s
  | .bookCommitDone => Sys2Proof.Machine.execBookCommitDone s
  | .crcEnable => Sys2Proof.Machine.execCrcEnable s
  | .crcCommit => Sys2Proof.Machine.execCrcCommit s
  | .crcPassEnd => Sys2Proof.Machine.execCrcPassEnd s
  | .evtRingEnable => Sys2Proof.Machine.execEvtRingEnable s
  | .hbcEnable => Sys2Proof.Machine.execHbcEnable s
  | .cacEnable => Sys2Proof.Machine.execCacEnable s
  | .oxlEnable => Sys2Proof.Machine.execOxlEnable s
  | .pattern => Sys2Proof.Machine.execPattern s
  | .march => Sys2Proof.Machine.execMarch s
  | .traffic => Sys2Proof.Machine.execTraffic s
  | .rehearsalDone outcome => Sys2Proof.Machine.execRehearsalDone outcome s
  | .scrubSector chan addr outcome => Sys2Proof.Machine.execScrubSector chan addr outcome s
  | .cacheScrub slice way addr outcome => Sys2Proof.Machine.execCacheScrub slice way addr outcome s
  | .corrHourRollover => Sys2Proof.Machine.execCorrHourRollover s
  | .lsRowReplace cluster fault => Sys2Proof.Machine.execLsRowReplace cluster fault s
  | .clusterDeclaredFailed cluster => Sys2Proof.Machine.execClusterDeclaredFailed cluster s
  | .cacheWayReplace slice way => Sys2Proof.Machine.execCacheWayReplace slice way s
  | .hbmLaneRepair chan kind => Sys2Proof.Machine.execHbmLaneRepair chan kind s
  | .channelDrainStart chan => Sys2Proof.Machine.execChannelDrainStart chan s
  | .channelDrainDone => Sys2Proof.Machine.execChannelDrainDone s
  | .dataFrame port frame => Sys2Proof.Machine.execDataFrame port frame s
  | .linkFrame port frame fields => Sys2Proof.Machine.execLinkFrame port frame fields s
  | .idleFrame port frame => Sys2Proof.Machine.execIdleFrame port frame s
  | .frameAck port fseq => Sys2Proof.Machine.execFrameAck port fseq s
  | .frameNak port fseq => Sys2Proof.Machine.execFrameNak port fseq s
  | .frameReplayTimeout port fseq => Sys2Proof.Machine.execFrameReplayTimeout port fseq s
  | .linkCreditReturn port vc frames => Sys2Proof.Machine.execLinkCreditReturn port vc frames s
  | .laneSwapCommand port lane => Sys2Proof.Machine.execLaneSwapCommand port lane s
  | .laneSwapDone port => Sys2Proof.Machine.execLaneSwapDone port s
  | .laneFault port lane => Sys2Proof.Machine.execLaneFault port lane s
  | .rttProbe port probe => Sys2Proof.Machine.execRttProbe port probe s
  | .delayRemeasure => Sys2Proof.Machine.execDelayRemeasure s
  | .identityRecord port record => Sys2Proof.Machine.execIdentityRecord port record s
  | .cueReport port report => Sys2Proof.Machine.execCueReport port report s
  | .parentSilent => Sys2Proof.Machine.execParentSilent s
  | .portDetectPoll port signal => Sys2Proof.Machine.execPortDetectPoll port signal s
  | .equaliseDone port => Sys2Proof.Machine.execEqualiseDone port s
  | .equaliseTimeout port => Sys2Proof.Machine.execEqualiseTimeout port s
  | .laneCheckDone port good => Sys2Proof.Machine.execLaneCheckDone port good s
  | .lossOfLock port => Sys2Proof.Machine.execLossOfLock port s
  | .retrainDone port => Sys2Proof.Machine.execRetrainDone port s
  | .retrainTimeout port => Sys2Proof.Machine.execRetrainTimeout port s
  | .downTimer port => Sys2Proof.Machine.execDownTimer port s
  | .packetRoute origin packet => Sys2Proof.Machine.execPacketRoute origin packet s
  | .escWaitExpiry origin packet => Sys2Proof.Machine.execEscWaitExpiry origin packet s
  | .peerWrite src pseq part access data => Sys2Proof.Machine.execPeerWrite src pseq part access data s
  | .peerReadRequest src pseq part access len => Sys2Proof.Machine.execPeerReadRequest src pseq part access len s
  | .peerReadResponse src tag status data => Sys2Proof.Machine.execPeerReadResponse src tag status data s
  | .e2eAck src pseq status => Sys2Proof.Machine.execE2eAck src pseq status s
  | .peerTimeout q index => Sys2Proof.Machine.execPeerTimeout q index s
  | .mailboxGo box => Sys2Proof.Machine.execMailboxGo box s
  | .mailboxTimeout box => Sys2Proof.Machine.execMailboxTimeout box s
  | .ident box => Sys2Proof.Machine.execIdent box s
  | .telemCfg box => Sys2Proof.Machine.execTelemCfg box s
  | .ledgerRead box => Sys2Proof.Machine.execLedgerRead box s
  | .sharesSet box => Sys2Proof.Machine.execSharesSet box s
  | .channelReport box => Sys2Proof.Machine.execChannelReport box s
  | .portMargin box => Sys2Proof.Machine.execPortMargin box s
  | .imageWrite box => Sys2Proof.Machine.execImageWrite box s
  | .prompterLog box => Sys2Proof.Machine.execPrompterLog box s
  | .telemWrite box sampledAll => Sys2Proof.Machine.execTelemWrite box sampledAll s
  | .telemStale => Sys2Proof.Machine.execTelemStale s
  | .pmtKick who value => Sys2Proof.Machine.execPmtKick who value s
  | .watchdogExpiry => Sys2Proof.Machine.execWatchdogExpiry s
  | .prompterResetRelease => Sys2Proof.Machine.execPrompterResetRelease s
  | .prompterBootDone => Sys2Proof.Machine.execPrompterBootDone s
  | .tempSampleA place reading => Sys2Proof.Machine.execTempSampleA place reading s
  | .tempSampleB place reading => Sys2Proof.Machine.execTempSampleB place reading s
  | .sensorDisagree fold => Sys2Proof.Machine.execSensorDisagree fold s
  | .currentWarn reading => Sys2Proof.Machine.execCurrentWarn reading s
  | .currentLimit reading => Sys2Proof.Machine.execCurrentLimit reading s
  | .currentRestart die => Sys2Proof.Machine.execCurrentRestart die s
  | .currentSustained reading => Sys2Proof.Machine.execCurrentSustained reading s
  | .comparatorTest rail pass => Sys2Proof.Machine.execComparatorTest rail pass s
  | .flowAlarm sample => Sys2Proof.Machine.execFlowAlarm sample s
  | .flowTrip sample => Sys2Proof.Machine.execFlowTrip sample s
  | .flowZero sample => Sys2Proof.Machine.execFlowZero sample s
  | .flowMeterFail sample => Sys2Proof.Machine.execFlowMeterFail sample s
  | .leakSample cable ohms => Sys2Proof.Machine.execLeakSample cable ohms s
  | .bankTest sample => Sys2Proof.Machine.execBankTest sample s
  | .vholdLow sample => Sys2Proof.Machine.execVholdLow sample s
  | .lockstepMismatch => Sys2Proof.Machine.execLockstepMismatch s
  | .shepherdRestartDone => Sys2Proof.Machine.execShepherdRestartDone s
  | .vshpLoss => Sys2Proof.Machine.execVshpLoss s
  | .loopSettingRequest request => Sys2Proof.Machine.execLoopSettingRequest request s
  | .orderlyStopWithdrawn => Sys2Proof.Machine.execOrderlyStopWithdrawn s
  | .pwrfailNAssert => Sys2Proof.Machine.execPwrfailNAssert s
  | .railUndervoltage reading => Sys2Proof.Machine.execRailUndervoltage reading s
  | .curtainSaveDone => Sys2Proof.Machine.execCurtainSaveDone s
  | .vholdCollapse => Sys2Proof.Machine.execVholdCollapse s
  | .ledgerRecordDone => Sys2Proof.Machine.execLedgerRecordDone s
  | .shepherdSelfTestDone => Sys2Proof.Machine.execShepherdSelfTestDone s
  | .ledgerRecoveryDone => Sys2Proof.Machine.execLedgerRecoveryDone s
  | .railsEntry => Sys2Proof.Machine.execRailsEntry s
  | .vholdWaitTimeout => Sys2Proof.Machine.execVholdWaitTimeout s
  | .railGroupInRange => Sys2Proof.Machine.execRailGroupInRange s
  | .railGroupNextEnable => Sys2Proof.Machine.execRailGroupNextEnable s
  | .railGroupTimeout => Sys2Proof.Machine.execRailGroupTimeout s
  | .railRetry => Sys2Proof.Machine.execRailRetry s
  | .bringupDone outcome => Sys2Proof.Machine.execBringupDone outcome s
  | .absentReceived p absent => Sys2Proof.Machine.execAbsentReceived p absent s
  | .decisionCue p => Sys2Proof.Machine.execDecisionCue p s
  | .wingsCopyStart p => Sys2Proof.Machine.execWingsCopyStart p s
  | .wingsCopyDone p => Sys2Proof.Machine.execWingsCopyDone p s
  | .replayResume p => Sys2Proof.Machine.execReplayResume p s
  | .oxlDisable => Sys2Proof.Machine.execOxlDisable s
  | .hbcDisable => Sys2Proof.Machine.execHbcDisable s
  | .crcDisable => Sys2Proof.Machine.execCrcDisable s
  | .repairWork => Sys2Proof.Machine.execRepairWork s

end Sys2Proof.Machine
end

