-- ==== Sys2Proof/Machine/Step.lean ====
section
/-!
DEFINITION. One step: the command at the front of the queue runs on the state with the queue's rest; on an
empty queue the block idles (DESIGN CHOICE, log entry 2).
-/

namespace Sys2Proof.Machine

/-- The state with the front command taken off its queue. -/
def State.takeFront (s : State) : State := s.setPending s.pending.tail

/-- The state with a command put at the front of its queue. -/
def State.withFront (s : State) (c : Instr) : State := s.setPending (c :: s.pending)

/-- One step (a block of commands): the front command's effect; idle when none waits. -/
def step (s : State) : Host.Outcome State Fault Refusal :=
  match s.pending with
  | [] => .next s
  | c :: _ => exec c s.takeFront

/-- The state with the command that a table word spells put in front: the table gives no row bits, so no word
spells one. -/
def State.withFetchWord (s : State) (nbits w : Nat) : State :=
  match decodeTableWord nbits w with
  | some c => s.withFront c
  | none => s

end Sys2Proof.Machine
end

