-- ==== Sys2Proof/Safety.lean ====
section
/-!
DEFINITION. What statements about the block are said in: the canonical form of its memories and of its register file, and
the accuracy that the manual promises of the special functions, over the real numbers.
-/

namespace Sys2Proof.Machine

/-! ## Canonical form -/

/-- Every memory of the tiers in canonical form, and the counts of corrected errors and of failing row bits. -/
abbrev MemState.wf (m : MemState) : Prop :=
  Memory.wf m.loc ∧ Memory.wf m.cache ∧ Memory.wf m.stack ∧ Memory.wf m.host ∧ Memory.wf m.peer ∧ Memory.wf m.hand ∧ tblWf 0 m.wayCorr ∧
    tblWf 0 m.locCorr ∧ tblWf 0 m.rowBit

/-- The register file in canonical form: offsets strictly rising, no register listed at its reset value; so the shadows of its latches
and the holding mirror. -/
abbrev RegState.wf (part : Part) (r : RegState) : Prop :=
  (r.file.Pairwise (fun x y => x.1 < y.1) ∧ ∀ x ∈ r.file, x.2 ≠ regReset part x.1) ∧ tblWf none r.shadows ∧ tblWf 0 r.mirror

/-- The table of partitions in canonical form, and the gates of each. -/
abbrev partsWf (t : List (Nat × Partition)) : Prop := tblWf {} t ∧ ∀ x ∈ t, tblWf {} x.2.gates

/-- The tables of companies, of the cast, of chain ports and of the Apron engines in canonical form. -/
abbrev CompanyState.wf (c : CompanyState) : Prop := tblWf {} c.companies ∧ tblWf {} c.cast ∧ tblWf {} c.chainPorts ∧ tblWf {} c.aprons

/-- The tables of ports and of pairs in canonical form. -/
abbrev LinkState.wf (l : LinkState) : Prop := tblWf {} l.ports ∧ tblWf {} l.pairs

/-- The Prompter's tables and the sideband's buffer in canonical form. -/
abbrev PromptState.wf (v : PromptState) : Prop := tblWf {} v.boxes ∧ Memory.wf v.sideband ∧ tblWf {} v.images

/-- The tables of clocks and counted cycles, of spare rows, of the ledger, of the adaptive loops and of the sensors in canonical form. -/
abbrev TimeState.wf (v : TimeState) : Prop := tblWf 0 v.cycles ∧ tblWf 160 v.clock
abbrev SpareState.wf (v : SpareState) : Prop := tblWf 0 v.rowsUsed
abbrev LedgState.wf (v : LedgState) : Prop := tblWf {} v.slots
abbrev ShepState.wf (v : ShepState) : Prop :=
  tblWf 0 v.taps ∧ tblWf 0 v.refresh ∧ tblWf 0 v.heat ∧ tblWf 0 v.heatFailed ∧ tblWf 0 v.reported

/-- The block's memories, its register file and its tables are in canonical form, so that equal contents are equal data. -/
structure State.canonical (s : State) : Prop where
  mem : s.mem.wf
  regs : s.regs.wf s.part
  queues : tblWf {} s.queues
  parts : partsWf s.parts
  comp : s.comp.wf
  link : s.link.wf
  prom : s.prom.wf
  time : s.time.wf
  spare : s.spare.wf
  ledg : s.ledg.wf
  shep : s.shep.wf

/-! ## Accuracy of the special functions (R122) -/

/-- The real number that an exact value is. -/
def FVal.IsReal (v : FVal) (r : ℝ) : Prop :=
  match v with
  | .fin n m e => r = (if n then -1 else 1) * (m : ℝ) * (2 : ℝ) ^ e
  | _ => False

/-- r is within k units in the last place of y (R122's ulp), or within an absolute bound. -/
def WithinUlps (k abs r y : ℝ) : Prop := |r - y| ≤ max (k * (2 : ℝ) ^ (max (Int.log 2 |y|) (-126) - 23)) abs

/-- A special function of a real number as R88, R91 and R122 name it; RCP and RSQRT are asked for nonzero and positive
arguments only. -/
def SfuExact (g : Config.Sfu) (x y : ℝ) : Prop :=
  match g with
  | .exp => y = Real.exp x
  | .exp2 => y = (2 : ℝ) ^ x
  | .log => y = Real.log x
  | .rcp => y = 1 / x
  | .rsqrt => y = 1 / Real.sqrt x
  | .tanh => y = Real.tanh x
  | .sigmoid => y = 1 / (1 + Real.exp (-x))
  | .silu => y = x / (1 + Real.exp (-x))
  | .gelu => y = x * ((Real.sqrt (2 * Real.pi))⁻¹ * ∫ t in Set.Iic x, Real.exp (-(t ^ 2) / 2))
  | .geluTanh => y = x / 2 * (1 + Real.tanh (Real.sqrt (2 / Real.pi) * (x + 0.044715 * x ^ 3)))
  | .sin => y = Real.sin x
  | .cos => y = Real.cos x

/-- The bound of the table of R122 on a result r where the exact result is y. -/
def SfuBound (g : Config.Sfu) (x r y : ℝ) : Prop :=
  match g with
  | .exp => ((2 : ℝ) ^ (-126 : ℤ) ≤ |y| → WithinUlps 2 0 r y) ∧ (|y| < (2 : ℝ) ^ (-126 : ℤ) → |r - y| ≤ (2 : ℝ) ^ (-149 : ℤ))
  | .exp2 => ((2 : ℝ) ^ (-126 : ℤ) ≤ |y| → WithinUlps 2 0 r y) ∧ (|y| < (2 : ℝ) ^ (-126 : ℤ) → |r - y| ≤ (2 : ℝ) ^ (-149 : ℤ))
  | .log => (|x - 1| < (2 : ℝ) ^ (-4 : ℤ) → |r - y| ≤ (2 : ℝ) ^ (-24 : ℤ)) ∧ ((2 : ℝ) ^ (-4 : ℤ) ≤ |x - 1| → WithinUlps 2 0 r y)
  | .rcp => WithinUlps 1 0 r y
  | .rsqrt => WithinUlps 2 0 r y
  | .tanh => WithinUlps 2 ((2 : ℝ) ^ (-26 : ℤ)) r y
  | .sigmoid => WithinUlps 2 ((2 : ℝ) ^ (-26 : ℤ)) r y
  | .silu => WithinUlps 4 ((2 : ℝ) ^ (-26 : ℤ)) r y
  | .gelu => WithinUlps 4 ((2 : ℝ) ^ (-26 : ℤ)) r y
  | .geluTanh => WithinUlps 4 ((2 : ℝ) ^ (-26 : ℤ)) r y
  | .sin => (|x| < (2 : ℝ) ^ 24 → |r - y| ≤ (2 : ℝ) ^ (-21 : ℤ)) ∧ ((2 : ℝ) ^ 24 ≤ |x| → |r| ≤ 1)
  | .cos => (|x| < (2 : ℝ) ^ 24 → |r - y| ≤ (2 : ℝ) ^ (-21 : ℤ)) ∧ ((2 : ℝ) ^ 24 ≤ |x| → |r| ≤ 1)

/-- A part keeps R122: wherever a special function answers a finite value for a finite input, it is within the table's bound.
The model keeps the table's rows by its own
fixed-point bounds (Machine/Special.lean); this says the same over the real numbers, and a claim about accuracy takes it as its
hypothesis. -/
def SfuWithinBounds : Prop :=
  ∀ (g : Config.Sfu) (v : FVal) (x r y : ℝ), v.IsReal x → (sfuVal g v).IsReal r → SfuExact g x y → SfuBound g x r y

end Sys2Proof.Machine
end

