-- ==== Sys2Proof/Certificates/Slice0/Obligations.lean ====
section
/-!
DEFINITION. Statements for the provers, rule by rule: each says what a command answers, for every state and operands that meet
its hypotheses, and what the block keeps whatever command runs. Where the next state is written with operations of the model, those
operations are the ones that the model's own meanings are built of.
-/

section

open Sys2Proof Sys2Proof.Machine

/-! ## The block and its queue -/

/-- One step with command c at the front of the queue is exec of c on the state with the queue's rest, for every command and state. -/
def Obligations.StepRunsFrontCommand : Prop :=
  ∀ (s : State) (c : Instr) (rest : List Instr), s.pending = c :: rest → step s = exec c (s.setPending rest)

/-- No command ends a run: each answers a next state, for every operand and in every state, and takes or adds no waiting command; on an
empty queue the block idles. That an event which cannot happen in the state as it stands changes nothing, and that an empty queue
idles, are the model's own choices (log entries 1 and 2). -/
def Obligations.EveryStepAnswers : Prop :=
  (∀ (c : Instr) (s : State), ∃ t, exec c s = .next t ∧ t.pending = s.pending) ∧ ∀ s : State, s.pending = [] → step s = .next s

/-- Right after reset every memory, the register file and every table are in canonical form, no command waits, nothing has been sent
and no instruction is in flight. -/
def Obligations.ResetIsCanonical : Prop :=
  State.reset.canonical ∧ State.reset.pending = [] ∧ State.reset.out = [] ∧ State.reset.insts = []

/-- From every canonical state, reached or not: a step's next state is canonical, so is what each command answers, and equal contents
stay equal data; the part and its serial number never change, and what has been sent is never taken back. -/
def Obligations.EveryStepKeepsCanonicalForm : Prop :=
  (∀ s t : State, s.canonical → step s = .next t → t.canonical ∧ s.out <+: t.out ∧ t.part = s.part ∧ t.serial = s.serial) ∧
  (∀ (c : Instr) (s t : State), s.canonical → exec c s = .next t → t.canonical)

/-! ## Issue (R19 to R22, R36, R44, R45, R60, R66 to R68, R394) -/

/-- The rows that issue an instruction, but for CHAIN, with their opcodes. -/
def Sys2Proof.Machine.issueRows : List (Nat × (QueueNo → Instr)) :=
  [(0x00, .nop), (0x01, .sceneBegin), (0x02, .sceneEnd), (0x03, .preemptOk), (0x05, .gateAcq), (0x06, .gateRel), (0x07, .hurdle),
   (0x08, .cueStamp), (0x09, .propRead), (0x0A, .queueResume), (0x10, .mma), (0x11, .mmaSend), (0x12, .mmaRsum), (0x13, .gatherMma),
   (0x14, .a2aMma), (0x15, .mmaA2a), (0x18, .conv), (0x1C, .attnFwd), (0x1D, .attnBwd)] ++
  [(0x30, .vadd), (0x31, .vsub), (0x32, .vmul), (0x33, .vfma), (0x34, .vmax), (0x35, .vmin), (0x36, .vcvt), (0x37, .vscale), (0x38, .vrsum),
   (0x39, .vrmax), (0x3A, .vrsqsum), (0x40, .exp), (0x41, .exp2), (0x42, .log), (0x43, .rcp), (0x44, .rsqrt), (0x45, .tanh),
   (0x46, .sigmoid), (0x47, .silu), (0x48, .gelu), (0x49, .sin), (0x4A, .cos), (0x50, .gluAct), (0x51, .softmax), (0x52, .rmsnorm),
   (0x53, .rope)] ++
  [(0x60, .move), (0x61, .fill), (0x62, .gather), (0x63, .scatter), (0x64, .push), (0x65, .pop), (0x66, .prefetch), (0x67, .clean),
   (0x68, .runLoad), (0x69, .runMark), (0x6A, .runWait), (0x70, .atom), (0x71, .atomCas), (0x80, .optAdamw), (0x81, .optLion),
   (0x82, .optSgdm), (0x90, .castLoad), (0x91, .castRead), (0x92, .decodeAttn)]

/-- The head of queue q is a packet k of opcode op that may issue: its partition p and its scene sc; the queue may issue, the packet
reads, its share of the instructions in flight is left, and its cue qualifier is met. -/
structure Sys2Proof.Machine.Head (s : State) (q op p : Nat) (k : Pkt) (sc : Option Scene) : Prop where
  part : s.partOf q = some p
  may : s.mayIssue p q = true
  fetch : s.fetchEvent p q (s.queue q).head = 0
  pkt : s.packetAt p q (s.queue q).head = k
  code : k.opcode = op
  scene : sc = if op = 0x01 then none else s.sceneOf p q
  share : s.shareOk p ((sc.map (·.prio)).getD 0) = true
  cue : s.cueMet (s.baseCueOf p q sc) k = true

/-- What the head's instruction is before its checks. -/
def Sys2Proof.Machine.headInst (s : State) (q p : Nat) (k : Pkt) (sc : Option Scene) : Inst :=
  s.newInst p q (s.queue q).head k sc (s.cueLate (s.baseCueOf p q sc) k)

/-- Its slots' descriptors fetched, and its parameter block read. -/
def Sys2Proof.Machine.headRead (s : State) (q p : Nat) (k : Pkt) (sc : Option Scene) : State × Judged :=
  let table := s.dtabOf p sc k.opcode
  let f := s.fetchDescs q table [k.s0, k.s1, k.s2, k.s3]
  let m := f.1.loadParams { headInst s q p k sc with descs := f.2.1 } table
  (m.1, { m.2 with chain := false, first := false, last := false })

/-- It meets a range that an earlier instruction of its queue still reads or writes, or a descriptor that one still writes. -/
def Sys2Proof.Machine.headHazard (s : State) (q p : Nat) (k : Pkt) (sc : Option Scene) : Bool :=
  let m := headRead s q p k sc
  m.1.hazard m.2.i (m.2.i.tableReads (s.dtabOf p sc k.opcode))

/-- The verdict of its checks, in their order; a descriptor whose read meets poison comes before them. -/
def Sys2Proof.Machine.headVerdict (s : State) (q p : Nat) (k : Pkt) (sc : Option Scene) : Verdict :=
  let m := headRead s q p k sc
  if ((s.fetchDescs q (s.dtabOf p sc k.opcode) [k.s0, k.s1, k.s2, k.s3]).2.2 || m.2.poison) = true then .fails Ev.eccUncorr
  else m.1.verdict (s.queue q).block.kind (m.1.windowOf (headInst s q p k sc)) none [m.2]

/-- The instruction i of opcode op at the head of queue q passes every check, meets no hazard and, where it needs a working area, finds
its place; u is the state with it in flight, its company's number taken, the head past it. -/
structure Sys2Proof.Machine.Passes (s : State) (q op : Nat) (u : State) (i : Inst) (p : Nat) (k : Pkt) (sc : Option Scene) : Prop where
  head : Head s q op p k sc
  verdict : headVerdict s q p k sc = .passes
  free : headHazard s q p k sc = false
  area : i.area = none ∧ k.area = 0 ∨ k.area ≠ 0 ∧ i.area.isSome ∧
    let m := headRead s q p k sc
    m.1.placeArea (headInst s q p k sc) (m.1.windowOf (headInst s q p k sc)) k.area (localTop m.2.i.operands) = i.area
  inst : let t := (headRead s q p k sc).1.takeNumber (headRead s q p k sc).2.i
    i = { t.2 with outs := t.2.realOuts, area := i.area }
  state : u = (((headRead s q p k sc).1.takeNumber (headRead s q p k sc).2.i).1.noteIssue i 1).enter i

/-- Every instruction that passes its checks and reads nothing of its peers issues: it goes in flight, the head of its queue moves past
it, and its effect begins at once; one that reads its peers' memory asks for every byte and waits. -/
def Obligations.PassingInstructionIssues : Prop :=
  ∀ (row : Nat × (QueueNo → Instr)), row ∈ issueRows → ∀ (s u : State) (q : QueueNo) (i : Inst) (p : Nat) (k : Pkt) (sc : Option Scene),
    Passes s q row.1 u i p k sc →
    (i.peerInputs = [] → exec (row.2 q) s = .next ((u.launch i).settle)) ∧
    (∀ (d : Desc), i.peerInputs = [d] → 0 < d.extent →
      let a := u.askPeer i.part d
      exec (row.2 q) s = .next ((a.1.setInst { i with wait := .peer, reads := a.2 }).settle)) ∧
    u.insts = (headRead s q p k sc).1.insts ++ [i] ∧
    (s.canonical → (u.queue q).head = (((headRead s q p k sc).1.queue q).head + 1) % 2 ^ 32)

/-- The first check that fails retires the instruction at issue with its event, and a zero SHAPE entry with none: COUNT 0, no output
written; a collective takes its company's number all the same. Before its checks, one that meets a hazard waits. -/
def Obligations.FailedCheckRetiresAtIssue : Prop :=
  ∀ (row : Nat × (QueueNo → Instr)), row ∈ issueRows → ∀ (s : State) (q : QueueNo) (p : Nat) (k : Pkt) (sc : Option Scene),
    Head s q row.1 p k sc →
    (headHazard s q p k sc = true → exec (row.2 q) s = .next s.settle) ∧
    let m := headRead s q p k sc
    let i := headInst s q p k sc
    (headHazard s q p k sc = false → ∀ e, headVerdict s q p k sc = .fails e → exec (row.2 q) s = .next (m.1.retireAtIssue i [m.2.i] e).settle) ∧
    (headHazard s q p k sc = false → headVerdict s q p k sc = .zero → exec (row.2 q) s = .next (m.1.retireAtIssue i [m.2.i] 0).settle) ∧
    (∀ (t : State) (e : Nat), isColl k.opcode = false → isRing k.opcode = false → k.opcode ≠ 0x04 →
      t.retireAtIssue i [m.2.i] e =
        ((t.noteIssue { i with event := e, immediate := true } 1).enter { i with event := e, immediate := true }).place
          { i with event := e, immediate := true })

/-- What an instruction's effect made of it takes its place in flight, and the Apron engines take what waits for them. -/
def Sys2Proof.Machine.placed (m : State × Inst) : State := ((m.1.place m.2).apronStart).settle

/-- The opcodes that compute from their operands alone: MMA, CONV outside the Apron, the vector class, MOVE, FILL, GATHER and SCATTER,
the atomic updates, the optimisers and CAST.READ. -/
def Sys2Proof.Machine.computes (k : Pkt) : Bool :=
  k.opcode == 0x10 || (k.opcode == 0x18 && k.convMode != 5) || isVector k.opcode || isOpt k.opcode ||
    [0x60, 0x61, 0x62, 0x63, 0x70, 0x71, 0x91].contains k.opcode

/-- The bytes that pieces name in the machine's own memories, in the order of their writing: tier, key, byte. -/
def Sys2Proof.Machine.pieceCells (s : State) (i : Inst) (xs : List Piece) : List (Nat × Nat × Byte) :=
  (xs.filter fun x => x.d.tier != tPeer).flatMap fun x => x.cells.map fun c => (x.d.tier, tierKey x.d.tier (x.d.who (s.fnOf i) x.cl) c.1, c.2)

/-- A computing instruction that reads and may write all its operands writes the pieces of its work in order, counts its elements, and
carries the event of its arithmetic, if any; a byte of a tier holds the last byte written there, and what it held before (but for a
LAST_USE read, which leaves lines undefined) where none was written. One whose output holds partial sums while it is in flight keeps its
pieces for its retirement, and its output is undefined until then. One whose operands fail to read, or whose outputs may not be
written, has written nothing: its outputs are undefined, its COUNT 0. A DYNAMIC instruction of the matrix class first has its claims. -/
def Obligations.ComputeRowsWrite : Prop :=
  ∀ (row : Nat × (QueueNo → Instr)), row ∈ issueRows → ∀ (s u : State) (q : QueueNo) (i : Inst) (p : Nat) (k : Pkt) (sc : Option Scene),
    Passes s q row.1 u i p k sc → computes k = true → i.peerInputs = [] →
    let c := u.claimTiles i
    let u := c.1
    let i := c.2
    let w := opWork u i
    let v := u.setFree (u.free + w.draws)
    let r := v.consume w.reads
    let t := (r.writePieces i w.pieces).1
    (w.fail = 0 → (∀ x ∈ w.pieces, v.pieceEvent i x = 0) → w.partials = true →
      ∃ j, exec (row.2 q) s = .next (placed (r.loseOuts i, j)) ∧ j.queue = i.queue ∧ j.index = i.index ∧ j.pkt = k ∧ j.event = w.event ∧
        j.count = w.count ∧ j.held = w.pieces) ∧
    (w.fail = 0 → (∀ x ∈ w.pieces, v.pieceEvent i x = 0) → w.partials = false →
      (∃ j, exec (row.2 q) s = .next (placed (t, j)) ∧ j.queue = i.queue ∧ j.index = i.index ∧ j.pkt = k ∧ j.event = w.event ∧
        j.count = w.count ∧ j.acks = i.acks ++ (r.writePieces i w.pieces).2) ∧
      (s.canonical → ∀ tier who a, (∀ x ∈ w.pieces, x.d.tier ≤ 4) → tier ≤ 4 →
        t.tierByte tier who a =
          match (pieceCells u i w.pieces).reverse.find? fun c => c.1 == tier && c.2.1 == tierKey tier who a with
          | some c => c.2.2
          | none => r.tierByte tier who a) ∧
      ((∀ x ∈ w.reads, x.1.hint ≠ 2) → ∀ tier who a, r.tierByte tier who a = u.tierByte tier who a)) ∧
    (∀ e, e ≠ 0 → (if w.fail ≠ 0 then w.fail else firstEvent (w.pieces.map (v.pieceEvent i))) = e →
      ∃ j, exec (row.2 q) s = .next (placed (r.loseOuts i, j)) ∧ j.queue = i.queue ∧ j.index = i.index ∧ j.pkt = k ∧ j.event = e ∧ j.count = 0)

/-! ## Common instructions (R24 to R28, R30, R38 to R43, R70, R241) -/

/-- NOP does nothing and may retire at once. SCENE.BEGIN whose block reads and passes waits for room among the ready scenes, or for the
boundary; one whose block does not pass has E_SCENE. SCENE.END waits for its scene, and outside a scene has E_SCENE. PREEMPT.OK stands
at its point in a scene, and outside a scene passes at once. QUEUE.RESUME clears HALTED of the queue it names, with COUNT 1, and has
COUNT 0 when that queue is not halted.

CUE.STAMP writes the cue and the reference fold's cycle count (free below a cue) to the first 16 bytes of its output, PROP.READ the
property that IMM names to the first 8, where the output may be written and lies in a memory of this machine. -/
def Obligations.CommonRowsComplete : Prop :=
  (∀ (s u : State) (q : QueueNo) (i : Inst) (p : Nat) (k : Pkt) (sc : Option Scene),
    (Passes s q 0x00 u i p k sc → exec (.nop q) s = .next (placed (u, { i with immediate := true }))) ∧
    (Passes s q 0x01 u i p k sc → (i.dd 1).tier ≠ tLocal → (i.dd 1).tier ≠ tPeer →
      let b := u.paramBytes (i.dd 1) (u.fnOf i) 0 64
      u.readEvent (i.dd 1).tier ((i.dd 1).who (u.fnOf i) 0) (i.dd 1).base 64 = 0 →
      (u.blockOk i.part b = true → exec (.sceneBegin q) s = .next (placed (u, { i with
        params := b, wait := if i.boundary then .boundary else .sceneLimit, waitCue := u.time.cue }))) ∧
      (u.blockOk i.part b = false → exec (.sceneBegin q) s = .next (placed (u, { i with immediate := true, event := Ev.scene })))) ∧
    (Passes s q 0x02 u i p k sc →
      (i.scene.isSome = true → exec (.sceneEnd q) s = .next (placed (u, { i with wait := .sceneEnd, waitCue := u.time.cue }))) ∧
      (i.scene = none → exec (.sceneEnd q) s = .next (placed (u, { i with immediate := true, event := Ev.scene })))) ∧
    (Passes s q 0x03 u i p k sc →
      (∀ x, i.scene.bind (u.scene? i.part) = some x → exec (.preemptOk q) s = .next (placed (u.setScene i.part { x with
        points := (x.points.filter fun y => y.1 != i.queue) ++ [(i.queue, k.imm)] }, { i with wait := .preempt k.imm }))) ∧
      (i.scene = none → exec (.preemptOk q) s = .next (placed (u, { i with immediate := true })))) ∧
    (Passes s q 0x0A u i p k sc → ∀ x, u.resumeTarget i = some x →
      (u.qHalted x = true → exec (.queueResume q) s =
        .next (placed (u.setFld (F.queQctrlHalted x) 0, { i with immediate := true, count := 1 }))) ∧
      (u.qHalted x = false → exec (.queueResume q) s = .next (placed (u, { i with immediate := true }))))) ∧
  (∀ (s u : State) (q : QueueNo) (i : Inst) (p : Nat) (k : Pkt) (sc : Option Scene), (i.dd 0).tier ≠ tPeer →
    let d := i.dd 0
    let done (t : State) (bs : Bytes) : State :=
      t.writePart i.part d.tier (d.who (t.fnOf i) (t.clusterAt i 0)) d.hint
        ((List.range bs.length).map fun b => (d.addr (d.rowAt 0) b, bs.getD b 0))
    (Passes s q 0x08 u i p k sc → ∃ cyc : Nat, u.refCycles i.part ≤ cyc ∧ cyc < u.refCycles i.part + max 1 (u.cyclesPerCue i.part) ∧
      let v := u.drawNat.2
      let bs := natLE 8 u.time.cue ++ natLE 8 cyc
      (v.pieceEvent i { d := d, row := 0, cl := v.clusterAt i 0, bs := bs } = 0 →
        exec (.cueStamp q) s = .next (placed (done v bs, { i with event := 0, count := 16 })))) ∧
    (Passes s q 0x09 u i p k sc →
      let bs := natLE 8 (u.property k.imm)
      u.pieceEvent i { d := d, row := 0, cl := u.clusterAt i 0, bs := bs } = 0 →
        exec (.propRead q) s = .next (placed (done u bs, { i with event := 0, count := 8 }))))


/-- A GATE.ACQ whose gate has a rank no higher than that of a gate held in its context has E_GATE_ORDER; the gate is not acquired: no
gate's count, rank, tag or waiters change. -/
def Obligations.GateOrderIsKept : Prop :=
  ∀ (s u : State) (q : QueueNo) (i : Inst) (p : Nat) (k : Pkt) (sc : Option Scene) (h : Hold), s.canonical → Passes s q 0x05 u i p k sc →
    h ∈ u.holds i → (u.gate i.part k.imm).rank ≤ (u.gate i.part h.gate).rank →
    exec (.gateAcq q) s = .next (placed (u, { i with immediate := true, event := Ev.gateOrder })) ∧
    ∀ p g, u.gate p g = s.gate p g

/-- A hurdle: the first arrival of a generation, a further one of the same count, a WAIT arrival waiting; an arrival of another count
has E_DESC and joins nothing. A generation whose arrivals are all there, and whose queues' earlier writes are visible, completes: it
leaves the hurdle, its queues' buffered descriptors are discarded, its WAIT arrivals retire, each in its turn, with no event.

A gate: GATE.ACQ in rank order takes a unit of a count above 0 with nobody waiting — the count falls by 1, the epoch tag rises by 1
modulo 2^32, the tag word is written, BROKEN is cleared and reported, the gate is held — and otherwise joins the gate's waiters; the
oldest waiter takes the next unit in the same way; GATE.REL ends the hold, and the count rises by 1, at 65,535 at most, at once when
every earlier write of the queue is visible, and when they are otherwise. -/
def Obligations.GateAndHurdleRowsComplete : Prop :=
  ((∀ (s u : State) (q : QueueNo) (i : Inst) (p : Nat) (k : Pkt) (sc : Option Scene), Passes s q 0x07 u i p k sc →
    let h := bits k.imm 0 8
    let n := bits k.imm 8 8
    let waits := bits k.md 0 1 == 0
    let me := if waits then [i.queue] else []
    let j := if waits then { i with wait := .hurdle h, waitCue := u.time.cue } else { i with immediate := true }
    (u.hurdle i.part h = [] → exec (.hurdle q) s =
      .next (placed (u.setHurdle i.part h [⟨i.scene.getD 0, n, [(i.queue, i.index)], me⟩], j))) ∧
    (∀ l v, u.hurdle i.part h = l ++ [v] → v.arrivals.length < v.n →
      (v.n = n → exec (.hurdle q) s = .next (placed (u.setHurdle i.part h (l ++ [{ v with
        arrivals := v.arrivals ++ [(i.queue, i.index)], waiters := v.waiters ++ me }]), j))) ∧
      (v.n ≠ n → exec (.hurdle q) s = .next (placed (u, { i with immediate := true, event := Ev.desc })))) ∧
    (∀ l v, u.hurdle i.part h = l ++ [v] → v.n ≤ v.arrivals.length → exec (.hurdle q) s =
      .next (placed (u.setHurdle i.part h (l ++ [v] ++ [⟨i.scene.getD 0, n, [(i.queue, i.index)], me⟩]), j)))) ∧
  (∀ (s : State) (p : PartNo) (h : HurdleNo) (v : HurdleGen) (t : List HurdleGen), s.running = true → s.hurdle p h = v :: t →
    (s.genComplete v = true → exec (.hurdleGenerationComplete p h) s =
      .next ((((s.setHurdle p h t).over (v.arrivals.map (·.1)).eraseDups State.dropBuffer).endWaiters h v.waiters 0).settle)) ∧
    (s.genComplete v = false → exec (.hurdleGenerationComplete p h) s = .next s.settle)) ∧
  (∀ (s : State) (p : PartNo) (h : HurdleNo) (v : HurdleGen) (t : List HurdleGen), s.canonical → tblWf [] (s.partition p).hurdles →
    s.running = true → s.hurdle p h = v :: t → s.genComplete v = true →
    ∃ u : State, exec (.hurdleGenerationComplete p h) s = .next u.settle ∧ u.hurdle p h = t ∧ (∀ a ∈ v.arrivals, (u.queue a.1).buffer = []) ∧
      ∀ q ∈ v.waiters, ∀ i, (s.instsOf q).find? (fun i => i.wait == .hurdle h) = some i →
        ∀ j, u.inst? i.queue i.index = some j → j.wait = .none ∧ j.event = 0)) ∧
  ((∀ (s u : State) (q : QueueNo) (i : Inst) (p : Nat) (k : Pkt) (sc : Option Scene), Passes s q 0x05 u i p k sc →
    u.gateOrderBad i k.imm = false →
    let v := u.gate i.part k.imm
    (0 < v.count → v.waiters = [] → exec (.gateAcq q) s = .next (placed (u.acquire i k.imm))) ∧
    (v.count = 0 ∨ v.waiters ≠ [] → exec (.gateAcq q) s = .next (placed (u.setGate i.part k.imm { v with waiters := v.waiters ++ [i.queue] },
      { i with wait := .gate k.imm, waitCue := u.time.cue })))) ∧
  (∀ (u : State) (i : Inst) (g : Nat), u.canonical → i.part < 16 →
    let v := u.gate i.part g
    let m := u.acquire i g
    m.1.gate i.part g = { v with count := v.count - 1, epoch := (v.epoch + 1) % 2 ^ 32, broken := false } ∧
    (∀ x, x ≠ g → m.1.gate i.part x = u.gate i.part x) ∧
    m.2 = { i with wait := .none, immediate := true, broken := v.broken, event := if v.broken then Ev.broken else 0 }) ∧
  (∀ (s u : State) (q : QueueNo) (i : Inst) (p : Nat) (k : Pkt) (sc : Option Scene), Passes s q 0x06 u i p k sc →
    let t := u.setHolds i (((u.holds i).reverse.eraseP fun h => h.gate == k.imm).reverse)
    ((t.instsOf i.queue).all t.visible = true → exec (.gateRel q) s =
      .next (placed (t.setGate i.part k.imm { t.gate i.part k.imm with count := sat 65535 ((t.gate i.part k.imm).count + 1) },
        { i with immediate := true }))) ∧
    ((t.instsOf i.queue).all t.visible = false → exec (.gateRel q) s = .next (placed (t, { i with wait := .visible, immediate := true })))) ∧
  (∀ (s : State) (p : PartNo) (g : GateNo) (q : Nat) (l : List Nat) (i : Inst), s.running = true → (s.gate p g).waiters = q :: l →
    0 < (s.gate p g).count → (s.instsOf q).find? (fun i => i.wait == .gate g.val) = some i →
    let m := (s.setGate p g { s.gate p g with waiters := l }).acquire i g
    exec (.gateAcqGrant p g) s = .next ((m.1.place m.2).settle)) ∧
  (∀ (s : State) (p : PartNo) (g : GateNo) (q : Nat) (l : List Nat) (i : Inst), s.canonical → s.running = true →
    (s.gate p g).waiters = q :: l → 0 < (s.gate p g).count →
    (s.instsOf q).find? (fun i => i.wait == .gate g.val) = some i → i.part = p.val → i.pkt.opcode = 0x05 →
    (i.scene = none ∨ (i.scene.bind (s.scene? p)).isSome = true) →
    let v := s.gate p g
    let j := { i with wait := .none, immediate := true, broken := v.broken, event := if v.broken = true then Ev.broken else 0 }
    ∃ t u : State, exec (.gateAcqGrant p g) s = .next u.settle ∧
      t.gate p g = { v with count := v.count - 1, epoch := (v.epoch + 1) % 2 ^ 32, broken := false, waiters := l } ∧
      t.holds i = s.holds i ++ [⟨g, (v.epoch + 1) % 2 ^ 32⟩] ∧ t.inst? i.queue i.index = some j ∧
      u = if t.canRetire j = true then t.retireOf j else t) ∧
  (∀ (s : State) (p : PartNo) (g : GateNo), (s.gate p g).waiters = [] ∨ (s.gate p g).count = 0 → s.running = true →
    exec (.gateAcqGrant p g) s = .next s.settle))

/-! ## Access, cast and decode (R33, R34, R65, R151 to R153, R189, R202, R210, R211, R226) -/

/-- PUSH and POP whose operand reads wait for their hand-over units in a FIFO pair, with their number as COUNT; outside a pair PUSH has
the number and POP has 0. PREFETCH touches the lines of its range and changes no byte. CLEAN leaves no line of its range dirty, and
with INVAL none in the cache; no other line changes. RUN.LOAD of a table whose entries all pass replaces the running order but for what
has started; one with a bad entry has E_DESC and replaces nothing. RUN.MARK starts the waiting entries within the look-ahead; RUN.WAIT
starts its layer's COPY entries and waits while one is not done.

CAST.LOAD with every entry acceptable gives the entries from IMM on the rows of S1, one loaded as FREE over another with no pages;
one that would load SWAPPED, or ACTIVE over SWAPPED, has E_DESC and changes no entry. DECODE.ATTN whose operands fail to read has
COUNT 0 and undefined outputs; otherwise it takes its step, and no entry outside the partition's range changes. -/
def Obligations.AccessAndCastRowsComplete : Prop :=
  (∀ (s u : State) (q : QueueNo) (i : Inst) (p : Nat) (k : Pkt) (sc : Option Scene), i.peerInputs = [] →
    (Passes s q 0x64 u i p k sc → u.srcEvent i (i.dd 1) (u.clustersFor i i.handUnits.length) = 0 →
      let t := u.consume [(i.dd 1, i.handUnits)]
      (∀ x, t.instPair i = some x → exec (.push q) s = .next (placed (t, { i with
        count := i.handUnits.length, wait := .units, unitsLeft := i.handUnits.length }))) ∧
      (t.instPair i = none → exec (.push q) s = .next (placed (t, { i with count := i.handUnits.length })))) ∧
    (Passes s q 0x65 u i p k sc →
      (∀ x, u.instPair i = some x → exec (.pop q) s = .next (placed (u, { i with
        count := i.handUnits.length, wait := .units, unitsLeft := i.handUnits.length }))) ∧
      (u.instPair i = none → exec (.pop q) s = .next (placed (u, { i with count := 0 })))) ∧
    (Passes s q 0x66 u i p k sc → ∃ t, exec (.prefetch q) s = .next (placed (t, i)) ∧
      t = u.setMem { u.mem with lines := t.mem.lines } ∧ (u.flag F.cacCtrlEn = false → t = u)) ∧
    (Passes s q 0x67 u i p k sc → ∃ t, exec (.clean q) s = .next (placed (t, i)) ∧ t = u.setMem { u.mem with lines := t.mem.lines } ∧
      (∀ c ∈ t.mem.lines, overlaps (64 * c.line) 64 (i.dd 1).base (i.dd 1).extent = true → c.dirty = false ∧ bits k.imm 0 1 ≠ 1) ∧
      ∀ c, overlaps (64 * c.line) 64 (i.dd 1).base (i.dd 1).extent = false → (c ∈ t.mem.lines ↔ c ∈ u.mem.lines)) ∧
    (Passes s q 0x68 u i p k sc → u.srcEvent i (i.dd 1) [u.clusterAt i 0] = 0 →
      let raw := (List.range (i.dd 1).rows).map fun r => u.rowBytesOf (i.dd 1) (u.fnOf i) (u.clusterAt i 0) ((i.dd 1).rowAt r)
      let es := raw.map RunEntry.ofBytes
      let ok := raw.all (u.entryOk i.part (u.windowOf i)) && layersOk (bits k.imm 15 1 == 1) es
      let v := u.queue i.queue
      (ok = true → exec (.runLoad q) s = .next (placed ((u.setQueue i.queue { v with
        runOrder := (v.runOrder.filter fun e => e.status == .started).map (fun e => { e with layer := oldLayer }) ++ es,
        lookahead := bits k.imm 0 4, descending := bits k.imm 15 1 == 1 }).consume [groupReads (i.dd 1)], i))) ∧
      (ok = false → exec (.runLoad q) s = .next (placed (u, { i with event := Ev.desc })))) ∧
    (Passes s q 0x69 u i p k sc →
      let v := u.queue i.queue
      exec (.runMark q) s = .next (placed (u.startEntries i.part i.queue fun e =>
        if v.descending then decide (k.imm ≤ e.layer + v.lookahead) else decide (e.layer ≤ k.imm + v.lookahead), i))) ∧
    (Passes s q 0x6A u i p k sc →
      let t := u.startEntries i.part i.queue fun e => e.copy && e.layer == k.imm
      ((t.queue i.queue).layerDone k.imm = false →
        exec (.runWait q) s = .next (placed (t, { i with wait := .runWait k.imm, waitCue := t.time.cue }))) ∧
      ((t.queue i.queue).layerDone k.imm = true → ∃ v, exec (.runWait q) s =
        .next (placed (t.setQueue i.queue v, { i with wait := .none, event := (t.queue i.queue).layerEvent k.imm }))))) ∧
  (∀ (s u : State) (q : QueueNo) (i : Inst) (p : Nat) (k : Pkt) (sc : Option Scene), s.canonical → i.peerInputs = [] →
    (Passes s q 0x90 u i p k sc → u.srcEvent i (i.dd 1) [u.clusterAt i 0] = 0 →
      let new (r : Nat) := CastEntry.ofBytes (u.rowBytesOf (i.dd 1) (u.fnOf i) (u.clusterAt i 0) (r, 0, 0))
      ((∀ r < (i.dd 1).n1, loadRefused (u.castOf i.part (k.imm + r)) (new r) = false) →
        ∃ t, exec (.castLoad q) s = .next (placed (t, i)) ∧
          ∀ r < (i.dd 1).n1, t.castOf i.part (k.imm + r) =
            if (new r).state = castFree ∧ (u.castOf i.part (k.imm + r)).state ≠ castFree then { new r with pages := 0 } else new r) ∧
      ((∃ r < (i.dd 1).n1, loadRefused (u.castOf i.part (k.imm + r)) (new r) = true) →
        exec (.castLoad q) s = .next (placed (u, { i with event := Ev.desc })))) ∧
    (Passes s q 0x92 u i p k sc →
      let ev := firstEvent [u.srcEvent i (i.dd 1) [u.clusterAt i 0], u.srcEvent i (i.dd 2) [u.clusterAt i 0]]
      (ev = 0 → exec (.decodeAttn q) s = .next (placed (decodeRun u i)) ∧
        ∀ n, n < (u.block i.part).castFirst ∨ (u.block i.part).castFirst + (u.block i.part).castCount ≤ n →
          (decodeRun u i).1.castEntry n = u.castEntry n) ∧
      (ev ≠ 0 → exec (.decodeAttn q) s = .next (placed (u.loseOuts i, { i with event := ev, count := 0 })))))


/-- Units (R32 to R34): a pop takes the oldest unit of F2 and writes it at its output, or sends it to its peer; a push or a token goes
into its FIFO only with room for all of it; a DYNAMIC instruction's next tile is claimed for its cluster; an execute queue's unit takes
the oldest units of F0, F1 and its entry of F3, and puts its result into F2, only with room for all of it; where there is no room, or
nothing to take, nothing changes. -/
def Sys2Proof.Machine.UnitsBegin : Prop :=
  ∀ (s : State) (q : QueueNo) (i : Inst) (x : Scene) (pair : Nat), s.canonical → s.running = true → s.instPair i = some (x, pair) →
    x.running = true →
    let mine := (s.instsOf q).filter fun i => decide (0 < i.unitsLeft)
    let c := i.unitNo % max 1 (s.clustersOf i.part).length
    let f := x.fifo pair c
    let cl := s.clusterAt i i.unitNo
    let keys := i.handUnits.getD i.unitNo []
    let moved (t : State) (j : Inst) := t.setInst { j with unitsLeft := i.unitsLeft - 1, unitNo := i.unitNo + 1,
                                                           wait := if i.unitsLeft - 1 = 0 then .none else i.wait }
    let taken (l : List Bytes) := s.setScene i.part (x.setFifo pair c { f with f2 := l })
    ((s.queue q).block.kind ≠ 0 → mine.find? (fun i => !i.inbound) = some i → ∀ b l, f.f2 = b :: l →
      (i.d 0 = none → exec (.fifoUnitBegin q) s = .next (moved (taken l) i)) ∧
      (∀ d, i.d 0 = some d → d.tier ≠ tPeer → exec (.fifoUnitBegin q) s =
        .next (moved ((taken l).writePart i.part d.tier (d.who (s.fnOf i) cl) d.hint (keys.zip b)) i)) ∧
      (∀ d, i.d 0 = some d → d.tier = tPeer →
        let m := (runsOf (keys.zip b)).foldl (fun acc (r : Nat × Bytes) =>
          let m := acc.1.sendPeer i.part d.rank r.1 r.2
          (m.1, acc.2 ++ m.2)) (taken l, [])
        exec (.fifoUnitBegin q) s = .next (moved m.1 { i with acks := i.acks ++ m.2 }))) ∧
    ((s.queue q).block.kind ≠ 0 → (∀ j ∈ mine, j.inbound = true) → mine.head? = some i →
      (∀ e, s.executePartner q = some e → ∀ j ∈ s.instsOf e, j.claims = none) →
      let bs := s.unitData i (i.dd 1) cl keys
      let put (v : PairFifos) := moved (s.setScene i.part (x.setFifo pair c v)) i
      (i.pkt.opcode = 0x64 → bits i.pkt.imm 0 2 = 0 → exec (.fifoUnitBegin q) s =
        .next (if fifoBytes f.f0 + bs.length ≤ 65536 then put { f with f0 := f.f0 ++ [bs] } else s)) ∧
      (i.pkt.opcode = 0x64 → bits i.pkt.imm 0 2 = 1 → exec (.fifoUnitBegin q) s =
        .next (if fifoBytes f.f1 + bs.length ≤ 65536 then put { f with f1 := f.f1 ++ [bs] } else s)) ∧
      (i.pkt.opcode = 0x64 → bits i.pkt.imm 0 2 = 3 → exec (.fifoUnitBegin q) s =
        .next (if f3Entries (f.f3 ++ [.unit bs]) ≤ 512 then put { f with f3 := f.f3 ++ [.unit bs] } else s)) ∧
      (i.pkt.opcode = 0x60 → exec (.fifoUnitBegin q) s =
        .next (if f3Entries (f.f3 ++ [.token]) ≤ 512 then put { f with f3 := f.f3 ++ [.token] } else s))) ∧
    ((s.queue q).block.kind ≠ 0 → mine = [] → ∀ e, s.executePartner q = some e →
      (s.instsOf e).find? (fun j => j.claims.isSome && decide (j.claimed < j.handUnits.length)) = some i →
      let c := s.unitCluster i i.claimed
      let f := x.fifo pair c
      exec (.fifoUnitBegin q) s = .next (if f3Entries (f.f3 ++ [.claim i.claimed]) ≤ 512
        then (s.setScene i.part (x.setFifo pair c { f with f3 := f.f3 ++ [.claim i.claimed] })).setInst { i with claimed := i.claimed + 1 }
        else s)) ∧
    ((s.queue q).block.kind = 0 → mine.head? = some i →
      let c := s.unitCluster i i.unitNo
      let f := x.fifo pair c
      let bs := s.unitData i (i.dd 0) ((s.clustersOf i.part).getD c 0) keys
      (∀ f3, i.takeF3 f.f3 = some f3 → exec (.fifoUnitBegin q) s = .next (if fifoBytes f.f2 + bs.length ≤ 65536
        then (s.setScene i.part (x.setFifo pair c { f with f0 := f.f0.drop 1, f1 := f.f1.drop 1, f3 := f3, f2 := f.f2 ++ [bs] })).setInst
          { i with unitsLeft := i.unitsLeft - 1, unitNo := i.unitNo + 1 }
        else s)) ∧
      (i.takeF3 f.f3 = none → exec (.fifoUnitBegin q) s = .next s))

/-- Units begin as UnitsBegin says. A background transfer that has started, and has what it awaits of a peer, completes: its bytes land
at its destination, or its destination is undefined and the entry keeps the event; with its layer done the RUN.WAIT that waits for it
has the layer's event and may retire. A head that waited for its working area tries again, and issues when it passes. A seal is sent
once every packet before it is acknowledged, and is itself to be acknowledged. An engine of a die finishes its tile, the instruction
has one left fewer and waits no longer when none is left on any die, and the engine takes its next. A CHAIN at a chain port takes what
is there of what it needs, or writes what fits of what it holds, and with everything written ends (R37). -/
def Obligations.EngineRowsComplete : Prop :=
  UnitsBegin ∧
  (∀ (s : State) (q : QueueNo) (n p : Nat) (e : RunEntry) (ev : Word16), s.running = true → s.partOf q = some p →
    (s.queue q).runOrder[n]? = some e → e.status = .started → s.entryReady e ev.toNat = true →
    let m := if e.copy = true then s.copyDone p e ev.toNat else (s.touch e.hint false ((List.range e.bytes).map (e.src + ·)), 0)
    let t := m.1.setEntry q n { e with status := if m.2 = 0 then .complete else .failed m.2, reads := [], acks := [] }
    ((s.instsOf q).find? (fun i => i.wait == .runWait e.layer) = none → exec (.runEntryDone q n ev) s = .next t.settle) ∧
    (∀ i, (s.instsOf q).find? (fun i => i.wait == .runWait e.layer) = some i →
      ((t.queue q).layerDone e.layer = false → exec (.runEntryDone q n ev) s = .next t.settle) ∧
      ((t.queue q).layerDone e.layer = true → ∃ v, exec (.runEntryDone q n ev) s =
        .next ((t.setQueue q v).setInst { i with wait := .none, event := (t.queue q).layerEvent e.layer }).settle))) ∧
  (∀ (s : State) (p : Nat) (e : RunEntry) (link : Nat),
    let src := s.entryWho p e.srcTier e.rank
    let dst := s.entryWho p e.dstTier e.rank
    let ev := s.copyEvent p e link
    (ev ≠ 0 → s.copyDone p e link = (s.undefineExtent (s.block p).fn [] ⟨e.dstTier, e.dst, e.bytes, e.rank⟩, ev)) ∧
    (ev = 0 → e.dstTier ≠ tPeer → s.canonical → e.dstTier ≤ 4 → e.srcTier ≤ 4 →
      (s.copyDone p e link).2 = 0 ∧ ∀ a < e.bytes,
        (s.copyDone p e link).1.tierByte e.dstTier dst (e.dst + a) = s.tierByte e.srcTier src (e.src + a))) ∧
  (∀ (s : State) (q : QueueNo) (p : Nat), s.running = true → s.partOf q = some p → (s.queue q).areaWait = true →
    let t := s.setQueue q { s.queue q with areaWait := false }
    let k := s.packetAt p q (s.queue q).head
    exec (.workAreaPlace q) s = .next (t.issue q k.opcode) ∧
    ∀ row ∈ issueRows, ∀ (u : State) (i : Inst) (sc : Option Scene), Passes t q row.1 u i p k sc → i.peerInputs = [] →
      exec (.workAreaPlace q) s = .next (u.launch i).settle) ∧
  (∀ (s : State) (q : QueueNo) (i : Inst), s.running = true → (s.instsOf q).find? s.maySeal = some i → i.stages = [] →
    isOpt i.pkt.opcode = true → (OptBlock.ofBytes i.params).seals = true →
    let d := (i.aux 2).getD {}
    let m := (s.noteSeal i.part d.base).sendPeer i.part d.rank d.base ((s.noteSeal i.part d.base).sealRecord i)
    exec (.sealWrite q) s = .next (m.1.setInst { i with wait := .none, acks := i.acks ++ m.2 }).follow) ∧
  (∀ (s : State) (die : DieNo) (c : Nat × Nat) (i : Inst), s.running = true → (s.apron die).current = some c → s.inst? c.1 c.2 = some i →
    0 < i.tilesOn die →
    let tiles := i.apronTiles.map fun (t : Nat × Nat) => if t.1 = die.val then (t.1, t.2 - 1) else t
    let j := { i with apronTiles := tiles, wait := if tiles.all (·.2 == 0) then .none else .apron }
    let t := s.setInst j
    ∃ u : State, exec (.apronTileEnd die) s = .next u.follow ∧ u.insts = t.insts ∧ u.inst? c.1 c.2 = some j ∧
      (s.canonical → (u.apron die).current = (t.apronNext die).map fun x => (x.queue, x.index))) ∧
  (∀ (s : State) (port : Word16) (i : Inst), s.running = true → s.insts.filter (fun i => decide (i.wait = .chainPort port.toNat)) = [i] →
    s.inst? i.queue i.index = some i →
    let v := s.chainPort port.toNat
    let again (moved : Bool) := if moved = true then s.time.cue else i.waitCue
    exec (.chainPortCredit port) s = .next ((s.chainGo i i.chainFuel).follow) ∧
    (∀ u l, i.portIn = u :: l → u.port = port.toNat → u.got + v.fill.length < u.need → s.portBroken i u.port = false →
      (∀ y ∈ l, y.slot ≠ u.slot) → exec (.chainPortCredit port) s =
        .next ((((s.writeTier tHand i.queue (portPlace u.slot * 2 ^ 48 + u.got) v.fill).setChainPort u.port { v with fill := [] }).setInst
          { i with portIn := { u with got := u.got + v.fill.length } :: l, waitCue := again (!v.fill.isEmpty) }).follow)) ∧
    (i.portIn = [] → i.stages[i.stageNo]? = none → i.portTo = some port.toNat → i.portOut ≠ [] → s.portBroken i port.toNat = false →
      let room := s.portBytes port.toNat - v.fill.length
      (room < i.portOut.length → exec (.chainPortCredit port) s =
        .next (((s.setChainPort port.toNat { v with fill := v.fill ++ i.portOut.take room }).setInst
          { i with portOut := i.portOut.drop room, waitCue := again (decide (0 < room)) }).follow)) ∧
      (i.portOut.length ≤ room →
        let t := s.setChainPort port.toNat { v with fill := v.fill ++ i.portOut }
        exec (.chainPortCredit port) s = .next (((t.clearHand i.queue).place (t.chainEnd { i with portOut := [] })).follow))))

/-! ## CHAIN, collectives and rings (R36, R37, R126, R130, R133, R147, R158, R161 to R168) -/

/-- A CHAIN of n stages, 2 to 8, whose n packets after it read, whose cue qualifiers are met and which passes every check goes in flight
as one instruction, each stage's collective taking its number; the queue's head moves past all n + 1 packets. It goes on stage by
stage: a computing stage is finished and hands its result on, one with an event that ends it ends the CHAIN, a collective stage opens,
and after the last stage the CHAIN takes its place with that stage's COUNT, once the seals of its optimiser stages are written. -/
def Obligations.ChainRowsComplete : Prop :=
  (∀ (s : State) (q : QueueNo) (p : Nat) (k : Pkt) (sc : Option Scene) (area : Option (Nat × Nat)), Head s q 0x04 p k sc → 2 ≤ k.imm →
    k.imm ≤ 8 → k.imm + 1 ≤ (s.queue q).backlog →
    let n := k.imm
    let idx (j : Nat) := ((s.queue q).head + j) % 2 ^ 32
    let ks := (List.range n).map fun j => s.packetAt p q (idx (j + 1))
    let base := s.baseCueOf p q sc
    let late := (k :: ks).any (s.cueLate base)
    let i := s.newInst p q (s.queue q).head k sc late
    let packets := (ks.zip (List.range n)).map fun x => s.newInst p q (idx (x.2 + 1)) x.1 sc late
    let table := s.dtabOf p sc 0x04
    let f := s.fetchAll table packets
    let m := f.1.loadAll table f.2.1
    let js := markEnds true m.2
    let l := js.map (·.i)
    let window := m.1.windowOf i
    let w := (l.map fun j => j.pkt.area).sum
    let a := l.foldl (fun (acc : State × List Inst) j =>
      let r := acc.1.takeNumber j
      (r.1, acc.2 ++ [r.2])) (m.1, [])
    let x : Inst := { a.1.chainInst i a.2 with area := area }
    ks.all (s.cueMet base) = true → (∀ j < n, s.fetchEvent p q (idx (j + 1)) = 0) → f.2.2 = false →
    m.1.verdict (s.queue q).block.kind window (some { i with descs := k.slotMarks }) js = .passes →
    js.any (·.poison) = false → m.1.hazard (m.1.chainInst i l) (js.flatMap fun j => j.i.tableReads table) = false → chainPeers l = [] →
    (w = 0 ∧ area = none ∨ w ≠ 0 ∧ area.isSome = true ∧ m.1.placeArea i window w (localTop (l.flatMap Inst.operands)) = area) →
    let z := ((a.1.noteIssue x (n + 1)).enter x).claimTiles x
    exec (.chain q) s = .next (z.1.chainGo z.2 z.2.chainFuel).settle) ∧
  (∀ (s : State) (i : Inst) (fuel : Nat) (t : Stage), i.portIn = [] → i.stages[i.stageNo]? = some t → isColl t.pkt.opcode = false →
    let j := i.stageInst i.stageNo
    let m := s.finish j (opWork s j)
    s.chainGo i (fuel + 1) = if stops m.2.event = true then m.1.endEarly i m.2.event
      else m.1.chainGo (m.1.stageDone { m.2 with event := if i.event = 0 then m.2.event else i.event }) fuel) ∧
  (∀ (s : State) (i : Inst) (fuel : Nat) (t : Stage) (c : Coll) (e : Nat × CompanyEntry), i.portIn = [] → i.stages[i.stageNo]? = some t →
    isColl t.pkt.opcode = true → t.coll = some c →
    let j := i.stageInst i.stageNo
    s.collEntry j = some e →
    let j := { j with wait := .none, event := 0, count := 0, outs := j.realOuts }
    s.chainGo i (fuel + 1) = s.startColl j (s.collHead j e c.seq)) ∧
  (∀ (s : State) (i : Inst) (fuel : Nat), i.portIn = [] → i.stages[i.stageNo]? = none → i.portTo = none →
    s.chainGo i (fuel + 1) = (s.clearHand i.queue).place { i with
      wait := if i.event = 0 ∧ i.sealers ≠ [] then .sealAck else .none, waitCue := s.time.cue
      count := (i.stages.getLast?.map (·.count)).getD 0 })

/-- A fused collective that passes its checks, its company's number taken, opens: it waits in its exchange, and the headers held for it
act. A member without children in the closing tree sends READY to its parent at once, with the sums of its edges. A ring instruction
whose operands read starts its ring: its scratch becomes undefined, its rows and its own block are taken, and the headers held for it
act; one whose operands fail to read sends POISON in both directions and ends with the event. -/
def Obligations.ExchangeRowsComplete : Prop :=
  (∀ (row : Nat × (QueueNo → Instr)), row ∈ issueRows → ∀ (s u : State) (q : QueueNo) (i : Inst) (p : Nat) (k : Pkt) (sc : Option Scene)
    (e : Nat × CompanyEntry), Passes s q row.1 u i p k sc → i.peerInputs = [] →
    (∀ c, isColl k.opcode = true → i.coll = some c → u.collEntry i = some e →
      let z := u.claimTiles i
      let d := z.1.collHead z.2 e c.seq
      let j := { z.2 with wait := .exchange, coll := some d }
      exec (row.2 q) s = .next ((((z.1.setInst j).tryReady j d).releaseColl i.part d.company c.seq).settle)) ∧
    (∀ r, isRing k.opcode = true → i.ring = some r → u.ringEntry i = some e →
      let h := u.ringHead i e r.seq
      (u.ringReadEvent i = 0 →
        let x := u.ringOf i e h
        let x := { x with dRow := if i.isBwd then u.localPhase i x.rows.length else [] }
        let t := match i.aux 2 with
          | some d => u.undefineExtent (u.fnOf i) [] d.toExtent
          | none => u
        exec (row.2 q) s = .next (((t.setInst { i with ring := some x, wait := .ring }).releaseRing i.part x.company r.seq).settle)) ∧
      (u.ringReadEvent i ≠ 0 → exec (row.2 q) s = .next ((u.failRing i h (u.ringReadEvent i)).settle)))) ∧
  (∀ (s : State) (i : Inst) (c : Coll) (r : Nat), treeParent c.rank = some r → treeChildren c.rank c.size = [] → c.readySent = false →
    c.zeroHeld = false →
    let ss := (c.sendSum + c.edges.1) % 2 ^ 32
    let rs := (c.recvSum + c.edges.2) % 2 ^ 32
    s.tryReady i c = (s.sendColl (c.party i.part) r hReady [] ss rs).setInst { i with
      coll := some { c with readySent := true, readyCue := s.time.cue } })


/-! ## Rules of the arithmetic and of operands (R6, R82, R90, R112, R131, R132) -/

/-- R112. Each term is converted on its own to the nearest multiple of the resolution, a tie to an even one; the converted terms are
added exactly, whatever their order and however they are shared out and merged, and 2^32 of them stay within a signed register of
w + 32 bits; a converted magnitude above 2^(w-1) - 1 sets the overflow flag and is not added; NaN and the infinities set flags of their
own, and every flag once set stays set. -/
def Obligations.AnchoredTermsInAnyOrder : Prop :=
  (∀ (u : Int) (neg : Bool) (m : Nat) (e : Int),
    let k := toUnits u neg m e
    let n := k.natAbs
    let d := 2 ^ (u - e).toNat
    (neg = true → k ≤ 0) ∧ (neg = false → 0 ≤ k) ∧ (u ≤ e → n = m * 2 ^ (e - u).toNat) ∧
    (e < u → 2 * (n * d) ≤ 2 * m + d ∧ 2 * m ≤ 2 * (n * d) + d ∧
      (2 * (n * d) = 2 * m + d ∨ 2 * m = 2 * (n * d) + d → n % 2 = 0))) ∧
  (∀ (w : Nat) (anchor : Int) (a : Anch) (neg : Bool) (m : Nat) (e : Int),
    let k := toUnits (anchor - anchF w) neg m e
    (2 ^ (w - 1) - 1 < k.natAbs → a.addTerm w anchor (.fin neg m e) = { a with ovf := true }) ∧
    (k.natAbs ≤ 2 ^ (w - 1) - 1 → a.addTerm w anchor (.fin neg m e) = { a with sum := a.sum + k }) ∧
    a.addTerm w anchor .nan = { a with nan := true } ∧ a.addTerm w anchor (.inf false) = { a with pinf := true } ∧
    a.addTerm w anchor (.inf true) = { a with ninf := true }) ∧
  (∀ (w : Nat) (anchor : Int) (a : Anch) (xs ys : List FVal), xs.Perm ys → a.addTerms w anchor xs = a.addTerms w anchor ys) ∧
  (∀ (w : Nat) (anchor : Int) (xs ys : List FVal),
    (({} : Anch).addTerms w anchor xs).merge (({} : Anch).addTerms w anchor ys) = ({} : Anch).addTerms w anchor (xs ++ ys)) ∧
  (∀ (w : Nat) (anchor : Int) (a : Anch) (ts : List FVal),
    let t := a.addTerms w anchor ts
    (a.nan = true → t.nan = true) ∧ (a.pinf = true → t.pinf = true) ∧ (a.ninf = true → t.ninf = true) ∧ (a.ovf = true → t.ovf = true)) ∧
  (∀ (w : Nat) (anchor : Int) (ts : List FVal), 1 ≤ w → ts.length ≤ 2 ^ 32 →
    -(2 ^ (w + 31) : Int) ≤ (({} : Anch).addTerms w anchor ts).sum ∧ (({} : Anch).addTerms w anchor ts).sum < 2 ^ (w + 31))

/-- R131, and what R132 says of a skipped pair of tiles: a key is unmasked for a query by the two conditions alone, and a pair that the
device skips by its least and greatest position and segment has every query and key in it masked. -/
def Obligations.SkippedPairsAreMasked : Prop :=
  (∀ (causal segment : Bool) (i a j c : Nat),
    unmasked causal segment i a j c = true ↔ (causal = false ∨ j ≤ i) ∧ (segment = false ∨ (a = c ∧ a ≠ 0xFFFFFFFF))) ∧
  ∀ (causal segment : Bool) (qp qs kp ks : List Nat), pairSkipped causal segment qp qs kp ks = true →
    ∀ i ∈ qp, ∀ a ∈ qs, ∀ j ∈ kp, ∀ c ∈ ks, a < 2 ^ 32 → c < 2 ^ 32 → unmasked causal segment i a j c = false

/-- SOFTMAX's special rows (R90), of the row's inputs before they are scaled: all minus infinity gives zeros, M minus infinity and L 0; a
NaN or a plus infinity gives NaN throughout; a row of one finite value gives 1.0, whatever its scale, in both accumulations and every
output format and mode. -/
def Obligations.SoftmaxSpecialRows : Prop :=
  ∀ (v imm fmt : Nat) (f : FFmt) (mode : Round) (anch : Bool) (xs : List FVal), floatFmt fmt = some f → 0 < v →
    let r := softRow v imm anch xs
    (xs ≠ [] → (∀ x ∈ xs, x = .inf true) → r.m = .inf true ∧ r.l = .zero ∧ softOut fmt mode r = codeBytes fmt (xs.map fun _ => 0)) ∧
    ((∃ x ∈ xs, x.isNaN = true ∨ x = .inf false) → r.m = .nan ∧ r.l = .nan ∧
      softOut fmt mode r = codeBytes fmt (xs.map fun _ => encodeF f mode 0 .nan)) ∧
    (∀ x, xs = [x] → x.isFinite = true → softOut fmt mode r = codeBytes fmt [encodeF f mode 0 .one])

/-- R82. Where the byte range of C overlaps that of A, of B or of the bias (each in a format that has a code, so that it has a byte
range), MMA's checks answer E_DESC at order 4 whatever else that order finds; and an MMA that passes the orders before it retires at
issue with E_DESC. -/
def Obligations.MmaOverlapIsRefused : Prop :=
  ∀ (s : State) (kind : Nat) (j : Judged) (c d : Desc), j.i.pkt.opcode = 0x10 → j.i.d 0 = some c →
    j.i.d 1 = some d ∨ j.i.d 2 = some d ∨ j.i.d 3 = some d → (j.i.d 1).isSome = true → (j.i.d 2).isSome = true →
    formatKnown c.format = true → formatKnown d.format = true → c.tier = d.tier → (c.tier = tPeer → c.rank = d.rank) →
    c.base < d.base + d.extent → d.base < c.base + c.extent → 0 < c.extent → 0 < d.extent →
    s.judge kind j 4 = Ev.desc ∧
    ∀ (z : State) (q : QueueNo) (p : Nat) (k : Pkt) (sc : Option Scene), Head z q 0x10 p k sc →
      headHazard z q p k sc = false → (z.fetchDescs q (z.dtabOf p sc k.opcode) [k.s0, k.s1, k.s2, k.s3]).2.2 = false → j.poison = false →
      headRead z q p k sc = (s, j) → kind = (z.queue q).block.kind → s.judge kind j 2 = 0 →
      exec (.mma q) z = .next (s.retireAtIssue (headInst z q p k sc) [j.i] Ev.desc).settle

/-- Reserved bits read as 0 (R6): the bits of a register's word that no field of it covers are 0 at reset, and a word in which they are
0 has them 0 after any write, at any slot offset, whatever is written and whether or not its block is enabled. -/
def Obligations.ReservedBitsStayZero : Prop :=
  ∀ (r : Reg) (b : Nat), (∀ f ∈ r.fields, b < f.lo ∨ f.lo + f.len ≤ b) →
    r.resetWord.toNat.testBit b = false ∧
    ∀ (sub old v : Nat) (locked : Bool), old.testBit b = false → (r.after sub old v locked).testBit b = false
/-! ## Retirement, scenes, budgets (R22, R23, R26 to R28, R38, R42, R47, R239, R240) -/

/-- An instruction of any kind but NOP, SCENE.BEGIN, SCENE.END, GATE.ACQ and GATE.REL. -/
def Sys2Proof.Machine.Inst.plain (i : Inst) : Bool := !([0x00, 0x01, 0x02, 0x05, 0x06].contains i.pkt.opcode)

/-- The oldest instruction of a queue, with its writes visible and acknowledged and no failed step to replay, retires: an output that
held partial sums in flight is written first (R77); it leaves the queue and its record is written; a NOP with END that retires as
success marks its queue in its scene; a queue whose oldest may not yet retire retires nothing.

What a retirement does in a partition without a resilience block: the instruction is in flight no more; an event but E_XLATE of a lost
record is LAST_EVENT; one record of an instruction without stages is written, at its index, with its event, LATE, BROKEN, its issue cue
and its COUNT, saturated to 32 bits; the vector is raised when the queue or the packet asks for it; an event is the first event of its
scene, and under HALT halts the queue.

What an instruction's effect made of it takes its place in flight; one that retires at issue does so at once when it may. An
instruction that ends early has its event and COUNT 0 and waits for nothing more, and retires in its turn. -/
def Obligations.RetirementRowsComplete : Prop :=
  (∀ (s : State) (q : QueueNo) (i : Inst), s.running = true → s.oldest q = some i → i.held = [] →
    (s.canRetire i = true → i.plain = true → exec (.instructionRetire q) s = .next ((s.retire i i.event i.count).follow)) ∧
    (s.canRetire i = true → i.pkt.opcode = 0x00 → i.event = 0 → ∀ sc, (s.retire i 0 i.count).scene? i.part (i.scene.getD 0) = some sc →
      i.scene.isSome = true → exec (.instructionRetire q) s = .next
        (if bits i.pkt.imm 0 1 = 1 then (s.retire i 0 i.count).setScene i.part { sc with marked := sc.marked ++ [i.queue] }
         else s.retire i 0 i.count).follow) ∧
    (s.canRetire i = true → ∃ u : State, exec (.instructionRetire q) s = .next u.follow ∧ u.inst? i.queue i.index = none) ∧
    (s.canRetire i = false → exec (.instructionRetire q) s = .next (s.setInst i).follow)) ∧
  (∀ (s : State) (q : QueueNo) (i : Inst), s.running = true → s.oldest q = some i → i.held ≠ [] → i.failedOn = [] → i.wait = .none →
    i.plain = true →
    let m := s.writePieces i i.held
    let j := { i with held := [], acks := i.acks ++ m.2 }
    exec (.instructionRetire q) s =
      .next (if m.1.canRetire j = true then m.1.retire j i.event i.count else m.1.setInst j).follow) ∧
  (∀ (s : State) (i : Inst) (event count : Nat) (halts : Bool), s.canonical → i.stages = [] → i.chainIrq = false →
    (s.partition i.part).res = none → event ≠ Ev.chanMapped →
    ∃ (cyc : Nat) (t u : State),
      t = (if event ≠ 0 then ((s.setFree (s.free + 1)).dropInst i.queue i.index).setLastEvent i.queue event
        else (s.setFree (s.free + 1)).dropInst i.queue i.index) ∧
      u = t.writeRecord i.part i.queue (i.index % 2 ^ 32)
        (completionRecord event i.late i.broken ((t.queue i.queue).phase (i.index % 2 ^ 32)) count i.issueCue cyc) ∧
      let b := (s.queue i.queue).block
      let v := if b.irqEach = true ∨ i.pkt.irq = true then u.raiseVector i.part b.vector else u
      let v := v.noteEvent i.part i.scene event
      s.retireWith i event count halts = if event ≠ 0 ∧ halts = true ∧ b.contin = false then v.haltQueue i.queue else v) ∧
  (∀ (s : State) (i : Inst), let t := s.setInst i
    (i.immediate = false → i.wait ≠ .sceneLimit → i.wait ≠ .boundary → s.place i = t) ∧
    (i.immediate = true → t.canRetire i = true → i.plain = true → s.place i = t.retire i i.event i.count) ∧
    (i.immediate = true → t.canRetire i = false → i.wait ≠ .sceneLimit → i.wait ≠ .boundary → s.place i = t)) ∧
  (∀ (s : State) (i : Inst) (event : Nat), i.coll = none → i.ring = none → i.stages = [] → (∀ g, i.wait ≠ .gate g) → i.wait ≠ .visible →
    let j := { i with event := event, count := 0, wait := .none, immediate := true, acks := [], held := [], failedOn := [], reads := [] }
    let t := (s.loseOuts i).setInst j
    s.endEarly i event = if t.mayRetire j = true then t.retire j event 0 else t)


/-- SCENE.BEGIN that waits opens its scene when it may: with its record written the scene joins the ready ones, with the queues, the
priority, the table and the rosters now in force that its block and the company entries give; one whose block has come to name a queue
of another scene has E_SCENE. SCENE.END that waits retires with the scene's first event once every listed queue is done: its account
record is written, and the scene is ready or running no more. With no scene running and the partition ENABLED, the ready scene of
highest priority, the oldest among equals, runs: buffered descriptors are discarded, its base cue is set at its first run, and the cues
spent switched out are counted.

At their points: with no scene running in any partition and no prologue that ends, nothing changes; a running scene at a legal point
that no scene of higher priority waits for goes on, one that is waited for and not held back is switched out, and stays READY. -/
def Obligations.SceneRowsComplete : Prop :=
  (∀ (s : State) (q : QueueNo) (i : Inst), s.running = true → s.oldest q = some i → i.pkt.opcode = 0x01 →
    i.wait = .sceneLimit ∨ i.wait = .boundary → s.mayOpen i = true →
    (s.blockOk i.part i.params = true →
      let t := s.retire { i with wait := .none, event := 0 } 0 i.count
      exec (.sceneBeginRetire q) s = .next ((if i.boundary = true then (t.moveRosters i.part).writeSlot { i with wait := .none, event := 0 }
        else t).openScene { i with wait := .none, event := 0 }).settle) ∧
    (s.blockOk i.part i.params = false →
      exec (.sceneBeginRetire q) s = .next ((s.retire { i with wait := .none, event := Ev.scene } Ev.scene i.count).settle))) ∧
  (∀ (s : State) (q : QueueNo) (i : Inst), s.canonical → s.running = true → s.oldest q = some i → i.pkt.opcode = 0x01 →
    i.wait = .sceneLimit → i.boundary = false → s.mayOpen i = true → s.blockOk i.part i.params = true →
    (∀ x ∈ (s.partition i.part).scenes, x.id < (s.partition i.part).nextScene) →
    ∃ (u : State) (sc : Scene), exec (.sceneBeginRetire q) s = .next u.settle ∧ u.inst? i.queue i.index = none ∧
      sc ∈ (u.partition i.part).scenes ∧ sc.id = (s.partition i.part).nextScene ∧ sc.running = false ∧ sc.ctrl = i.queue ∧
      sc.queues = blockQueues i.params ∧ sc.prio = field i.params 0x18 1 ∧ sc.dtab = field i.params 0 8 ∧
      sc.acct = field i.params 0x10 8 ∧ sc.rosters = s.rostersNow i.part ∧
      (u.partition i.part).nextScene = (s.partition i.part).nextScene + 1 ∧
      ((s.queue i.queue).openScene = none → (u.queue i.queue).openScene = some sc.id)) ∧
  (∀ (s : State) (q : QueueNo) (i : Inst) (sc : Scene), s.running = true → s.oldest q = some i → i.wait = .sceneEnd →
    i.scene.bind (s.scene? i.part) = some sc →
    (s.mayEnd i sc = true → exec (.sceneEndRetire q) s = .next ((s.retireEnd i sc.firstEvent false).settle)) ∧
    (s.mayEnd i sc = true → s.canonical → sc.firstEvent = 0 → ∃ (u : State) (m v a k : Nat), exec (.sceneEndRetire q) s = .next u.settle ∧
      u.inst? i.queue i.index = none ∧ u.scene? i.part sc.id = none ∧
      let r := s.retire i 0 0
      u = ((r.setFree (r.free + 4)).writePart i.part tStacked 0 0
        (cellsOf sc.acct (accountRecord sc s.time.cue 0 m v a k))).dropScene i.part sc) ∧
    (s.mayEnd i sc = false → exec (.sceneEndRetire q) s = .next s.settle)) ∧
  (∀ (s : State) (p : PartNo), s.running = true → s.fld (F.parStatusState p) = 1 → s.fld (F.parRstatusPhase p) = 0 → s.runningScene p = none →
    (∀ sc, nextScene (s.partition p).scenes = some sc → exec (.sceneRun p) s = .next (s.runScene p sc)) ∧
    (∀ sc, nextScene (s.partition p).scenes = some sc → s.canonical →
      (∀ i ∈ s.insts, i.part = p.val → i.scene = some sc.id → i.ring = none) →
      ∃ (u : State) (x : Scene), exec (.sceneRun p) s = .next u ∧ u.scene? p sc.id = some x ∧ x.running = true ∧ x.begun = true ∧
        x.switchedOut = none ∧ x.queues = sc.queues ∧ x.prio = sc.prio ∧
        x.baseCue = (if sc.baseRaw = 0 ∧ sc.begun = false then (s.time.cue : Int) - (s.partition p).cueOffset else sc.baseCue) ∧
        x.preemptedCues = sc.preemptedCues + (match sc.switchedOut with
          | some c => s.time.cue - c
          | none => 0) ∧
        ∀ n ∈ s.queuesOf p, (u.queue n).buffer = []) ∧
    (nextScene (s.partition p).scenes = none → exec (.sceneRun p) s = .next s)) ∧
  (∀ (l : List Scene) (sc : Scene), nextScene l = some sc →
    sc ∈ l ∧ ∀ x ∈ l, sc.prio < x.prio ∨ (sc.prio = x.prio ∧ sc.id ≤ x.id)) ∧
  (∀ s : State, (∀ p < 16, s.runningScene p = none) → (∀ p < 16, s.prologueOver p = false) → s.settle = s) ∧
  (∀ (s : State) (p : Nat) (sc : Scene), s.runningScene p = some sc →
    (s.legalPoint sc = false → (s.requested p sc && sc.holdSpent && s.heldBack p sc) = false → s.settlePart p = s) ∧
    (s.legalPoint sc = true → s.requested p sc = false → s.settlePart p = s.passPoint p sc) ∧
    (s.legalPoint sc = true → s.requested p sc = true → s.heldBack p sc = false → s.settlePart p = s.switchOut p sc) ∧
    (s.requested p sc = true → sc.holdSpent = true → s.heldBack p sc = true → s.settlePart p = s.abortHold p sc)) ∧
  (∀ (s : State) (p : Nat) (sc : Scene), s.canonical → s.runningScene p = some sc → s.scene? p sc.id = some sc →
    (∀ i ∈ s.insts, ∀ n, i.wait ≠ .preempt n) →
    ∃ x, (s.switchOut p sc).scene? p sc.id = some x ∧ x.running = false ∧ x.switchedOut = some s.time.cue ∧
      x.preemptions = sc.preemptions + 1 ∧ x.points = []) ∧
  (∀ s : State, (∀ i ∈ s.insts, i.coll = none ∧ i.wait ≠ .stage) → s.follow = s.settle)

/-- The oldest bounded wait of a queue that is out of budget ends: a GATE.ACQ leaves the gate's waiters with E_WAIT_BUDGET, a RUN.WAIT or a
SCENE.BEGIN has it, a hurdle's generation ends with it, a wait at a chain port ends its CHAIN, SCENE.END's wait for a mark that has not
been rung aborts the scene and raises vector 0 with E_WAIT_BUDGET. The running scene's hold budget, from the cue of the request: held back, the scene is
aborted, HOLD_EXPIRED set and vector 0 raised; else the budget stays spent. An aborted scene is in flight no more, nor ready or
running. -/
def Obligations.BudgetRowsComplete : Prop :=
  (∀ (s : State) (q : QueueNo) (i : Inst), s.running = true →
    (s.instsOf q).find? (fun i => s.bounded i && decide (i.waitCue + s.budgetOf i ≤ s.time.cue)) = some i →
    let x : Inst := { i with wait := .none, immediate := true, event := Ev.waitBudget }
    (∀ g, i.wait = .gate g → exec (.waitBudgetExpiry q) s = .next (((s.setGate i.part g { s.gate i.part g with
      waiters := (s.gate i.part g).waiters.filter (· != i.queue) }).place x).settle)) ∧
    (∀ h, i.wait = .hurdle h → exec (.waitBudgetExpiry q) s = .next ((s.expireGen i.part h i.queue).settle)) ∧
    (∀ c, i.wait = .chainPort c → exec (.waitBudgetExpiry q) s = .next ((s.endEarly i Ev.waitBudget).settle)) ∧
    (∀ l, i.wait = .runWait l ∨ i.wait = .sceneLimit ∨ i.wait = .boundary → exec (.waitBudgetExpiry q) s = .next ((s.place x).settle)) ∧
    (∀ sc, i.wait = .sceneEnd → i.scene.bind (s.scene? i.part) = some sc →
      exec (.waitBudgetExpiry q) s = .next (((s.abortScene i.part sc Ev.waitBudget).raiseEvent i.part Ev.waitBudget).settle)) ∧
    (s.canonical → i.pkt.opcode = 0x05 → ∀ g, i.wait = .gate g → ∃ u : State, exec (.waitBudgetExpiry q) s = .next u.settle ∧
      i.queue ∉ (u.gate i.part g).waiters ∧ (u.gate i.part g).count = (s.gate i.part g).count ∧
      ∀ j, u.inst? i.queue i.index = some j → j.wait = .none ∧ j.event = Ev.waitBudget)) ∧
  (∀ (s : State) (p h q : Nat) (v : HurdleGen), s.canonical → tblWf [] (s.partition p).hurdles → (s.hurdle p h).find? (·.waiters.contains q) = some v →
    let t := s.expireGen p h q
    t.hurdle p h = (s.hurdle p h).erase v ∧ (∀ n, (t.queue n).buffer = (s.queue n).buffer) ∧
    ∀ i, (s.instsOf q).find? (fun i => i.wait == .hurdle h) = some i →
      ∀ j, t.inst? i.queue i.index = some j → j.wait = .none ∧ j.event = Ev.waitBudget) ∧
  (∀ (s : State) (p : PartNo) (sc : Scene) (c : Nat), s.running = true → s.runningScene p = some sc → sc.request = some c →
    s.requested p sc = true → sc.holdSpent = false → c + s.holdBudget p sc ≤ s.time.cue →
    (s.heldBack p sc = true → exec (.holdBudgetExpiry p) s = .next ((s.abortHold p sc).settle)) ∧
    (s.heldBack p sc = true → s.canonical → ∃ u : State, exec (.holdBudgetExpiry p) s = .next u.settle ∧
      u.fld (F.parStatusHoldExpired p) = 1 ∧ u.scene? p sc.id = none) ∧
    (s.heldBack p sc = false → exec (.holdBudgetExpiry p) s = .next ((s.setScene p { sc with holdSpent := true }).settle)))

/-! ## Messages of collectives and rings (R129, R136, R138 to R146, R159, R162 to R168, R266) -/

/-- The rows of a fused collective's messages without a payload, and with one. -/
def Sys2Proof.Machine.collRows : List (Nat × (PartNo → CollHeader → Instr)) :=
  [(hReady, .collReady), (hGo, .collGo), (hCredit, .collCredit), (hDone, .collDone), (hClose, .collClose), (hPoison, .collPoison),
   (hZero, .collZero)]
def Sys2Proof.Machine.collDataRows : List (Nat × (PartNo → CollHeader → Bytes → Instr)) := [(hOpen, .collOpen), (hData, .collData)]

/-- The rows of a ring's messages without a payload. -/
def Sys2Proof.Machine.ringRows : List (Nat × (PartNo → RingHeader → Instr)) :=
  [(hCredit, .ringCredit), (hDone, .ringDone), (hPoison, .ringPoison), (hZero, .ringZero)]

/-- A header that a collective's checks pass (R159, R163): this device's book, the same opcode, epoch and parameters. -/
def Sys2Proof.Machine.collAgrees (h : CollHeader) (s : State) (c : Coll) : Bool :=
  decide (h.bookDigest.toNat = s.digest ∧ h.opcode.toNat = c.opcode ∧ h.epoch.toNat = c.epoch ∧ h.paramDigest.toNat = c.paramDigest)

/-- What each header does to the member that it names, of a collective in flight, once its checks pass (R162, R165 to R167); c is the
collective with its sender's last word noted. READY or ZERO of a child is counted, and the last of them sends READY, or ZERO, upward,
at the root GO — or, with sums that disagree, POISON; ZERO of the parent ends the member as success; GO of the parent begins its
computation; OPEN is answered with a grant; CREDIT is added; DATA is placed, or kept as a node of the sum; DONE of a child is counted;
CLOSE of the parent ends the exchange; POISON is relayed and ends the member. -/
def Sys2Proof.Machine.CollHeadersAct : Prop :=
  ∀ (s : State) (p : PartNo) (h : CollHeader) (b : Bytes) (i : Inst) (c0 : Coll), s.running = true → s.collFor p h = some (i, c0) →
    collAgrees h s c0 = true →
    let src := h.srcRank.toNat
    let c := { c0 with heard := tblSet 0 c0.heard src s.time.cue }
    let kids := treeChildren c.rank c.size
    let more (zero : Bool) := { c with readyFrom := c.readyFrom ++ [src], sendSum := (c.sendSum + h.count.toNat) % 2 ^ 32
                                       recvSum := (c.recvSum + h.unit.toNat) % 2 ^ 32, zeroHeld := c.zeroHeld || zero }
    let keep (d : Coll) := s.setInst { i with coll := some d }
    (src ∈ kids → src ∉ c.readyFrom → (∃ k ∈ kids, k ∉ c.readyFrom ∧ k ≠ src) →
      exec (.collReady p h) s = .next (keep (more false)).follow ∧ exec (.collZero p h) s = .next (keep (more true)).follow) ∧
    (src ∈ kids → src ∉ c.readyFrom → (∀ k ∈ kids, k ∈ c.readyFrom ∨ k = src) → c.readySent = false → ∀ zero : Bool,
      let d := more zero
      let row : Instr := if zero = true then .collZero p h else .collReady p h
      let ss := (d.sendSum + d.edges.1) % 2 ^ 32
      let rs := (d.recvSum + d.edges.2) % 2 ^ 32
      let sent := { i with coll := some { d with readySent := true, readyCue := s.time.cue } }
      (∀ r, treeParent c.rank = some r →
        (d.zeroHeld = false → exec row s = .next ((s.sendColl (c.party i.part) r hReady [] ss rs).setInst sent).follow) ∧
        (d.zeroHeld = true → exec row s = .next ((s.sendColl (c.party i.part) r hZero).setInst sent).follow)) ∧
      (treeParent c.rank = none →
        (d.zeroHeld = true → exec row s = .next (s.zeroColl i d).follow) ∧
        (d.zeroHeld = false → ss ≠ rs → exec row s = .next (s.failColl i d 0x5011).follow) ∧
        (d.zeroHeld = false → ss = rs → exec row s = .next (s.goColl i { d with readySent := true }).follow))) ∧
    (src ∉ kids → treeParent c.rank = some src → exec (.collZero p h) s = .next (s.zeroColl i c).follow) ∧
    (treeParent c.rank = some src → c.go = false → exec (.collGo p h) s = .next (s.goColl i c).follow) ∧
    (let n := h.count.toNat
     exec (.collOpen p h b) s = .next ((s.sendColl (c.party i.part) src hCredit [] (if c.opcode = 0x12 then min n (i.slotsEach c.size)
       else n)).pumpColl i { c with
         opens := (c.opens.filter (·.1 != src)) ++ [(src, n)]
         counts := (c.counts.filter (·.1 != src)) ++ [(src, (itemsOf 4 (b.length / 4) b).map leNat)] }).follow) ∧
    (exec (.collCredit p h) s = .next (s.pumpColl i { c with
      credits := rankAdd c.credits src h.count.toNat
      slots := if c.slots.any (·.1 == src) = true then c.slots else tblSet [] c.slots src [h.count.toNat] }).follow) ∧
    (let xs := s.dataPieces i { c with got := rankAdd c.got src 1 } src h.unit.toNat b
     (c.opcode ≠ 0x12 → (∀ x ∈ xs, s.pieceEvent i x = 0) →
       exec (.collData p h b) s = .next ((s.writePieces i xs).1.pumpColl i { c with got := rankAdd c.got src 1 }).follow) ∧
     (c.opcode ≠ 0x12 → (∃ x ∈ xs, s.pieceEvent i x ≠ 0) → exec (.collData p h b) s =
       .next (s.failColl i { c with got := rankAdd c.got src 1 } (firstEvent (xs.map (s.pieceEvent i)))).follow)) ∧
    (c.opcode = 0x12 →
      let d := { c with got := rankAdd c.got src 1, nodes := c.nodes ++ [nodeOf i h b] }
      exec (.collData p h b) s = .next ((if i.slotsEach c.size ≤ ((c.openOf src).getD 0) - rankGet d.got src
        then (s.writePieces i []).1.sendColl (c.party i.part) src hCredit [] 1 else (s.writePieces i []).1).pumpColl i d).follow) ∧
    (src ∈ kids → src ∉ c.doneFrom → exec (.collDone p h) s = .next (s.pumpColl i { c with doneFrom := c.doneFrom ++ [src] }).follow) ∧
    (treeParent c.rank = some src → exec (.collClose p h) s = .next (s.closeColl i c).follow) ∧
    exec (.collPoison p h) s = .next ((s.relayColl (c.party i.part) hPoison h).leaveColl i c Ev.peerPoison).follow ∧
    exec (.collAbsent p h) s = .next ((((s.relayColl (c.party i.part) hAbsent h).leaveColl i
      { c with absentRank := h.absentRank.toNat } Ev.cueSlip).follow).holdAbsent p h.company.toNat h.absentRank.toNat h.sendCue.toNat)

/-- The parts of those effects (R162, R165, R167, R170). A member with nothing to send that still misses a unit waits, its waits
counted. One with every unit there, its product done and its queue's writes visible sends DONE to its parent; before that it keeps
still. A root that has nothing left to wait for closes. GO goes on to the children, OPEN to every receiver. A member that ends by ZERO
is in flight no longer in its exchange: COUNT 0 and no event. -/
def Sys2Proof.Machine.CollMovesSay : Prop :=
  ∀ (s : State) (i : Inst) (c : Coll),
    (c.toSend = [] → c.go = true → c.allGot = false →
      s.pumpColl i c = s.setInst { i with coll := some (c.countWaits s.time.cue true false) }) ∧
    (c.toSend = [] → c.computed = true → c.allGot = true →
      let d := c.countWaits s.time.cue false false
      (s.mayDone i d = true → ∀ r, treeParent c.rank = some r → s.pumpColl i c =
        (s.sendColl (c.party i.part) r hDone).setInst { i with coll := some { d with doneSent := true, doneCue := s.time.cue } }) ∧
      (s.mayDone i d = true → treeParent c.rank = none → s.pumpColl i c = s.closeColl i { d with doneSent := true }) ∧
      (s.mayDone i d = false → s.pumpColl i c = s.setInst { i with coll := some d })) ∧
    (∀ u l, c.toSend = u :: l → 0 < rankGet c.credits u.dst → l = [] → c.opcode ≠ 0x12 →
      let d := { c with toSend := [], credits := tblSet 0 c.credits u.dst (rankGet c.credits u.dst - 1), sent := rankAdd c.sent u.dst 1 }
      s.sendUnits i c = (s.sendColl (c.party i.part) u.dst hData u.bytes u.count u.unit 0 65535 u.node 0 none i.level, d)) ∧
    (let z := s.sendCollAll (c.party i.part) (treeChildren c.rank c.size) hGo
     let d := { c with go := true, goCue := s.time.cue }
     let x := z.goStep i d
     c.opcode ≠ 0x12 → x.fail = 0 → (∀ y ∈ x.pieces, z.pieceEvent i y = 0) →
       let m := z.writePieces i x.pieces
       let j := { i with acks := i.acks ++ m.2 }
       let d := { d with toSend := d.toSend ++ x.units, nodes := d.nodes ++ x.nodes, ovf := d.ovf || x.ovf, computed := x.computed }
       s.goColl i c = (m.1.over d.receivers fun t r => t.sendColl (d.party i.part) r hOpen
         (if d.opcode = 0x14 then (t.a2aCounts j d r).flatMap (natLE 4) else []) (d.toSend.filter (·.dst == r)).length).pumpColl j d) ∧
    (let z := s.sendCollAll (c.party i.part) (treeChildren c.rank c.size) hClose
     let j := { i with coll := none, wait := if i.stages = [] then .none else .stage, outs := i.outs.filter c.keep.contains }
     let m := z.finish j (z.closeWork i c)
     let t := m.1.writeCollStatus j { c with closed := true } m.2.event
     s.closeColl i c = t.1.setInst { m.2 with acks := m.2.acks ++ t.2 }) ∧
    (i.stages = [] →
      let t := (s.sendCollAll (c.party i.part) (treeChildren c.rank c.size) hZero)
      let j := { i with coll := none, wait := .none, event := 0, count := 0, immediate := true }
      s.zeroColl i c = if (t.setInst j).mayRetire j = true then (t.setInst j).retire j 0 0 else t.setInst j)

/-- A message acts on the collective in flight that its company and number name, as CollHeadersAct and CollMovesSay say; without one, a
relay of a member that left passes it on; one of a number not yet taken is held; an earlier one is discarded. An ABSENT is held for the
job besides. A header of another book digest has E_BOOK_SPLIT, one that disagrees on the opcode, the parameters or the epoch
E_COLL_SPLIT: POISON goes to the tree and to the partners, and the member ends. A neighbour waited for longer than the slip allowance
is declared absent, with E_CUE_SLIP. -/
def Obligations.CollectiveRowsComplete : Prop :=
  CollHeadersAct ∧ CollMovesSay ∧
  (∀ (row : Nat × (PartNo → CollHeader → Instr)), row ∈ collRows → ∀ (s : State) (p : PartNo) (h : CollHeader), s.running = true →
    (∀ i c, s.collFor p h = some (i, c) → exec (row.2 p h) s = .next ((s.collAct i c row.1 h []).follow)) ∧
    (∀ r, s.collFor p h = none → s.comp.relays.find? (fun r => r.names p h) = some r →
      exec (row.2 p h) s = .next ((s.relayAct r row.1 h).follow)) ∧
    (∀ e, s.collFor p h = none → s.comp.relays.find? (fun r => r.names p h) = none → s.companyOf p h.company.toNat = some e →
      e.2.collSeq ≤ h.collSeq.toNat →
      exec (row.2 p h) s = .next ((s.setComp { s.comp with held := s.comp.held ++ [⟨p, row.1, h, []⟩] }).follow))) ∧
  (∀ (row : Nat × (PartNo → CollHeader → Bytes → Instr)), row ∈ collDataRows → ∀ (s : State) (p : PartNo) (h : CollHeader) (b : Bytes)
    (i : Inst) (c : Coll), s.running = true → s.collFor p h = some (i, c) →
    exec (row.2 p h b) s = .next ((s.collAct i c row.1 h b).follow)) ∧
  (∀ (s : State) (p : PartNo) (h : CollHeader) (i : Inst) (c : Coll), s.running = true → s.collFor p h = some (i, c) →
    exec (.collAbsent p h) s = .next (((s.collAct i c hAbsent h []).follow).holdAbsent p h.company.toNat h.absentRank.toNat h.sendCue.toNat)) ∧
  (∀ (s : State) (i : Inst) (c : Coll) (type : Nat) (h : CollHeader) (b : Bytes),
    let d := { c with heard := tblSet 0 c.heard h.srcRank.toNat s.time.cue }
    (h.bookDigest.toNat ≠ s.digest → s.collAct i c type h b = s.failColl i d Ev.bookSplit) ∧
    (h.bookDigest.toNat = s.digest → type ≠ hAbsent ∨ h.opcode ≠ 0 →
      h.opcode.toNat ≠ c.opcode ∨ h.epoch.toNat ≠ c.epoch ∨ h.paramDigest.toNat ≠ c.paramDigest →
      s.collAct i c type h b = s.failColl i d 0x5011)) ∧
  (∀ (s : State) (q : QueueNo) (rank : Word16) (i : Inst) (c : Coll) (t : Nat), s.running = true → s.collOn q = some (i, c) →
    i.wait = .exchange → c.waitFrom rank.toNat = some t → c.slipAllow * c.budget < s.time.cue - t →
    let whom := ((c.party i.part).tree none ++ c.partners).eraseDups
    exec (.collSlipExpiry q rank) s = .next ((((s.sendCollAll (c.party i.part) whom hAbsent Ev.cueSlip rank.toNat).leaveColl i
      { c with absentRank := rank.toNat } Ev.cueSlip).holdAbsent i.part c.company rank.toNat s.time.cue).follow))

/-- A ring header that the checks of R142 pass. -/
def Sys2Proof.Machine.ringAgrees (h : RingHeader) (s : State) (r : Ring) : Bool :=
  decide (h.bookDigest.toNat = s.digest ∧ h.ringDigest.toNat = r.ringDigest ∧ h.tokens.toNat = r.t ∧ h.epoch.toNat = r.epoch)

/-- What each ring header does to the instruction that it names, once its checks pass (R129, R136, R138, R140, R146); r is the ring
with its sender's last word noted. DATA of a block goes into its free slot, and is forwarded unless the next position is the owner's;
the homecoming block is the member's own; CREDIT frees a slot at the next member; DONE is counted and relayed; POISON, ABSENT and ZERO
are relayed and end the instruction, ZERO as success. -/
def Sys2Proof.Machine.RingHeadersAct : Prop :=
  ∀ (s : State) (p : PartNo) (h : RingHeader) (b : Bytes) (i : Inst) (r0 : Ring), s.running = true → s.ringFor p h = some (i, r0) →
    ringAgrees h s r0 = true →
    let r := if h.srcRank.toNat = r0.next then { r0 with heardNext := s.time.cue } else r0
    let r := if h.srcRank.toNat = r.prev then { r with heardPrev := s.time.cue } else r
    let sw := h.sweep.toNat
    let ow := h.owner.toNat
    let sl := h.slot.toNat
    let eb := pitchBits (i.dd 2).format / 8
    let block := RingBlock.ofPayload sw ow eb r.keyElems r.t r.hkv r.d b
    (sw ≤ 2 → sl ≤ 1 → (∀ x ∈ r.slots, x.1 ≠ sl) → b.length = payloadLength sw eb r.keyElems r.t r.hkv →
      let late := if (!r.inStep && !r.finished && sw == r.sweep && ow == r.stepOwner) = true then s.time.cue - r.ready else 0
      let kept := { r with slots := r.slots ++ [(sl, ⟨block, sw, h.step.toNat, false, !r.forwards ow && !r.bwd⟩)], waitData := r.waitData + late }
      exec (.ringData p h b) s = .next (s.flushRing i
        (if r.forwards ow = true then kept.enqueue s.time.cue sw (r.stepThere ow) block else kept)).follow) ∧
    (sl > 1 ∨ (∃ x ∈ r.slots, x.1 = sl) ∨ b.length ≠ payloadLength sw eb r.keyElems r.t r.hkv →
      exec (.ringData p h b) s = .next s.follow) ∧
    (let late := if r.awaitsCredit = true then s.time.cue - r.creditSince else 0
     let t := s.flushRing i { r with credits := r.credits ++ [sl], waitCredit := r.waitCredit + late, creditSince := s.time.cue }
     exec (.ringCredit p h) s = .next (match t.ringFor i.part h with
       | some (j, x) => t.completeRing j x
       | none => t).follow) ∧
    (let t := if r.ranks.getD ow 0 = r.down then s else s.sendRing i.part r r.down hDone [] sw h.step.toNat ow
     exec (.ringDone p h) s = .next (t.completeRing i (if r.doneFrom.contains ow = true then r
       else { r with doneFrom := r.doneFrom ++ [ow] })).follow) ∧
    (r.allDone = true → exec (.ringPoison p h) s = .next s.follow ∧ exec (.ringZero p h) s = .next s.follow) ∧
    (r.allDone = false →
      exec (.ringPoison p h) s = .next ((s.relayRing i.part r hPoison h).leaveRing i r Ev.peerPoison).follow ∧
      exec (.ringAbsent p h) s = .next ((((s.relayRing i.part r hAbsent h).leaveRing i
        { r with absentRank := h.absentRank.toNat } Ev.cueSlip).follow).holdAbsent p h.company.toNat h.absentRank.toNat h.sendCue.toNat) ∧
      let j := { i with ring := none, wait := .none, event := 0, count := 0, immediate := true }
      let t := (s.relayRing i.part r hZero h).setInst j
      exec (.ringZero p h) s = .next (if t.mayRetire j = true then t.retire j 0 0 else t).follow)

/-- A ring's message acts on the ring instruction that its company and number name, as RingHeadersAct says, or is held or discarded as a
collective's is; a header of another book digest has E_BOOK_SPLIT and one that disagrees on the ring, its tokens or its epoch
E_RING_SPLIT: POISON goes both ways and the member ends. A ring with a DONE of every other member and nothing left to send or to
receive writes its results; otherwise it goes on. A step begins at its scheduled cue or later with its block there, and not while its
scene is switched out; it ends with every pair computed. A neighbour waited for longer than the slip allowance is declared absent. -/
def Obligations.RingRowsComplete : Prop :=
  RingHeadersAct ∧
  (∀ (row : Nat × (PartNo → RingHeader → Instr)), row ∈ ringRows → ∀ (s : State) (p : PartNo) (h : RingHeader) (i : Inst) (r : Ring),
    s.running = true → s.ringFor p h = some (i, r) → exec (row.2 p h) s = .next ((s.ringAct i r row.1 h []).follow)) ∧
  (∀ (s : State) (p : PartNo) (h : RingHeader) (b : Bytes) (i : Inst) (r : Ring), s.running = true → s.ringFor p h = some (i, r) →
    exec (.ringData p h b) s = .next ((s.ringAct i r hData h b).follow) ∧
    exec (.ringAbsent p h) s =
      .next (((s.ringAct i r hAbsent h []).follow).holdAbsent p h.company.toNat h.absentRank.toNat h.sendCue.toNat)) ∧
  (∀ (s : State) (p : PartNo) (h : RingHeader) (b : Bytes) (e : Nat × CompanyEntry), s.running = true → s.ringFor p h = none →
    s.companyOf p h.company.toNat = some e → e.2.collSeq ≤ h.collSeq.toNat →
    exec (.ringData p h b) s = .next ((s.setComp { s.comp with heldRing := s.comp.heldRing ++ [⟨p, hData, h, b⟩] }).follow)) ∧
  (∀ (s : State) (i : Inst) (r : Ring) (type : Nat) (h : RingHeader) (b : Bytes), (type ≠ hPoison ∧ type ≠ hAbsent) ∨ r.allDone = false →
    let x := if h.srcRank.toNat = r.next then { r with heardNext := s.time.cue } else r
    let x := if h.srcRank.toNat = x.prev then { x with heardPrev := s.time.cue } else x
    (h.bookDigest.toNat ≠ s.digest → s.ringAct i r type h b = s.failRing i x Ev.bookSplit) ∧
    (h.bookDigest.toNat = s.digest → h.ringDigest.toNat ≠ r.ringDigest ∨ h.tokens.toNat ≠ r.t ∨ h.epoch.toNat ≠ r.epoch →
      s.ringAct i r type h b = s.failRing i x 0x5010)) ∧
  (∀ (s : State) (i : Inst) (r : Ring),
    (r.finished = false ∨ r.allDone = false ∨ r.toSend ≠ [] ∨ (r.bwd = true ∧ r.home = none) →
      s.completeRing i r = s.setInst { i with ring := some r }) ∧
    (r.finished = true → r.allDone = true → r.toSend = [] → (r.bwd = true → r.home.isSome = true) → r.preemptPoint = 65535 →
      let out := ringOutputs i (s.clusterAt i 0) r
      let m := s.finish { i with wait := .none, ring := none } { event := out.2, count := (i.dd 0).elements, pieces := out.1 }
      let t := m.1.writeRingStatus i r m.2.event
      s.completeRing i r = t.1.setInst { m.2 with acks := m.2.acks ++ t.2 })) ∧
  (∀ (s : State) (q : QueueNo) (i : Inst) (r : Ring), s.running = true → s.ringOn q = some (i, r) →
    (r.scheduled ≤ s.time.cue → s.instRuns i = true → r.inStep = false → r.finished = false → r.stepBlock.isSome = true → r.step ≠ 0 →
      r.preemptPoint = 65535 →
      let slip := s.time.cue - r.scheduled
      exec (.ringStepBegin q) s = .next ((s.flushRing i { r with
        inStep := true, maxSlip := max r.maxSlip slip, totalSlip := r.totalSlip + slip
        stepsLate := r.stepsLate + (if slip = 0 then 0 else 1) }).follow)) ∧
    (s.time.cue < r.scheduled ∨ s.instRuns i = false ∨ r.inStep = true ∨ r.stepBlock = none →
      exec (.ringStepBegin q) s = .next s.follow) ∧
    (∀ b, r.inStep = true → s.instRuns i = true → r.stepBlock = some b → r.preemptPoint = 65535 → r.step + 1 < r.n →
      let w := s.stepWork i r b
      let x := w.1.afterStep s.time.cue w.2
      let t := s.flushRing i { x with
        inStep := false, lastCue := s.time.cue, finished := false, step := x.step + 1, sweep := x.sweep }
      exec (.ringStepEnd q) s = .next t.follow) ∧
    (r.inStep = false → exec (.ringStepEnd q) s = .next s.follow)) ∧
  (∀ (s : State) (q : QueueNo) (fromNext : Bool) (i : Inst) (r : Ring) (t : Nat), s.running = true → s.ringOn q = some (i, r) →
    r.waitFrom (fromNext != r.bwd) = some t → s.instRuns i = true →
    r.allowance < s.time.cue - max t (if fromNext then r.heardNext else r.heardPrev) →
    let rank := if fromNext then r.next else r.prev
    exec (.ringSlipExpiry q fromNext) s = .next ((((s.sendRingBoth i.part r hAbsent Ev.cueSlip rank).leaveRing i
      { r with absentRank := rank } Ev.cueSlip).holdAbsent i.part r.company rank s.time.cue).follow))

/-! ## Partitions, locks and queues (R18, R19, R234, R245 to R249) -/

/-- What an agent writes takes effect: a function's while the PCIe link serves requests and it is in D0, any other's while the
device's clocks run (R331, R354). -/
def Sys2Proof.Machine.Acts (s : State) (who : Requester) : Prop :=
  match who with
  | .fn n => s.host.pcieUp = true ∧ n.val ∉ s.host.d3hot
  | _ => s.running = true

/-- The lock of partition p free, with nothing staged (R248). -/
def Sys2Proof.Machine.lockFreed (s : State) (p : Nat) : State :=
  (((s.setPartition p { s.partition p with staging := {} }).setFld (F.parLockOwner p) 31).setFld (F.parLockHeld p) 0).setFld
    (F.parLockLeaseLeft p) 0

/-- R248, R249. An agent takes a free lock of an enabled partition, with a lease of 100 ms (100,000 cues) and nothing staged; ABORT by
the owner frees it and drops what is staged; COMMIT by the owner of a set whose values are legal and which stages no roster plan puts
every staged value into its register, reads REJECTED 0 and frees the lock; COMMIT by another agent changes no staged register, sets
LOCKED and raises vector 0 with E_LOCKED; a lease that has run out sets LOCK_LOST, frees the lock and raises vector 0 with E_LOCK_LOST. -/
def Obligations.LockRowsComplete : Prop :=
  (∀ (s : State) (p : PartNo) (who : Requester) (a : Nat), Acts s who → s.agentCode p who = some a → s.flag (F.parCtrlEn p) = true →
    s.flag (F.parLockHeld p) = false →
    let t := ((s.setFld (F.parLockOwner p) a).setFld (F.parLockHeld p) 1).setFld (F.parLockLeaseLeft p) 100
    exec (.parLockAcq p who) s = .next (t.setPartition p { t.partition p with staging := {}, lockCue := s.time.cue })) ∧
  (∀ (s : State) (p : PartNo) (who : Requester) (a : Nat), Acts s who → s.flag (F.parCtrlEn p) = true → s.flag (F.parLockHeld p) = true →
    s.agentCode p who = some a → s.fld (F.parLockOwner p) = a → exec (.parLockAbort p who) s = .next (lockFreed s p)) ∧
  (∀ (s : State) (p : PartNo) (who : Requester) (a : Nat) (x y : Option Word32), Acts s who → s.flag (F.parCtrlEn p) = true →
    s.flag (F.parLockHeld p) = true → s.agentCode p who = some a → s.fld (F.parLockOwner p) = a →
    (s.partition p).staging = { shares := x, prio := y } → (∀ v, x = some v → sharesOk v = true) → (∀ v, y = some v → prioOk v = true) →
    let t := match x with
      | some v => s.setWord (.parShares p) v
      | none => s
    let t := match y with
      | some v => t.setWord (.parPrio p) v
      | none => t
    let t := if x.isSome ∨ y.isSome then t.configChanged else t
    exec (.parLockCommit p who) s = .next (lockFreed (t.setFld (F.parLockRejected p) 0) p)) ∧
  (∀ (s : State) (p : PartNo) (who : Requester), Acts s who → s.flag (F.parCtrlEn p) = true → s.ownsLock p who = false →
    exec (.parLockCommit p who) s = .next ((s.setFld (F.parStatusLocked p) 1).raiseEvent p Ev.locked)) ∧
  (∀ (s : State) (p : PartNo), s.flag (F.parLockHeld p) = true → (s.partition p).lockCue + 100000 ≤ s.time.cue →
    exec (.lockLeaseExpiry p) s = .next (((lockFreed s p).setFld (F.parStatusLockLost p) 1).raiseEvent p Ev.lockLost))

/-- What a partition reset leaves of partition p (R246): STATE reads RESETTING, no instruction of it is in flight, it has no scene and no
hurdle generation, and its queues are disabled. -/
def Sys2Proof.Machine.IsReset (s t : State) (p : Nat) : Prop :=
  t.fld (F.parStatusState p) = 2 ∧ (∀ i ∈ t.insts, i.part ≠ p) ∧ (t.partition p).scenes = [] ∧ (t.partition p).hurdles = [] ∧
    ∀ q, within q 1 (s.block p).queueFirst (s.block p).queueCount = true → t.qOn q = false

/-- R234, R241, R245, R247. PAR.CTRL.EN written 1 on a disabled partition whose nine checks pass keeps the copies of its blocks, clears
its scenes and hurdles, the epoch tags and waiters of its gates, zeroes the local stores of its folds and sets EN; when the
zeroing ends STATE reads ENABLED. An enable that fails check c leaves EN, and CFG_CAUSE names c. A write of 0 resets the partition,
loses its lock and clears EN. A reset that ends reads RESET_DONE and raises vector 0 with E_PAR_RESET.

R245, R249, R331. A function-level reset resets the function's live partitions, loses its locks and returns it to D0; an entry into
D3hot resets them and marks the function; a hot reset resets every live partition and returns every function to D0. The partitions
are taken in increasing order, and each is reset as PAR_RESET resets it. -/
def Obligations.PartitionRowsComplete : Prop :=
  ((∀ (s : State) (p : PartNo), s.host.pcieUp = true → s.flag (F.parCtrlEn p) = false → s.fld (F.parStatusState p) = 0 → s.enableCause p = 0 →
    let v := s.partition p
    let r := s.readRes p
    let t := s.setPartition p { v with
      block := some (s.readBlock p), res := r, gates := cleanGates v.gates, hurdles := [], scenes := []
      clusters := (s.readBlock p).foldList.flatMap (foldClusters s.spare.failed)
      staging := {}, resetDisables := false, depleted := false, cueOffset := 0, replay := { used := v.replay.used }, pool := none }
    exec (.parEnable p) s = .next ((((t.zeroLocal (s.readBlock p).foldList).setFld (F.parRstatusPhase p)
      (if (r.map (·.standby)).getD false then 6 else 0)).setFld (F.parCtrlEn p) 1).configChanged)) ∧
  (∀ (s : State) (p : PartNo), s.host.pcieUp = true → s.flag (F.parCtrlEn p) = false → s.fld (F.parStatusState p) = 0 → s.enableCause p ≠ 0 →
    exec (.parEnable p) s = .next ((s.setFld (F.parStatusCfgCause p) (s.enableCause p)).raiseGlobal Ev.parCfg p)) ∧
  (∀ (s : State) (p : PartNo), s.flag (F.parCtrlEn p) = true → s.fld (F.parStatusState p) = 0 →
    exec (.parEnableDone p) s = .next (s.setFld (F.parStatusState p) 1)) ∧
  (∀ (s : State) (p : PartNo), s.host.pcieUp = true → s.flag (F.parCtrlEn p) = true → s.fld (F.parStatusState p) ≠ 2 →
    exec (.parDisable p) s = .next (((s.resetPartition p true).loseLock p).setFld (F.parCtrlEn p) 0) ∧
    exec (.parReset p) s = .next (s.resetPartition p false)) ∧
  (∀ (s : State) (p : PartNo), s.canonical → s.host.pcieUp = true → s.flag (F.parCtrlEn p) = true → s.fld (F.parStatusState p) ≠ 2 →
    (s.block p).queueFirst + (s.block p).queueCount ≤ 8192 →
    (∃ t : State, exec (.parReset p) s = .next t ∧ IsReset s t p ∧ t.flag (F.parCtrlEn p) = true ∧ (t.partition p).resetDisables = false) ∧
    (∃ t : State, exec (.parDisable p) s = .next t ∧ IsReset s t p ∧ t.flag (F.parCtrlEn p) = false ∧ (t.partition p).resetDisables = true ∧
      t.flag (F.parLockHeld p) = false)) ∧
  (∀ (s : State) (p : PartNo), s.fld (F.parStatusState p) = 2 →
    let t := s.setFld (F.parStatusState p) (if (s.partition p).resetDisables then 0 else 1)
    exec (.parResetDone p) s =
      .next (((t.setPartition p { s.partition p with resetDisables := false }).setFld (F.parStatusResetDone p) 1).raiseEvent p Ev.parReset))) ∧
  (∀ (s : State) (fn : FnNo), s.host.pcieUp = true →
    let mine := (List.range 16).filter fun p => s.live p && (fn.val == 0 || (s.block p).fn == fn.val)
    let t := s.over mine fun s p => s.triggerReset p
    let all := s.over ((List.range 16).filter s.live) fun s p => s.triggerReset p
    let u := t.over ((List.range 16).filter fun p => t.fld (F.parLockOwner p) == fn.val) State.loseLock
    exec (.functionLevelReset fn) s = .next (u.setHost { u.host with d3hot := if fn.val = 0 then [] else u.host.d3hot.filter (· != fn.val) }) ∧
    (fn.val ∉ s.host.d3hot → exec (.d3hotEntry fn) s = .next (t.setHost { s.host with d3hot := fn.val :: s.host.d3hot })) ∧
    exec .hotReset s = .next (all.setHost { all.host with d3hot := [] })) ∧
  (∀ (s : State) (fn : FnNo), s.canonical → s.host.pcieUp = true →
    (∀ p < 16, (s.block p).queueFirst + (s.block p).queueCount ≤ 8192) →
    let hit (f p : Nat) : Prop := p < 16 ∧ s.live p = true ∧ (f = 0 ∨ (s.block p).fn = f) ∧ s.flag (F.parCtrlEn p) = true
    (∃ t : State, exec (.functionLevelReset fn) s = .next t ∧ fn.val ∉ t.host.d3hot ∧
      (∀ p, hit fn p → s.fld (F.parStatusState p) ≠ 2 → IsReset s t p ∧ t.flag (F.parCtrlEn p) = true)) ∧
    (fn.val ∉ s.host.d3hot → ∃ t : State, exec (.d3hotEntry fn) s = .next t ∧ fn.val ∈ t.host.d3hot ∧
      (∀ p, hit fn p → s.fld (F.parStatusState p) ≠ 2 → IsReset s t p ∧ t.flag (F.parCtrlEn p) = true)) ∧
    (∃ t : State, exec .hotReset s = .next t ∧ t.host.d3hot = [] ∧
      (∀ p, hit 0 p → s.fld (F.parStatusState p) ≠ 2 → IsReset s t p ∧ t.flag (F.parCtrlEn p) = true)))

/-- R246, R37, R242. What a partition reset leaves, in every state: STATE reads RESETTING, no instruction of the partition is in flight,
it has no scene and no hurdle generation, and every byte of the local stores of its folds reads 0; no other partition's block
changes. -/
def Obligations.ResetLeaves : Prop :=
  ∀ (s : State) (p : PartNo) (disables : Bool), s.canonical →
    let t := s.resetPartition p disables
    t.fld (F.parStatusState p) = 2 ∧ (∀ i ∈ t.insts, i.part ≠ p.val) ∧ (t.partition p).scenes = [] ∧ (t.partition p).hurdles = [] ∧
    ∀ cl a, (s.block p).foldList.contains (cl / 66) = true → a < localBytes → t.tierByte tLocal cl a = 0

/-- R19, R236, R18, R23. A doorbell of a number that a function's partition owns sets the tail of an enabled queue; a tail more than
the ring's size ahead of the head raises vector 0 with E_DOORBELL instead. A queue enable that passes reads its block and starts with
HEAD, TAIL and base cue 0, not halted and outside a scene; one that fails sets EN_FAIL and raises vector 0 with E_DESC. A disable clears EN at once; a resume clears
HALTED. -/
def Obligations.QueueRowsComplete : Prop :=
  (∀ (s : State) (fn : FnNo) (n : Nat) (v : Word64) (q p : Nat), s.host.pcieUp = true → fn.val ∉ s.host.d3hot →
    rangeAt (s.fnRanges fn) n = some q → s.partOf q = some p → s.qOn q = true →
    let tail := v.toNat % 2 ^ 32
    exec (.doorbell fn n v) s =
      .next (if (s.queue q).size < (2 ^ 32 + tail - (s.queue q).head) % 2 ^ 32 then s.raiseEvent p Ev.doorbell
        else s.setQueue q { s.queue q with tail := tail })) ∧
  (∀ (s : State) (q : QueueNo) (p : Nat) (b : QueueBlock), s.host.pcieUp = true → s.qOn q = false → s.partOf q = some p →
    s.queueEntry p q = some b →
    let t := (s.setFld (F.queQctrlEn q) 1).setFld (F.queQctrlHalted q) 0
    exec (.queueEnable q) s =
      .next (t.setQueue q { t.queue q with
        block := b, head := 0, tail := 0, baseCue := 0, openScene := none, nextScenes := [], buffer := [], areaWait := false })) ∧
  (∀ (s : State) (q : QueueNo) (p : Nat), s.host.pcieUp = true → s.qOn q = false → s.partOf q = some p → s.queueEntry p q = none →
    exec (.queueEnable q) s = .next ((s.setFld (F.queQctrlEnFail q) 1).raiseEvent p Ev.desc)) ∧
  (∀ (s : State) (q : QueueNo), s.host.pcieUp = true → s.qOn q = true →
    exec (.queueDisable q) s = .next ((s.setFld (F.queQctrlEn q) 0).settle)) ∧
  (∀ (s : State) (q : QueueNo), s.host.pcieUp = true → exec (.qctrlResume q) s = .next (s.setFld (F.queQctrlHalted q) 0))


/-! ## Registers and the hub (R5, R333, R354, R357, R360 to R364, R371 to R375) -/

/-- A register whose write does nothing but change its fields. -/
def Sys2Proof.Machine.Reg.onlyHolds (r : Reg) : Bool :=
  match r with
  | .parCtrl _ | .parLock _ | .parShares _ | .parPrio _ | .parPlanLo _ | .parPlanHi _ | .parGate _ _ => false
  | .parPblkLo _ | .parPblkHi _ | .parRblkLo _ | .parRblkHi _ | .queQctrl _ => false
  | .cacCtrl | .hbcCtrl | .hbcRehCtrl | .oxlCtrl | .oxlCueCfg | .crcCtrl | .pciEvtCtrl | .hubSnap | .hubBookCtrl => false
  | .pmtMbxCtrl _ | .pmtKick => false
  | _ => true

/-- The access codes and the slot aliases, for every field of every register and every word: an RW field takes the value written at
slot offset 0, has the bits written 1 set at 4, cleared at 8 and inverted at 12; an RWL field does the same while its block is
disabled and keeps its value while it is enabled; a W1C field is cleared by a 1 written at slot offset 0; an RO or SHO field keeps its
value, whatever is written. -/
def Obligations.FieldsAfterAWrite : Prop :=
  ∀ (r : Reg) (f : FieldSpec) (sub old v : Nat) (locked : Bool), f ∈ r.fields → sub ∈ [0, 4, 8, 12] → old < 2 ^ 32 → v < 2 ^ 32 →
    let o := bits old f.lo f.len
    let x := bits v f.lo f.len
    let after := bits (r.after sub old v locked) f.lo f.len
    (f.access = .rw ∨ (f.access = .rwl ∧ locked = false) → ∀ k < f.len,
      after.testBit k = match sub with
        | 0 => x.testBit k
        | 4 => o.testBit k || x.testBit k
        | 8 => o.testBit k && !x.testBit k
        | _ => Bool.xor (o.testBit k) (x.testBit k)) ∧
    (f.access = .rwl → locked = true → after = o) ∧
    (f.access = .w1c → after = if sub = 0 ∧ x ≠ 0 then 0 else o) ∧
    (f.access = .ro ∨ f.access = .sho → after = o)

/-- A write by a function or the Prompter reaches the register at its offset; of a register that only holds fields, nothing but its
word changes and, where a covered field changed, the configuration check starts again; a write that reaches a field locked by EN
(at slot offset 0 any write of the register, through an alias one with a 1 in the field) is ignored there and raises E_WIGN. An offset
outside the windows, or one that is not aligned to 4 bytes, completes as an Unsupported Request.

The sideband port reaches its 256-byte buffer and the GO register of its mailbox, whose other fields take the write too; any other
write of it is ignored (R345, R377). -/
def Obligations.RegisterWriteCompletes : Prop :=
  ((∀ (s : State) (who : Requester) (off : Nat) (v : Word32) (w : Option Nat) (o : Nat) (r : Reg), s.canAccess who = true → who ≠ .sideband →
    s.placeAt who off = .reg w o r → r.onlyHolds = true →
    let old := (s.readReg r).toNat
    let word := r.after (o % 16) old v.toNat (s.lockedBy r)
    let t := if word = old then s else s.setWord r (BitVec.ofNat 32 word)
    let t := if r.covered (t.readReg r).toNat = r.covered old then t else t.configChanged
    let shut := w.isSome && (r.parOf.isSome && r.addr % 0x8000 < 0x1000)
    exec (.registerWrite who off v) s =
      .next (if (s.lockedBy r && r.ignores (o % 16) v.toNat && !shut) = true then t.wign w o r else t)) ∧
  (∀ (s : State) (who : Requester) (off : Nat) (v : Word32), s.canAccess who = true → who ≠ .sideband → s.placeAt who off = .unsupported →
    exec (.registerWrite who off v) s = .next (s.emit (.unsupported who)))) ∧
  (∀ (s : State) (who : Requester) (off : Nat) (v : Word32), s.canAccess who = true → who ≠ .sideband → off % 4 ≠ 0 →
    exec (.registerWrite who off v) s = .next (s.emit (.unsupported who)) ∧
    exec (.loReadLatch who off) s = .next (s.emit (.unsupported who))) ∧
  (∀ (s : State) (off a : Nat) (v : Word32), s.shep.dark = false → s.placeAt .sideband off = .buffer a →
    exec (.registerWrite .sideband off v) s =
      .next (s.setProm { s.prom with sideband := Memory.writeN s.prom.sideband a (natLE 4 v.toNat) })) ∧
  (∀ (s : State) (off o : Nat) (w : Option Nat) (v : Word32), s.shep.dark = false → s.placeAt .sideband off = .reg w o (.pmtMbxCtrl 17) →
    let word := (Reg.pmtMbxCtrl 17).after (o % 16) (s.word (.pmtMbxCtrl 17)).toNat v.toNat false
    (o % 16 = 8 ∨ o % 16 = 12 ∨ bits v.toNat 0 1 = 0 →
      exec (.registerWrite .sideband off v) s = .next (s.setWord (.pmtMbxCtrl 17) (BitVec.ofNat 32 word)))) ∧
  (∀ (s : State) (off o : Nat) (w : Option Nat) (r : Reg) (v : Word32), s.shep.dark = false → s.placeAt .sideband off = .reg w o r →
    r ≠ .pmtMbxCtrl 17 → exec (.registerWrite .sideband off v) s = .next s)


/-- A read of a latching _LO register sends its value and latches the _HI half for the reader; a read of the _HI half by that reader
returns what was latched, however the register moves in between, and another reader's latch stays as it was. -/
def Obligations.LowReadLatchesHighHalf : Prop :=
  ∀ (s : State) (who : Requester) (off hiOff : Nat) (w w' : Option Nat) (o o' : Nat) (lo hi : Reg), s.canonical → s.canAccess who = true →
    s.placeAt who off = .reg w o lo → lo.latched = some hi →
    ∃ t, exec (.loReadLatch who off) s = .next t ∧ t.out = s.out ++ [.readData who (s.readReg lo)] ∧ t.regs.file = s.regs.file ∧
      (∀ u : State, u.canAccess who = true → u.regs.shadows = t.regs.shadows → u.placeAt who hiOff = .reg w' o' hi →
        ∃ u', exec (.loReadLatch who hiOff) u = .next u' ∧ u'.out = u.out ++ [.readData who (s.readReg hi)]) ∧
      ∀ (other : Requester) (r : Reg), requesterNo other ≠ requesterNo who → r.addr < 2 ^ 32 → hi.addr < 2 ^ 32 → tblGet none t.regs.shadows (shadowKey other r) =
        tblGet none s.regs.shadows (shadowKey other r)

/-- A write of 1 to HUB.SNAP.GO, or the test access port's SNAP, leaves a capture pending; at the capture every register that the
mirror covers stands in the mirror with its RO, SHO and W1C fields, and DONE is set. -/
def Obligations.SnapRowsComplete : Prop :=
  (∀ s : State, s.host.pcieUp = true → exec .snapGo s = .next ((s.setFld F.hubSnapDone 0).setFld F.hubSnapPending 1)) ∧
  (∀ s : State, s.running = true → exec .tapSnap s = .next ((s.setFld F.hubSnapDone 0).setFld F.hubSnapPending 1)) ∧
  (∀ s : State, s.canonical → s.running = true → s.flag F.hubSnapPending = true →
    ∃ t, exec .snapCapture s = .next t ∧ t.flag F.hubSnapDone = true ∧ t.flag F.hubSnapPending = false ∧
      (∀ r ∈ snapRegs, r.addr < 0x800000 → ∃ x ∈ snapRegs, x.addr = r.addr ∧
        tblGet 0 t.regs.mirror r.addr = BitVec.ofNat 32 (x.mirrored (s.readReg x).toNat)) ∧
      ∀ r : Reg, r.addr ≠ Reg.hubSnap.addr → t.word r = s.word r)

/-- A COMMIT that fails a check leaves the book in force as it was, sets REFUSED and CAUSE and raises E_BOOK_REFUSED, and with any
partition enabled the cause is 6; one that passes makes the copy and sets BUSY; when it is done the copy is the book in force and
COMMITTED is set.

The configuration check: EN written 1 makes it DIRTY; EN written 0 makes it OFF; COMMIT takes CRC.REF as the reference and starts
a fresh pass, and with EN at 0 does nothing; a pass that ends without a reference writes CRC.LAST and counts; one equal to the
reference makes MATCH; one unequal makes a second pass, and a second unequal pass makes MISMATCH with E_CONFIG_DRIFT. -/
def Obligations.BookRowsComplete : Prop :=
  ((∀ (s : State) (p : Nat), p < 16 → s.flag (F.parCtrlEn p) = true → s.bookCause = 6) ∧
  (∀ s : State, s.host.pcieUp = true → s.flag F.hubBookCtrlBusy = false → s.bookCause ≠ 0 →
    exec .bookCommit s = .next (((s.setFld F.hubBookCtrlRefused 1).setFld F.hubBookCtrlCause s.bookCause).raiseGlobal Ev.bookRefused)) ∧
  (∀ s : State, s.host.pcieUp = true → s.flag F.hubBookCtrlBusy = false → s.bookCause = 0 →
    let a := s.pair .hubBookAddrLo .hubBookAddrHi
    let n := (BookHead.ofBytes (s.tierBytes tStacked 0 a 64)).length
    exec .bookCommit s =
      .next ((s.setConfig { s.config with pending := some ⟨s.tierBytes tStacked 0 a n⟩ }).setFld F.hubBookCtrlBusy 1)) ∧
  (∀ (s : State) (k : Book), s.running = true → s.config.pending = some k →
    let t := (s.setConfig { s.config with book := some k, pending := none }).setPair .hubBookDigestLo .hubBookDigestHi k.digest
    exec .bookCommitDone s =
      .next ((t.setFld F.hubBookCtrlCommitted 1).setFld F.hubBookCtrlBusy 0).configChanged.sendIdentities)) ∧
  ((∀ s : State, s.host.pcieUp = true → s.flag F.crcCtrlEn = false →
    exec .crcEnable s = .next (((s.setConfig { s.config with crcSecond := false }).setFld F.crcCtrlEn 1).setFld F.crcStatusState 1) ∧
    exec .crcCommit s = .next s) ∧
  (∀ s : State, s.host.pcieUp = true →
    exec .crcDisable s = .next (((s.setConfig { s.config with crcSecond := false }).setFld F.crcCtrlEn 0).setFld F.crcStatusState 0)) ∧
  (∀ s : State, s.host.pcieUp = true → s.flag F.crcCtrlEn = true →
    exec .crcCommit s = .next ((s.setConfig { s.config with crcRef := some (s.pair .crcRefLo .crcRefHi), crcSecond := false }).setFld
      F.crcStatusState 1)) ∧
  (∀ s : State, s.running = true → s.flag F.crcCtrlEn = true →
    let v := crc64 s.configImage
    let t := (s.setPair .crcLastLo .crcLastHi v).countFld F.crcStatusPasses 1
    (s.config.crcRef = none → exec .crcPassEnd s = .next t) ∧
    (s.config.crcRef = some v → s.config.crcSecond = false → t.fld F.crcStatusState ≠ 3 →
      exec .crcPassEnd s = .next ((t.setConfig { t.config with crcSecond := false }).setFld F.crcStatusState 2)) ∧
    (∀ r, s.config.crcRef = some r → r ≠ v → s.config.crcSecond = false →
      exec .crcPassEnd s = .next (t.setConfig { t.config with crcSecond := true })) ∧
    (∀ r, s.config.crcRef = some r → r ≠ v → s.config.crcSecond = true → t.fld F.crcStatusState ≠ 3 →
      let u := (((t.setConfig { t.config with crcSecond := false }).setFld F.crcStatusState 3).setFld F.crcStatusDrift 1).raiseGlobal
        Ev.configDrift
      exec .crcPassEnd s = .next (if u.flag F.crcCtrlEnforce = true then u.withdraw else u))))


/-- EN of the global event ring written 1 for the first time writes the events held since start-up, oldest first; EN of stacked
memory, of the shared cache and of the link ports (EN written 0 leaves every port DISABLED with nothing in its replay buffer and its
queue, and its packets wait for a route); a fundamental reset, the rise of PERST_N, a power-on reset, a cold start, and a
reset of the test logic, which changes nothing else. -/
def Obligations.EnableAndResetRowsComplete : Prop :=
  (∀ s : State, s.host.pcieUp = true → s.flag F.pciEvtCtrlEn = false →
    exec .evtRingEnable s = .next (((s.setFld F.pciEvtCtrlEn 1).setHost { s.host with evtEver := true, evtHeld := [] }).over s.host.evtHeld
      fun s e => s.eventWrite e.1 e.2.1 e.2.2.1 e.2.2.2)) ∧
  (∀ s : State, s.host.pcieUp = true → exec .hbcEnable s = .next (s.setFld F.hbcCtrlEn 1) ∧ exec .hbcDisable s = .next (s.setFld F.hbcCtrlEn 0)) ∧
  (∀ s : State, s.host.pcieUp = true → s.flag F.cacCtrlEn = false →
    let t := s.undefineCells tCache fun _ => true
    exec .cacEnable s = .next ((t.setMem { t.mem with cachePoison := [], lines := [] }).setFld F.cacCtrlEn 1)) ∧
  (∀ s : State, s.host.pcieUp = true → s.flag F.oxlCtrlEn = false →
    exec .oxlEnable s = .next ((s.over (List.range 16) fun s p =>
      let s := s.setFld (F.oxlPortErrRetrains p) 0
      if s.flag (F.oxlPortCfgEnable p) then s.setFld (F.oxlPortStatState p) 1 else s).setFld F.oxlCtrlEn 1)) ∧
  (∀ s : State, s.host.pcieUp = true →
    exec .oxlDisable s = .next ((s.over (List.range 16) fun s p => (s.setFld (F.oxlPortStatState p) 0).reclaim p).setFld F.oxlCtrlEn 0)) ∧
  (∀ s : State, s.canonical → s.host.pcieUp = true →
    ∃ t, exec .oxlDisable s = .next t ∧ t.flag F.oxlCtrlEn = false ∧ ∀ p < 16, t.fld (F.oxlPortStatState p) = 0 ∧
      (t.port p).replay = [] ∧ (t.port p).queue = [] ∧ ∀ x, x ∈ (s.port p).queue ∨ x ∈ (s.port p).replay.filterMap (·.ends) →
        x ∈ t.link.waiting) ∧
  (∀ s : State, ∃ t, exec .perstNAssert s = .next t ∧ t.host.pcieUp = false ∧ t.host.d3hot = [] ∧ t.shep.pins.perst = true) ∧
  (∀ s : State, s.running = true → 3 ≤ s.phase →
    exec .perstNRise s = .next ((s.setShep { s.shep with pins := { s.shep.pins with perst := false } }).setHost
      { s.host with pcieUp := true })) ∧
  (∀ s : State, s.running = true → s.shep.savesEnabled = true → s.ledg.held = false →
    ∃ t, exec .porNAssert s = .next t ∧ t.shep.pins.por = true ∧ t.shep.stop = .saving ∧ t.host.pcieUp = false) ∧
  (∀ s : State, s.running = true → s.shep.dark = false → s.shep.savesEnabled = false ∨ s.ledg.held = true →
    ∃ t, exec .porNAssert s = .next t ∧ t.phase = 0 ∧ t.insts = [] ∧ t.host.pcieUp = false ∧ t.shep.stop = .running) ∧
  (∀ (s : State) (straps : BitVec 2), ∃ t, exec (.coldStart straps) s = .next t ∧ t.straps = straps ∧ t.phase = 0 ∧ t.insts = [] ∧
    t.host.pcieUp = false ∧ t.shep.stop = .running ∧ t.shep.savesEnabled = false) ∧
  (∀ s : State, exec .trstNAssert s = .next s)

/-- BAR4 of a function in D0 writes its bytes to stacked memory at the place that its windows give, with the STREAM hint in the shared
cache, and reads them back; beyond the windows, across two of them, or above current capacity, or of poisoned data, it completes as an
Unsupported Request. -/
def Obligations.BarRowsComplete : Prop :=
  (∀ (s : State) (fn : FnNo) (off : Nat) (data : Bytes) (a : Nat), s.host.pcieUp = true → s.bar4At fn off data.length = some a →
    exec (.bar4Write fn off data) s = .next ((s.writeTier tStacked 0 a data).touch 0 true ((List.range data.length).map (a + ·)))) ∧
  (∀ (s : State) (fn : FnNo) (off : Nat) (data : Bytes) (a : Nat), s.canonical → s.host.pcieUp = true → s.bar4At fn off data.length = some a →
    ∃ t, exec (.bar4Write fn off data) s = .next t ∧ t.tierBytes tStacked 0 a data.length = data ∧
      ∀ b, b < a ∨ a + data.length ≤ b → t.tierByte tStacked 0 b = s.tierByte tStacked 0 b) ∧
  (∀ (s : State) (fn : FnNo) (off n a : Nat), s.host.pcieUp = true → s.bar4At fn off n = some a → s.rangeBad tStacked 0 a n = false →
    exec (.bar4Read fn off n) s =
      .next ((s.touch 0 false ((List.range n).map (a + ·))).emit (.bar4Data fn (s.tierBytes tStacked 0 a n)))) ∧
  (∀ (s : State) (fn : FnNo) (off n a : Nat) (data : Bytes), s.host.pcieUp = true →
    (s.bar4At fn off data.length = none → exec (.bar4Write fn off data) s = .next (s.emit (.unsupported (.fn fn)))) ∧
    (s.bar4At fn off n = none ∨ (s.bar4At fn off n = some a ∧ s.rangeBad tStacked 0 a n = true) →
      exec (.bar4Read fn off n) s = .next (s.emit (.unsupported (.fn fn)))))

/-! ## Sparing, scrubbing and channels (R83 to R85, R186, R192, R193, R197 to R199, R213, R214, R253 to R256) -/

/-- What a sparing action leaves in the ledger and for the Prompter (R253, R301, R336): the last entry of the history is of the
action's unit, at its cue; a record of kind SPARING is being written, in the next slot, or with a write in progress waits for it; and
the unit has an entry in the queue of repair work. -/
def Sys2Proof.Machine.SparedBy (s t : State) (u : RepairUnit) : Prop :=
  (∃ code detail, t.ledg.shadow.history.getLast? = some ⟨s.time.cue, code, u.number, detail⟩) ∧ u ∈ t.prom.repairs ∧
    (s.ledg.held = false → s.shep.savesEnabled = true → s.running = true →
      match s.ledg.write with
      | some w => t.ledg.write = some w ∧ t.ledg.again = true
      | none => ∃ w, t.ledg.write = some w ∧ w.record.kind = 2 ∧ w.record.seq = s.ledgerSeq + 1 ∧ w.slot = slotOf (s.ledgerSeq + 1))

/-- What declaring a cluster failed does (R84, R255, R256): it stands in the list of the failed and no longer in that of those to fail;
the first understudy left in its fold takes over where it was in use; with none left it is lost; no instruction changes. -/
def Sys2Proof.Machine.DeclareFailedActs : Prop :=
  ∀ (s : State) (c : ClusterNo),
    let d := s.declareFailed c
    let used := (foldClusters s.spare.failed (c.val / 66)).contains c.val
    let left := (understudiesLeft s.spare.failed (c.val / 66)).filter (· != c.val)
    d.1.spare.failed = s.spare.failed ++ [c.val] ∧ d.1.spare.failing = s.spare.failing.filter (· != c.val) ∧
      d.1.spare.restarts = s.spare.restarts ∧ d.2.1 = (if used = true then left.head? else none) ∧ d.2.2 = (used && left.isEmpty) ∧
      (d.2.2 = true → c.val ∈ d.1.spare.lost) ∧ d.1.insts = s.insts ∧ (s.canonical → SparedBy s d.1 (.cluster c.val))

/-- What the depletion of a fold does (R256): every enabled partition that owns it and is not resetting is reset, and no queue of it is
enabled again before the partition is. -/
def Sys2Proof.Machine.DepleteActs : Prop :=
  ∀ (s : State) (f p : Nat), s.canonical → p ∈ s.foldOwners f → s.flag (F.parCtrlEn p) = true → s.fld (F.parStatusState p) ≠ 2 →
    let t := s.deplete f
    t.fld (F.parStatusState p) = 2 ∧ (∀ i ∈ t.insts, i.part ≠ p) ∧ (t.partition p).depleted = true

/-- A K-step's residue check: a step that passes clears the cluster's mark; a first failure marks it, and the step runs again; a second
one declares the cluster failed, and an understudy of its fold restarts the tile, or with none left the instruction ends with E_RESIDUE
and the fold is depleted. When the understudy is ready it has the failed cluster's local store and its logical index.

An instruction with a failed step not replayed, or whose cluster is being replaced, does not retire (R83, R84). A failed check of an
Apron engine, which belongs to no cluster, is replayed until it passes: the model's choice (log entry 39). -/
def Obligations.ResidueRowsComplete : Prop :=
  (∀ (s : State) (q : QueueNo) (index : Word32) (c : ClusterNo) (i : Inst), s.inst? q.val index.toNat = some i → i.pkt.onApron = false →
    checkedOp i.pkt.opcode = true → c.val ∈ s.clustersOf i.part → (∀ r ∈ s.spare.restarts, r.failed ≠ c.val) →
    let cleared : Inst := { i with failedOn := i.failedOn.filter (· != c.val) }
    let d := s.declareFailed c.val
    exec (.kStepDone q index c true) s = .next (s.setInst cleared) ∧
    (c.val ∉ i.failedOn → exec (.kStepDone q index c false) s = .next (s.setInst { i with failedOn := i.failedOn ++ [c.val] })) ∧
    (∀ u, c.val ∈ i.failedOn → d.2.1 = some u → exec (.kStepDone q index c false) s =
      .next (d.1.setSpare { d.1.spare with restarts := d.1.spare.restarts ++ [⟨c.val, u, i.queue, i.index⟩] })) ∧
    (c.val ∈ i.failedOn → d.2.1 = none → exec (.kStepDone q index c false) s =
      .next ((d.1.endEarly cleared Ev.residue).deplete (c.val / 66)))) ∧
  (∀ (s : State) (q : QueueNo) (index : Word32) (c : ClusterNo) (ok : Bool) (i : Inst), s.inst? q.val index.toNat = some i →
    i.pkt.onApron = true → exec (.kStepDone q index c ok) s = .next (s.setInst { i with failedOn := if ok then [] else [c.val] })) ∧
  DeclareFailedActs ∧ DepleteActs ∧
  (∀ (s : State) (i : Inst), i.failedOn ≠ [] ∨ (∃ r ∈ s.spare.restarts, r.queue = i.queue ∧ r.index = i.index) → s.mayRetire i = false) ∧
  (∀ (s : State) (c : ClusterNo) (r : Restart), s.spare.restarts.find? (·.failed == c.val) = some r →
    let t := (s.copyLocal c.val r.understudy).takeOver c.val r.understudy
    exec (.understudyRestart c) s = .next (t.setSpare { t.spare with restarts := t.spare.restarts.filter (·.failed != c.val) }))

/-- The understudy takes the failed cluster's logical index in every partition that owns the fold, and its local store holds what the
failed one held, byte for byte; no other byte of any tier changes, and the restart is over. -/
def Obligations.UnderstudyHoldsTheLocalStore : Prop :=
  ∀ (s : State) (c : ClusterNo) (r : Restart), s.canonical → s.spare.restarts.find? (·.failed == c.val) = some r → r.understudy ≠ c.val →
    ∃ t, exec (.understudyRestart c) s = .next t ∧
      (∀ a < localBytes, t.tierByte tLocal r.understudy a = s.tierByte tLocal c.val a) ∧
      (∀ cl a, cl ≠ r.understudy → a < localBytes → t.tierByte tLocal cl a = s.tierByte tLocal cl a) ∧
      (∀ tier who a, tier ∈ [tCache, tStacked, tPeer, tHost] → t.tierByte tier who a = s.tierByte tier who a) ∧
      (∀ p ∈ s.foldOwners (c.val / 66), (t.partition p).clusters =
        (s.partition p).clusters.map fun x => if x = c.val then r.understudy else x) ∧
      ∀ x ∈ t.spare.restarts, x.failed ≠ c.val

/-- An uncorrectable error of a local-store row poisons its piece and the row is replaced; a corrected one counts, and the row is
replaced when an earlier one was at another bit. A row that is replaced goes to a spare row and the ledger records it; with 48 used or
the ledger's area full the cluster waits to be declared failed, which happens while no partition of its fold has a running scene: an understudy takes its index with an undefined
local store, or the fold is depleted.

Corrected errors count, of a channel in the hour and of a way of the cache; a channel whose count reaches CORR_RATE is beyond repair,
as one that CHANNEL_DRAIN_START names; an uncorrectable error poisons the sector and raises E_SCRUB_UNCORR, or poisons the 8 bytes of
the cache that cannot be fetched again. The counts begin again each hour. A way whose count reached the limit goes to an understudy way
of its slice or, with none left, is mapped out, and the lines that it held, at most one of each set, leave the cache (which they are is
free: log entry 40). A stack's own repair in operation counts, and the ledger records it. -/
def Obligations.RepairAndScrubRowsComplete : Prop :=
  ((∀ (s : State) (u : RepairUnit), s.canonical → SparedBy s (s.spared u) u ∧ (s.spared u).mem = s.mem ∧ (s.spared u).insts = s.insts) ∧
  (∀ (s u : State) (c : ClusterNo) (row : Fin 1536) (e : RowError), c.val ∉ s.spare.failed →
    let k := c.val * 1536 + row.val
    let counted := s.setMem { s.mem with locCorr := tblSet 0 s.mem.locCorr c.val (tblGet 0 s.mem.locCorr c.val + 1) }
    let old := tblGet 0 s.mem.rowBit k
    (match e with
      | .uncorrectable x =>
        let t := s.addPoison tLocal ((c.val * localBytes + 512 * row.val) / 16 + x.val)
        u = t.setMem { t.mem with rowBit := tblSet 0 t.mem.rowBit k 0 }
      | .corrected b => old ≠ 0 ∧ old ≠ b.val + 1 ∧ u = counted.setMem { counted.mem with rowBit := tblSet 0 counted.mem.rowBit k 0 }) →
    let used := tblGet 0 s.spare.rowsUsed c.val
    let m := s.ledg.shadow
    let t := u.setSpare { s.spare with rowsUsed := tblSet 0 s.spare.rowsUsed c.val (used + 1) }
    (used < 48 → m.rowRepl.length < 8192 → exec (.lsRowReplace c ⟨row, e⟩) s =
      .next ((t.setLedg { s.ledg with shadow := { m with rowRepl := m.rowRepl ++ [⟨c.val, used, row.val⟩] } }).spared (.cluster c.val))) ∧
    (48 ≤ used ∨ 8192 ≤ m.rowRepl.length → c.val ∉ s.spare.failing →
      exec (.lsRowReplace c ⟨row, e⟩) s = .next (u.setSpare { s.spare with failing := s.spare.failing ++ [c.val] }))) ∧
  (∀ (s : State) (c : ClusterNo) (row : Fin 1536) (b : Fin 4096),
    let k := c.val * 1536 + row.val
    let counted := s.setMem { s.mem with locCorr := tblSet 0 s.mem.locCorr c.val (tblGet 0 s.mem.locCorr c.val + 1) }
    (tblGet 0 s.mem.rowBit k = b.val + 1 → exec (.lsRowReplace c ⟨row, .corrected b⟩) s = .next counted) ∧
    (tblGet 0 s.mem.rowBit k = 0 → exec (.lsRowReplace c ⟨row, .corrected b⟩) s =
      .next (counted.setMem { counted.mem with rowBit := tblSet 0 counted.mem.rowBit k (b.val + 1) })))) ∧
  (∀ (s : State) (c : ClusterNo), c.val ∈ s.spare.failing → (∀ p ∈ s.foldOwners (c.val / 66), s.runningScene p = none) →
    let d := s.declareFailed c.val
    (∀ u, d.2.1 = some u → exec (.clusterDeclaredFailed c) s = .next ((d.1.takeOver c.val u).undefine tLocal u 0 localBytes)) ∧
    (d.2.1 = none → exec (.clusterDeclaredFailed c) s = .next (if d.2.2 = true then d.1.deplete (c.val / 66) else d.1))) ∧
  DeclareFailedActs ∧ DepleteActs ∧
  ((∀ (s : State) (chan : ChanNo) (a : Nat), s.flag F.hbcCtrlEn = true → s.flag F.hbcCtrlScrubEn = true → a < s.capacity →
    let n := s.countFld (F.hbcChstatCorr chan) 1
    (n.fld (F.hbcChstatCorr chan) < s.fld F.hbcLimitsCorrRate → s.canonical → exec (.scrubSector chan a .corrected) s = .next n.settle) ∧
    (s.fld F.hbcLimitsCorrRate ≤ n.fld (F.hbcChstatCorr chan) → s.canonical →
      exec (.scrubSector chan a .corrected) s = exec (.channelDrainStart chan) n) ∧
    exec (.scrubSector chan a .clean) s = .next s.settle ∧
    let d := s.drawNat
    let t := ((d.2.addPoison tStacked (a / 64)).setFld F.hbcRehFailChannel chan).setFld F.hbcRehFailPseudo (d.1 % 2)
    exec (.scrubSector chan a .uncorrectable) s =
      .next (((t.setFld F.hbcRehFailBank (d.1 / 2 % 64)).setFld F.hbcRehFailRow (d.1 / 128 % 65536)).raiseGlobal Ev.scrubUncorr chan).settle) ∧
  (∀ (s : State) (slice : DieNo) (way : Fin 18) (a : Nat), s.flag F.cacCtrlEn = true → s.flag F.cacCtrlScrubEn = true →
    let k := slice.val * 18 + way.val
    exec (.cacheScrub slice way a .clean) s = .next s ∧
    exec (.cacheScrub slice way a .corrected) s =
      .next (s.setMem { s.mem with wayCorr := tblSet 0 s.mem.wayCorr k (tblGet 0 s.mem.wayCorr k + 1) }) ∧
    (way.val < s.directWays → a < s.directBytes →
      exec (.cacheScrub slice way a .uncorrectable) s = .next ((s.addPoison tCache (a / 8)).setFld F.cacStatusPoisonSeen 1)) ∧
    (s.directWays ≤ way.val → (∃ l ∈ s.mem.lines, l.line = a / 64 ∧ l.dirty = true) →
      exec (.cacheScrub slice way a .uncorrectable) s = .next ((s.setMem { s.mem with
        linePoison := a / 8 :: s.mem.linePoison.filter (· != a / 8) }).setFld F.cacStatusPoisonSeen 1)) ∧
    (s.directWays ≤ way.val → (∀ l ∈ s.mem.lines, l.line = a / 64 → l.dirty = false) →
      exec (.cacheScrub slice way a .uncorrectable) s = .next s)) ∧
  (∀ s : State, s.canonical → ∃ t, exec .corrHourRollover s = .next t ∧ t.mem.wayCorr = [] ∧
    ∀ c < 384, t.fld (F.hbcChstatCorr c) = 0) ∧
  (∀ (s : State) (slice : DieNo) (way : Fin 18), slice.val * 18 + way.val ∉ s.mem.waysOut →
    s.fld F.cacLimitsWayCorr ≤ tblGet 0 s.mem.wayCorr (slice.val * 18 + way.val) →
    let k := slice.val * 18 + way.val
    let left : Fld := ⟨.cacStatus, 2 * slice.val, 2⟩
    let t := if s.fld left = 0 then s.countFld F.cacStatusMappedWays 1 else s.setFld left (s.fld left - 1)
    let gone := if way.val < t.directWays then [] else wayLines s.free slice.val s.mem.lines
    exec (.cacheWayReplace slice way) s = .next (((t.setFree (s.free + 2 ^ 40)).setMem { t.mem with
      waysOut := t.mem.waysOut ++ [k], wayCorr := tblSet 0 t.mem.wayCorr k 0,
      lines := t.mem.lines.filter fun l => !gone.contains l }).spared (.slice slice.val))) ∧
  (∀ (n slice : Nat) (ls : List CacheLine), (∀ l ∈ wayLines n slice ls, l ∈ ls ∧ sliceOf l.line = slice) ∧
    (wayLines n slice ls).Pairwise fun x y => sameSet x.line y.line = false) ∧
  (∀ (s : State) (chan : ChanNo), s.fld (F.hbcChstatState chan) = 0 →
    exec (.hbmLaneRepair chan .lane) s = .next ((s.countFld (F.hbcChstatLanes chan) 1).spared (.channel chan.val)) ∧
    exec (.hbmLaneRepair chan .row) s =
      .next ((s.setFld (F.hbcChstatPprLeft chan) (s.fld (F.hbcChstatPprLeft chan) - 1)).spared (.channel chan.val))))


/-- A channel starts to drain (R197, R198): it is the one that drains, E_CHAN_MAPPED is raised on every vector of every live partition
and on the global vector, and each instruction in flight whose access to the band of capacity lost is still to come ends with it. -/
def Sys2Proof.Machine.State.drainBegun (s : State) (c : Nat) (waiting : List Nat) : State :=
  let s := (((s.setSpare { s.spare with drain := some ⟨c, waiting⟩ }).setFld (F.hbcChstatState c) 1).setFld F.hbcMappedDrainCh c).setFld
    F.hbcMappedDraining 1
  let told := s.over ((List.range 16).filter s.live) fun s p => s.over (List.range (s.block p).vecCount) fun s v => s.raiseVector p v
  let s := told.raiseGlobal Ev.chanMapped c
  s.over (s.insts.filter s.inBand) fun s x =>
    match s.inst? x.queue x.index with
    | some i => s.endEarly i Ev.chanMapped
    | none => s

/-- Rehearsal: PATTERN, MARCH and TRAFFIC with their modes set REH_STATUS.BUSY and destroy the contents they run over; while EN is 1
they are ignored with E_WIGN. A run's end clears BUSY and reports its outcome, its lanes and rows repaired, and its channels beyond
repair as mapped out. A channel beyond repair in service drains: capacity drops at once, E_CHAN_MAPPED is raised and what is in flight to
the band ends; a second one waits, a ninth makes the device fail; at the drain's end its granules that cannot be read without error stand poisoned,
the channel is mapped out, the ledger records it and the next one drains. -/
def Obligations.RehearsalAndDrainRowsComplete : Prop :=
  (∀ (s : State) (row : Instr) (mode : Nat), s.canonical → (row, mode) ∈ [(Instr.pattern, 0), (.march, 1), (.traffic, 2)] →
    s.host.pcieUp = true → s.flag F.hbcCtrlEn = false → s.fld F.hubBootPhase ≠ 3 → s.flag F.hbcRehStatusBusy = false →
    let m := s.setFld F.hbcRehCtrlMode mode
    let c := m.fld F.hbcRehCtrlChannel
    let t := m.undefineCells tStacked fun a => m.flag F.hbcRehCtrlAll || m.maybeOn c a
    let u := if mode = 2 then t else t.setMem { t.mem with
      stackPoison := t.mem.stackPoison.filter fun k => !(m.flag F.hbcRehCtrlAll || k * 64 / 256 % 384 == c) }
    exec row s = .next (u.setFld F.hbcRehStatusBusy 1)) ∧
  (∀ (s : State) (row : Instr), row ∈ [Instr.pattern, .march, .traffic] → s.host.pcieUp = true → s.flag F.hbcCtrlEn = true →
    exec row s = .next (s.wignOther none Reg.hbcRehCtrl.addr)) ∧
  (∀ (s : State) (o : RehOutcome), s.canonical → s.flag F.hbcRehStatusBusy = true → s.flag F.hbcRehCtrlRepair = true →
    o.unrepairable = [] →
    ∃ t, exec (.rehearsalDone o) s = .next t ∧ t.flag F.hbcRehStatusBusy = false ∧ t.flag F.hbcRehStatusPass = true ∧
      t.flag F.hbcRehStatusUnrepairable = false ∧ t.flag F.hbcRehStatusRepaired = !(o.repairedLanes.isEmpty && o.repairedRows.isEmpty) ∧
      t.fld F.hbcRehStatusFailCount = min 65535 o.failSectors ∧ ∀ c ∈ o.repairedLanes ++ o.repairedRows, RepairUnit.channel c.val ∈ t.prom.repairs) ∧
  (∀ (s : State) (o : RehOutcome) (c : ChanNo), s.canonical → s.flag F.hbcRehStatusBusy = true → s.flag F.hbcRehCtrlRepair = true →
    o.unrepairable = [c] → c.val ∉ s.spare.mappedOut → s.spare.mappedOut.length < s.maxMapped →
    ∃ t, exec (.rehearsalDone o) s = .next t ∧ t.flag F.hbcRehStatusBusy = false ∧ t.flag F.hbcRehStatusUnrepairable = true ∧
      t.spare.mappedOut = s.spare.mappedOut ++ [c.val] ∧ t.fld (F.hbcChstatState c) = 2) ∧
  (∀ (s : State) (o : RehOutcome), s.canonical → s.flag F.hbcRehStatusBusy = true → s.flag F.hbcRehCtrlRepair = false →
    ∃ t, exec (.rehearsalDone o) s = .next t ∧ t.flag F.hbcRehStatusBusy = false ∧ t.flag F.hbcRehStatusPass = (o.failSectors == 0) ∧
      t.flag F.hbcRehStatusRepaired = false ∧ t.flag F.hbcRehStatusUnrepairable = false ∧
      t.fld F.hbcRehStatusFailCount = min 65535 o.failSectors ∧ (o.failSectors ≠ 0 → t.fld F.hbcRehFailChannel = o.firstChan.val) ∧
      (s.fld F.hbcRehCtrlMode = 2 → t.fld F.hbcRehStatusTrafficGbs = min 4095 o.traffic)) ∧
  (∀ (s : State) (chan : ChanNo), s.fld (F.hbcChstatState chan) = 0 → s.flag F.hbcCtrlEn = true →
    (s.spare.drain = none → s.spare.mappedOut.length < s.maxMapped →
      exec (.channelDrainStart chan) s = .next (s.drainBegun chan.val []).settle ∧
      (s.canonical → (s.drainBegun chan.val []).spare.drain = some ⟨chan.val, []⟩ ∧
        (s.drainBegun chan.val []).fld (F.hbcChstatState chan) = 1 ∧ (s.drainBegun chan.val []).flag F.hbcMappedDraining = true)) ∧
    (s.spare.drain = none → s.maxMapped ≤ s.spare.mappedOut.length → exec (.channelDrainStart chan) s = .next s.withdraw.settle) ∧
    (∀ d, s.spare.drain = some d → chan.val ∉ d.waiting → s.spare.mappedOut.length + 1 + d.waiting.length < s.maxMapped →
      exec (.channelDrainStart chan) s =
        .next (s.setSpare { s.spare with drain := some { d with waiting := d.waiting ++ [chan.val] } }).settle)) ∧
  (∀ (s : State) (d : Drain), s.spare.drain = some d →
    let on := fun x => x / 4 % 384 == d.chan || (s.spare.mappedOut.contains (x / 4 % 384) && Config.freeBool (s.free + x))
    let u := (s.setFree (s.free + 2 ^ 40)).over (s.mem.stackPoison.filter fun x => on x && decide (64 * x < s.capacity)) fun s x =>
      s.over (List.range 4) fun s k => s.addPoison tStacked (x / 4 * 4 + k)
    let u := (u.setSpare { u.spare with drain := none }).setFld F.hbcMappedDraining 0
    let u := u.setSpare { u.spare with mappedOut := u.spare.mappedOut ++ [d.chan] }
    let t := ((u.setFld F.hbcMappedCount u.spare.mappedOut.length).setFld (F.hbcChstatState d.chan) 2).spared (.channel d.chan)
    exec .channelDrainDone s = .next (match d.waiting with
      | [] => t
      | c :: l => t.drainBegun c l).settle ∧
    (∀ x ∈ s.mem.stackPoison, x / 4 % 384 = d.chan → 64 * x < s.capacity → ∀ k < 4, x / 4 * 4 + k ∈ t.mem.stackPoison))

/-! ## The link (R160, R308 to R324) -/

/-- A route header read from its 128 bits is the header that was written there, for every header; so are the 64-byte headers of a ring
message and of a collective message, with their TYPE, whatever payload follows. -/
def Obligations.RouteHeaderRoundTrip : Prop :=
  (∀ h : RouteHeader, routeOf (routeNat h) = h) ∧
  (∀ (h : RingHeader) (type : Nat) (payload : Bytes), type < 256 →
    ringHeaderOf (ringBytes h type ++ payload) = h ∧ headerType (ringBytes h type ++ payload) = type ∧ (ringBytes h type).length = 64) ∧
  (∀ (h : CollHeader) (type : Nat) (payload : Bytes), type < 256 →
    collHeaderOf (collBytes h type ++ payload) = h ∧ headerType (collBytes h type ++ payload) = type ∧ (collBytes h type).length = 64)

/-- A packet cut into frame payloads of 256 bytes and read back has its route header, and its body followed by the zero bytes of the
last frame. -/
def Obligations.PacketFramesRoundTrip : Prop :=
  ∀ k : Packet, k.body.length + 16 ≤ 256 * frameCount k →
    (∀ b ∈ framePayloads k, b.length = 256) ∧ (framePayloads k).length = frameCount k ∧
    packetOf (framePayloads k) = { k with body := k.body ++ zeros (256 * frameCount k - 16 - k.body.length) }


/-- What the ports' shared operations do (R311, R312, R314, R317, R323), in every canonical state. What goes out in a LINK frame takes
the next FSEQ, while the replay buffer has room. A packet of the device's own that is transmitted holds its credits and stands in the
replay buffer as its frames. A port that leaves service gives back its packets, those of its replay buffer first, and forgets its
frames. When something has changed for what waits: nothing waits, nothing changes; one packet waits, it is routed again. -/
def Sys2Proof.Machine.LinkActs : Prop :=
  (∀ (s : State) (p : PortNo) (o : Out), s.canonical → (s.port p).replay.length < 2048 →
    let v := s.port p
    let t := s.sendLink p o
    t.out = s.out ++ [o] ∧ t.regs = s.regs ∧ (t.port p).txNext = (v.txNext + 1) % 4096 ∧
      ∃ b, (t.port p).replay = v.replay ++
        [{ fseq := v.txNext % 4096, frame := mkFrame (frameHeader v.txNext 0 2 (v.rxNext + 4095)) b, ends := none }]) ∧
  (∀ (s : State) (p : PortNo) (x : Queued) (k : Packet), s.canonical → x.origin = none →
    let v := s.port p
    let t := s.transmit p x k
    t.out = s.out ++ [.packet p k] ∧ t.regs = s.regs ∧
      (t.port p).credits = v.credits ++ [{ vc := k.route.vc.toNat, frames := frameCount k
                                           takes := takeFrom v (s.sharesFor true k) (creditNeed k) }] ∧
      ((t.port p).replay.drop v.replay.length).map (·.frame.payload) = framePayloads k) ∧
  (∀ (s : State) (p : PortNo), s.canonical →
    let v := s.port p
    let t := s.reclaim p
    (t.port p).replay = [] ∧ (t.port p).queue = [] ∧ (t.port p).credits = [] ∧ (t.port p).rxNext = 0 ∧ (t.port p).txNext = 0 ∧
      t.link.waiting = s.link.waiting ++ v.replay.filterMap (·.ends) ++ v.queue ∧ t.regs = s.regs) ∧
  (∀ s : State, (∀ p < 16, s.active p = true → (s.port p).queue = []) →
    let v := s.over ((List.range 16).filter s.active) fun s p => s.setPort p { s.port p with queue := [] }
    let u := v.setLink { v.link with waiting := [] }
    (s.link.waiting = [] → s.pumpLinks = u ∧ u.out = s.out ∧ u.regs = s.regs) ∧
    (∀ x, s.link.waiting = [x] → ∃ n g, s.pumpLinks = (u.route x).setLink { (u.route x).link with turn := n, grants := g }))

/-- Frames that carry their acknowledgement nowhere (bit 29 of the header 0): a DATA or LINK frame with the number expected next is
taken and acknowledged (a DATA frame's payload joins its packet's, which is whole with its last frame; of a LINK frame each field acts
as the row of its own does); one with any other number is discarded and NAKed; one whose CRC fails is counted, and at CRC_LIMIT × 16 in the
second raises E_LINK_CRC and retrains the port; an IDLE frame's header gives its acknowledgement.

The replay buffer: an acknowledgement drops the frames up to the one it names, in order, and what waits for room goes; a NAK sends
the frame that it names and every later one again, as they stand; a timeout sends the one frame again. A retrained port sends every
frame of the buffer again. -/
def Obligations.FrameRowsComplete : Prop :=
  ((∀ (s : State) (p : PortNo) (f : Frame), s.running = true → s.active p = true → badCrc f = false → bits f.header.toNat 15 2 = 0 →
    bits f.header.toNat 29 1 = 0 →
    let v := s.port p
    let w : Port := { v with rxNext := (v.rxNext + 1) % 4096 }
    let t := (s.setPort p w).emit (.ack p v.rxNext)
    let fs := v.rxFrames ++ [f.payload]
    (bits f.header.toNat 0 12 = v.rxNext → s.canonical → exec (.dataFrame p f) s =
      .next (t.setPort p (if fs.length < frameCount (packetOf fs) then { w with rxFrames := fs }
        else { w with rxFrames := [], rxPackets := v.rxPackets ++ [packetOf fs] }))) ∧
    (bits f.header.toNat 0 12 ≠ v.rxNext → exec (.dataFrame p f) s = .next (s.sendLink p (.nak p v.rxNext)))) ∧
  (∀ (s : State) (p : PortNo) (f : Frame) (x : LinkFields), s.running = true → s.framed p = true → badCrc f = false →
    bits f.header.toNat 15 2 = 2 → bits f.header.toNat 29 1 = 0 →
    let v := s.port p
    let t := (s.setPort p { v with rxNext := (v.rxNext + 1) % 4096 }).emit (.ack p v.rxNext)
    (bits f.header.toNat 0 12 = v.rxNext →
      (x = ⟨none, [], none, none, none, none⟩ → exec (.linkFrame p f x) s = .next t) ∧
      (∀ n, x = ⟨some n, [], none, none, none, none⟩ → exec (.linkFrame p f x) s = exec (.frameNak p n) t) ∧
      (∀ vc n, x = ⟨none, [(vc, n)], none, none, none, none⟩ → exec (.linkFrame p f x) s = exec (.linkCreditReturn p vc n) t) ∧
      (∀ l, x = ⟨none, [], some l, none, none, none⟩ → exec (.linkFrame p f x) s = exec (.laneSwapCommand p l) t) ∧
      (∀ r, x = ⟨none, [], none, some r, none, none⟩ → exec (.linkFrame p f x) s = exec (.rttProbe p r) t) ∧
      (∀ r, x = ⟨none, [], none, none, some r, none⟩ → exec (.linkFrame p f x) s = exec (.identityRecord p r) t) ∧
      (∀ r, x = ⟨none, [], none, none, none, some r⟩ → exec (.linkFrame p f x) s = exec (.cueReport p r) t)) ∧
    (bits f.header.toNat 0 12 ≠ v.rxNext → exec (.linkFrame p f x) s = .next (s.sendLink p (.nak p v.rxNext)))) ∧
  (∀ (s : State) (p : PortNo) (f : Frame), s.running = true → s.active p = true → badCrc f = true →
    let t := s.sendLink p (.nak p (s.port p).rxNext)
    let n := (t.port p).crcFails + 1
    exec (.dataFrame p f) s = .next (if t.active p = true ∧ 16 * t.fld (F.oxlPortCfgCrcLimit p) ≤ n
      then (((t.setPort p { t.port p with crcFails := 0 }).raiseGlobal 0x4001 p).setFld (F.oxlPortStatState p) 6).countFld
        (F.oxlPortErrRetrains p) 1
      else t.setPort p { t.port p with crcFails := n })) ∧
  (∀ (s : State) (p : PortNo) (f : Frame), s.running = true → s.active p = true → badCrc f = false → bits f.header.toNat 15 2 = 1 →
    bits f.header.toNat 29 1 = 1 →
    exec (.idleFrame p f) s = exec (.frameAck p (BitVec.ofNat 12 (bits f.header.toNat 17 12))) s)) ∧
  ((∀ (s : State) (p : PortNo) (fseq : BitVec 12) (k : Nat), s.running = true → s.framed p = true →
    (s.port p).replay.findIdx? (·.fseq == fseq.toNat) = some k →
    let v := s.port p
    exec (.frameAck p fseq) s = .next (s.setPort p { v with replay := v.replay.drop (k + 1) }).pumpLinks ∧
    (∃ t, exec (.frameNak p fseq) s = .next t ∧ t.out = s.out ++ (v.replay.drop k).map (fun r => .frame p r.fseq r.frame) ∧
      t.link = s.link)) ∧
  (∀ (s : State) (p : PortNo) (fseq : BitVec 12), s.running = true → s.framed p = true →
    ∃ t, exec (.frameReplayTimeout p fseq) s = .next t ∧ t.link = s.link ∧
      t.out = s.out ++ ((s.port p).replay.filter (·.fseq == fseq.toNat)).map (fun r => .frame p r.fseq r.frame)) ∧
  (∀ (s : State) (p : PortNo), s.canonical → s.running = true → s.portState p = 6 →
    ∃ u : State, exec (.retrainDone p) s = .next u.pumpLinks ∧ u.portState p = 5 ∧ u.link = s.link ∧
      u.out = s.out ++ (s.port p).replay.map fun r => .frame p r.fseq r.frame) ∧
  (∀ (s : State) (p : PortNo) (vc : VcNo) (n : Nat), s.running = true → s.active p = true →
    exec (.linkCreditReturn p vc n) s =
      .next (s.setPort p { s.port p with credits := creditsBack vc.val n (s.port p).credits }).pumpLinks) ∧
  (∀ (vc n : Nat) (u : CreditUse) (l : List CreditUse), creditsBack vc n [] = [] ∧
    creditsBack vc n (u :: l) = (if u.vc ≠ vc then u :: creditsBack vc n l else if u.frames ≤ n then creditsBack vc (n - u.frames) l
      else { u with frames := u.frames - n } :: l)) ∧
  LinkActs)


/-- Training, one state at a time: DETECT (1) to EQUALISE (2) on signal, to CHECK (3) when equalised, to IDENTIFY (4) with at least 8
good lanes, the identity record sent; ACTIVE (5) by the neighbour's record, or with the port's CHECK against its peer E_LINK_ID
by a record of another; a record of another book's digest marks the port SPLIT; an ACTIVE port that loses lock retrains (6); a retrain or
an equalisation that takes too long, or a check with fewer lanes, goes DOWN (7), which a port leaves to DETECT.

Lanes: a data lane of an ACTIVE port fails, and with the understudy in reserve a swap begins and the neighbour is told; the
neighbour's command begins the same swap; when it is done the understudy stands for the lane and the ledger records it; a further
failure takes the port DOWN with E_LINK_DOWN. -/
def Obligations.TrainingRowsComplete : Prop :=
  ((∀ (s : State) (p : PortNo), s.running = true → s.portState p = 1 →
    exec (.portDetectPoll p true) s = .next (s.setFld (F.oxlPortStatState p) 2) ∧ exec (.portDetectPoll p false) s = .next s) ∧
  (∀ (s : State) (p : PortNo), s.running = true → s.portState p = 2 →
    exec (.equaliseDone p) s = .next (s.setFld (F.oxlPortStatState p) 3) ∧
    exec (.equaliseTimeout p) s = .next ((s.setFld (F.oxlPortStatState p) 7).reclaim p).pumpLinks) ∧
  (∀ (s : State) (p : PortNo) (good : BitVec 9), s.running = true → s.portState p = 3 →
    let was := s.fld (F.oxlPortStatSparedLane p)
    let t := s.setPort p { s.port p with lanes := good.toNat }
    (∀ l, chooseSpare good.toNat was = some l →
      let u := (t.setFld (F.oxlPortStatUnderstudy p) (b2n (l != 15))).setFld (F.oxlPortStatSparedLane p) l
      let u := if l = was then u else u.spared (.port p.val)
      let w := u.setFld (F.oxlPortStatState p) 4
      ∃ n r, r.bookDigest = BitVec.ofNat 64 w.digest ∧ r.node = BitVec.ofNat 16 w.node ∧ r.port = BitVec.ofNat 8 p ∧ r.stepping = 0x11 ∧
        exec (.laneCheckDone p good) s =
          .next (((w.setFree n).setPort p { w.port p with probed := true }).sendLink p (.identity p r))) ∧
    (chooseSpare good.toNat was = none →
      exec (.laneCheckDone p good) s = .next ((t.setFld (F.oxlPortStatState p) 7).reclaim p).pumpLinks)) ∧
  (∀ (s : State) (p : PortNo), s.running = true → s.active p = true →
    exec (.lossOfLock p) s = .next ((s.setFld (F.oxlPortStatState p) 6).countFld (F.oxlPortErrRetrains p) 1)) ∧
  (∀ (s : State) (p : PortNo), s.running = true → s.portState p = 6 →
    exec (.retrainTimeout p) s = .next (((s.setFld (F.oxlPortStatState p) 7).reclaim p).raiseGlobal 0x4002 p).pumpLinks) ∧
  (∀ (s : State) (p : PortNo), s.running = true → s.portState p = 7 →
    exec (.downTimer p) s = .next (s.setFld (F.oxlPortStatState p) 1)) ∧
  (∀ (s : State) (p : PortNo) (r : IdRecord), s.canonical → s.running = true → s.portState p = 4 → s.flag (F.oxlPortCfgCheck p) = false →
    s.node ≠ 65535 → r.bookDigest = 0 →
    let t := (s.setFld (F.oxlPortStatNeighbour p) r.node.toNat).setFld (F.oxlPortStatNeighbourPort p) r.port.toNat
    let u := (t.sendLink p (.probeEcho p r.probe)).setFld (F.oxlPortStatState p) 5
    exec (.identityRecord p r) s = .next (u.setPort p { u.port p with everActive := true }).pumpLinks) ∧
  (∀ (s : State) (p : PortNo) (r : IdRecord), s.canonical → s.running = true → s.portState p = 4 → s.flag (F.oxlPortCfgCheck p) = true →
    r.node.toNat ≠ s.fld (F.oxlPortCfgPeerNode p) ∨ r.port.toNat ≠ s.fld (F.oxlPortCfgPeerPort p) →
    let t := (s.setFld (F.oxlPortStatNeighbour p) r.node.toNat).setFld (F.oxlPortStatNeighbourPort p) r.port.toNat
    exec (.identityRecord p r) s = .next ((t.sendLink p (.probeEcho p r.probe)).raiseGlobal 0x4003 p)) ∧
  (∀ (s : State) (p : PortNo) (r : IdRecord), s.canonical → s.running = true → s.portState p = 5 → r.bookDigest.toNat ≠ 0 → s.digest ≠ 0 →
    r.bookDigest.toNat ≠ s.digest →
    let t := (s.setFld (F.oxlPortStatNeighbour p) r.node.toNat).setFld (F.oxlPortStatNeighbourPort p) r.port.toNat
    exec (.identityRecord p r) s =
      .next (((t.sendLink p (.probeEcho p r.probe)).setFld (F.oxlPortStatSplit p) 1).raiseGlobal Ev.bookSplit p)) ∧
  LinkActs) ∧
  ((∀ (s : State) (p : PortNo) (lane : LaneNo), s.running = true → s.active p = true → s.flag (F.oxlPortStatUnderstudy p) = false →
    (s.port p).swap = none → lane.val < 8 →
    let t := s.setPort p { s.port p with lanes := setBits (s.port p).lanes lane 1 0 }
    exec (.laneFault p lane) s = .next (if bits (s.port p).lanes 8 1 = 1
      then (t.setPort p { t.port p with swap := some lane.val }).sendLink p (.laneSwap p lane) else (((t.setFld (F.oxlPortStatState p) 7).reclaim p).raiseGlobal 0x4002 p).pumpLinks) ∧
    exec (.laneSwapCommand p lane) s = .next ((s.setPort p { s.port p with swap := some lane.val }).sendLink p (.laneSwap p lane))) ∧
  (∀ (s : State) (p : PortNo) (lane : LaneNo), s.running = true → s.active p = true → s.flag (F.oxlPortStatUnderstudy p) = true →
    lane.val ≠ s.fld (F.oxlPortStatSparedLane p) → (s.port p).swap = none →
    let t := s.setPort p { s.port p with lanes := setBits (s.port p).lanes lane 1 0 }
    exec (.laneFault p lane) s = .next (((t.setFld (F.oxlPortStatState p) 7).reclaim p).raiseGlobal 0x4002 p).pumpLinks) ∧
  (∀ (s : State) (p : PortNo) (lane : Nat), s.running = true → (s.port p).swap = some lane →
    let t := (s.setPort p { s.port p with swap := none }).setFld (F.oxlPortStatUnderstudy p) 1
    exec (.laneSwapDone p) s = .next ((t.setFld (F.oxlPortStatSparedLane p) lane).spared (.port p.val))))


/-- A packet for this node is delivered; one for a node that no table leads to, or that comes over a port with no hops left, is
discarded with E_ROUTE; any other goes to the ACTIVE port of its table with the most free credits, and waits while the credits do not
suffice. A relayed packet loses one from HOPS, its own starts with HOPS_INIT on the channel of its KIND. A packet that waits ESC_WAIT
for credits takes the escape channel. A message's one packet, received over a port, is acknowledged, its credits go back, and the
message is whole. -/
def Obligations.PacketRowsComplete : Prop :=
  (∀ (s : State) (k : Packet), s.running = true →
    let x : Queued := { origin := none, packet := { k with route := { k.route with
      vc := ownChannel k.route, hops := BitVec.ofNat 8 (s.fld F.oxlCtrlHopsInit) } } }
    exec (.packetRoute .own k) s = .next (s.route x) ∧
    (k.route.dst.toNat = s.node → k.route.kind ≠ 0 → exec (.packetRoute .own k) s = .next s) ∧
    (k.route.dst.toNat ≠ s.node → 4096 ≤ k.route.dst.toNat → exec (.packetRoute .own k) s = .next (s.raiseGlobal 0x4004 0)) ∧
    (∀ (p : PortNo) (k' : Packet), s.canonical → s.hop none x.packet = .to p.val k' → s.canSend p true k' = true →
      ∃ t, exec (.packetRoute .own k) s = .next t ∧ t.out = s.out ++ [.packet p k'] ∧
        ((t.port p).replay.drop (s.port p).replay.length).map (·.frame.payload) = framePayloads k')) ∧
  (∀ (s u : State) (q : PortNo) (k : Packet), s.canonical → s.running = true → s.flag F.oxlCtrlEn = true → k.route.dst.toNat = s.node →
    k.route.kind = 0 → k.route.msgLast = true → k.route.msgIdx = 0 → (∀ x ∈ s.link.assembly, sameMessage k x = false) →
    s.acceptSeq k.route.src.toNat k.route.pseq.toNat = some u →
    ∃ t, exec (.packetRoute (.port q) k) s = .next t ∧ t.link.messages = s.link.messages ++ [(k.route.src.toNat, k.body)] ∧
      t.out = s.out ++ [.creditReturn q k.route.vc.toNat (frameCount k),
        .e2eAck k.route.src.toNat (u.peerPair k.route.src.toNat).accepted .done]) ∧
  (∀ (s : State) (p : PortNo) (k : Packet), s.running = true → s.flag F.oxlCtrlEn = true →
    exec (.packetRoute (.port p) k) s =
      .next ((s.setPort p { s.port p with rxPackets := (s.port p).rxPackets.erase k }).route { origin := some p.val, packet := k })) ∧
  LinkActs ∧
  (∀ (s : State) (x : Queued) (p : Nat) (k : Packet), s.hop x.origin x.packet = .to p k →
    (s.canSend p x.origin.isNone k = true → s.route x = s.transmit p x k) ∧
    (s.active p = true → s.freeCredits p x.origin.isNone k < creditNeed k →
      s.route x = s.setLink { s.link with waiting := s.link.waiting ++ [x] })) ∧
  (∀ (s : State) (k : Packet) (x : Queued), s.running = true →
    (s.link.waiting.find? fun x => x.origin == none && samePacket x.packet k && decide (2 ≤ x.packet.route.vc.toNat)) = some x →
    exec (.escWaitExpiry .own k) s =
      .next ((s.setLink { s.link with waiting := s.link.waiting.erase x }).route { x with packet := onEscape x.packet })) ∧
  (∀ (s : State) (k : Packet) (x : Queued), s.canonical → s.running = true →
    (s.link.waiting.find? fun x => x.origin == none && samePacket x.packet k && decide (2 ≤ x.packet.route.vc.toNat)) = some x →
    k.route.dst.toNat ≠ s.node → k.route.dst.toNat < 4096 → s.flag (F.oxlRteEscValid k.route.dst.toNat) = true →
    let p := s.fld (F.oxlRteEscPort k.route.dst.toNat)
    let e := onEscape x.packet
    let k' : Packet := { e with route := { e.route with cls := e.route.cls || s.flag (F.oxlPortCfgDateline p) } }
    s.canSend p true k' = true → ∃ t, exec (.escWaitExpiry .own k) s = .next t ∧ t.out = s.out ++ [.packet p k'] ∧
      t.link.waiting = s.link.waiting.erase x)

/-- The port that a packet on a data channel takes: ACTIVE, in the table's mask, and no ACTIVE port of the mask has more free
credits. -/
def Obligations.BestPortHasMostCredits : Prop :=
  ∀ (s : State) (mask : Nat) (own : Bool) (k : Packet) (p : Nat), s.bestPort mask own k = some p →
    p < 16 ∧ bits mask p 1 = 1 ∧ s.active p = true ∧
    ∀ q < 16, bits mask q 1 = 1 → s.active q = true →
      s.freeCredits q own k ≤ s.freeCredits p own k ∧ (q < p → s.freeCredits q own k < s.freeCredits p own k)

/-- Numbers of a pair accepted ahead of a gap: above the lowest not yet accepted, and within half the number space of it. -/
def Sys2Proof.Machine.Pair.ordered (v : Pair) : Prop := ∀ n ∈ v.ahead, v.accepted < n ∧ n < v.accepted + 2 ^ 31

/-- Numbers between two nodes: a packet whose number has been accepted is never accepted again, what is accepted never shrinks, and
the numbers accepted ahead stay ordered. -/
def Obligations.PacketAcceptedOnce : Prop :=
  (∀ n : Nat, (State.reset.peerPair n).ordered) ∧
  ∀ (s t : State) (src pseq : Nat), s.canonical → pseq < 2 ^ 32 → (s.peerPair src).ordered → s.acceptSeq src pseq = some t →
    t.acceptSeq src pseq = none ∧ (s.peerPair src).accepted ≤ (t.peerPair src).accepted ∧ (t.peerPair src).ordered

/-! ## Accesses between devices (R235, R319, R320, R373) -/

/-- A PEER write accepted by its number is written and acknowledged when it lies in the partition's memory window and in no read-only
range, and else refused with the acknowledgement; a read is answered with the bytes, or refused. A duplicate changes nothing.

A response's bytes land in the receive space of the instruction that waits for its tag, and with the last one the instruction goes
on; a refusal ends it with E_PEER_RANGE; a running-order entry's response lands the same way. An acknowledgement counts packets below
its number as acknowledged, and what waited for it goes on. An access unanswered for PEER_TIMEOUT ends with E_PEER_LOST. -/
def Obligations.PeerRowsComplete : Prop :=
  ((∀ (s t : State) (src : Word16) (pseq : Word32) (p : PartNo) (a : PeerAccess) (data : Bytes), s.running = true →
    s.acceptSeq src.toNat pseq.toNat = some t →
    let ok := t.peerAllows a.target a.addr data.length && !t.readOnly tStacked a.addr data.length
    let u := t.writePart a.target tStacked 0 0 (cellsOf a.addr data)
    exec (.peerWrite src pseq p a data) s =
      .next (if ok = true then u.emit (.e2eAck src.toNat (u.peerPair src.toNat).accepted .done)
        else t.emit (.e2eAck src.toNat (t.peerPair src.toNat).accepted .outOfRange))) ∧
  (∀ (s t : State) (src : Word16) (pseq : Word32) (p : PartNo) (a : PeerAccess) (n : Nat), s.running = true →
    s.acceptSeq src.toNat pseq.toNat = some t →
    let u := t.emit (.e2eAck src.toNat (t.peerPair src.toNat).accepted .done)
    (u.peerAllows a.target a.addr n = true → u.rangeBad tStacked 0 a.addr n = false →
      exec (.peerReadRequest src pseq p a n) s = .next ((u.touch 0 false ((List.range n).map (a.addr + ·))).emit
        (.peerResponse src.toNat pseq.toNat .done (u.tierBytes tStacked 0 a.addr n)))) ∧
    (u.peerAllows a.target a.addr n = false →
      exec (.peerReadRequest src pseq p a n) s = .next (u.emit (.peerResponse src.toNat pseq.toNat .outOfRange [])))) ∧
  (∀ (s : State) (src : Word16) (pseq : Word32) (p : PartNo) (a : PeerAccess) (data : Bytes) (n : Nat),
    s.acceptSeq src.toNat pseq.toNat = none →
    exec (.peerWrite src pseq p a data) s = .next s ∧ exec (.peerReadRequest src pseq p a n) s = .next s)) ∧
  ((∀ (s : State) (src : Word16) (tag : Word32) (data : Bytes) (i : Inst) (r : PeerRead), s.running = true →
    s.readerOf src.toNat tag.toNat = some (i, r) →
    let t := s.writeTier tPeer r.rank r.addr (data.take r.len)
    let i' : Inst := { i with reads := i.reads.filter fun x => x.tag != tag.toNat }
    exec (.peerReadResponse src tag .done data) s = .next (if i'.reads = [] ∧ i'.wait = .peer then t.launch i' else t.setInst i').follow ∧
    exec (.peerReadResponse src tag .outOfRange data) s = .next (s.endEarly i Ev.peerRange).follow ∧
    exec (.peerReadResponse src tag .poisoned data) s = .next (s.endEarly i Ev.eccUncorr).follow) ∧
  (∀ (s : State) (src : Word16) (tag : Word32) (data : Bytes) (q k : Nat) (e : RunEntry) (r : PeerRead), s.running = true →
    s.readerOf src.toNat tag.toNat = none → s.entryReader src.toNat tag.toNat = some (q, k, e, r) → e.dstTier ≠ tPeer →
    let rest := e.reads.filter fun y => !(y.tag == r.tag && y.node == r.node)
    exec (.peerReadResponse src tag .done data) s =
      .next ((s.writeTier tPeer r.rank r.addr (data.take r.len)).setEntry q k { e with reads := rest }).follow ∧
    exec (.peerReadResponse src tag .outOfRange data) s = .next (s.setEntry q k { e with reads := [], bad := Ev.peerRange }).follow ∧
    exec (.peerReadResponse src tag .poisoned data) s = .next (s.setEntry q k { e with reads := [], bad := Ev.eccUncorr }).follow) ∧
  (∀ (s : State) (src : Word16) (pseq : Word32), s.canonical → s.running = true →
    let v := s.peerPair src.toNat
    let acked := max v.acked (v.ackedTo pseq.toNat)
    let go := v.backlog.takeWhile fun b => decide (b.1 < acked + 1024)
    ∃ u : State, exec (.e2eAck src pseq .done) s = .next u.follow ∧
      u.peerPair src.toNat = { v with acked := acked, backlog := v.backlog.drop go.length } ∧ u.out = s.out ++ go.map (·.2.2) ∧
      u.insts = s.insts) ∧
  (∀ (s : State) (q : QueueNo) (index : Word32) (i : Inst), s.running = true → s.inst? q.val index.toNat = some i → i.reads ≠ [] →
    i.issueCue + 1000 * (if s.fld F.oxlCtrlPeerTimeout = 0 then 10 else s.fld F.oxlCtrlPeerTimeout) ≤ s.time.cue →
    exec (.peerTimeout q index) s = .next (s.endEarly i Ev.peerLost).settle))


/-- A PEER write that is accepted leaves the bytes it carries in stacked memory, and no other byte of any tier changes. -/
def Obligations.PeerWriteLandsWhere : Prop :=
  ∀ (s t : State) (src : Word16) (pseq : Word32) (p : PartNo) (a : PeerAccess) (data : Bytes), s.canonical → s.running = true →
    s.acceptSeq src.toNat pseq.toNat = some t → t.peerAllows a.target a.addr data.length = true →
    t.readOnly tStacked a.addr data.length = false →
    ∃ u : State, exec (.peerWrite src pseq p a data) s = .next u ∧ u.tierBytes tStacked 0 a.addr data.length = data ∧
      (∀ b, b < a.addr ∨ a.addr + data.length ≤ b → u.tierByte tStacked 0 b = s.tierByte tStacked 0 b) ∧
      ∀ tier who b, tier ∈ [tLocal, tCache, tPeer, tHost] → u.tierByte tier who b = s.tierByte tier who b

/-! ## The cue (R43, R325 to R327, R356) -/

/-- A microsecond on a device of its own: the cue is one more, modulo 2^64, while it is not held; on a root with EXT a CUE_IN edge
does this and a microsecond does nothing. Nothing of memory or of what is in flight changes.

A count is never lower after a cue edge that does not wrap. -/
def Obligations.CueRowsComplete : Prop :=
  (∀ (s : State),
    (s.fromPin = false → exec .cueInEdge s = .next s) ∧ (s.fromPin = true → exec .cueTick s = .next s) ∧
    (∀ row, (row = Instr.cueTick ∧ s.fromPin = false) ∨ (row = Instr.cueInEdge ∧ s.fromPin = true) →
      ∃ t, exec row s = .next t ∧ t.time.cue = (if s.time.holding = true then s.time.cue else (s.time.cue + 1) % 2 ^ 64) ∧
        t.mem = s.mem ∧ t.insts = s.insts ∧ t.queues = s.queues ∧ t.parts = s.parts)) ∧
  (∀ (s t : State) (row : Instr), row ∈ [Instr.cueTick, .cueInEdge] → s.time.cue < 2 ^ 64 - 1 → exec row s = .next t →
    s.time.cue ≤ t.time.cue)


/-- A BEACON of another digest marks the port and raises E_BOOK_SPLIT, and one of the same digest changes nothing; at a cue that is a
multiple of 2^20 a BEACON with the digest, the node and the cue leaves on every ACTIVE port.

A report from the cue source locks an unlocked device: to the parent's count while no partition is enabled or the parent is ahead,
else the count is held; a device that is not root takes the depth one below its parent's and steers a locked edge by at most 1 ns.
16 cues without a report lead to the backup, to root or to HOLDOVER with E_CUE_LOST. A probe is echoed, and an echo gives the one-way
delay; a remeasurement probes the parent and the backup. -/
def Obligations.CueLinkRowsComplete : Prop :=
  ((∀ (s : State) (p : PortNo) (h : CollHeader), s.running = true → s.active p = true →
    (h.bookDigest.toNat ≠ s.digest → exec (.beacon p h) s = .next ((s.setFld (F.oxlPortStatSplit p) 1).raiseGlobal Ev.bookSplit p)) ∧
    (h.bookDigest.toNat = s.digest → exec (.beacon p h) s = .next s)) ∧
  (∀ s : State, s.running = true → s.time.cue % 2 ^ 20 = 0 →
    ∃ t, exec .beaconSend s = .next t ∧ t.out = s.out ++ ((List.range 16).filter s.active).map fun p => .beacon p (collBytes s.beaconHeader 8)) ∧
  (∀ s : State, s.beaconHeader.bookDigest = BitVec.ofNat 64 s.digest ∧ s.beaconHeader.srcRank = BitVec.ofNat 16 s.node ∧
    s.beaconHeader.sendCue = BitVec.ofNat 64 s.time.cue)) ∧
  ((∀ (s : State) (p : PortNo) (r : CueReport), s.running = true → s.active p = true → s.isRoot = false → s.cueSource p = true →
    let parent := s.flag F.oxlCueCfgParentEn && s.fld F.oxlCueCfgParent == p.val
    let t := (s.setTime { s.time with silence := 0 }).setFld F.oxlCueStatOnBackup (b2n !parent)
    let t := (t.setFld F.oxlCueStatDepth (min 31 (r.depth + 1))).showDelay p
    (t.fld F.oxlCueStatMode = 0 → (∀ k < 16, t.flag (F.parCtrlEn k) = false) →
      exec (.cueReport p r) s = .next ((t.setTime { t.time with cue := r.count.toNat, holding := false }).setFld F.oxlCueStatMode 1)) ∧
    (t.fld F.oxlCueStatMode = 0 → (∃ k < 16, t.flag (F.parCtrlEn k) = true) → r.count.toNat < t.time.cue →
      exec (.cueReport p r) s = .next (t.setTime { t.time with holding := true })) ∧
    (t.fld F.oxlCueStatMode ≠ 0 → ∃ u : State, exec (.cueReport p r) s = .next u ∧ u.time.cue = s.time.cue ∧
      u.time.slew - s.time.slew ≤ 64 ∧ s.time.slew - u.time.slew ≤ 64)) ∧
  (∀ s : State, s.running = true → s.fld F.oxlCueStatMode = 1 → 16 ≤ s.time.silence →
    (s.flag F.oxlCueStatOnBackup = false → s.flag F.oxlCueCfgBackupEn = true →
      exec .parentSilent s = .next ((s.setFld F.oxlCueStatOnBackup 1).setTime { s.time with silence := 0 })) ∧
    (s.flag F.oxlCueCfgBackupEn = false → s.flag F.oxlCueCfgBackupRoot = true → exec .parentSilent s =
      .next ((((s.setFld F.oxlCueStatMode 3).setFld F.oxlCueStatDepth 0).setFld F.oxlCueStatOnBackup 0).raiseGlobal 0x4010)) ∧
    (s.flag F.oxlCueCfgBackupEn = false → s.flag F.oxlCueCfgBackupRoot = false →
      exec .parentSilent s = .next ((s.setFld F.oxlCueStatMode 2).raiseGlobal 0x4010))) ∧
  (∀ (s : State) (p : PortNo) (stamp : Word64), s.running = true → s.framed p = true →
    exec (.rttProbe p (.request stamp)) s = .next (s.sendLink p (.probeEcho p stamp))) ∧
  (∀ (s : State) (p : PortNo) (rt ta : Nat), s.running = true → s.framed p = true → (s.port p).probed = true → s.cueSource p = false →
    exec (.rttProbe p (.echo rt ta)) s = .next (s.setPort p { s.port p with probed := false, delay := (rt - ta) / 2 })) ∧
  (∀ s : State, s.running = true → s.flag F.oxlCueCfgParentEn = true → s.flag F.oxlCueCfgBackupEn = false →
    s.active (s.fld F.oxlCueCfgParent) = true →
    let p := s.fld F.oxlCueCfgParent
    let d := s.drawNat
    exec .delayRemeasure s =
      .next ((d.2.setPort p { d.2.port p with probed := true }).sendLink p (.probe p (BitVec.ofNat 64 d.1)))))

/-! ## The Prompter (R291, R336 to R346) -/

/-- What a response of the front end leaves (R338, R339): the mailbox reads DONE and neither OUTSTANDING nor CLAIMED, its page has the
command's TAG and the status, and its vector is raised, unless it is the sideband's. -/
def Sys2Proof.Machine.Answered (s t : State) (b status : Nat) : Prop :=
  t.flag (F.pmtMbxStatDone b) = true ∧ t.flag (F.pmtMbxStatOutstanding b) = false ∧ t.flag (F.pmtMbxStatClaimed b) = false ∧
    (t.box b).command = 0 ∧ t.pageNat b 0x42 2 = status ∧ t.pageBytes b 0x40 2 = s.pageBytes b 2 2 ∧
    (b < 17 → t.out = s.out ++ if s.boxFn b ∈ s.host.msixOff then [] else [.msix (s.boxFn b) (s.fld (F.pmtMbxCtrlVector b))])

/-- The three responses: a bare status, BUSY with a time, and OK with RESULT and a payload. -/
def Sys2Proof.Machine.ResponsesAct : Prop :=
  ∀ (s : State) (b : Nat), s.canonical → b < 18 →
    (∀ status < 65536, Answered s (s.respond b status) b status) ∧
    (∀ retry < 2 ^ 32, Answered s (s.respondBusy b retry) b 1 ∧ (s.respondBusy b retry).pageNat b 0x44 4 = retry) ∧
    (∀ (result : Nat) (payload : Bytes), result < 2 ^ 64 → payload.length < 2 ^ 32 →
      let t := s.respondOk b result payload
      Answered s t b 0 ∧ t.pageNat b 0x48 8 = result ∧ t.pageNat b 4 4 = payload.length ∧ t.pageBytes b 0x80 payload.length = payload)

/-- GO: the front end takes the command of an idle mailbox while the Prompter runs, answers HELD while it is held and BUSY 255 while it
is reset or boots, and a GO while a command is outstanding only sets OVERRUN. A command unclaimed for 10 ms is answered BUSY. -/
def Obligations.MailboxRowsComplete : Prop :=
  (∀ (s : State) (box : Mailbox), s.running = true → box = .sideband ∨ (s.host.pcieUp = true ∧ s.boxFn (boxNo box) ∉ s.host.d3hot) →
    let b := boxNo box
    (s.flag (F.pmtMbxStatOutstanding b) = true → exec (.mailboxGo box) s = .next (s.setFld (F.pmtMbxStatOverrun b) 1)) ∧
    (s.flag (F.pmtMbxStatOutstanding b) = false → s.prom.cores = .running → exec (.mailboxGo box) s =
      .next ((s.setFld (F.pmtMbxStatOutstanding b) 1).setBox b { s.box b with command := 0, goCue := s.time.cue })) ∧
    (s.flag (F.pmtMbxStatOutstanding b) = false → s.prom.cores = .held → exec (.mailboxGo box) s = .next (s.respond b stHeld)) ∧
    (s.flag (F.pmtMbxStatOutstanding b) = false → s.prom.cores ∈ [.booting, .reset, .restarting] →
      exec (.mailboxGo box) s = .next (s.respondBusy b 255))) ∧
  (∀ (s : State) (box : Mailbox), s.running = true → s.flag (F.pmtMbxStatOutstanding (boxNo box)) = true →
    s.flag (F.pmtMbxStatClaimed (boxNo box)) = false → (s.box (boxNo box)).goCue + 10000 ≤ s.time.cue →
    ∃ wait < 2 ^ 32, exec (.mailboxTimeout box) s = .next ((s.setFree (s.free + 1)).respondBusy (boxNo box) wait)) ∧
  ResponsesAct

/-- The rows of the Prompter's commands, with what each does to a command that it has claimed. -/
def Sys2Proof.Machine.serviceRows (box : Mailbox) : List (Instr × Nat × (State → Nat → State)) :=
  [(.ident box, 1, State.doIdent), (.telemCfg box, 2, State.doTelemCfg), (.ledgerRead box, 3, State.doLedgerRead),
    (.sharesSet box, 4, State.doSharesSet), (.channelReport box, 5, State.doChannelReport), (.portMargin box, 6, State.doPortMargin),
    (.imageWrite box, 7, State.doImageWrite), (.prompterLog box, 8, State.doLog)]

/-- Each service row claims the command that is next in turn, and completes the one it has claimed; a claimed command whose opcode is
no command's is answered INVALID, and one that the mailbox may not use DENIED. IMAGE_WRITE first makes the inactive copy invalid.

What the claimed commands do: IDENT reports serial, part, stepping, image version and SEQ; TELEM_CFG sets the page and its period
within 1 to 1,000 ms and answers INVALID outside; SHARES_SET on a partition that is not enabled writes PAR.SHARES and PAR.PRIO and
starts the configuration check again, on an enabled one stages and commits them under the lock, answers BUSY while the lock is held and
INVALID when the values are not legal; the reports refuse a channel or a port that does not exist; LEDGER_READ gives a slot's bytes and
SEQ, and refuses a slot that does not exist; IMAGE_WRITE writes the inactive copy with the active SEQ plus 1; PROMPTER_LOG gives the log.
A response in the sideband mailbox of more than 128 bytes comes in pieces of 128 at ARG1. A report's bytes and a RESULT that no rule
states are free: log entry 35. -/
def Obligations.ServiceRowsComplete : Prop :=
  (∀ (s : State) (box : Mailbox) (row : Instr) (op : Nat) (f : State → Nat → State), (row, op, f) ∈ serviceRows box → s.running = true →
    s.prom.cores = .running →
    let b := boxNo box
    (s.flag (F.pmtMbxStatClaimed b) = true → (s.box b).command = op → mailboxAllows op b = true → exec row s = .next (f s b)) ∧
    (s.flag (F.pmtMbxStatClaimed b) = true → (s.box b).command = op → mailboxAllows op b = false → exec row s = .next (s.respond b stDenied)) ∧
    (s.flag (F.pmtMbxStatClaimed b) = true → mailboxOp (s.box b).command = false → exec row s = .next (s.respond b stInvalid)) ∧
    (s.flag (F.pmtMbxStatClaimed b) = false → s.nextBox = some b → s.prom.repairs = [] → s.boxOp b = op →
      let t := (s.setFld (F.pmtMbxStatClaimed b) 1).setBox b { s.box b with command := op }
      let t := t.setProm { t.prom with turn := (b + 1) % 18 }
      exec row s = .next (if op = 7 ∧ b = 16 then t.setImage (1 - s.prom.activeImage) { s.image (1 - s.prom.activeImage) with valid := false }
        else t))) ∧
  ResponsesAct ∧
  (∀ (s : State) (b result : Nat) (full : Bytes),
    (b ≠ 17 ∨ full.length ≤ 128 → s.answer b result full = s.respondOk b result (full.take 3968)) ∧
    (b = 17 → 128 < full.length → s.answer b result full =
      if s.arg1 b % 128 ≠ 0 ∨ full.length ≤ s.arg1 b then s.respond b stInvalid
      else s.respondOk b result (slice full (s.arg1 b) 128))) ∧
  (∀ (s : State) (b : Nat), ∃ n result,
    let m := s.image s.prom.activeImage
    s.doIdent b = (s.setFree n).answer b result
      (Config.report 1 [s.serial, if s.part = .l16 then 0 else 1, (s.word .hubId).toNat, m.version, m.seq])) ∧
  (∀ (s : State) (b : Nat), s.arg0 b < 32 →
    let r := s.slot (s.arg0 b)
    (b ≠ 17 → 258128 ≤ s.bufLen b → s.bufAt b % 64 = 0 → s.doLedgerRead b =
      (s.writeHost (s.boxFn b) (s.bufAt b) (r.bytes.take (s.bufLen b))).respondOk b r.seq []) ∧
    (b = 17 → s.doLedgerRead b = s.answer b r.seq r.bytes)) ∧
  (∀ (s : State) (b : Nat), s.arg0 b < 384 → ∃ n result v,
    s.doChannelReport b = (s.setFree n).answer b result (Config.report 5 [s.arg0 b, v])) ∧
  (∀ (s : State) (b : Nat), s.arg0 b < 16 → ∃ n result v,
    s.doPortMargin b = (s.setFree n).answer b result (Config.report 6 [s.arg0 b, v])) ∧
  (∀ (s : State) (b : Nat), s.bufLen b ≤ 16776960 → s.bufAt b % 64 = 0 → ∃ n result,
    let body := s.readHost (s.boxFn b) (s.bufAt b) (s.bufLen b)
    s.doImageWrite b = ((s.setFree n).setImage (1 - s.prom.activeImage)
      { valid := Config.imageSigned body, seq := ((s.image s.prom.activeImage).seq + 1) % 2 ^ 32
        version := Config.imageVersion body, body := body }).respondOk b result []) ∧
  (∀ (s : State) (b : Nat), ∃ n result,
    let full := Config.report 8 (s.prom.log.flatMap fun e => [e.cue, e.code, e.unit, e.detail])
    (b ≠ 17 → s.bufAt b % 64 = 0 →
      s.doLog b = ((s.setFree n).writeHost (s.boxFn b) (s.bufAt b) (full.take (s.bufLen b))).respondOk b result []) ∧
    (b = 17 → s.doLog b = (s.setFree n).answer b result full)) ∧
  ((∀ (s : State) (b : Nat), ¬(s.arg0 b % 4096 = 0 ∧ 1 ≤ s.arg1 b ∧ s.arg1 b ≤ 1000) → s.doTelemCfg b = s.respond b stInvalid) ∧
  (∀ (s : State) (b : Nat), s.arg0 b % 4096 = 0 → 1 ≤ s.arg1 b → s.arg1 b ≤ 1000 → ∃ n result, s.doTelemCfg b =
    ((s.setFree n).setBox b { s.box b with telemAddr := s.arg0 b, telemPeriod := s.arg1 b }).respondOk b result []) ∧
  (∀ (s : State) (b : Nat), s.arg0 b < 16 → s.flag (F.parCtrlEn (s.arg0 b)) = false →
    let sh := (Reg.parShares (s.arg0 b)).held (s.arg1 b)
    let pr := (Reg.parPrio (s.arg0 b)).held (s.arg1 b / 2 ^ 32)
    ((sharesOk sh && prioOk pr) = false → s.doSharesSet b = s.respond b stInvalid) ∧
    ((sharesOk sh && prioOk pr) = true → s.doSharesSet b =
      ((s.drawNat.2.setWord (.parShares (s.arg0 b)) sh).setWord (.parPrio (s.arg0 b)) pr).configChanged.respondOk b
        (s.drawNat.1 % 2 ^ 64) [])) ∧
  (∀ (s : State) (b : Nat), s.arg0 b < 16 → s.flag (F.parCtrlEn (s.arg0 b)) = true → s.flag (F.parLockHeld (s.arg0 b)) = true →
    s.doSharesSet b = s.respondBusy b (s.fld (F.parLockLeaseLeft (s.arg0 b)))) ∧
  (∀ (s : State) (b : Nat), s.canonical → s.arg0 b < 16 → s.flag (F.parCtrlEn (s.arg0 b)) = true →
    s.flag (F.parLockHeld (s.arg0 b)) = false →
    let p := s.arg0 b
    let sh := (Reg.parShares p).held (s.arg1 b)
    let pr := (Reg.parPrio p).held (s.arg1 b / 2 ^ 32)
    ∃ (u : State) (result : Nat), u.flag (F.parLockHeld p) = false ∧ u.fld (F.parLockOwner p) = 31 ∧
      (sharesOk sh = true → prioOk pr = true → u.word (.parShares p) = sh ∧ u.word (.parPrio p) = pr ∧ u.flag (F.parLockRejected p) = false ∧
        s.doSharesSet b = u.respondOk b result []) ∧
      (sharesOk sh = false ∨ prioOk pr = false → u.word (.parShares p) = s.word (.parShares p) ∧ u.word (.parPrio p) = s.word (.parPrio p) ∧
        s.doSharesSet b = u.respond b stInvalid)) ∧
  (∀ (s : State) (b : Nat), (384 ≤ s.arg0 b → s.doChannelReport b = s.respond b stInvalid) ∧
    (16 ≤ s.arg0 b → s.doPortMargin b = s.respond b stInvalid) ∧ (32 ≤ s.arg0 b → s.doLedgerRead b = s.respond b stInvalid)))


/-- A telemetry page is written and no longer stale; pages two periods old are marked stale; a kick by the Prompter with its key
restarts the watchdog and any other has no effect; the watchdog that runs out counts a reset of the last hour in SHP.WDOG.RESETS,
answers every claimed command, and holds the cores with the fourth in an hour; the cores are released after 5 ms; the boot ROM runs the valid image with the higher SEQ, or the Prompter is held. The oldest
repair is done first. -/
def Obligations.PrompterRowsComplete : Prop :=
  (∀ (s : State) (box : Mailbox) (all : Bool), s.canonical → s.running = true → s.prom.cores = .running → (s.box (boxNo box)).telemPeriod ≠ 0 →
    ∃ t, exec (.telemWrite box all) s = .next t ∧ (t.box (boxNo box)).telemSeq = (s.box (boxNo box)).telemSeq + 1 ∧
      (t.box (boxNo box)).pageStale = !all ∧
      (boxNo box < 17 → t.flag (F.pmtTelemStatStale (boxNo box)) = false ∧ t.fld (F.pmtTelemStatAgeMs (boxNo box)) = 0)) ∧
  (∀ s : State, s.running = true → exec .telemStale s = .next (s.over (List.range 17) fun s b =>
    if (s.box b).telemPeriod ≠ 0 ∧ 2 * (s.box b).telemPeriod ≤ s.fld (F.pmtTelemStatAgeMs b) then s.setFld (F.pmtTelemStatStale b) 1
    else s)) ∧
  (∀ (s : State) (who : Requester) (v : Word32), s.running = true →
    (who = .prompter → v.toNat % 256 = 0x5A → s.prom.cores = .running →
      exec (.pmtKick who v) s = .next (s.setProm { s.prom with lastKick := s.time.cue })) ∧
    (who ≠ .prompter ∨ v.toNat % 256 ≠ 0x5A → exec (.pmtKick who v) s = .next s)) ∧
  (∀ s : State, s.running = true → s.prom.cores = .running → s.prom.lastKick + 1000 * s.fld F.shpWdogTimeout ≤ s.time.cue →
    ∃ t, exec .watchdogExpiry s = .next t ∧ t.prom.cores = (if 3 ≤ s.recentResets then .held else .reset) ∧
      t.prom.resets = s.prom.resets ++ [s.time.cue] ∧
      (s.canonical → t.fld F.shpWdogResets = min 255 t.recentResets ∧ (3 ≤ s.recentResets → t.flag F.shpWdogHeld = true) ∧
        ∀ b < 18, t.flag (F.pmtMbxStatClaimed b) = false ∧ (s.flag (F.pmtMbxStatClaimed b) = true → t.flag (F.pmtMbxStatDone b) = true))) ∧
  (∀ s : State, s.running = true → s.prom.cores = .reset → s.prom.resets.getLastD 0 + 5000 ≤ s.time.cue →
    exec .prompterResetRelease s = .next (s.setProm { s.prom with cores := .restarting })) ∧
  (∀ s : State, s.running = true → s.prom.cores = .booting →
    (∀ k, s.bestImage = some k → exec .prompterBootDone s =
      .next (s.setProm { s.prom with activeImage := k, resident := true, cores := .running, lastKick := s.time.cue })) ∧
    (s.bestImage = none → exec .prompterBootDone s = .next ((s.setProm { s.prom with cores := .held }).setFld F.shpWdogHeld 1))) ∧
  (∀ s : State, s.running = true → s.prom.cores = .restarting → s.prom.resident = true →
    exec .prompterBootDone s = .next (s.setProm { s.prom with cores := .running, lastKick := s.time.cue })) ∧
  (∀ (s : State) (u : RepairUnit) (l : List RepairUnit), s.running = true → s.prom.cores = .running → s.prom.repairs = u :: l →
    ∃ t e, exec .repairWork s = .next t ∧ t.prom = { s.prom with repairs := l, log := s.prom.log ++ [e] } ∧ e.cue = s.time.cue ∧
      e.unit = u.number)

/-! ## The Shepherd (R282 to R298) -/

/-- What the Shepherd's shared operations do (R282, R284, R293, R294, R304, R307), in every canonical state. An event enters the history
at its cue, and the hub's last events while the PCIe link is up or nothing has enabled the event ring yet. E_SENSOR is such an event,
after which STATE may read DEGRADED (free: log entry 45). An immediate stop of a device that runs writes SHP.CAUSE and STATE, takes the
link down and begins the Curtain save, a record of kind 3 with the cause; before saves are enabled it releases HEALTHY_N and the SEQ
outputs instead. An orderly stop withdraws first. -/
def Sys2Proof.Machine.ShepherdActs : Prop :=
  (∀ (s : State) (code unit : Nat), let t := s.shepEvent code unit
    (∃ d, t.ledg.shadow.history.getLast? = some ⟨s.time.cue, code, unit, d⟩) ∧
      (s.host.pcieUp = true ∨ s.host.evtEver = false → ∃ d, t.ledg.hubEvents.getLast? = some ⟨s.time.cue, code, unit, d⟩)) ∧
  (∀ (s : State) (unit : Nat), let t := s.shepEvent 0x7005 unit
    ∃ n d, s.sensorEvent unit = if t.fld F.shpStatusState ≠ 1 then t
      else if d = true then ((t.setFree n).setFld F.shpStatusState 2).beginRecord 4 else t.setFree n) ∧
  (∀ (s : State) (event unit : Nat), s.canonical → s.running = true → event < 2 ^ 16 → unit < 2 ^ 8 →
    let t := s.stopNow event unit
    t.fld F.shpCauseEvent = event ∧ t.fld F.shpCauseUnit = unit ∧ t.fld F.shpStatusState = 3 ∧ t.host.pcieUp = false ∧
      (s.shep.savesEnabled = true → s.ledg.held = false → t.shep.stop = .saving ∧ ∃ w, t.ledg.write = some w ∧ w.record.kind = 3 ∧
        w.slot = slotOf w.record.seq ∧ w.record.image.curtain.cause = event ∧ w.record.image.curtain.unit = unit ∧
        w.record.image.curtain.cue = s.time.cue) ∧
      (s.shep.savesEnabled = false ∨ s.ledg.held = true → t.shep.stop = .halted ∧ t.shep.pins.healthy = false ∧ t.shep.pins.seq0 = false ∧
        t.flag F.shpStatusHealthy = false)) ∧
  (∀ (s : State) (event unit : Nat), s.shep.stop = .running →
    s.stopOrderly event unit = (s.setShep { s.shep with stop := .orderly event unit }).withdraw)

/-- A sample of a fold's sensor stands in its register and is noted as read; one at or above TRIP drives THERMTRIP_N low, whether the
device runs or not, and stops a device that runs at once, with the cause and the fold; below TRIP the Shepherd's cores judge it: at
ALARM the fold is capped at 0.9 GHz with E_THERM, below TARGET the cap goes, between them the loop lowers the clock; a reading out of
range counts its sensor as failed, and a fold with both failed is capped. A reading above 150 °C does both: log entry 45. Two sensors of a
fold that differ for 10 ms set DISAGREE.

A sample of the hub die's or a stack's sensor acts on the same trip, and one out of range counts its sensor as failed with E_SENSOR. With
the Shepherd's supply gone a sample does nothing. -/
def Obligations.TemperatureRowsComplete : Prop :=
  (∀ (s : State) (f : FoldNo) (r : SensorReading) (row : Instr) (g : Fld) (k : Nat),
    (row, g, k) ∈ [(Instr.tempSampleA (.fold f) r, F.shpTempSensorA f, 0), (.tempSampleB (.fold f) r, F.shpTempSensorB f, 1)] →
    s.shep.dark = false →
    let t := (s.setFld g (max 0 (min 1023 r)).toNat).noteSample (2 * f + k)
    let hot := t.setShep { t.shep with pins := { t.shep.pins with thermtrip := true } }
    (4 * t.fld F.shpTlimitsTrip ≤ r.toNat →
      (s.running = true → (0 ≤ r ∧ r ≤ 600) ∨ s.shep.restarting = true → exec row s = .next ((hot.noteHistory 0x7001 f).stopNow 0x7001 f)) ∧
      (s.running = false → exec row s = .next hot)) ∧
    (4 * t.fld F.shpTlimitsTrip ≤ r.toNat → 600 < r → s.running = true → s.shep.restarting = false →
      let u := t.sensorsFail f (k + 1)
      exec row s = .next (((u.setShep { u.shep with pins := { u.shep.pins with thermtrip := true } }).noteHistory 0x7001 f).stopNow
        0x7001 f)) ∧
    (r.toNat < 4 * t.fld F.shpTlimitsTrip → s.running = false ∨ s.shep.restarting = true → exec row s = .next t) ∧
    (r.toNat < 4 * t.fld F.shpTlimitsTrip → s.canonical → s.running = true → s.shep.restarting = false → 0 ≤ r → r ≤ 600 →
      t.oddOneOut f = false →
      let temp := t.foldTemp f
      (t.alarmOf f ≤ temp → t.flag (F.shpTempAlarm f) = false → exec row s =
        .next ((((t.setFld (F.shpTempAlarm f) 1).setFld (F.shpTempClockCap f) 90).setFoldClock f (min 90 (t.foldClock f))).shepEvent 0x7001 f)) ∧
      (t.flag (F.shpTempAlarm f) = true → temp < t.targetOf f → t.fld (F.shpTempFailed f) ≠ 3 → t.shep.flowCapped = false → exec row s =
        .next (((t.setFld (F.shpTempAlarm f) 0).setFld (F.shpTempClockCap f) 200).setFoldClock f (min 200 (t.foldClock f)))) ∧
      (t.targetOf f ≤ temp → temp < t.alarmOf f ∨ t.flag (F.shpTempAlarm f) = true → exec row s = .next (t.reduceClock f)) ∧
      (t.flag (F.shpTempAlarm f) = false → temp < t.targetOf f → temp < t.alarmOf f → exec row s = .next t)) ∧
    (s.canonical → s.running = true → s.shep.restarting = false → r < 0 → 0 < t.fld F.shpTlimitsTrip → t.oddOneOut f = false →
      ∃ u, exec row s = .next u ∧ u.fld (F.shpTempFailed f) = Nat.lor (s.fld (F.shpTempFailed f)) (k + 1) ∧
        (u.fld (F.shpTempFailed f) = 3 → s.fld (F.shpTempFailed f) ≠ 3 → u.fld (F.shpTempClockCap f) = 90))) ∧
  (∀ (s : State) (f : Nat), s.canonical → (s.foldClock f ≤ 90 → s.reduceClock f = s) ∧
    (90 < s.foldClock f → ∃ c, 90 ≤ c ∧ c < s.foldClock f ∧ s.reduceClock f = (s.setFree (s.free + 1)).setFoldClock f c)) ∧
  (∀ (s : State) (x : HeatPlace) (u : Nat) (r : SensorReading) (row : Instr) (k : Nat),
    (x = .hub ∧ u = 32 ∨ ∃ c : Fin 12, x = .stack c ∧ u = 33 + c.val) → (row, k) ∈ [(Instr.tempSampleA x r, 0), (.tempSampleB x r, 1)] →
    s.shep.dark = false →
    let t := s.setShep { s.shep with heat := tblSet 0 s.shep.heat (2 * u + k) (max 0 (min 1023 r)).toNat }
    let hot := t.setShep { t.shep with pins := { t.shep.pins with thermtrip := true } }
    let now := Nat.lor (tblGet 0 s.shep.heatFailed u) (k + 1)
    (r.toNat < 4 * s.fld F.shpTlimitsTrip → 0 ≤ r → r ≤ 600 → exec row s = .next t) ∧
    (4 * s.fld F.shpTlimitsTrip ≤ r.toNat → s.running = false → exec row s = .next hot) ∧
    (4 * s.fld F.shpTlimitsTrip ≤ r.toNat → r ≤ 600 → s.running = true → 0 ≤ r → exec row s = .next ((hot.noteHistory 0x7001 u).stopNow 0x7001 u)) ∧
    (0 < s.fld F.shpTlimitsTrip → s.canonical → r < 0 → s.running = true → s.shep.restarting = false →
      now ≠ tblGet 0 s.shep.heatFailed u →
      exec row s = .next ((t.setShep { t.shep with heatFailed := tblSet 0 t.shep.heatFailed u now }).sensorEvent u))) ∧
  (∀ (s : State) (x : HeatPlace) (r : SensorReading), s.shep.dark = true →
    exec (.tempSampleA x r) s = .next s ∧ exec (.tempSampleB x r) s = .next s) ∧
  (∀ (s : State) (f : FoldNo), s.running = true → s.shep.restarting = false → s.flag (F.shpTempDisagree f) = false →
    24 < s.fld (F.shpTempSensorA f) - s.fld (F.shpTempSensorB f) ∨ 24 < s.fld (F.shpTempSensorB f) - s.fld (F.shpTempSensorA f) →
    exec (.sensorDisagree f) s = .next ((s.setFld (F.shpTempDisagree f) 1).sensorEvent f)) ∧
  ShepherdActs

/-- The hardwired trip acts without the Shepherd's cores: whatever they do, a sample of any sensor at or above TRIP leaves THERMTRIP_N
low, no clock running, and the PCIe link down. -/
def Obligations.ThermalTripStopsTheDevice : Prop :=
  ∀ (s : State) (x : HeatPlace) (r : SensorReading) (t : State), s.canonical → s.running = true → s.shep.dark = false →
    4 * s.fld F.shpTlimitsTrip ≤ r.toNat → exec (.tempSampleA x r) s = .next t ∨ exec (.tempSampleB x r) s = .next t →
    t.shep.pins.thermtrip = true ∧ t.running = false ∧ t.host.pcieUp = false

/-- The rails' limits, in mA, and the undervoltage thresholds, in mV, of the tables of R285 and R294. A rail at 95 % of its limit, or
80 % while its comparator has failed its test, lowers the clocks of its die; at its limit the clocks of its die stop with E_CURRENT;
after the stop they restart at 0.9 GHz; above the limit for 50 µs with the clocks stopped, the device stops at once. A comparator that
passes its test changes nothing, and one that fails is recorded with E_SENSOR.

Coolant: a sample stands in SHP.COOLANT; a flow below ALARM caps every fold and raises E_FLOW; below TRIP it stops the device in
order; none with the switch open stops it at once; none with the switch closed fails the meter, caps every fold and raises E_SENSOR.
A leak drives PWRKILL_N low, whether the device runs or not, and stops a device that runs at once; an open cable raises E_SENSOR. -/
def Obligations.SensorRowsComplete : Prop :=
  ((∀ d : DieNo, railLimit (.vcore d) = 900000 ∧ railLimit (.memory d) = 150000 ∧ railDies (.vcore d) = [d.val] ∧
    railDies (.memory d) = [d.val]) ∧
  (railLimit .link = 80000 ∧ railLimit .io = 25000 ∧ railLimit .shepherd = 2000 ∧
    ∀ r ∈ [CurrentRail.link, .io, .shepherd], railDies r = [0, 1, 2, 3]) ∧
  (∀ (s : State) (r : CurrentRail) (ma : Nat), s.running = true →
    let part := if r ∈ s.shep.failedComparators then 80 else 95
    exec (.currentWarn ⟨r, ma⟩) s = .next (if part * railLimit r ≤ 100 * ma then s.over ((railDies r).flatMap dieFolds) State.reduceClock else s) ∧
    exec (.currentLimit ⟨r, ma⟩) s = .next (if railLimit r ≤ ma
      then (s.setTime { s.time with diesStopped := (s.time.diesStopped ++ railDies r).eraseDups }).shepEvent 0x7004 (railUnit r) else s) ∧
    (railLimit r < ma → (∀ d ∈ railDies r, d ∈ s.time.diesStopped) → exec (.currentSustained ⟨r, ma⟩) s = .next (s.stopNow 0x7004 (railUnit r))) ∧
    exec (.comparatorTest r true) s = .next s ∧
    exec (.comparatorTest r false) s =
      .next ((s.setShep { s.shep with failedComparators := (s.shep.failedComparators ++ [r]).eraseDups }).sensorEvent (railUnit r))) ∧
  (∀ (s : State) (d : DieNo), s.running = true → d.val ∈ s.time.diesStopped →
    exec (.currentRestart d) s = .next ((s.setTime { s.time with diesStopped := s.time.diesStopped.filter (· != d.val) }).over
      (dieFolds d) fun s f => s.setFoldClock f 90))) ∧
  ((∀ (s : State) (x : FlowSample), s.running = true →
    let t := (s.setFld F.shpCoolantFlowA (min 4095 x.flowA)).setFld F.shpCoolantFlowB (b2n x.flowBClosed)
    exec (.flowAlarm x) s = .next (if t.flowOf x < t.fld F.shpFlimitsAlarm then t.capAll.shepEvent 0x7002 else t) ∧
    exec (.flowTrip x) s = .next (if t.flowOf x < t.fld F.shpFlimitsTrip then (t.shepEvent 0x7002).stopOrderly 0x7002 0 else t) ∧
    (x.flowA = 0 → x.flowBClosed = false → exec (.flowZero x) s = .next ((t.noteHistory 0x7002 0).stopNow 0x7002 0)) ∧
    (x.flowA ≠ 0 ∨ x.flowBClosed = true → exec (.flowZero x) s = .next t) ∧
    (x.flowA = 0 → x.flowBClosed = true → t.shep.meterFailed = false →
      exec (.flowMeterFail x) s = .next (((t.setShep { t.shep with meterFailed := true }).capAll).sensorEvent 0))) ∧
  (∀ (s : State) (f : Nat), s.canonical → f < 32 → s.capAll.fld (F.shpTempClockCap f) = 90 ∧ s.capAll.foldClock f = min 90 (s.foldClock f)) ∧
  (∀ (s : State) (c : LeakCable) (ohms : Nat), s.shep.dark = false →
    let t := (s.setFld (leakFld c) (b2n (decide (ohms < 10000)))).setFld (openFld c) (b2n (decide (2000000 < ohms)))
    let wet := t.setShep { t.shep with pins := { t.shep.pins with pwrkill := true } }
    (ohms < 10000 → s.running = true → exec (.leakSample c ohms) s = .next ((if s.host.pcieUp = true then wet.shepEvent 0x7003 (cableUnit c)
      else wet.noteHistory 0x7003 (cableUnit c)).stopNow 0x7003 (cableUnit c))) ∧
    (ohms < 10000 → s.running = false → exec (.leakSample c ohms) s = .next wet) ∧
    (10000 ≤ ohms → ohms ≤ 2000000 → exec (.leakSample c ohms) s = .next t) ∧
    (2000000 < ohms → s.flag (openFld c) = false → s.running = true → exec (.leakSample c ohms) s = .next (t.sensorEvent (cableUnit c))))) ∧
  ShepherdActs


/-- The VHOLD bank: its test writes SHP.HOLD and HOLD_OK, and below 120 mJ raises E_HOLD_LOW, as does VHOLD below 10.8 V. The
Shepherd's cores that disagree restart and count; the second time within 24 hours the device stops in order; when they are back they
judge again. With the Shepherd's supply gone every output is released and, but for a save, everything has stopped. A loop's request
for a clock is held between 0.9 GHz and the lesser of 2.0 GHz, the fused curve and the fold's cap; a fold that is capped gets no claim
while another of its partition is free; a tap and a refresh interval are held within the part's bounds; each clamp counts.

Stops: PWRFAIL_N and a rail below its threshold record their unit and begin the save; an orderly stop whose withdrawal is done
becomes an immediate one; the save's record, once whole, is committed, HEALTHY_N is released and the device is SAVED; a collapse of
VHOLD leaves the record torn and no further word is issued. An ordinary record, once whole, is the current one, and what waited begins
the next. -/
def Obligations.ShepherdRowsComplete : Prop :=
  ((∀ (s : State) (x : BankSample), s.running = true →
    let t := ((s.setFld F.shpHoldVhold (min 4095 x.volts)).setFld F.shpHoldCap (min 4095 x.cap)).setFld F.shpHoldEnergy
      (min 255 (bankEnergy x / 4000000))
    exec (.bankTest x) s = .next (if 240000000 ≤ bankEnergy x then t.setFld F.shpStatusHoldOk 1
      else (t.setFld F.shpStatusHoldOk 0).shepEvent 0x7007)) ∧
  (∀ (s : State) (x : BankSample), s.canonical → s.running = true →
    exec (.vholdLow x) s = .next (if x.volts < 1080 ∧ 3 ≤ s.fld F.hubBootPhase then (s.setFld F.shpHoldVhold x.volts).shepEvent 0x7007
      else s.setFld F.shpHoldVhold (min 4095 x.volts))) ∧
  (∀ s : State, s.running = true →
    let recent := s.shep.lockstepCues.filter fun c => decide (s.time.cue < c + 86400000000)
    let t := ((s.countFld F.shpStatusLockstepErrs 1).setShep
      { s.shep with restarting := true, lockstepCues := recent ++ [s.time.cue] }).shepEvent 0x7009
    exec .lockstepMismatch s = .next (if recent = [] then t else t.stopOrderly 0x7009 0)) ∧
  (∀ s : State, exec .shepherdRestartDone s = .next (s.setShep { s.shep with restarting := false })) ∧
  (∀ s : State, ∃ t, exec .vshpLoss s = .next t ∧ t.shep.dark = true ∧ t.shep.pins.healthy = false ∧ t.shep.pins.thermtrip = false ∧
    t.shep.pins.pwrkill = false ∧ (s.shep.stop = .saving → t.shep.stop = .saving) ∧
    (s.shep.stop ≠ .saving → t.shep.stop = .halted ∧ t.host.pcieUp = false ∧ t.ledg.write = none)) ∧
  (∀ (s : State) (f : FoldNo) (want mv : Nat), s.running = true →
    let hi := min (min 200 (Config.fusedCurve f mv)) (s.fld (F.shpTempClockCap f))
    let v := max 90 (min (max 90 (if s.shep.restarting = true then min hi (s.foldClock f) else hi)) want)
    let t := s.setFoldClock f v
    exec (.loopSettingRequest (.clock f want mv)) s =
      .next (if v = want then t else t.setShep { t.shep with clamps := t.shep.clamps + 1 })) ∧
  (∀ (s : State) (f : FoldNo) (on : Bool), s.running = true →
    let others := s.time.claimsStopped.filter (· != f.val)
    let stop := s.foldCapped f && s.otherFree f
    let t := s.setTime { s.time with claimsStopped := if stop = true then f.val :: others else others }
    exec (.loopSettingRequest (.claims f on)) s = .next (if on = stop then t.setShep { t.shep with clamps := t.shep.clamps + 1 } else t)) ∧
  (∀ (s : State) (p : PortNo) (l : LaneNo) (v : Int), s.running = true →
    let w := max (Config.tapLow p l) (min (Config.tapHigh p l) v)
    let t := s.setShep { s.shep with taps := tblSet 0 s.shep.taps (9 * p.val + l.val) w }
    exec (.loopSettingRequest (.tap p l v)) s = .next (if w = v then t else t.setShep { t.shep with clamps := t.shep.clamps + 1 })) ∧
  (∀ (s : State) (c : ChanNo) (v reported : Nat), s.running = true →
    let w := min v (Config.refreshMax c reported)
    let t := s.setShep { s.shep with
      refresh := tblSet 0 s.shep.refresh c.val w, reported := tblSet 0 s.shep.reported (c.val / 32) reported }
    exec (.loopSettingRequest (.refresh c v reported)) s =
      .next (if w = v then t else t.setShep { t.shep with clamps := t.shep.clamps + 1 }))) ∧
  ((∀ s : State, s.running = true →
    let t := s.setShep { s.shep with pins := { s.shep.pins with pwrfail := true } }
    exec .pwrfailNAssert s = .next (((t.setFld F.shpCauseEvent 0).setFld F.shpCauseUnit 0).curtain 0 0)) ∧
  (∀ (s : State) (r : SavedRail) (mv : Nat), s.running = true →
    (mv < savedThreshold r → exec (.railUndervoltage ⟨r, mv⟩) s =
      .next (((s.setFld F.shpCauseEvent 0).setFld F.shpCauseUnit (savedUnit r)).curtain 0 (savedUnit r))) ∧
    (savedThreshold r ≤ mv → exec (.railUndervoltage ⟨r, mv⟩) s = .next s)) ∧
  ((∀ d : DieNo, savedThreshold (.vcore d) = 900) ∧ savedThreshold .vddcM = 970 ∧ savedThreshold .vddqM = 690 ∧
    savedThreshold .vppM = 1620 ∧ savedThreshold .vlink = 790) ∧
  (∀ (s : State) (cause unit : Nat), s.canonical → s.running = true → s.shep.savesEnabled = true → s.ledg.held = false →
    let t := s.curtain cause unit
    t.shep.stop = .saving ∧ t.host.pcieUp = false ∧ t.flag F.ldgStatusBusy = true ∧ ∃ w, t.ledg.write = some w ∧ w.record.kind = 3 ∧
      w.record.image.curtain.cause = cause ∧ w.record.image.curtain.unit = unit ∧
      w.record.seq = (match s.ledg.write with
        | some x => x.record.seq
        | none => s.ledgerSeq + 1)) ∧
  (∀ (s : State) (e u : Nat), s.shep.stop = .orderly e u → exec .orderlyStopWithdrawn s = .next (s.stopNow e u)) ∧
  (∀ (s : State) (w : LedgerWrite), s.shep.stop = .saving → s.ledg.write = some w → s.shep.pins.por = false →
    let t := (s.commitRecord w).releaseRails
    exec .curtainSaveDone s = .next ((t.setShep { t.shep with stop := .saved }).setFld F.shpStatusState 4)) ∧
  (∀ s : State, s.shep.pins.por = false → ∃ t, exec .vholdCollapse s = .next t ∧ t.ledg.write = none ∧ t.ledg.held = true ∧
    (s.shep.stop = .saving → t.shep.stop = .halted ∧ t.shep.pins.healthy = false)) ∧
  (∀ (s : State) (w : LedgerWrite), s.running = true → s.ledg.write = some w →
    let t := (((s.setSlot w.slot w.record.seal).setPair .ldgSeqLo .ldgSeqHi w.record.seq).setFld F.ldgStatusCurrent w.slot).setFld
      F.ldgStatusBusy 0
    (s.ledg.again = false → exec .ledgerRecordDone s = .next (t.setLedg { t.ledg with write := none })) ∧
    (s.ledg.again = true → exec .ledgerRecordDone s = .next ((t.setLedg { t.ledg with write := none, again := false }).beginRecord 2))) ∧
  ShepherdActs)


/-- A committed slot stays committed and unchanged by any record that ends: the record's write touches its own slot alone, and that
slot then holds the record with its CRC and its commit word. -/
def Obligations.RecordCommitsItsSlot : Prop :=
  ∀ (s : State) (w : LedgerWrite), s.canonical → w.record.magic = 0x4C470001 → w.record.length = 258048 →
    let t := s.commitRecord w
    (t.slot w.slot).committed = true ∧ (∀ k, k ≠ w.slot → t.slot k = s.slot k)

/-! ## Start-up (R347 to R354) -/

/-- Start-up in its order: self-test to LEDGER (1); recovery loads the committed record with the highest SEQ and enables saves; RAILS (2)
with VHOLD charged, or with E_HOLD_LOW after a second, HEALTHY_N and SEQ0_N driven; each rail group in turn, the last to BRINGUP (3)
with the Prompter booting and the recovered sparing applied; a group that is late releases all, once to be tried again; READY (4) with
every channel tested and the local stores zeroed, or FAILED (5) with a fold without clusters or too many channels out. -/
def Obligations.BringUpRowsComplete : Prop :=
  (∀ s : State, s.running = true → s.phase = 0 → exec .shepherdSelfTestDone s = .next (s.setFld F.hubBootPhase 1)) ∧
  (∀ s : State, s.running = true → s.phase = 1 → s.shep.savesEnabled = false → bestSlot s.ledg.slots = none →
    exec .ledgerRecoveryDone s = .next (s.setFld F.shpCauseEvent 0x8001)) ∧
  (∀ (s : State) (k : Nat) (r : LedgerSlot), s.canonical → s.running = true → s.phase = 1 → s.shep.savesEnabled = false →
    bestSlot s.ledg.slots = some (k, r) → ∃ t, exec .ledgerRecoveryDone s = .next t ∧ t.shep.savesEnabled = true ∧
      t.ledg.slots = s.ledg.slots ∧ t.ledg.shadow.rowRepl = r.image.rowRepl ∧ t.ledg.shadow.failed = r.image.failed ∧
      t.ledg.shadow.mapped = r.image.mapped) ∧
  (∀ s : State, s.canonical → let t := s.powerRails
    t.shep.pins.healthy = true ∧ t.shep.pins.seq0 = true ∧ t.shep.rails.inRange = 0 ∧ t.shep.rails.waiting = true ∧
      t.flag F.shpStatusHealthy = true) ∧
  (∀ (s : State) (k : Nat), k < 4 → let t := s.enableGroup k
    [t.shep.pins.seq0, t.shep.pins.seq1, t.shep.pins.seq2, t.shep.pins.seq3][k]? = some true ∧ t.shep.rails.waiting = true ∧
      t.shep.rails.inRange = s.shep.rails.inRange ∧ t.regs = s.regs) ∧
  (∀ s : State, s.canonical → let t := s.releaseRails
    t.shep.pins.healthy = false ∧ t.shep.pins.seq0 = false ∧ t.shep.pins.seq1 = false ∧ t.shep.pins.seq2 = false ∧
      t.shep.pins.seq3 = false ∧ t.flag F.shpStatusHealthy = false) ∧
  (∀ s : State, let t := s.applySparing
    t.spare.failed = s.ledg.shadow.failed ∧ t.spare.mappedOut = s.ledg.shadow.mapped ∧ t.mem.waysOut = s.ledg.shadow.waysOut ∧
      t.spare.rowsUsed = rowsUsedOf s.ledg.shadow.rowRepl ∧ t.prom = s.prom) ∧
  (∀ s : State, s.running = true → s.phase = 1 → s.shep.savesEnabled = true →
    (s.holdCharged = true → exec .railsEntry s = .next (s.setFld F.hubBootPhase 2).powerRails) ∧
    (s.holdCharged = false → exec .vholdWaitTimeout s = .next ((s.setFld F.hubBootPhase 2).powerRails.shepEvent 0x7007))) ∧
  (∀ s : State, s.running = true → s.phase = 2 → s.shep.rails.waiting = true →
    let r := s.shep.rails
    let t := s.setShep { s.shep with rails := { r with inRange := r.inRange + 1, waiting := false } }
    exec .railGroupInRange s = .next (if r.inRange = 3 then ((t.setProm { s.prom with cores := .booting }).setFld F.hubBootPhase 3).applySparing
      else t) ∧
    let u := s.releaseRails
    exec .railGroupTimeout s = .next ((u.setShep { u.shep with rails :=
      { inRange := 0, waiting := false, tries := r.tries + 1, held := decide (1 ≤ r.tries) } }).shepEvent 0x700A r.inRange)) ∧
  (∀ s : State, s.running = true → s.phase = 2 → s.shep.rails.waiting = false →
    (0 < s.shep.rails.inRange → s.shep.rails.inRange < 4 → exec .railGroupNextEnable s = .next (s.enableGroup s.shep.rails.inRange)) ∧
    (s.shep.rails.inRange = 0 → s.shep.rails.tries = 1 → s.shep.pins.healthy = false → exec .railRetry s = .next s.powerRails)) ∧
  (∀ (s : State) (o : BringupOutcome), s.canonical → s.running = true → s.phase = 3 → o.failedClusters = [] → o.unrepairable = [] →
    s.spare.mappedOut = [] → s.spare.failed = [] →
    ∃ t, exec (.bringupDone o) s = .next t ∧ t.phase = 4 ∧ t.fld F.shpStatusState = 1 ∧ t.mem.loc = [] ∧ t.mem.stackPoison = [] ∧
      ∀ c < 384, t.fld (F.hbcChstatState c) = 0) ∧
  (∀ (s : State) (o : BringupOutcome), s.canonical → s.running = true → s.phase = 3 →
    s.maxMapped < s.spare.mappedOut.length ∨ (∃ f < 32, foldClusters s.spare.failed f = []) →
    ∃ t, exec (.bringupDone o) s = .next t ∧ t.phase = 5)

/-! ## The device-fault path (R258, R265 to R271, R276) -/

/-- What the shared operations of the device-fault path do (R258, R262 to R271), in every canonical state. A withdrawal resets each enabled
partition of a job that the device still serves, but a SUSPENDED one, and PHASE reads WITHDRAWN. A suspension halts the partition's
enabled queues, and PHASE reads SUSPENDED. A rewind to slot k abandons every instruction and scene, restores the queues' heads from the
slot, moves CUE_OFFSET by the distance from the origin to the replay epoch, and counts. -/
def Sys2Proof.Machine.FaultPathActs : Prop :=
  (∀ (s : State) (p : Nat), s.canonical → p ∈ s.jobPartitions → s.fld (F.parRstatusPhase p) ≠ 5 → s.fld (F.parStatusState p) ≠ 2 →
    let t := s.withdraw
    t.fld (F.parRstatusPhase p) = 7 ∧ t.fld (F.parStatusState p) = 2 ∧ t.flag (F.parCtrlEn p) = true ∧ ∀ i ∈ t.insts, i.part ≠ p) ∧
  (∀ s : State, (∀ p ∈ s.jobPartitions, s.fld (F.parRstatusPhase p) = 5) → s.withdraw = s) ∧
  (∀ (s : State) (p : PartNo) (code : Nat), s.canonical → (s.block p).queueFirst + (s.block p).queueCount ≤ 8192 →
    let t := s.suspend p code
    t.fld (F.parRstatusPhase p) = 5 ∧ t.flag (F.parRstatusSuspended p) = true ∧
      ∀ q, within q 1 (s.block p).queueFirst (s.block p).queueCount = true → s.qOn q = true → t.flag (F.queQctrlHalted q) = true) ∧
  (∀ (s : State) (p : PartNo) (b : ResBlock) (k origin epoch : Nat) (absent : List Nat), s.canonical → (s.partition p).res = some b →
    (s.block p).queueFirst + (s.block p).queueCount ≤ 8192 → origin ≤ epoch →
    let t := s.rewind p b k origin epoch absent
    (∀ i ∈ t.insts, i.part ≠ p.val) ∧ (t.partition p).scenes = [] ∧ (t.partition p).hurdles = [] ∧
      (t.partition p).cueOffset = (s.partition p).cueOffset + (epoch - origin) ∧ (t.partition p).replay.hold = true ∧
      t.fld (F.parRstatusPhase p) = 3 ∧ t.flag (F.parRstatusReplayed p) = true ∧
      ∀ q, within q 1 (s.block p).queueFirst (s.block p).queueCount = true → s.qOn q = true → q ≠ b.prologueQueue →
        t.flag (F.queQctrlHalted q) = false ∧
        (t.queue q).head = leNat (t.tierBytes tStacked 0 (s.slotAt p b k + 0x40 + 4 * (q - (s.block p).queueFirst)) 4))

/-- An ABSENT received is held for the job: a job that is suspended or withdrawn, a repeat, and a company of no job change nothing; an
ABSENT that names this device makes it withdraw; any other is relayed and noted by every partition of the job, in SETTLING from then.

The decision cue of a round, SETTLE and 256 cues after its earliest ABSENT, brings the decision: a surviving device goes back to the
slot of its target, a standby device that a successor's place falls to is promoted, and the succession list exhausted suspends the
partition; before the cue nothing happens. A successor's copy of its wings begins 64 cues after the decision: both seals, the record and
the company records are asked for, or, without a partner to read from, the copy is bad; ended well it gives every company its number and
the prologue follows, ended badly every partition of the job is suspended. At the replay epoch, the prologues of the job ended, its
queues issue again. -/
def Obligations.ResilienceRowsComplete : Prop :=
  ((∀ (s : State) (p : PartNo) (a : AbsentHeader) (e : Nat × CompanyEntry) (x : RosterEntry), s.running = true →
    s.companyOf p a.company.toNat = some e → (s.rosterAt e.2.roster e.2.size)[a.absentRank.toNat]? = some x →
    let cue := a.sendCue.toNat
    let node := (s.partition p).replay.meant x.node cue
    let ph := s.fld (F.parRstatusPhase p)
    (s.flag (F.parCtrlEn p) = false ∨ ph = 5 ∨ ph = 7 ∨ (s.partition p).replay.repeats node cue = true →
      exec (.absentReceived p a) s = .next s.settle) ∧
    (s.flag (F.parCtrlEn p) = true → ph ≠ 5 → ph ≠ 7 → (s.partition p).replay.repeats node cue = false →
      (node = s.node → exec (.absentReceived p a) s = .next s.withdraw.settle) ∧
      (∀ (b : ResBlock) (job : CompanyEntry), node ≠ s.node → (s.partition p).res = some b → s.jobEntry p = some job → job.rank ≠ noRank →
        let t := match (s.rosterAt job.roster job.size).findIdx? (·.node == x.node) with
          | some k => s.relayAbsent p b job k cue
          | none => s
        exec (.absentReceived p a) s = .next (t.over (t.jobOf p) fun t y => t.noteAbsent node cue y).settle))) ∧
  (∀ (s : State) (y node cue : Nat), s.canonical → y < 16 → s.fld (F.parRstatusPhase y) ≠ 5 → s.fld (F.parRstatusPhase y) ≠ 7 →
    (∀ z ∈ (s.partition y).replay.absents, z.1 ≠ node) →
    ((s.noteAbsent node cue y).partition y).replay.absents = (s.partition y).replay.absents ++ [(node, cue)] ∧
    (s.noteAbsent node cue y).fld (F.parRstatusPhase y) = 1)) ∧
  FaultPathActs ∧
  (∀ (s : State) (p : PartNo) (b : ResBlock), s.canonical → s.running = true → (s.partition p).res = some b →
    s.fld (F.parRstatusPhase p) = 1 → (s.block p).queueFirst + (s.block p).queueCount ≤ 8192 →
    let v := s.partition p
    let r := v.replay
    let limit := r.settleEnd b
    let absent := r.absentSet b
    let left := r.absents.filter fun x => !decide (x.2 < limit)
    let list := (s.successionOf b).drop r.used
    (r.absents = [] ∨ s.time.cue < limit + 256 → exec (.decisionCue p) s = .next s) ∧
    (r.absents ≠ [] → limit + 256 ≤ s.time.cue →
      (b.standby = false → s.target p b r.leastCue = none → exec (.decisionCue p) s = .next s.withdraw.settle) ∧
      (∀ (t : Nat × Nat) (m : List (RosterEntry × Nat) × Nat), b.standby = false → s.target p b r.leastCue = some t →
        succeed absent absent list 0 = some m →
        ∃ u : State, exec (.decisionCue p) s = .next u.settle ∧ (∀ i ∈ u.insts, i.part ≠ p.val) ∧ (u.partition p).scenes = [] ∧
          (u.partition p).replay.decided = limit + 256 ∧ (u.partition p).replay.epoch = limit + 256 + b.load ∧
          (u.partition p).replay.lastSet = absent ∧ (u.partition p).replay.moved = m.1.map (fun x => (x.1.node, x.2)) ∧
          (u.partition p).replay.used = r.used + m.2 ∧ (u.partition p).replay.absents = left ∧
          (u.partition p).cueOffset = v.cueOffset + (limit + 256 + b.load - t.2) ∧
          u.fld (F.parRstatusPhase p) = if left = [] then 3 else 1) ∧
      (∀ t : Nat × Nat, b.standby = false → s.target p b r.leastCue = some t → succeed absent absent list 0 = none →
        ∃ u : State, exec (.decisionCue p) s = .next u.settle ∧ u.fld (F.parRstatusPhase p) = 5 ∧
          u.flag (F.parRstatusSuspended p) = true ∧ (u.partition p).replay.absents = []) ∧
      (∀ m : List (RosterEntry × Nat) × Nat, b.standby = true → succeed absent absent list 0 = some m → left = [] →
        ∃ u : State, exec (.decisionCue p) s = .next u.settle ∧ (u.partition p).replay.used = r.used + m.2 ∧
          ((∀ x ∈ m.1, x.1.node ≠ s.node) → u.fld (F.parRstatusPhase p) = 6) ∧
          ((∃ x ∈ m.1, x.1.node = s.node) → u.fld (F.parRstatusPhase p) = 2 ∧ u.flag (F.parRstatusPromoted p) = true ∧
            (u.partition p).res = some { b with standby := false } ∧ (u.partition p).replay.hold = true)))) ∧
  (∀ (s : State) (p : PartNo) (b : ResBlock), s.canonical → s.running = true → (s.partition p).res = some b →
    s.fld (F.parRstatusPhase p) = 2 → (s.partition p).replay.copying = none → (s.partition p).replay.decided + 64 ≤ s.time.cue →
    (b.noWings = true ∨ s.wingsPartner p b = none → ∃ t : State, exec (.wingsCopyStart p) s = .next t ∧
      (t.partition p).replay.copying = some { bad := true } ∧ t.out = s.out) ∧
    (∀ x, b.noWings = false → s.wingsPartner p b = some x → ∃ (t : State) (c : WingsCopy), exec (.wingsCopyStart p) s = .next t ∧
      (t.partition p).replay.copying = some c ∧ c.bad = false ∧ c.chosen = false ∧ c.got = [] ∧
      (c.reads.take 3).map (fun r => (r.node, r.what, r.len)) = [(x.node, wRecord, 16), (x.node, wSeal 0, 64), (x.node, wSeal 1, 64)])) ∧
  (∀ (s : State) (p : PartNo) (c : WingsCopy), s.running = true → (s.partition p).replay.copying = some c →
    s.fld (F.parRstatusPhase p) = 2 →
    let t := s.setPartition p { s.partition p with replay := { (s.partition p).replay with copying := none } }
    (c.bad = true → exec (.wingsCopyDone p) s = .next (t.over (t.jobOf p) fun s x => s.suspend x Ev.wings)) ∧
    (c.bad = false → c.chosen = true → c.reads = [] →
      exec (.wingsCopyDone p) s = .next ((t.wingsNumbers p c).setFld (F.parRstatusPhase p) 3) ∧
      (s.canonical → ∀ (e : Nat × CompanyEntry) (k : Nat) (rec' : Bytes), e ∈ t.companiesOf p →
        [0, 1].find? (fun k => c.got.any fun x => x.1 == wOrigin e.1 k && leNat x.2 == field (c.bytes wRecord) 0 8) = some k →
        ((List.range (s.block p).companyCount).map fun j => slice (c.bytes (wCompanies e.1 k)) (48 * j) 48).find?
          (fun r => field r 0 2 == e.2.company) = some rec' →
        ((t.wingsNumbers p c).company e.1).collSeq = field rec' 8 8)) ∧
    (c.bad = false → c.chosen = false ∨ c.reads ≠ [] → exec (.wingsCopyDone p) s = .next s)) ∧
  (∀ (s : State) (p : PartNo), s.running = true →
    let t := s.settle
    let v := t.partition p
    v.replay.hold = true → t.fld (F.parRstatusPhase p) = 4 → v.replay.epoch ≤ t.time.cue →
    (∀ x ∈ t.jobOf p, t.fld (F.parRstatusPhase x) = 0 ∨ 4 ≤ t.fld (F.parRstatusPhase x)) →
    exec (.replayResume p) s = .next (t.setPartition p { v with replay := { v.replay with hold := false } }))


end
end

