-- ==== Sys2Proof/Laws/Tables.lean ====
section
/-!
SUPPORT. Tables and memories in canonical form: what reading after writing gives, and that every change of a table keeps the
form.
-/

namespace Sys2Proof.Machine

/-! ## Tables -/

/-- Reading the key just set gives what was set. -/
theorem tblGet_tblSet_same {α : Type} [DecidableEq α] (d : α) (t : List (Nat × α)) (a : Nat) (v : α)
    (h : t.Pairwise fun x y => x.1 < y.1) : tblGet d (tblSet d t a v) a = v := by
  induction t with
  | nil => by_cases hv : v = d <;> simp [tblSet, tblGet, hv]
  | cons c t ih =>
    obtain ⟨k, w⟩ := c
    rw [List.pairwise_cons] at h
    have absent : ∀ l : List (Nat × α), (∀ x ∈ l, a ≠ x.1) → tblGet d l a = d := by
      intro l
      induction l with
      | nil => intro _; rfl
      | cons x l ihl =>
        intro hx
        have h1 := hx x (by simp)
        simp only [tblGet]
        rw [if_neg (fun e => h1 e.symm)]
        exact ihl fun y hy => hx y (by simp [hy])
    unfold tblSet
    split
    · next hlt =>
      split
      · next hv =>
        rw [hv, absent]
        intro x hx
        rcases List.mem_cons.mp hx with rfl | hx
        · simp only; omega
        · have := h.1 x hx; omega
      · simp [tblGet]
    · split
      · next heq =>
        split
        · next hv =>
          rw [hv, absent]
          intro x hx
          have := h.1 x hx; omega
        · simp [tblGet]
      · next hlt hne =>
        simp only [tblGet]
        rw [if_neg (fun e => hne e.symm)]
        exact ih h.2

/-- Reading another key is not changed by setting one. -/
theorem tblGet_tblSet_other {α : Type} [DecidableEq α] (d : α) (t : List (Nat × α)) (a b : Nat) (v : α)
    (h : t.Pairwise fun x y => x.1 < y.1) (ne : b ≠ a) : tblGet d (tblSet d t a v) b = tblGet d t b := by
  induction t with
  | nil =>
    by_cases hv : v = d
    · simp [tblSet, hv]
    · simp [tblSet, tblGet, hv, Ne.symm ne]
  | cons c t ih =>
    obtain ⟨k, w⟩ := c
    rw [List.pairwise_cons] at h
    unfold tblSet
    split
    · split
      · rfl
      · simp only [tblGet]; rw [if_neg (Ne.symm ne)]
    · split
      · next heq =>
        subst heq
        split
        · simp only [tblGet]; rw [if_neg (Ne.symm ne)]
        · simp only [tblGet]; rw [if_neg (Ne.symm ne), if_neg (Ne.symm ne)]
      · simp only [tblGet]; split
        · rfl
        · exact ih h.2

/-- What a table lists after a key has been set. -/
theorem mem_tblSet {α : Type} [DecidableEq α] (d : α) (t : List (Nat × α)) (a : Nat) (v : α) (x : Nat × α)
    (hx : x ∈ tblSet d t a v) : x ∈ t ∨ (x = (a, v) ∧ v ≠ d) := by
  induction t with
  | nil => by_cases hv : v = d <;> simp_all [tblSet]
  | cons c t ih =>
    unfold tblSet at hx
    split at hx
    · split at hx
      · exact .inl hx
      · rcases List.mem_cons.mp hx with rfl | hx
        · exact .inr ⟨rfl, by assumption⟩
        · exact .inl hx
    · split at hx
      · split at hx
        · exact .inl (List.mem_cons_of_mem _ hx)
        · rcases List.mem_cons.mp hx with rfl | hx
          · exact .inr ⟨rfl, by assumption⟩
          · exact .inl (List.mem_cons_of_mem _ hx)
      · rcases List.mem_cons.mp hx with rfl | hx
        · exact .inl (by simp)
        · rcases ih hx with h | h
          · exact .inl (List.mem_cons_of_mem _ h)
          · exact .inr h

/-- Setting a key keeps the keys strictly rising. -/
theorem tblSet_pairwise {α : Type} [DecidableEq α] (d : α) (t : List (Nat × α)) (a : Nat) (v : α)
    (h : t.Pairwise fun x y => x.1 < y.1) : (tblSet d t a v).Pairwise fun x y => x.1 < y.1 := by
  induction t with
  | nil => by_cases hv : v = d <;> simp [tblSet, hv]
  | cons c t ih =>
    obtain ⟨k, w⟩ := c
    have h' := h
    rw [List.pairwise_cons] at h
    unfold tblSet
    split
    · split
      · exact h'
      · refine List.pairwise_cons.mpr ⟨fun x hx => ?_, h'⟩
        rcases List.mem_cons.mp hx with rfl | hx
        · assumption
        · have := h.1 x hx; simp only; omega
    · split
      · split
        · exact h.2
        · refine List.pairwise_cons.mpr ⟨fun x hx => ?_, h.2⟩
          have := h.1 x hx; simp only; omega
      · refine List.pairwise_cons.mpr ⟨fun x hx => ?_, ih h.2⟩
        rcases mem_tblSet d t a v x hx with hx | ⟨rfl, _⟩
        · exact h.1 x hx
        · simp only; omega

/-- Setting a key keeps the canonical form. -/
theorem tblSet_wf {α : Type} [DecidableEq α] (d : α) (t : List (Nat × α)) (a : Nat) (v : α) (h : tblWf d t) :
    tblWf d (tblSet d t a v) :=
  ⟨tblSet_pairwise d t a v h.1, fun x hx => by
    rcases mem_tblSet d t a v x hx with hx | ⟨rfl, hv⟩
    · exact h.2 x hx
    · exact hv⟩

/-- A table answers its default or a value that it lists. -/
theorem tblGet_mem {α : Type} (d : α) (t : List (Nat × α)) (a : Nat) : tblGet d t a = d ∨ (a, tblGet d t a) ∈ t := by
  induction t with
  | nil => exact .inl rfl
  | cons x t ih =>
    obtain ⟨k, v⟩ := x
    by_cases hk : k = a
    · subst hk; simp [tblGet]
    · simp only [tblGet, if_neg hk]
      exact ih.imp_right (List.mem_cons_of_mem _)

/-- Dropping entries keeps the canonical form. -/
theorem tblWf_filter {α : Type} (d : α) (t : List (Nat × α)) (f : Nat × α → Bool) (h : tblWf d t) : tblWf d (t.filter f) :=
  ⟨h.1.filter f, fun x hx => h.2 x (List.mem_of_mem_filter hx)⟩

/-- Replacing or dropping entries one by one keeps the canonical form, when a replacement keeps its key and is no default. -/
theorem tblWf_filterMap {α : Type} (d : α) (t : List (Nat × α)) (f : Nat × α → Option (Nat × α)) (h : tblWf d t)
    (hf : ∀ x ∈ t, ∀ y, f x = some y → y.1 = x.1 ∧ y.2 ≠ d) : tblWf d (t.filterMap f) := by
  refine ⟨?_, fun y hy => ?_⟩
  · rw [List.pairwise_filterMap]
    exact h.1.imp_of_mem fun hx hy k u hu v hv => by rw [(hf _ hx u hu).1, (hf _ hy v hv).1]; exact k
  · obtain ⟨x, hx, hxy⟩ := List.mem_filterMap.mp hy
    exact (hf x hx y hxy).2

/-- A table whose values are changed key by key keeps its form, if no value becomes the default. -/
theorem tblWf_map {α : Type} (d : α) (t : List (Nat × α)) (f : Nat × α → α) (h : tblWf d t) (hf : ∀ x ∈ t, f x ≠ d) :
    tblWf d (t.map fun x => (x.1, f x)) := by
  refine ⟨?_, fun y hy => ?_⟩
  · rw [List.pairwise_map]
    exact h.1.imp fun k => k
  · obtain ⟨x, hx, rfl⟩ := List.mem_map.mp hy
    exact hf x hx

/-! ## Memory -/

/-- A byte just written reads as written. -/
theorem Memory.read_write_same (m : List Host.Cell) (a : Nat) (v : Byte) (h : Memory.wf m) : Memory.read (Memory.write m a v) a = v :=
  tblGet_tblSet_same _ m a v h.1

/-- A write leaves every other byte alone. -/
theorem Memory.read_write_other (m : List Host.Cell) (a b : Nat) (v : Byte) (h : Memory.wf m) (ne : b ≠ a) :
    Memory.read (Memory.write m a v) b = Memory.read m b :=
  tblGet_tblSet_other _ m a b v h.1 ne

/-- A write keeps the canonical form. -/
theorem Memory.write_wf (m : List Host.Cell) (a : Nat) (v : Byte) (h : Memory.wf m) : Memory.wf (Memory.write m a v) :=
  tblSet_wf _ m a v h

/-- A run of writes keeps the canonical form. -/
theorem Memory.writeN_wf (m : List Host.Cell) (a : Nat) (vs : Bytes) (h : Memory.wf m) : Memory.wf (Memory.writeN m a vs) := by
  induction vs generalizing m a with
  | nil => exact h
  | cons v vs ih => exact ih _ _ (Memory.write_wf m a v h)

/-- Writes folded over a list keep the canonical form. -/
theorem Memory.foldl_write_wf {α : Type} (l : List α) (key : α → Nat) (val : α → Byte) (m : List Host.Cell) (h : Memory.wf m) :
    Memory.wf (l.foldl (fun m c => Memory.write m (key c) (val c)) m) := by
  induction l generalizing m with
  | nil => exact h
  | cons c l ih => exact ih _ (Memory.write_wf m _ _ h)

end Sys2Proof.Machine
end

