-- ==== Sys2Proof/Laws/Keeps.lean ====
section
/-!
SUPPORT. What every part of every command keeps: the ordering number, the serial number, the queue of waiting commands, all
that has been sent before, and the canonical form. Stated once as a relation between a state and a later one, with a lemma
for each way in which a state is built from another.
-/

namespace Sys2Proof.Machine

/-- What stands in s as it stood in an earlier state a. -/
structure Keeps (a s : State) : Prop where
  part : s.part = a.part
  serial : s.serial = a.serial
  pending : s.pending = a.pending
  out : a.out <+: s.out
  canonical : a.canonical → s.canonical

theorem Keeps.refl (a : State) : Keeps a a := ⟨rfl, rfl, rfl, List.prefix_refl _, id⟩

theorem Keeps.trans {a b c : State} (h : Keeps a b) (k : Keeps b c) : Keeps a c :=
  ⟨k.part.trans h.part, k.serial.trans h.serial, k.pending.trans h.pending, h.out.trans k.out, fun x => k.canonical (h.canonical x)⟩

/-- A change of fields that the relation does not speak of. -/
theorem Keeps.same {a s t : State} (h : Keeps a s) (h1 : t.part = s.part) (h2 : t.serial = s.serial) (h3 : t.pending = s.pending)
    (h4 : t.out = s.out) (hc : s.canonical → t.canonical) : Keeps a t :=
  ⟨h1.trans h.part, h2.trans h.serial, h3.trans h.pending, h4 ▸ h.out, fun c => hc (h.canonical c)⟩

/-! ## Setters -/

theorem Keeps.setMem {a s : State} (v) (h : Keeps a s) (hv : s.mem.wf → MemState.wf v) : Keeps a (s.setMem v) :=
  h.same rfl rfl rfl rfl fun c => ⟨hv c.mem, c.regs, c.queues, c.parts, c.comp, c.link, c.prom, c.time, c.spare, c.ledg, c.shep⟩
theorem Keeps.setRegs {a s : State} (v) (h : Keeps a s) (hv : s.regs.wf s.part → RegState.wf s.part v) : Keeps a (s.setRegs v) :=
  h.same rfl rfl rfl rfl fun c => ⟨c.mem, hv c.regs, c.queues, c.parts, c.comp, c.link, c.prom, c.time, c.spare, c.ledg, c.shep⟩
theorem Keeps.setQueues {a s : State} (v) (h : Keeps a s) (hv : tblWf {} s.queues → tblWf {} v) : Keeps a (s.setQueues v) :=
  h.same rfl rfl rfl rfl fun c => ⟨c.mem, c.regs, hv c.queues, c.parts, c.comp, c.link, c.prom, c.time, c.spare, c.ledg, c.shep⟩
theorem Keeps.setParts {a s : State} (v) (h : Keeps a s) (hv : partsWf s.parts → partsWf v) : Keeps a (s.setParts v) :=
  h.same rfl rfl rfl rfl fun c => ⟨c.mem, c.regs, c.queues, hv c.parts, c.comp, c.link, c.prom, c.time, c.spare, c.ledg, c.shep⟩
theorem Keeps.setComp {a s : State} (v) (h : Keeps a s) (hv : s.comp.wf → CompanyState.wf v) : Keeps a (s.setComp v) :=
  h.same rfl rfl rfl rfl fun c => ⟨c.mem, c.regs, c.queues, c.parts, hv c.comp, c.link, c.prom, c.time, c.spare, c.ledg, c.shep⟩
theorem Keeps.setLink {a s : State} (v) (h : Keeps a s) (hv : s.link.wf → LinkState.wf v) : Keeps a (s.setLink v) :=
  h.same rfl rfl rfl rfl fun c => ⟨c.mem, c.regs, c.queues, c.parts, c.comp, hv c.link, c.prom, c.time, c.spare, c.ledg, c.shep⟩
theorem Keeps.setProm {a s : State} (v) (h : Keeps a s) (hv : s.prom.wf → PromptState.wf v) : Keeps a (s.setProm v) :=
  h.same rfl rfl rfl rfl fun c => ⟨c.mem, c.regs, c.queues, c.parts, c.comp, c.link, hv c.prom, c.time, c.spare, c.ledg, c.shep⟩
theorem Keeps.setTime {a s : State} (v) (h : Keeps a s) (hv : s.time.wf → TimeState.wf v) : Keeps a (s.setTime v) :=
  h.same rfl rfl rfl rfl fun c => ⟨c.mem, c.regs, c.queues, c.parts, c.comp, c.link, c.prom, hv c.time, c.spare, c.ledg, c.shep⟩
theorem Keeps.setSpare {a s : State} (v) (h : Keeps a s) (hv : s.spare.wf → SpareState.wf v) : Keeps a (s.setSpare v) :=
  h.same rfl rfl rfl rfl fun c => ⟨c.mem, c.regs, c.queues, c.parts, c.comp, c.link, c.prom, c.time, hv c.spare, c.ledg, c.shep⟩
theorem Keeps.setLedg {a s : State} (v) (h : Keeps a s) (hv : s.ledg.wf → LedgState.wf v) : Keeps a (s.setLedg v) :=
  h.same rfl rfl rfl rfl fun c => ⟨c.mem, c.regs, c.queues, c.parts, c.comp, c.link, c.prom, c.time, c.spare, hv c.ledg, c.shep⟩
theorem Keeps.setShep {a s : State} (v) (h : Keeps a s) (hv : s.shep.wf → ShepState.wf v) : Keeps a (s.setShep v) :=
  h.same rfl rfl rfl rfl fun c => ⟨c.mem, c.regs, c.queues, c.parts, c.comp, c.link, c.prom, c.time, c.spare, c.ledg, hv c.shep⟩

theorem State.canonical_same {s t : State} (c : s.canonical) (h0 : t.part = s.part) (h_mem : t.mem = s.mem) (h_regs : t.regs = s.regs) (h_queues : t.queues = s.queues) (h_parts : t.parts = s.parts) (h_comp : t.comp = s.comp)
    (h_link : t.link = s.link) (h_prom : t.prom = s.prom) (h_time : t.time = s.time) (h_spare : t.spare = s.spare) (h_ledg : t.ledg = s.ledg) (h_shep : t.shep = s.shep) : t.canonical :=
  ⟨h_mem ▸ c.mem, h0 ▸ h_regs ▸ c.regs, h_queues ▸ c.queues, h_parts ▸ c.parts, h_comp ▸ c.comp, h_link ▸ c.link, h_prom ▸ c.prom, h_time ▸ c.time, h_spare ▸ c.spare, h_ledg ▸ c.ledg, h_shep ▸ c.shep⟩

theorem Keeps.other {a s t : State} (h : Keeps a s) (h0 : t.part = s.part) (h1 : t.serial = s.serial) (h2 : t.pending = s.pending)
    (h3 : t.out = s.out) (h_mem : t.mem = s.mem) (h_regs : t.regs = s.regs) (h_queues : t.queues = s.queues) (h_parts : t.parts = s.parts) (h_comp : t.comp = s.comp)
    (h_link : t.link = s.link) (h_prom : t.prom = s.prom) (h_time : t.time = s.time) (h_spare : t.spare = s.spare) (h_ledg : t.ledg = s.ledg) (h_shep : t.shep = s.shep) : Keeps a t :=
  h.same h0 h1 h2 h3 fun c => State.canonical_same c h0 h_mem h_regs h_queues h_parts h_comp h_link h_prom h_time h_spare h_ledg h_shep

theorem Keeps.setConfig {a s : State} (v) (h : Keeps a s) : Keeps a (s.setConfig v) :=
  h.other rfl rfl rfl rfl rfl rfl rfl rfl rfl rfl rfl rfl rfl rfl rfl
theorem Keeps.setInsts {a s : State} (v) (h : Keeps a s) : Keeps a (s.setInsts v) :=
  h.other rfl rfl rfl rfl rfl rfl rfl rfl rfl rfl rfl rfl rfl rfl rfl
theorem Keeps.setHost {a s : State} (v) (h : Keeps a s) : Keeps a (s.setHost v) :=
  h.other rfl rfl rfl rfl rfl rfl rfl rfl rfl rfl rfl rfl rfl rfl rfl
theorem Keeps.setFree {a s : State} (v) (h : Keeps a s) : Keeps a (s.setFree v) :=
  h.other rfl rfl rfl rfl rfl rfl rfl rfl rfl rfl rfl rfl rfl rfl rfl

theorem Keeps.emit {a s : State} (o : Out) (h : Keeps a s) : Keeps a (s.emit o) :=
  ⟨h.part, h.serial, h.pending, h.out.trans (List.prefix_append _ _), fun c => State.canonical_same (h.canonical c) rfl rfl rfl rfl rfl rfl rfl rfl rfl rfl rfl rfl⟩

/-! ## Ways of composing -/

theorem Keeps.ite {a s t : State} {c : Prop} [Decidable c] (h : Keeps a s) (k : Keeps a t) : Keeps a (if c then s else t) := by
  split <;> assumption

theorem Keeps.ite_fst {α : Type} {a : State} {s t : State × α} {c : Prop} [Decidable c] (h : Keeps a s.1) (k : Keeps a t.1) :
    Keeps a (if c then s else t).1 := by split <;> assumption

theorem Keeps.ite_snd {α : Type} {a : State} {s t : α × State} {c : Prop} [Decidable c] (h : Keeps a s.2) (k : Keeps a t.2) :
    Keeps a (if c then s else t).2 := by split <;> assumption

theorem Keeps.over {α : Type} {a s : State} {l : List α} {f : State → α → State} (h : Keeps a s)
    (hf : ∀ s x, Keeps a s → Keeps a (f s x)) : Keeps a (s.over l f) := by
  unfold State.over
  induction l generalizing s with
  | nil => exact h
  | cons x l ih => exact ih (hf s x h)

theorem Keeps.foldl {α : Type} {a s : State} {l : List α} {f : State → α → State} (h : Keeps a s)
    (hf : ∀ s x, Keeps a s → Keeps a (f s x)) : Keeps a (l.foldl f s) := Keeps.over h hf

theorem Keeps.foldl_fst {α β : Type} {a : State} {s : State × β} {l : List α} {f : State × β → α → State × β} (h : Keeps a s.1)
    (hf : ∀ s x, Keeps a s.1 → Keeps a (f s x).1) : Keeps a (l.foldl f s).1 := by
  induction l generalizing s with
  | nil => exact h
  | cons x l ih => exact ih (hf s x h)

theorem Keeps.foldl_snd {α β : Type} {a : State} {s : β × State} {l : List α} {f : β × State → α → β × State} (h : Keeps a s.2)
    (hf : ∀ s x, Keeps a s.2 → Keeps a (f s x).2) : Keeps a (l.foldl f s).2 := by
  induction l generalizing s with
  | nil => exact h
  | cons x l ih => exact ih (hf s x h)

theorem Keeps.when {a s : State} {c : Prop} [Decidable c] {f : State → State} (h : Keeps a s)
    (hf : ∀ s, Keeps a s → Keeps a (f s)) : Keeps a (s.when c f) := by
  unfold State.when; split
  · exact hf s h
  · exact h

theorem Keeps.clocked {a s : State} {f : State → State} (h : Keeps a s) (hf : ∀ s, Keeps a s → Keeps a (f s)) :
    Keeps a (s.clocked f) := by
  unfold State.clocked; split
  · exact hf s h
  · exact h

/-! ## Registers and memories -/

theorem RegState.wf_set {part : Part} {r : RegState} (k : Nat) (v : Word32) (h : r.wf part) :
    RegState.wf part { r with file := tblSet (regReset part k) r.file k v } :=
  ⟨⟨tblSet_pairwise _ _ _ _ h.1.1, fun x hx => by
    rcases mem_tblSet _ _ _ _ x hx with hx | ⟨rfl, hv⟩
    · exact h.1.2 x hx
    · exact hv⟩, h.2⟩

theorem Keeps.setWord {a s : State} (r v) (h : Keeps a s) : Keeps a (s.setWord r v) := h.setRegs _ fun k => RegState.wf_set _ _ k

theorem Keeps.setQueue {a s : State} (q v) (h : Keeps a s) : Keeps a (s.setQueue q v) := h.setQueues _ fun k => tblSet_wf _ _ _ _ k

/-- A partition's gates are in canonical form in a canonical state. -/
theorem State.gates_wf {s : State} (c : s.canonical) (p : Nat) : tblWf {} (s.partition p).gates := by
  unfold State.partition
  rcases tblGet_mem {} s.parts p with h | h
  · rw [h]; exact ⟨List.Pairwise.nil, fun x hx => absurd hx List.not_mem_nil⟩
  · exact c.parts.2 _ h

theorem Keeps.setPartition {a s : State} (p v) (h : Keeps a s) (hg : a.canonical → s.canonical → tblWf {} v.gates) :
    Keeps a (s.setPartition p v) :=
  ⟨h.part, h.serial, h.pending, h.out, fun ca =>
    let c := h.canonical ca
    ⟨c.mem, c.regs, c.queues, ⟨tblSet_wf _ _ _ _ c.parts.1, fun x hx => by
      rcases mem_tblSet _ _ _ _ x hx with hx | ⟨rfl, -⟩
      · exact c.parts.2 x hx
      · exact hg ca c⟩, c.comp, c.link, c.prom, c.time, c.spare, c.ledg, c.shep⟩⟩
theorem Keeps.setCompany {a s : State} (c v) (h : Keeps a s) : Keeps a (s.setCompany c v) :=
  h.setComp _ fun k => ⟨tblSet_wf _ _ _ _ k.1, k.2⟩
theorem Keeps.setCast {a s : State} (c v) (h : Keeps a s) : Keeps a (s.setCast c v) :=
  h.setComp _ fun k => ⟨k.1, tblSet_wf _ _ _ _ k.2.1, k.2.2⟩
theorem Keeps.setChainPort {a s : State} (c v) (h : Keeps a s) : Keeps a (s.setChainPort c v) :=
  h.setComp _ fun k => ⟨k.1, k.2.1, tblSet_wf _ _ _ _ k.2.2.1, k.2.2.2⟩
theorem Keeps.setApron {a s : State} (c v) (h : Keeps a s) : Keeps a (s.setApron c v) :=
  h.setComp _ fun k => ⟨k.1, k.2.1, k.2.2.1, tblSet_wf _ _ _ _ k.2.2.2⟩
theorem Keeps.setPort {a s : State} (c v) (h : Keeps a s) : Keeps a (s.setPort c v) := h.setLink _ fun k => ⟨tblSet_wf _ _ _ _ k.1, k.2⟩
theorem Keeps.setPeerPair {a s : State} (c v) (h : Keeps a s) : Keeps a (s.setPeerPair c v) :=
  h.setLink _ fun k => ⟨k.1, tblSet_wf _ _ _ _ k.2⟩
theorem Keeps.setBox {a s : State} (c v) (h : Keeps a s) : Keeps a (s.setBox c v) := h.setProm _ fun k => ⟨tblSet_wf _ _ _ _ k.1, k.2⟩

theorem Keeps.setTierMem {a s : State} (tier m) (h : Keeps a s) (hm : s.canonical → Memory.wf m) : Keeps a (s.setTierMem tier m) := by
  refine ⟨?_, ?_, ?_, ?_, fun c => ?_⟩
  · unfold State.setTierMem; split <;> exact h.part
  · unfold State.setTierMem; split <;> exact h.serial
  · unfold State.setTierMem; split <;> exact h.pending
  · unfold State.setTierMem; split <;> exact h.out
  · have hc := h.canonical c
    have hm := hm hc
    obtain ⟨⟨h1, h2, h3, h4, h5, h6, h7⟩, r1, r2, r3, r4, r5, r6, r7, r8, r9, r10⟩ := hc
    unfold State.setTierMem
    split <;> refine ⟨⟨?_, ?_, ?_, ?_, ?_, ?_, ?_⟩, r1, r2, r3, r4, r5, r6, r7, r8, r9, r10⟩ <;> assumption

/-- A tier's memory is canonical in a canonical state. -/
theorem State.tierMem_wf {s : State} (h : s.canonical) (tier : Nat) : Memory.wf (s.tierMem tier) := by
  obtain ⟨h1, h2, h3, h4, h5, h6, h7⟩ := h.mem
  unfold State.tierMem
  split <;> assumption

end Sys2Proof.Machine
end

