-- ==== Sys2Proof/Laws/KeepsTiers.lean ====
section
/-!
SUPPORT. What each operation keeps (Laws/Keeps.lean): registers, interrupts, memory tiers, packets, messages, resets and retirement. One lemma for each operation, named after it.
-/

namespace Sys2Proof.Machine

theorem State.setFld_keeps {s₀ s : State} (f : Fld) (v : Nat) (hk : Keeps s₀ s) : Keeps s₀ (State.setFld s f v) := by
  unfold State.setFld
  repeat' first
    | with_reducible assumption | with_reducible apply Keeps.setWord

theorem State.countFld_keeps {s₀ s : State} (f : Fld) (by' : Nat) (hk : Keeps s₀ s) : Keeps s₀ (State.countFld s f by') := by
  unfold State.countFld
  repeat' first
    | with_reducible assumption | with_reducible apply State.setFld_keeps

theorem State.setPair_keeps {s₀ s : State} (lo hi : Reg) (v : Nat) (hk : Keeps s₀ s) : Keeps s₀ (State.setPair s lo hi v) := by
  unfold State.setPair
  repeat' first
    | with_reducible assumption | with_reducible apply Keeps.setWord

theorem State.setQueue_keeps {s₀ s : State} (q : Nat) (v : Queue) (h : Keeps s₀ s) : Keeps s₀ (s.setQueue q v) := h.setQueue q v

theorem State.setPartition_keeps {s₀ s : State} (p : Nat) (v : Partition) (h : Keeps s₀ s)
    (hg : s₀.canonical → s.canonical → tblWf {} v.gates) : Keeps s₀ (s.setPartition p v) := h.setPartition p v hg

theorem State.setCompany_keeps {s₀ s : State} (c : Nat) (v : CompanyEntry) (h : Keeps s₀ s) : Keeps s₀ (s.setCompany c v) := h.setCompany c v

theorem State.setCast_keeps {s₀ s : State} (e : Nat) (v : CastEntry) (h : Keeps s₀ s) : Keeps s₀ (s.setCast e v) := h.setCast e v

theorem State.setChainPort_keeps {s₀ s : State} (n : Nat) (v : ChainPort) (h : Keeps s₀ s) : Keeps s₀ (s.setChainPort n v) := h.setChainPort n v

theorem State.setApron_keeps {s₀ s : State} (d : Nat) (v : Apron) (h : Keeps s₀ s) : Keeps s₀ (s.setApron d v) := h.setApron d v

theorem State.setPort_keeps {s₀ s : State} (p : Nat) (v : Port) (h : Keeps s₀ s) : Keeps s₀ (s.setPort p v) := h.setPort p v

theorem State.setPeerPair_keeps {s₀ s : State} (n : Nat) (v : Pair) (h : Keeps s₀ s) : Keeps s₀ (s.setPeerPair n v) := h.setPeerPair n v

theorem State.setBox_keeps {s₀ s : State} (b : Nat) (v : Box) (h : Keeps s₀ s) : Keeps s₀ (s.setBox b v) := h.setBox b v

theorem State.setGate_keeps {s₀ s : State} (p g : Nat) (v : Gate) (hk : Keeps s₀ s) : Keeps s₀ (State.setGate s p g v) := by
  unfold State.setGate
  repeat' first
    | with_reducible assumption | (with_reducible refine State.setPartition_keeps _ _ ?_ (fun _ c => State.gates_wf c _))
    | (with_reducible refine State.setPartition_keeps _ _ ?_ (fun c _ => State.gates_wf (Keeps.canonical (by assumption) c) _))
    | (refine State.setPartition_keeps _ _ ?_ (fun _ c => State.gates_wf c _))
    | exact State.setPartition_keeps _ _ (by assumption) (fun _ c => tblSet_wf _ _ _ _ (State.gates_wf c _))

theorem State.setFoldClock_keeps {s₀ s : State} (f : Nat) (v : Nat) (hk : Keeps s₀ s) : Keeps s₀ (State.setFoldClock s f v) := by
  unfold State.setFoldClock
  repeat' first
    | with_reducible assumption | with_reducible refine Keeps.setTime _ ?_ (fun k => ⟨k.1, tblSet_wf _ _ _ _ k.2⟩)

theorem State.setInst_keeps {s₀ s : State} (v : Inst) (hk : Keeps s₀ s) : Keeps s₀ (State.setInst s v) := by
  unfold State.setInst
  repeat' first
    | with_reducible assumption | with_reducible apply Keeps.setInsts | with_reducible apply Keeps.ite
    | with_reducible apply Keeps.ite_fst | with_reducible apply Keeps.ite_snd

theorem State.dropInst_keeps {s₀ s : State} (q i : Nat) (hk : Keeps s₀ s) : Keeps s₀ (State.dropInst s q i) := by
  unfold State.dropInst
  repeat' first
    | with_reducible assumption | with_reducible apply Keeps.setInsts

theorem State.setScene_keeps {s₀ s : State} (p : Nat) (sc : Scene) (hk : Keeps s₀ s) : Keeps s₀ (State.setScene s p sc) := by
  unfold State.setScene
  repeat' first
    | with_reducible assumption | with_reducible apply Keeps.ite | with_reducible apply Keeps.ite_fst
    | with_reducible apply Keeps.ite_snd | (with_reducible refine State.setPartition_keeps _ _ ?_ (fun _ c => State.gates_wf c _))

theorem State.drawNat_keeps {s₀ s : State}  (hk : Keeps s₀ s) : Keeps s₀ (State.drawNat s).2 := by
  unfold State.drawNat
  repeat' first
    | with_reducible assumption | with_reducible apply Keeps.setFree

theorem State.drawBool_keeps {s₀ s : State}  (hk : Keeps s₀ s) : Keeps s₀ (State.drawBool s).2 := by
  unfold State.drawBool
  repeat' first
    | with_reducible assumption | with_reducible apply Keeps.setFree

theorem State.drawBytes_keeps {s₀ s : State} (n : Nat) (hk : Keeps s₀ s) : Keeps s₀ (State.drawBytes s n).2 := by
  unfold State.drawBytes
  repeat' first
    | with_reducible assumption | with_reducible apply Keeps.setFree

theorem State.msix_keeps {s₀ s : State} (fn entry : Nat) (hk : Keeps s₀ s) : Keeps s₀ (State.msix s fn entry) := by
  unfold State.msix
  repeat' first
    | with_reducible assumption | intro _ | with_reducible apply Keeps.when | with_reducible apply Keeps.emit

theorem State.raiseVector_keeps {s₀ s : State} (p v : Nat) (hk : Keeps s₀ s) : Keeps s₀ (State.raiseVector s p v) := by
  unfold State.raiseVector
  repeat' first
    | with_reducible assumption | with_reducible apply Keeps.ite | with_reducible apply Keeps.ite_fst | with_reducible apply Keeps.ite_snd
    | with_reducible apply State.msix_keeps | split

theorem State.writeHost_keeps {s₀ s : State} (fn a : Nat) (bs : Bytes) (h : Keeps s₀ s) : Keeps s₀ (s.writeHost fn a bs) :=
  h.setMem _ fun ⟨h1, h2, h3, h4, h5, h6, h7⟩ => ⟨h1, h2, h3, Memory.writeN_wf _ _ _ h4, h5, h6, h7⟩

theorem State.eventLost_keeps {s₀ s : State}  (hk : Keeps s₀ s) : Keeps s₀ (State.eventLost s) := by
  unfold State.eventLost
  repeat' first
    | with_reducible assumption | with_reducible apply State.countFld_keeps

theorem State.eventWrite_keeps {s₀ s : State} (code unit detail cue : Nat) (hk : Keeps s₀ s) :
    Keeps s₀ (State.eventWrite s code unit detail cue) := by
  unfold State.eventWrite
  repeat' first
    | with_reducible assumption | with_reducible apply Keeps.ite | with_reducible apply Keeps.ite_fst | with_reducible apply Keeps.ite_snd
    | with_reducible apply Keeps.setHost | with_reducible apply State.eventLost_keeps | with_reducible apply State.writeHost_keeps
    | with_reducible apply State.setFld_keeps

theorem State.hubEvent_keeps {s₀ s : State} (e : HistoryEntry) (hk : Keeps s₀ s) : Keeps s₀ (State.hubEvent s e) := by
  unfold State.hubEvent
  repeat' first
    | with_reducible assumption | with_reducible refine Keeps.setLedg _ ?_ (fun h => h)

theorem State.raiseGlobal_keeps {s₀ s : State} (code : Nat) (unit : Nat := 0) (hk : Keeps s₀ s) :
    Keeps s₀ (State.raiseGlobal s code unit) := by
  unfold State.raiseGlobal
  repeat' first
    | with_reducible assumption | with_reducible apply Keeps.ite | with_reducible apply Keeps.ite_fst | with_reducible apply Keeps.ite_snd
    | with_reducible apply Keeps.setHost | with_reducible apply Keeps.emit | with_reducible apply State.drawNat_keeps
    | with_reducible apply State.hubEvent_keeps | with_reducible apply State.eventWrite_keeps | with_reducible apply State.eventLost_keeps
    | with_reducible apply State.msix_keeps

theorem State.raiseEvent_keeps {s₀ s : State} (p code : Nat) (hk : Keeps s₀ s) : Keeps s₀ (State.raiseEvent s p code) := by
  unfold State.raiseEvent
  repeat' first
    | with_reducible assumption | with_reducible apply State.drawNat_keeps | with_reducible apply State.hubEvent_keeps
    | with_reducible apply State.raiseVector_keeps

theorem State.wignOther_keeps {s₀ s : State} (window : Option Nat) (offset : Nat) (hk : Keeps s₀ s) :
    Keeps s₀ (State.wignOther s window offset) := by
  unfold State.wignOther
  repeat' first
    | with_reducible assumption | with_reducible apply Keeps.ite | with_reducible apply Keeps.ite_fst | with_reducible apply Keeps.ite_snd
    | with_reducible apply State.setFld_keeps | with_reducible apply State.raiseGlobal_keeps
    | with_reducible apply State.raiseVector_keeps | with_reducible apply State.raiseEvent_keeps | split

theorem State.wignPar_keeps {s₀ s : State} (window : Option Nat) (p : Nat) (hk : Keeps s₀ s) : Keeps s₀ (State.wignPar s window p) := by
  unfold State.wignPar
  repeat' first
    | with_reducible assumption | with_reducible apply State.setFld_keeps | with_reducible apply State.raiseGlobal_keeps
    | with_reducible apply State.raiseVector_keeps | with_reducible apply State.raiseEvent_keeps | split

theorem State.setPoison_keeps {s₀ s : State} (tier : Nat) (l : List Nat) (h : Keeps s₀ s) : Keeps s₀ (s.setPoison tier l) := by
  unfold State.setPoison
  split
  · exact h.setMem _ fun k => k
  · exact h.setMem _ fun k => k
  · exact h.setMem _ fun k => k
  · exact h

theorem State.addPoison_keeps {s₀ s : State} (tier k : Nat) (hk : Keeps s₀ s) : Keeps s₀ (State.addPoison s tier k) := by
  unfold State.addPoison
  repeat' first
    | with_reducible assumption | with_reducible apply Keeps.ite | with_reducible apply Keeps.ite_fst | with_reducible apply Keeps.ite_snd
    | with_reducible apply State.setPoison_keeps

theorem State.touch_keeps {s₀ s : State} (hint : Nat) (write : Bool) (addrs : List Nat) (hk : Keeps s₀ s) :
    Keeps s₀ (State.touch s hint write addrs) := by
  unfold State.touch
  repeat' first
    | with_reducible assumption | intro _ | with_reducible apply Keeps.ite | with_reducible apply Keeps.ite_fst
    | with_reducible apply Keeps.ite_snd | with_reducible apply Keeps.foldl | with_reducible apply Keeps.foldl_fst
    | with_reducible apply Keeps.foldl_snd | with_reducible refine Keeps.setMem _ ?_ (fun h => h)

theorem State.staleDescriptors_keeps {s₀ s : State} (p : Nat) (addrs : List Nat) (h : Keeps s₀ s) :
    Keeps s₀ (s.staleDescriptors p addrs) := by
  unfold State.staleDescriptors
  split
  · exact h
  · refine h.setQueues _ fun k => tblWf_filterMap _ _ _ k fun x hx y hy => ?_
    split at hy
    · dsimp only at hy
      split at hy
      · cases hy
      · next ne =>
        injection hy with hy
        exact hy ▸ ⟨rfl, ne⟩
    · injection hy with hy
      exact hy ▸ ⟨rfl, k.2 x hx⟩

theorem State.mend_keeps {s₀ s : State} (tier : Nat) (keys : List Nat) (hk : Keeps s₀ s) : Keeps s₀ (State.mend s tier keys) := by
  unfold State.mend
  repeat' first
    | with_reducible assumption | with_reducible apply Keeps.ite | with_reducible apply Keeps.ite_fst | with_reducible apply Keeps.ite_snd
    | with_reducible apply State.setPoison_keeps | with_reducible refine Keeps.setMem _ ?_ (fun h => h)

theorem State.writeCells_keeps {s₀ s : State} (tier who : Nat) (cells : List (Nat × Byte)) (h : Keeps s₀ s) :
    Keeps s₀ (s.writeCells tier who cells) :=
  State.mend_keeps _ _ (h.setTierMem _ _ fun c => Memory.foldl_write_wf _ _ _ _ (State.tierMem_wf c tier))

theorem State.writeTier_keeps {s₀ s : State} (tier who a : Nat) (bs : Bytes) (hk : Keeps s₀ s) :
    Keeps s₀ (State.writeTier s tier who a bs) := by
  unfold State.writeTier
  repeat' first
    | with_reducible assumption | with_reducible apply State.writeCells_keeps

theorem State.undefine_keeps {s₀ s : State} (tier who a n : Nat) (h : Keeps s₀ s) : Keeps s₀ (s.undefine tier who a n) :=
  (State.drawBytes_keeps n h).setTierMem _ _ fun c => Memory.writeN_wf _ _ _ (State.tierMem_wf c tier)

theorem State.undefineCells_keeps {s₀ s : State} (tier : Nat) (which : Nat → Bool) (h : Keeps s₀ s) :
    Keeps s₀ (s.undefineCells tier which) :=
  (State.drawBytes_keeps _ h).setTierMem _ _ fun c => Memory.foldl_write_wf _ _ _ _ (State.tierMem_wf c tier)

theorem State.discardLines_keeps {s₀ s : State} (ls : List Nat) (hk : Keeps s₀ s) : Keeps s₀ (State.discardLines s ls) := by
  unfold State.discardLines
  repeat' first
    | with_reducible assumption | intro _ | with_reducible apply Keeps.over | with_reducible apply State.undefine_keeps
    | with_reducible refine Keeps.setMem _ ?_ (fun h => h)

theorem State.readThrough_keeps {s₀ s : State} (hint : Nat) (units : List (List Nat)) (hk : Keeps s₀ s) :
    Keeps s₀ (State.readThrough s hint units) := by
  unfold State.readThrough
  repeat' first
    | with_reducible assumption | with_reducible apply Keeps.ite | with_reducible apply Keeps.ite_fst
    | with_reducible apply Keeps.ite_snd | with_reducible apply State.touch_keeps | with_reducible apply State.discardLines_keeps

theorem State.undefineExtent_keeps {s₀ s : State} (fn : Nat) (clusters : List Nat) (e : Extent) (hk : Keeps s₀ s) :
    Keeps s₀ (State.undefineExtent s fn clusters e) := by
  unfold State.undefineExtent
  repeat' first
    | with_reducible assumption | intro _ | with_reducible apply Keeps.ite | with_reducible apply Keeps.ite_fst
    | with_reducible apply Keeps.ite_snd | with_reducible apply Keeps.over | with_reducible apply State.undefine_keeps

theorem State.fetchDescs_keeps {s₀ s : State} (q table : Nat) (l : List Nat) (h : Keeps s₀ s) : Keeps s₀ (s.fetchDescs q table l).1 := by
  induction l generalizing s with
  | nil => exact h
  | cons i t ih =>
    unfold State.fetchDescs
    split
    · exact ih h
    · dsimp only
      split
      · exact h
      · exact ih (State.setQueue_keeps _ _ h)

theorem State.dropBuffer_keeps {s₀ s : State} (q : Nat) (hk : Keeps s₀ s) : Keeps s₀ (State.dropBuffer s q) := by
  unfold State.dropBuffer
  repeat' first
    | with_reducible assumption | with_reducible apply State.setQueue_keeps

theorem State.writePart_keeps {s₀ s : State} (p tier who : Nat) (hint : Nat) (cells : List (Nat × Byte)) (hk : Keeps s₀ s) :
    Keeps s₀ (State.writePart s p tier who hint cells) := by
  unfold State.writePart
  repeat' first
    | with_reducible assumption | with_reducible apply Keeps.ite | with_reducible apply Keeps.ite_fst | with_reducible apply Keeps.ite_snd
    | with_reducible apply State.writeCells_keeps | with_reducible apply State.staleDescriptors_keeps
    | with_reducible apply State.touch_keeps

theorem State.setLastEvent_keeps {s₀ s : State} (q ev : Nat) (hk : Keeps s₀ s) : Keeps s₀ (State.setLastEvent s q ev) := by
  unfold State.setLastEvent
  repeat' first
    | with_reducible assumption | with_reducible apply State.setFld_keeps

theorem State.haltQueue_keeps {s₀ s : State} (q : Nat) (hk : Keeps s₀ s) : Keeps s₀ (State.haltQueue s q) := by
  unfold State.haltQueue
  repeat' first
    | with_reducible assumption | with_reducible apply State.setFld_keeps

theorem State.noteEvent_keeps {s₀ s : State} (p : Nat) (scene : Option Nat) (ev : Nat) (hk : Keeps s₀ s) :
    Keeps s₀ (State.noteEvent s p scene ev) := by
  unfold State.noteEvent
  repeat' first
    | with_reducible assumption | with_reducible apply Keeps.ite | with_reducible apply Keeps.ite_fst
    | with_reducible apply Keeps.ite_snd | with_reducible apply State.setScene_keeps | split

theorem State.writeRecord_keeps {s₀ s : State} (p q i : Nat) (rec : Bytes) (hk : Keeps s₀ s) :
    Keeps s₀ (State.writeRecord s p q i rec) := by
  unfold State.writeRecord
  repeat' first
    | with_reducible assumption | with_reducible apply Keeps.ite | with_reducible apply Keeps.ite_fst | with_reducible apply Keeps.ite_snd
    | with_reducible apply State.raiseVector_keeps | with_reducible apply State.setLastEvent_keeps
    | with_reducible apply State.haltQueue_keeps | with_reducible apply State.writeHost_keeps | with_reducible apply State.writePart_keeps
    | with_reducible apply State.raiseEvent_keeps

theorem State.sendPackets_keeps {s₀ s : State} (node part k : Nat) (mk : Nat → Out) (hk : Keeps s₀ s) :
    Keeps s₀ (State.sendPackets s node part k mk) := by
  unfold State.sendPackets
  repeat' first
    | with_reducible assumption | with_reducible apply Keeps.ite | with_reducible apply Keeps.ite_fst | with_reducible apply Keeps.ite_snd
    | with_reducible apply Keeps.emit | with_reducible apply State.setPeerPair_keeps

theorem State.ackPackets_keeps {s₀ s : State} (node upto : Nat) (hk : Keeps s₀ s) : Keeps s₀ (State.ackPackets s node upto) := by
  unfold State.ackPackets
  repeat' first
    | with_reducible assumption | intro _ | with_reducible apply Keeps.over | with_reducible apply Keeps.emit
    | with_reducible apply State.setPeerPair_keeps

theorem State.sendPeer_keeps {s₀ s : State} (p rank addr : Nat) (bs : Bytes) (hk : Keeps s₀ s) :
    Keeps s₀ (State.sendPeer s p rank addr bs).1 := by
  unfold State.sendPeer
  repeat' first
    | with_reducible assumption | intro _ | with_reducible apply Keeps.foldl | with_reducible apply Keeps.foldl_fst
    | with_reducible apply Keeps.foldl_snd | with_reducible apply State.sendPackets_keeps

theorem State.sendRead_keeps {s₀ s : State} (p rank addr len : Nat) (hk : Keeps s₀ s) :
    Keeps s₀ (State.sendRead s p rank addr len).1 := by
  unfold State.sendRead
  repeat' first
    | with_reducible assumption | with_reducible apply State.sendPackets_keeps

theorem State.sendCollTo_keeps {s₀ s : State} (t : Party) (e : RosterEntry) (dst type : Nat) (payload : Bytes := []) (count unit reason : Nat := 0) (absent node : Nat := 65535) (slot : Nat := 0) (cue : Option Nat := none) (level : Nat := 0) (hk : Keeps s₀ s) :
    Keeps s₀ (State.sendCollTo s t e dst type payload count unit reason absent node slot cue level) := by
  unfold State.sendCollTo
  repeat' first
    | with_reducible assumption | with_reducible apply State.sendPackets_keeps

theorem State.sendColl_keeps {s₀ s : State} (t : Party) (dst type : Nat) (payload : Bytes := []) (count unit reason : Nat := 0) (absent node : Nat := 65535) (slot : Nat := 0) (cue : Option Nat := none) (level : Nat := 0) (hk : Keeps s₀ s) :
    Keeps s₀ (State.sendColl s t dst type payload count unit reason absent node slot cue level) := by
  unfold State.sendColl
  repeat' first
    | with_reducible assumption | with_reducible apply State.sendCollTo_keeps

theorem State.sendCollAll_keeps {s₀ s : State} (t : Party) (ranks : List Nat) (type : Nat) (reason : Nat := 0) (absent : Nat := 65535) (cue : Option Nat := none) (hk : Keeps s₀ s) :
    Keeps s₀ (State.sendCollAll s t ranks type reason absent cue) := by
  unfold State.sendCollAll
  repeat' first
    | with_reducible assumption | intro _ | with_reducible apply Keeps.over | with_reducible apply State.sendColl_keeps

theorem State.poisonColl_keeps {s₀ s : State} (p : Nat) (c : Coll) (reason : Nat) (hk : Keeps s₀ s) :
    Keeps s₀ (State.poisonColl s p c reason) := by
  unfold State.poisonColl
  repeat' first
    | with_reducible assumption | with_reducible apply State.sendCollAll_keeps

theorem State.addRelay_keeps {s₀ s : State} (r : Relay) (hk : Keeps s₀ s) : Keeps s₀ (State.addRelay s r) := by
  unfold State.addRelay
  repeat' first
    | with_reducible assumption | with_reducible refine Keeps.setComp _ ?_ (fun h => h)

theorem State.sendRing_keeps {s₀ s : State} (p : Nat) (r : Ring) (dst type : Nat) (payload : Bytes := []) (sweep step owner : Nat := 0) (reason : Nat := 0) (absent : Nat := 65535) (slot : Nat := 0) (cue : Option Nat := none) (level : Nat := 0) (hk : Keeps s₀ s) :
    Keeps s₀ (State.sendRing s p r dst type payload sweep step owner reason absent slot cue level) := by
  unfold State.sendRing
  repeat' first
    | with_reducible assumption | with_reducible apply State.sendPackets_keeps

theorem State.sendRingBoth_keeps {s₀ s : State} (p : Nat) (r : Ring) (type : Nat) (reason : Nat := 0) (absent : Nat := 65535) (hk : Keeps s₀ s) :
    Keeps s₀ (State.sendRingBoth s p r type reason absent) := by
  unfold State.sendRingBoth
  repeat' first
    | with_reducible assumption | intro _ | with_reducible apply Keeps.over | with_reducible apply State.sendRing_keeps

theorem State.tagWord_keeps {s₀ s : State} (p g : Nat) (hk : Keeps s₀ s) : Keeps s₀ (State.tagWord s p g) := by
  unfold State.tagWord
  repeat' first
    | with_reducible assumption | with_reducible apply Keeps.ite | with_reducible apply Keeps.ite_fst | with_reducible apply Keeps.ite_snd
    | with_reducible apply State.writeTier_keeps

theorem State.releaseGate_keeps {s₀ s : State} (p g : Nat) (hk : Keeps s₀ s) : Keeps s₀ (State.releaseGate s p g) := by
  unfold State.releaseGate
  repeat' first
    | with_reducible assumption | with_reducible apply State.setGate_keeps

theorem State.breakHold_keeps {s₀ s : State} (p : Nat) (h : Hold) (hk : Keeps s₀ s) : Keeps s₀ (State.breakHold s p h) := by
  unfold State.breakHold
  repeat' first
    | with_reducible assumption | with_reducible apply State.setGate_keeps | with_reducible apply State.tagWord_keeps

theorem State.breakHolds_keeps {s₀ s : State} (p : Nat) (hs : List Hold) (hk : Keeps s₀ s) : Keeps s₀ (State.breakHolds s p hs) := by
  unfold State.breakHolds
  repeat' first
    | with_reducible assumption | intro _ | with_reducible apply Keeps.over | with_reducible apply State.breakHold_keeps

theorem State.loseOuts_keeps {s₀ s : State} (i : Inst) (hk : Keeps s₀ s) : Keeps s₀ (State.loseOuts s i) := by
  unfold State.loseOuts
  repeat' first
    | with_reducible assumption | intro _ | with_reducible apply Keeps.over | with_reducible apply State.undefineExtent_keeps

theorem State.poisonInst_keeps {s₀ s : State} (i : Inst) (reason : Nat) (hk : Keeps s₀ s) : Keeps s₀ (State.poisonInst s i reason) := by
  unfold State.poisonInst
  repeat' first
    | with_reducible assumption | with_reducible apply Keeps.ite | with_reducible apply Keeps.ite_fst
    | with_reducible apply Keeps.ite_snd | with_reducible apply State.poisonColl_keeps | with_reducible apply State.sendRingBoth_keeps
    | split

theorem State.leaveLater_keeps {s₀ s : State} (i : Inst) (reason : Nat) (hk : Keeps s₀ s) : Keeps s₀ (State.leaveLater s i reason) := by
  unfold State.leaveLater
  repeat' first
    | with_reducible assumption | intro _ | with_reducible apply Keeps.over | with_reducible apply State.addRelay_keeps
    | with_reducible apply State.poisonColl_keeps

theorem State.resetQueue_keeps {s₀ s : State} (q : Nat) (hk : Keeps s₀ s) : Keeps s₀ (State.resetQueue s q) := by
  unfold State.resetQueue
  repeat' first
    | with_reducible assumption | with_reducible apply State.setFld_keeps | with_reducible apply State.setQueue_keeps | split

theorem State.zeroLocal_keeps {s₀ s : State} (folds : List Nat) (h : Keeps s₀ s) : Keeps s₀ (s.zeroLocal folds) :=
  h.setMem _ fun ⟨h1, h2, h3, h4, h5, h6, h7⟩ => ⟨tblWf_filter _ _ _ h1, h2, h3, h4, h5, h6, h7⟩

theorem State.zeroClaims_keeps {s₀ s : State} (b : PartBlock) (h : Keeps s₀ s) : Keeps s₀ (s.zeroClaims b) :=
  h.setMem _ fun ⟨h1, h2, h3, h4, h5, h6, h7⟩ => ⟨h1, tblWf_filter _ _ _ h2, h3, h4, h5, h6, h7⟩

theorem State.breakPorts_keeps {s₀ s : State} (p : Nat) (hk : Keeps s₀ s) : Keeps s₀ (State.breakPorts s p) := by
  unfold State.breakPorts
  repeat' first
    | with_reducible assumption | intro _ | with_reducible apply Keeps.over | with_reducible apply State.setChainPort_keeps
    | with_reducible apply Keeps.ite | with_reducible apply Keeps.ite_fst | with_reducible apply Keeps.ite_snd

theorem State.dropPackets_keeps {s₀ s : State} (p : Nat) (h : Keeps s₀ s) : Keeps s₀ (s.dropPackets p) := by
  unfold State.dropPackets
  dsimp only
  refine Keeps.over ?_ fun s x k => State.setPeerPair_keeps _ _ k
  refine h.setLink _ fun k => ⟨tblWf_filterMap _ _ _ k.1 fun x hx y hy => ?_, k.2⟩
  split at hy
  · cases hy
  · next ne =>
    injection hy with hy
    exact hy ▸ ⟨rfl, ne⟩

theorem State.abandonInst_keeps {s₀ s : State} (i : Inst) (hk : Keeps s₀ s) : Keeps s₀ (State.abandonInst s i) := by
  unfold State.abandonInst
  repeat' first
    | with_reducible assumption | intro _ | with_reducible apply Keeps.when | with_reducible apply Keeps.ite
    | with_reducible apply Keeps.ite_fst | with_reducible apply Keeps.ite_snd | with_reducible apply State.leaveLater_keeps
    | with_reducible apply State.poisonInst_keeps | with_reducible apply State.releaseGate_keeps
    | with_reducible apply State.addRelay_keeps | with_reducible apply State.loseOuts_keeps | split

theorem State.dropWaiters_keeps {s₀ s : State} (p : Nat) (h : Keeps s₀ s) : Keeps s₀ (s.dropWaiters p) :=
  State.setPartition_keeps _ _ h fun _ c => tblWf_filterMap _ _ _ (State.gates_wf c p) fun x _ y hy => by
    dsimp only at hy
    split at hy
    · cases hy
    · next ne =>
      injection hy with hy
      exact hy ▸ ⟨rfl, ne⟩

theorem State.resetWork_keeps {s₀ s : State} (p : Nat) (disables : Bool) (hk : Keeps s₀ s) : Keeps s₀ (State.resetWork s p disables) := by
  unfold State.resetWork
  repeat' first
    | with_reducible assumption | intro _ | with_reducible apply Keeps.over | with_reducible apply Keeps.setInsts
    | with_reducible apply State.abandonInst_keeps | with_reducible apply State.breakHolds_keeps
    | with_reducible apply State.breakPorts_keeps | with_reducible apply State.dropWaiters_keeps
    | with_reducible apply State.resetQueue_keeps | with_reducible apply State.setFld_keeps | with_reducible apply State.zeroClaims_keeps
    | with_reducible apply State.zeroLocal_keeps | (with_reducible refine State.setPartition_keeps _ _ ?_ (fun _ c => State.gates_wf c _))
    | (with_reducible refine State.setPartition_keeps _ _ ?_ (fun c _ => State.gates_wf (Keeps.canonical (by assumption) c) _))
    | (refine State.setPartition_keeps _ _ ?_ (fun _ c => State.gates_wf c _))

theorem State.resetPartition_keeps {s₀ s : State} (p : Nat) (disables : Bool) (hk : Keeps s₀ s) :
    Keeps s₀ (State.resetPartition s p disables) := by
  unfold State.resetPartition
  repeat' first
    | with_reducible assumption | intro _ | with_reducible apply Keeps.over | with_reducible apply Keeps.setInsts
    | with_reducible apply State.abandonInst_keeps | with_reducible apply State.breakPorts_keeps
    | with_reducible apply State.dropWaiters_keeps | with_reducible apply State.breakHolds_keeps
    | with_reducible apply State.resetQueue_keeps | with_reducible apply State.dropPackets_keeps
    | with_reducible apply State.zeroLocal_keeps | with_reducible apply State.zeroClaims_keeps | with_reducible apply State.setFld_keeps
    | (with_reducible refine State.setPartition_keeps _ _ ?_ (fun _ c => State.gates_wf c _)) | with_reducible apply State.resetWork_keeps

theorem State.triggerReset_keeps {s₀ s : State} (p : Nat) (disables : Bool := false) (hk : Keeps s₀ s) :
    Keeps s₀ (State.triggerReset s p disables) := by
  unfold State.triggerReset
  repeat' first
    | with_reducible assumption | with_reducible apply Keeps.ite | with_reducible apply Keeps.ite_fst | with_reducible apply Keeps.ite_snd
    | with_reducible apply State.resetPartition_keeps

theorem State.sendAbsent_keeps {s₀ s : State} (p rank : Nat) (hk : Keeps s₀ s) : Keeps s₀ (State.sendAbsent s p rank) := by
  unfold State.sendAbsent
  repeat' first
    | with_reducible assumption | intro _ | with_reducible apply State.sendCollAll_keeps | with_reducible apply Keeps.when | split

theorem State.withdrawPart_keeps {s₀ s : State} (p : Nat) (hk : Keeps s₀ s) : Keeps s₀ (State.withdrawPart s p) := by
  unfold State.withdrawPart
  repeat' first
    | with_reducible assumption | intro _ | with_reducible apply Keeps.when | with_reducible apply State.dropPackets_keeps
    | with_reducible apply State.resetWork_keeps | with_reducible apply State.sendAbsent_keeps | with_reducible apply State.setFld_keeps
    | split | dsimp only

theorem State.beginRecord_keeps {s₀ s : State} (kind : Nat) (hk : Keeps s₀ s) : Keeps s₀ (State.beginRecord s kind) := by
  unfold State.beginRecord
  repeat' first
    | with_reducible assumption | with_reducible apply Keeps.ite | with_reducible apply Keeps.ite_fst
    | with_reducible apply Keeps.ite_snd | with_reducible apply State.setFld_keeps
    | with_reducible refine Keeps.setLedg _ ?_ (fun h => h)

theorem State.noteHistory_keeps {s₀ s : State} (code unit : Nat) (hk : Keeps s₀ s) : Keeps s₀ (State.noteHistory s code unit) := by
  unfold State.noteHistory
  repeat' first
    | with_reducible assumption | with_reducible apply State.drawNat_keeps | with_reducible refine Keeps.setLedg _ ?_ (fun h => h)

theorem State.recordSparing_keeps {s₀ s : State} (unit : Nat) (hk : Keeps s₀ s) : Keeps s₀ (State.recordSparing s unit) := by
  unfold State.recordSparing
  repeat' first
    | with_reducible assumption | with_reducible apply State.beginRecord_keeps | with_reducible apply State.drawNat_keeps
    | with_reducible apply State.noteHistory_keeps

theorem State.withdraw_keeps {s₀ s : State}  (hk : Keeps s₀ s) : Keeps s₀ (State.withdraw s) := by
  unfold State.withdraw
  repeat' first
    | with_reducible assumption | intro _ | with_reducible apply Keeps.ite | with_reducible apply Keeps.ite_fst
    | with_reducible apply Keeps.ite_snd | with_reducible apply Keeps.over | with_reducible apply State.sendAbsent_keeps
    | with_reducible apply State.triggerReset_keeps | with_reducible apply State.setFld_keeps
    | with_reducible apply State.raiseGlobal_keeps | with_reducible apply State.recordSparing_keeps
    | with_reducible apply State.withdrawPart_keeps | split

theorem State.relayAbsent_keeps {s₀ s : State} (p : Nat) (r : ResBlock) (e : CompanyEntry) (rank cue : Nat) (hk : Keeps s₀ s) :
    Keeps s₀ (State.relayAbsent s p r e rank cue) := by
  unfold State.relayAbsent
  repeat' first
    | with_reducible assumption | intro _ | with_reducible apply Keeps.ite | with_reducible apply Keeps.ite_fst
    | with_reducible apply Keeps.ite_snd | with_reducible apply Keeps.over | with_reducible apply State.sendCollAll_keeps
    | with_reducible apply State.sendCollTo_keeps

theorem State.noteAbsent_keeps {s₀ s : State} (node cue p : Nat) (hk : Keeps s₀ s) : Keeps s₀ (State.noteAbsent s node cue p) := by
  unfold State.noteAbsent
  repeat' first
    | with_reducible assumption | with_reducible apply Keeps.ite | with_reducible apply Keeps.ite_fst | with_reducible apply Keeps.ite_snd
    | with_reducible apply State.setFld_keeps | (with_reducible refine State.setPartition_keeps _ _ ?_ (fun _ c => State.gates_wf c _))

theorem State.holdAbsent_keeps {s₀ s : State} (p company rank cue : Nat) (hk : Keeps s₀ s) :
    Keeps s₀ (State.holdAbsent s p company rank cue) := by
  unfold State.holdAbsent
  repeat' first
    | with_reducible assumption | intro _ | with_reducible apply Keeps.ite | with_reducible apply Keeps.ite_fst
    | with_reducible apply Keeps.ite_snd | with_reducible apply Keeps.over | with_reducible apply State.withdraw_keeps
    | with_reducible apply State.relayAbsent_keeps | with_reducible apply State.noteAbsent_keeps | split | dsimp only

theorem State.cyclesSince_keeps {s₀ s : State} (p start : Nat) (hk : Keeps s₀ s) : Keeps s₀ (State.cyclesSince s p start).2 := by
  unfold State.cyclesSince
  repeat' first
    | with_reducible assumption | with_reducible apply State.drawNat_keeps

theorem State.retireWith_keeps {s₀ s : State} (i : Inst) (event count : Nat) (halts : Bool) (hk : Keeps s₀ s) :
    Keeps s₀ (State.retireWith s i event count halts) := by
  unfold State.retireWith
  repeat' first
    | with_reducible assumption | intro _ | with_reducible apply Keeps.over | with_reducible apply Keeps.when
    | with_reducible apply State.cyclesSince_keeps | with_reducible apply State.dropInst_keeps
    | with_reducible apply State.writeRecord_keeps | with_reducible apply State.raiseVector_keeps
    | with_reducible apply State.setLastEvent_keeps | with_reducible apply State.noteEvent_keeps
    | with_reducible apply State.haltQueue_keeps | with_reducible apply State.withdraw_keeps

theorem State.retire_keeps {s₀ s : State} (i : Inst) (event count : Nat) (hk : Keeps s₀ s) : Keeps s₀ (State.retire s i event count) := by
  unfold State.retire
  repeat' first
    | with_reducible assumption | with_reducible apply State.retireWith_keeps

theorem State.writeStatus_keeps {s₀ s : State} (i : Inst) (d : Option Desc) (bs : Bytes) (hk : Keeps s₀ s) :
    Keeps s₀ (State.writeStatus s i d bs).1 := by
  unfold State.writeStatus
  repeat' first
    | with_reducible assumption | with_reducible apply Keeps.ite | with_reducible apply Keeps.ite_fst
    | with_reducible apply Keeps.ite_snd | with_reducible apply State.sendPeer_keeps | with_reducible apply State.writePart_keeps | split

theorem State.writeRingStatus_keeps {s₀ s : State} (i : Inst) (r : Ring) (event : Nat) (hk : Keeps s₀ s) :
    Keeps s₀ (State.writeRingStatus s i r event).1 := by
  unfold State.writeRingStatus
  repeat' first
    | with_reducible assumption | with_reducible apply State.writeStatus_keeps

theorem State.writeCollStatus_keeps {s₀ s : State} (i : Inst) (c : Coll) (event : Nat) (hk : Keeps s₀ s) :
    Keeps s₀ (State.writeCollStatus s i c event).1 := by
  unfold State.writeCollStatus
  repeat' first
    | with_reducible assumption | with_reducible apply State.writeStatus_keeps

theorem State.leaveGate_keeps {s₀ s : State} (i : Inst) (hk : Keeps s₀ s) : Keeps s₀ (State.leaveGate s i) := by
  unfold State.leaveGate
  repeat' first
    | with_reducible assumption | with_reducible apply State.setGate_keeps | split

theorem State.setPoint_keeps {s₀ s : State} (i : Inst) (point : Option Nat) (hk : Keeps s₀ s) :
    Keeps s₀ (State.setPoint s i point) := by
  unfold State.setPoint
  repeat' first
    | with_reducible assumption | with_reducible apply State.setScene_keeps | split

theorem State.leavePoint_keeps {s₀ s : State} (i : Inst) (r : Ring) (hk : Keeps s₀ s) : Keeps s₀ (State.leavePoint s i r) := by
  unfold State.leavePoint
  repeat' first
    | with_reducible assumption | intro _ | with_reducible apply Keeps.when | with_reducible apply State.setPoint_keeps

theorem State.endWith_keeps {s₀ s : State} (i : Inst) (event : Nat) (poison : Bool) (hk : Keeps s₀ s) :
    Keeps s₀ (State.endWith s i event poison) := by
  unfold State.endWith
  repeat' first
    | with_reducible assumption | intro _ | with_reducible apply Keeps.ite | with_reducible apply Keeps.ite_fst
    | with_reducible apply Keeps.ite_snd | with_reducible apply Keeps.when | with_reducible apply State.loseOuts_keeps
    | with_reducible apply State.leaveLater_keeps | with_reducible apply State.poisonInst_keeps
    | with_reducible apply State.releaseGate_keeps | with_reducible apply State.writeRingStatus_keeps
    | with_reducible apply State.writeCollStatus_keeps | with_reducible apply State.setInst_keeps
    | with_reducible apply State.retire_keeps | with_reducible apply State.leaveGate_keeps | with_reducible apply State.leavePoint_keeps
    | split

theorem State.endEarly_keeps {s₀ s : State} (i : Inst) (event : Nat) (hk : Keeps s₀ s) : Keeps s₀ (State.endEarly s i event) := by
  unfold State.endEarly
  repeat' first
    | with_reducible assumption | with_reducible apply State.endWith_keeps

theorem State.writeAccount_keeps {s₀ s : State} (p : Nat) (sc : Scene) (event : Nat) (hk : Keeps s₀ s) :
    Keeps s₀ (State.writeAccount s p sc event) := by
  unfold State.writeAccount
  repeat' first
    | with_reducible assumption | with_reducible apply State.drawNat_keeps | with_reducible apply State.writePart_keeps

theorem State.dropScene_keeps {s₀ s : State} (p : Nat) (sc : Scene) (hk : Keeps s₀ s) : Keeps s₀ (State.dropScene s p sc) := by
  unfold State.dropScene
  repeat' first
    | with_reducible assumption | intro _ | with_reducible apply Keeps.over | with_reducible apply Keeps.ite
    | with_reducible apply Keeps.ite_fst | with_reducible apply Keeps.ite_snd | with_reducible apply State.setQueue_keeps
    | (with_reducible refine State.setPartition_keeps _ _ ?_ (fun _ c => State.gates_wf c _))

theorem State.emptyHurdles_keeps {s₀ s : State} (p scene : Nat) (hk : Keeps s₀ s) : Keeps s₀ (State.emptyHurdles s p scene) := by
  unfold State.emptyHurdles
  repeat' first
    | with_reducible assumption | with_reducible apply Keeps.ite | with_reducible apply Keeps.ite_fst | with_reducible apply Keeps.ite_snd
    | (with_reducible refine State.setPartition_keeps _ _ ?_ (fun _ c => State.gates_wf c _))

theorem State.abortScene_keeps {s₀ s : State} (p : Nat) (sc : Scene) (event : Nat) (hk : Keeps s₀ s) :
    Keeps s₀ (State.abortScene s p sc event) := by
  unfold State.abortScene
  repeat' first
    | with_reducible assumption | intro _ | with_reducible apply Keeps.over | with_reducible apply Keeps.ite
    | with_reducible apply Keeps.ite_fst | with_reducible apply Keeps.ite_snd | with_reducible apply State.endEarly_keeps
    | with_reducible apply State.haltQueue_keeps | with_reducible apply State.breakHolds_keeps
    | with_reducible apply State.emptyHurdles_keeps | with_reducible apply State.writeAccount_keeps
    | with_reducible apply State.dropScene_keeps

theorem State.writePiece_keeps {s₀ s : State} (i : Inst) (x : Piece) (hk : Keeps s₀ s) : Keeps s₀ (State.writePiece s i x).1 := by
  unfold State.writePiece
  repeat' first
    | with_reducible assumption | intro _ | with_reducible apply Keeps.ite | with_reducible apply Keeps.ite_fst
    | with_reducible apply Keeps.ite_snd | with_reducible apply Keeps.foldl | with_reducible apply Keeps.foldl_fst
    | with_reducible apply Keeps.foldl_snd | with_reducible apply State.sendPeer_keeps | with_reducible apply State.writePart_keeps

theorem State.writePieces_keeps {s₀ s : State} (i : Inst) (xs : List Piece) (hk : Keeps s₀ s) :
    Keeps s₀ (State.writePieces s i xs).1 := by
  unfold State.writePieces
  repeat' first
    | with_reducible assumption | intro _ | with_reducible apply Keeps.foldl | with_reducible apply Keeps.foldl_fst
    | with_reducible apply Keeps.foldl_snd | with_reducible apply State.writePiece_keeps | with_reducible apply State.mend_keeps
    | with_reducible apply Keeps.over

theorem State.consume_keeps {s₀ s : State} (rs : List (Desc × List (List Nat))) (hk : Keeps s₀ s) : Keeps s₀ (State.consume s rs) := by
  unfold State.consume
  repeat' first
    | with_reducible assumption | intro _ | with_reducible apply Keeps.over | with_reducible apply Keeps.ite
    | with_reducible apply Keeps.ite_fst | with_reducible apply Keeps.ite_snd | with_reducible apply State.readThrough_keeps

theorem State.finish_keeps {s₀ s : State} (i : Inst) (w : Work) (hk : Keeps s₀ s) : Keeps s₀ (State.finish s i w).1 := by
  unfold State.finish
  repeat' first
    | with_reducible assumption | with_reducible apply Keeps.setFree | with_reducible apply Keeps.ite
    | with_reducible apply Keeps.ite_fst | with_reducible apply Keeps.ite_snd | with_reducible apply State.loseOuts_keeps
    | with_reducible apply State.consume_keeps | with_reducible apply State.writePieces_keeps

theorem State.claimTiles_keeps {s₀ s : State} (i : Inst) (hk : Keeps s₀ s) : Keeps s₀ (State.claimTiles s i).1 := by
  unfold State.claimTiles
  repeat' first
    | with_reducible assumption | with_reducible apply Keeps.ite | with_reducible apply Keeps.ite_fst | with_reducible apply Keeps.ite_snd
    | with_reducible apply Keeps.setFree

theorem State.land_keeps {s₀ s : State} (i : Inst) (hk : Keeps s₀ s) : Keeps s₀ (State.land s i).1 := by
  unfold State.land
  repeat' first
    | with_reducible assumption | with_reducible apply Keeps.ite | with_reducible apply Keeps.ite_fst | with_reducible apply Keeps.ite_snd
    | with_reducible apply State.writePieces_keeps

theorem State.setSlot_keeps {s₀ s : State} (k : Nat) (v : LedgerSlot) (hk : Keeps s₀ s) : Keeps s₀ (State.setSlot s k v) := by
  unfold State.setSlot
  repeat' first
    | with_reducible assumption | with_reducible refine Keeps.setLedg _ ?_ (fun k => tblSet_wf _ _ _ _ k)

theorem State.queueRepair_keeps {s₀ s : State} (u : RepairUnit) (hk : Keeps s₀ s) : Keeps s₀ (State.queueRepair s u) := by
  unfold State.queueRepair
  repeat' first
    | with_reducible assumption | with_reducible apply Keeps.ite | with_reducible apply Keeps.ite_fst
    | with_reducible apply Keeps.ite_snd | with_reducible refine Keeps.setProm _ ?_ (fun h => h)

theorem State.spared_keeps {s₀ s : State} (u : RepairUnit) (hk : Keeps s₀ s) : Keeps s₀ (State.spared s u) := by
  unfold State.spared
  repeat' first
    | with_reducible assumption | with_reducible apply State.drawNat_keeps | with_reducible apply State.queueRepair_keeps
    | with_reducible apply State.beginRecord_keeps | with_reducible apply State.noteHistory_keeps
    | with_reducible apply State.recordSparing_keeps

end Sys2Proof.Machine
end

