-- ==== Sys2Proof/Laws/KeepsScenes.lean ====
section
/-!
SUPPORT. What each operation keeps (Laws/Keeps.lean): optimisers, rings, collectives, points, gates, hurdles and scenes. One lemma for each operation, named after it.
-/

namespace Sys2Proof.Machine

theorem State.noteSeal_keeps {s₀ s : State} (p addr : Nat) (hk : Keeps s₀ s) : Keeps s₀ (State.noteSeal s p addr) := by
  unfold State.noteSeal
  repeat' first
    | with_reducible assumption | with_reducible apply Keeps.ite | with_reducible apply Keeps.ite_fst | with_reducible apply Keeps.ite_snd
    | (with_reducible refine State.setPartition_keeps _ _ ?_ (fun _ c => State.gates_wf c _))
    | (with_reducible refine State.setPartition_keeps _ _ ?_ (fun c _ => State.gates_wf (Keeps.canonical (by assumption) c) _))
    | (refine State.setPartition_keeps _ _ ?_ (fun _ c => State.gates_wf c _)) | split | dsimp only

theorem State.sendSeal_keeps {s₀ s : State} (i : Inst) (hk : Keeps s₀ s) : Keeps s₀ (State.sendSeal s i).1 := by
  unfold State.sendSeal
  repeat' first
    | with_reducible assumption | with_reducible apply State.noteSeal_keeps | with_reducible apply State.sendPeer_keeps
    | with_reducible apply State.setInst_keeps

theorem State.leaveRing_keeps {s₀ s : State} (i : Inst) (r : Ring) (event : Nat) (hk : Keeps s₀ s) :
    Keeps s₀ (State.leaveRing s i r event) := by
  unfold State.leaveRing
  repeat' first
    | with_reducible assumption | with_reducible apply State.endWith_keeps

theorem State.failRing_keeps {s₀ s : State} (i : Inst) (r : Ring) (event : Nat) (hk : Keeps s₀ s) :
    Keeps s₀ (State.failRing s i r event) := by
  unfold State.failRing
  repeat' first
    | with_reducible assumption | with_reducible apply State.leaveRing_keeps | with_reducible apply State.sendRingBoth_keeps

theorem State.flushRing_keeps {s₀ s : State} (i : Inst) (r : Ring) (hk : Keeps s₀ s) : Keeps s₀ (State.flushRing s i r) := by
  unfold State.flushRing
  repeat' first
    | with_reducible assumption | intro _ | with_reducible apply Keeps.ite | with_reducible apply Keeps.ite_fst
    | with_reducible apply Keeps.ite_snd | with_reducible apply Keeps.over | with_reducible apply State.sendRing_keeps
    | with_reducible apply State.setInst_keeps

theorem State.completeRing_keeps {s₀ s : State} (i : Inst) (r : Ring) (hk : Keeps s₀ s) : Keeps s₀ (State.completeRing s i r) := by
  unfold State.completeRing
  repeat' first
    | with_reducible assumption | with_reducible apply Keeps.ite | with_reducible apply Keeps.ite_fst | with_reducible apply Keeps.ite_snd
    | with_reducible apply State.finish_keeps | with_reducible apply State.writeRingStatus_keeps
    | with_reducible apply State.setInst_keeps | with_reducible apply State.leavePoint_keeps

theorem State.relayRing_keeps {s₀ s : State} (p : Nat) (r : Ring) (type : Nat) (h : RingHeader) (hk : Keeps s₀ s) :
    Keeps s₀ (State.relayRing s p r type h) := by
  unfold State.relayRing
  repeat' first
    | with_reducible assumption | intro _ | with_reducible apply Keeps.over | with_reducible apply Keeps.ite
    | with_reducible apply Keeps.ite_fst | with_reducible apply Keeps.ite_snd | with_reducible apply State.sendRing_keeps

theorem State.ringDataIn_keeps {s₀ s : State} (i : Inst) (r : Ring) (h : RingHeader) (payload : Bytes) (hk : Keeps s₀ s) :
    Keeps s₀ (State.ringDataIn s i r h payload) := by
  unfold State.ringDataIn
  repeat' first
    | with_reducible assumption | with_reducible apply Keeps.ite | with_reducible apply Keeps.ite_fst
    | with_reducible apply Keeps.ite_snd | with_reducible apply State.flushRing_keeps | with_reducible apply State.completeRing_keeps
    | split | dsimp only

theorem State.ringAct_keeps {s₀ s : State} (i : Inst) (r : Ring) (type : Nat) (h : RingHeader) (payload : Bytes) (hk : Keeps s₀ s) :
    Keeps s₀ (State.ringAct s i r type h payload) := by
  unfold State.ringAct
  repeat' first
    | with_reducible assumption | with_reducible apply Keeps.ite | with_reducible apply Keeps.ite_fst
    | with_reducible apply Keeps.ite_snd | with_reducible apply State.failRing_keeps | with_reducible apply State.ringDataIn_keeps
    | with_reducible apply State.flushRing_keeps | with_reducible apply State.sendRing_keeps
    | with_reducible apply State.completeRing_keeps | with_reducible apply State.leaveRing_keeps
    | with_reducible apply State.relayRing_keeps | with_reducible apply State.setInst_keeps | with_reducible apply State.retire_keeps
    | split | dsimp only

theorem State.ringMessage_keeps {s₀ s : State} (p type : Nat) (h : RingHeader) (payload : Bytes) (hk : Keeps s₀ s) :
    Keeps s₀ (State.ringMessage s p type h payload) := by
  unfold State.ringMessage
  repeat' first
    | with_reducible assumption | with_reducible apply Keeps.ite | with_reducible apply Keeps.ite_fst | with_reducible apply Keeps.ite_snd
    | with_reducible apply State.ringAct_keeps | with_reducible refine Keeps.setComp _ ?_ (fun h => h) | split

theorem State.takeSeq_keeps {s₀ s : State} (e : Nat × CompanyEntry) (hk : Keeps s₀ s) : Keeps s₀ (State.takeSeq s e) := by
  unfold State.takeSeq
  repeat' first
    | with_reducible assumption | with_reducible apply State.setCompany_keeps

theorem State.releaseRing_keeps {s₀ s : State} (p company seq : Nat) (hk : Keeps s₀ s) :
    Keeps s₀ (State.releaseRing s p company seq) := by
  unfold State.releaseRing
  repeat' first
    | with_reducible assumption | intro _ | with_reducible apply Keeps.over | with_reducible apply State.ringMessage_keeps
    | with_reducible refine Keeps.setComp _ ?_ (fun h => h)

theorem State.startRing_keeps {s₀ s : State} (i : Inst) (e : Nat × CompanyEntry) (seq : Nat) (hk : Keeps s₀ s) :
    Keeps s₀ (State.startRing s i e seq) := by
  unfold State.startRing
  repeat' first
    | with_reducible assumption | with_reducible apply Keeps.ite | with_reducible apply Keeps.ite_fst
    | with_reducible apply Keeps.ite_snd | with_reducible apply State.failRing_keeps | with_reducible apply State.undefineExtent_keeps
    | with_reducible apply State.releaseRing_keeps | with_reducible apply State.setInst_keeps | split

theorem State.ringAtIssue_keeps {s₀ s : State} (i : Inst) (e : Nat × CompanyEntry) (seq event : Nat) (hk : Keeps s₀ s) :
    Keeps s₀ (State.ringAtIssue s i e seq event) := by
  unfold State.ringAtIssue
  repeat' first
    | with_reducible assumption | with_reducible apply Keeps.ite | with_reducible apply Keeps.ite_fst | with_reducible apply Keeps.ite_snd
    | with_reducible apply State.sendRingBoth_keeps

theorem State.beginStep_keeps {s₀ s : State} (i : Inst) (r : Ring) (hk : Keeps s₀ s) : Keeps s₀ (State.beginStep s i r) := by
  unfold State.beginStep
  repeat' first
    | with_reducible assumption | with_reducible apply Keeps.ite | with_reducible apply Keeps.ite_fst | with_reducible apply Keeps.ite_snd
    | with_reducible apply State.setPoint_keeps | with_reducible apply State.flushRing_keeps | split

theorem State.endStep_keeps {s₀ s : State} (i : Inst) (r : Ring) (hk : Keeps s₀ s) : Keeps s₀ (State.endStep s i r) := by
  unfold State.endStep
  repeat' first
    | with_reducible assumption | with_reducible apply Keeps.ite | with_reducible apply Keeps.ite_fst
    | with_reducible apply Keeps.ite_snd | with_reducible apply State.setPoint_keeps | with_reducible apply State.flushRing_keeps
    | with_reducible apply State.sendRing_keeps | with_reducible apply State.completeRing_keeps | split | dsimp only

theorem State.ringSlip_keeps {s₀ s : State} (i : Inst) (r : Ring) (fromNext : Bool) (hk : Keeps s₀ s) :
    Keeps s₀ (State.ringSlip s i r fromNext) := by
  unfold State.ringSlip
  repeat' first
    | with_reducible assumption | with_reducible apply Keeps.ite | with_reducible apply Keeps.ite_fst
    | with_reducible apply Keeps.ite_snd | with_reducible apply State.holdAbsent_keeps | with_reducible apply State.leaveRing_keeps
    | with_reducible apply State.sendRingBoth_keeps | split

theorem State.setRelay_keeps {s₀ s : State} (p : Nat) (h : CollHeader) (v : Option Relay) (hk : Keeps s₀ s) :
    Keeps s₀ (State.setRelay s p h v) := by
  unfold State.setRelay
  repeat' first
    | with_reducible assumption | with_reducible apply Keeps.ite | with_reducible apply Keeps.ite_fst
    | with_reducible apply Keeps.ite_snd | with_reducible refine Keeps.setComp _ ?_ (fun h => h)

theorem State.relayReady_keeps {s₀ s : State} (r : Relay) (h : CollHeader) (hk : Keeps s₀ s) : Keeps s₀ (State.relayReady s r h) := by
  unfold State.relayReady
  repeat' first
    | with_reducible assumption | with_reducible apply Keeps.ite | with_reducible apply Keeps.ite_fst
    | with_reducible apply Keeps.ite_snd | with_reducible apply State.setRelay_keeps | with_reducible apply State.sendColl_keeps
    | with_reducible apply State.sendCollAll_keeps | split

theorem State.leaveZero_keeps {s₀ s : State} (p : Nat) (c : Coll) (hk : Keeps s₀ s) : Keeps s₀ (State.leaveZero s p c) := by
  unfold State.leaveZero
  repeat' first
    | with_reducible assumption | with_reducible apply State.relayReady_keeps | with_reducible apply State.addRelay_keeps

theorem State.leaveColl_keeps {s₀ s : State} (i : Inst) (c : Coll) (event : Nat) (hk : Keeps s₀ s) :
    Keeps s₀ (State.leaveColl s i c event) := by
  unfold State.leaveColl
  repeat' first
    | with_reducible assumption | with_reducible apply State.endWith_keeps

theorem State.failColl_keeps {s₀ s : State} (i : Inst) (c : Coll) (event : Nat) (hk : Keeps s₀ s) :
    Keeps s₀ (State.failColl s i c event) := by
  unfold State.failColl
  repeat' first
    | with_reducible assumption | with_reducible apply State.leaveColl_keeps | with_reducible apply State.poisonColl_keeps

theorem State.zeroColl_keeps {s₀ s : State} (i : Inst) (c : Coll) (hk : Keeps s₀ s) : Keeps s₀ (State.zeroColl s i c) := by
  unfold State.zeroColl
  repeat' first
    | with_reducible assumption | intro _ | with_reducible apply Keeps.over | with_reducible apply Keeps.ite
    | with_reducible apply Keeps.ite_fst | with_reducible apply Keeps.ite_snd | with_reducible apply State.sendCollAll_keeps
    | with_reducible apply State.leaveZero_keeps | with_reducible apply State.setInst_keeps | with_reducible apply State.retire_keeps

theorem State.sendUnits_keeps {s₀ s : State} (i : Inst) (c : Coll) (hk : Keeps s₀ s) : Keeps s₀ (State.sendUnits s i c).1 := by
  unfold State.sendUnits
  repeat' first
    | with_reducible assumption | intro _ | with_reducible apply Keeps.foldl | with_reducible apply Keeps.foldl_fst
    | with_reducible apply Keeps.foldl_snd | with_reducible apply Keeps.ite | with_reducible apply Keeps.ite_fst
    | with_reducible apply Keeps.ite_snd | with_reducible apply State.sendColl_keeps

theorem State.closeColl_keeps {s₀ s : State} (i : Inst) (c : Coll) (hk : Keeps s₀ s) : Keeps s₀ (State.closeColl s i c) := by
  unfold State.closeColl
  repeat' first
    | with_reducible assumption | with_reducible apply Keeps.ite | with_reducible apply Keeps.ite_fst
    | with_reducible apply Keeps.ite_snd | with_reducible apply State.sendCollAll_keeps | with_reducible apply State.finish_keeps
    | with_reducible apply State.writeCollStatus_keeps | with_reducible apply State.setInst_keeps

theorem State.tryDone_keeps {s₀ s : State} (i : Inst) (c : Coll) (hk : Keeps s₀ s) : Keeps s₀ (State.tryDone s i c) := by
  unfold State.tryDone
  repeat' first
    | with_reducible assumption | with_reducible apply Keeps.ite | with_reducible apply Keeps.ite_fst
    | with_reducible apply Keeps.ite_snd | with_reducible apply State.closeColl_keeps | with_reducible apply State.setInst_keeps
    | with_reducible apply State.sendColl_keeps | split

theorem State.applyStep_keeps {s₀ s : State} (i : Inst) (c : Coll) (x : CollStep) (after : State → Inst → Coll → State)
    (hf_after : ∀ s i c, Keeps s₀ s → Keeps s₀ (after s i c)) (hk : Keeps s₀ s) : Keeps s₀ (State.applyStep s i c x after) := by
  unfold State.applyStep
  repeat' first
    | with_reducible assumption | intro _ | with_reducible apply hf_after | with_reducible apply Keeps.ite
    | with_reducible apply Keeps.ite_fst | with_reducible apply Keeps.ite_snd | with_reducible apply State.failColl_keeps
    | with_reducible apply State.writePieces_keeps

theorem State.pumpColl_keeps {s₀ s : State} (i : Inst) (c : Coll) (hk : Keeps s₀ s) : Keeps s₀ (State.pumpColl s i c) := by
  unfold State.pumpColl
  repeat' first
    | with_reducible assumption | intro _ | with_reducible apply Keeps.ite | with_reducible apply Keeps.ite_fst
    | with_reducible apply Keeps.ite_snd | with_reducible apply State.sendUnits_keeps | with_reducible apply State.applyStep_keeps
    | with_reducible apply State.tryDone_keeps

theorem State.goColl_keeps {s₀ s : State} (i : Inst) (c : Coll) (hk : Keeps s₀ s) : Keeps s₀ (State.goColl s i c) := by
  unfold State.goColl
  repeat' first
    | with_reducible assumption | intro _ | with_reducible apply Keeps.ite | with_reducible apply Keeps.ite_fst
    | with_reducible apply Keeps.ite_snd | with_reducible apply Keeps.over | with_reducible apply State.sendCollAll_keeps
    | with_reducible apply State.undefineExtent_keeps | with_reducible apply State.applyStep_keeps
    | with_reducible apply State.sendColl_keeps | with_reducible apply State.pumpColl_keeps | split

theorem State.tryReady_keeps {s₀ s : State} (i : Inst) (c : Coll) (hk : Keeps s₀ s) : Keeps s₀ (State.tryReady s i c) := by
  unfold State.tryReady
  repeat' first
    | with_reducible assumption | with_reducible apply Keeps.ite | with_reducible apply Keeps.ite_fst
    | with_reducible apply Keeps.ite_snd | with_reducible apply State.setInst_keeps | with_reducible apply State.zeroColl_keeps
    | with_reducible apply State.failColl_keeps | with_reducible apply State.goColl_keeps | with_reducible apply State.sendColl_keeps
    | split

theorem State.dataIn_keeps {s₀ s : State} (i : Inst) (c : Coll) (h : CollHeader) (p : Bytes) (hk : Keeps s₀ s) :
    Keeps s₀ (State.dataIn s i c h p) := by
  unfold State.dataIn
  repeat' first
    | with_reducible assumption | with_reducible apply Keeps.ite | with_reducible apply Keeps.ite_fst
    | with_reducible apply Keeps.ite_snd | with_reducible apply State.failColl_keeps | with_reducible apply State.writePieces_keeps
    | with_reducible apply State.sendColl_keeps | with_reducible apply State.pumpColl_keeps

theorem State.openIn_keeps {s₀ s : State} (i : Inst) (c : Coll) (h : CollHeader) (p : Bytes) (hk : Keeps s₀ s) :
    Keeps s₀ (State.openIn s i c h p) := by
  unfold State.openIn
  repeat' first
    | with_reducible assumption | with_reducible apply Keeps.ite | with_reducible apply Keeps.ite_fst
    | with_reducible apply Keeps.ite_snd | with_reducible apply State.pumpColl_keeps | with_reducible apply State.sendColl_keeps

theorem State.relayColl_keeps {s₀ s : State} (t : Party) (type : Nat) (h : CollHeader) (hk : Keeps s₀ s) :
    Keeps s₀ (State.relayColl s t type h) := by
  unfold State.relayColl
  repeat' first
    | with_reducible assumption | with_reducible apply Keeps.ite | with_reducible apply Keeps.ite_fst
    | with_reducible apply Keeps.ite_snd | with_reducible apply State.sendCollAll_keeps

theorem State.collAct_keeps {s₀ s : State} (i : Inst) (c : Coll) (type : Nat) (h : CollHeader) (p : Bytes) (hk : Keeps s₀ s) :
    Keeps s₀ (State.collAct s i c type h p) := by
  unfold State.collAct
  repeat' first
    | with_reducible assumption | with_reducible apply Keeps.ite | with_reducible apply Keeps.ite_fst
    | with_reducible apply Keeps.ite_snd | with_reducible apply State.failColl_keeps | with_reducible apply State.tryReady_keeps
    | with_reducible apply State.setInst_keeps | with_reducible apply State.zeroColl_keeps | with_reducible apply State.goColl_keeps
    | with_reducible apply State.openIn_keeps | with_reducible apply State.pumpColl_keeps | with_reducible apply State.dataIn_keeps
    | with_reducible apply State.closeColl_keeps | with_reducible apply State.leaveColl_keeps
    | with_reducible apply State.relayColl_keeps

theorem State.relayAct_keeps {s₀ s : State} (r : Relay) (type : Nat) (h : CollHeader) (hk : Keeps s₀ s) :
    Keeps s₀ (State.relayAct s r type h) := by
  unfold State.relayAct
  repeat' first
    | with_reducible assumption | with_reducible apply Keeps.ite | with_reducible apply Keeps.ite_fst
    | with_reducible apply Keeps.ite_snd | with_reducible apply State.setRelay_keeps | with_reducible apply State.relayColl_keeps
    | with_reducible apply State.relayReady_keeps | with_reducible apply State.sendColl_keeps
    | with_reducible apply State.sendCollAll_keeps | split

theorem State.collMessage_keeps {s₀ s : State} (p type : Nat) (h : CollHeader) (payload : Bytes) (hk : Keeps s₀ s) :
    Keeps s₀ (State.collMessage s p type h payload) := by
  unfold State.collMessage
  repeat' first
    | with_reducible assumption | with_reducible apply Keeps.ite | with_reducible apply Keeps.ite_fst | with_reducible apply Keeps.ite_snd
    | with_reducible apply State.collAct_keeps | with_reducible apply State.relayAct_keeps
    | with_reducible refine Keeps.setComp _ ?_ (fun h => h) | split

theorem State.releaseColl_keeps {s₀ s : State} (p company seq : Nat) (hk : Keeps s₀ s) :
    Keeps s₀ (State.releaseColl s p company seq) := by
  unfold State.releaseColl
  repeat' first
    | with_reducible assumption | intro _ | with_reducible apply Keeps.over | with_reducible apply State.collMessage_keeps
    | with_reducible refine Keeps.setComp _ ?_ (fun h => h)

theorem State.startColl_keeps {s₀ s : State} (i : Inst) (c : Coll) (hk : Keeps s₀ s) : Keeps s₀ (State.startColl s i c) := by
  unfold State.startColl
  repeat' first
    | with_reducible assumption | with_reducible apply State.releaseColl_keeps | with_reducible apply State.tryReady_keeps
    | with_reducible apply State.setInst_keeps

theorem State.collAtIssue_keeps {s₀ s : State} (i : Inst) (c : Coll) (event : Nat) (hk : Keeps s₀ s) :
    Keeps s₀ (State.collAtIssue s i c event) := by
  unfold State.collAtIssue
  repeat' first
    | with_reducible assumption | with_reducible apply Keeps.ite | with_reducible apply Keeps.ite_fst
    | with_reducible apply Keeps.ite_snd | with_reducible apply State.poisonColl_keeps | with_reducible apply State.leaveZero_keeps
    | with_reducible apply State.addRelay_keeps | with_reducible apply State.releaseColl_keeps

theorem State.pumpAll_keeps {s₀ s : State}  (hk : Keeps s₀ s) : Keeps s₀ (State.pumpAll s) := by
  unfold State.pumpAll
  repeat' first
    | with_reducible assumption | intro _ | with_reducible apply Keeps.over | with_reducible apply Keeps.ite
    | with_reducible apply Keeps.ite_fst | with_reducible apply Keeps.ite_snd | with_reducible apply State.pumpColl_keeps | split

theorem State.collSlip_keeps {s₀ s : State} (i : Inst) (c : Coll) (rank : Nat) (hk : Keeps s₀ s) :
    Keeps s₀ (State.collSlip s i c rank) := by
  unfold State.collSlip
  repeat' first
    | with_reducible assumption | with_reducible apply Keeps.ite | with_reducible apply Keeps.ite_fst
    | with_reducible apply Keeps.ite_snd | with_reducible apply State.holdAbsent_keeps | with_reducible apply State.leaveColl_keeps
    | with_reducible apply State.sendCollAll_keeps | split

theorem State.passPoint_keeps {s₀ s : State} (p : Nat) (sc : Scene) (hk : Keeps s₀ s) : Keeps s₀ (State.passPoint s p sc) := by
  unfold State.passPoint
  repeat' first
    | with_reducible assumption | intro _ | with_reducible apply Keeps.over | with_reducible apply Keeps.ite
    | with_reducible apply Keeps.ite_fst | with_reducible apply Keeps.ite_snd | with_reducible apply State.setScene_keeps
    | with_reducible apply State.setInst_keeps | with_reducible apply State.retire_keeps | split

theorem State.switchOut_keeps {s₀ s : State} (p : Nat) (sc : Scene) (hk : Keeps s₀ s) : Keeps s₀ (State.switchOut s p sc) := by
  unfold State.switchOut
  repeat' first
    | with_reducible assumption | with_reducible apply Keeps.setInsts | with_reducible apply Keeps.ite
    | with_reducible apply Keeps.ite_fst | with_reducible apply Keeps.ite_snd | with_reducible apply State.passPoint_keeps
    | with_reducible apply State.setScene_keeps | split | dsimp only

theorem State.abortHold_keeps {s₀ s : State} (p : Nat) (sc : Scene) (hk : Keeps s₀ s) : Keeps s₀ (State.abortHold s p sc) := by
  unfold State.abortHold
  repeat' first
    | with_reducible assumption | intro _ | with_reducible apply Keeps.over | with_reducible apply State.setQueue_keeps
    | with_reducible apply State.dropInst_keeps | with_reducible apply State.abortScene_keeps
    | with_reducible apply State.raiseVector_keeps | with_reducible apply State.setFld_keeps | with_reducible apply State.raiseEvent_keeps

theorem State.settlePart_keeps {s₀ s : State} (p : Nat) (hk : Keeps s₀ s) : Keeps s₀ (State.settlePart s p) := by
  unfold State.settlePart
  repeat' first
    | with_reducible assumption | with_reducible apply Keeps.ite | with_reducible apply Keeps.ite_fst
    | with_reducible apply Keeps.ite_snd | with_reducible apply State.abortHold_keeps | with_reducible apply State.passPoint_keeps
    | with_reducible apply State.switchOut_keeps | split

theorem State.endPrologue_keeps {s₀ s : State} (p : Nat) (hk : Keeps s₀ s) : Keeps s₀ (State.endPrologue s p) := by
  unfold State.endPrologue
  repeat' first
    | with_reducible assumption | intro _ | with_reducible apply Keeps.when | with_reducible apply State.setFld_keeps

theorem State.settle_keeps {s₀ s : State}  (hk : Keeps s₀ s) : Keeps s₀ (State.settle s) := by
  unfold State.settle
  repeat' first
    | with_reducible assumption | intro _ | with_reducible apply Keeps.over | with_reducible apply State.endPrologue_keeps
    | with_reducible apply State.settlePart_keeps

theorem State.noteRequest_keeps {s₀ s : State} (p : Nat) (hk : Keeps s₀ s) : Keeps s₀ (State.noteRequest s p) := by
  unfold State.noteRequest
  repeat' first
    | with_reducible assumption | with_reducible apply Keeps.ite | with_reducible apply Keeps.ite_fst
    | with_reducible apply Keeps.ite_snd | with_reducible apply State.setScene_keeps | split

theorem State.setHolds_keeps {s₀ s : State} (i : Inst) (hs : List Hold) (hk : Keeps s₀ s) : Keeps s₀ (State.setHolds s i hs) := by
  unfold State.setHolds
  repeat' first
    | with_reducible assumption | with_reducible apply State.setScene_keeps | with_reducible apply State.setQueue_keeps | split

theorem State.acquire_keeps {s₀ s : State} (i : Inst) (g : Nat) (hk : Keeps s₀ s) : Keeps s₀ (State.acquire s i g).1 := by
  unfold State.acquire
  repeat' first
    | with_reducible assumption | with_reducible apply Keeps.ite | with_reducible apply Keeps.ite_fst
    | with_reducible apply Keeps.ite_snd | with_reducible apply State.setGate_keeps | with_reducible apply State.tagWord_keeps
    | with_reducible apply State.setHolds_keeps | with_reducible apply State.dropBuffer_keeps

theorem gateAcqBody_keeps {s₀ s : State} (i : Inst) (hk : Keeps s₀ s) : Keeps s₀ (gateAcqBody s i).1 := by
  unfold gateAcqBody
  repeat' first
    | with_reducible assumption | with_reducible apply Keeps.ite | with_reducible apply Keeps.ite_fst
    | with_reducible apply Keeps.ite_snd | with_reducible apply State.acquire_keeps | with_reducible apply State.setGate_keeps

theorem gateRelBody_keeps {s₀ s : State} (i : Inst) (hk : Keeps s₀ s) : Keeps s₀ (gateRelBody s i).1 := by
  unfold gateRelBody
  repeat' first
    | with_reducible assumption | with_reducible apply Keeps.ite | with_reducible apply Keeps.ite_fst
    | with_reducible apply Keeps.ite_snd | with_reducible apply State.setHolds_keeps | with_reducible apply State.releaseGate_keeps

theorem State.setHurdle_keeps {s₀ s : State} (p h : Nat) (l : List HurdleGen) (hk : Keeps s₀ s) : Keeps s₀ (State.setHurdle s p h l) := by
  unfold State.setHurdle
  repeat' first
    | with_reducible assumption | (with_reducible refine State.setPartition_keeps _ _ ?_ (fun _ c => State.gates_wf c _))

theorem hurdleBody_keeps {s₀ s : State} (i : Inst) (hk : Keeps s₀ s) : Keeps s₀ (hurdleBody s i).1 := by
  unfold hurdleBody
  repeat' first
    | with_reducible assumption | with_reducible apply Keeps.ite | with_reducible apply Keeps.ite_fst
    | with_reducible apply Keeps.ite_snd | with_reducible apply State.setHurdle_keeps | split | dsimp only

theorem State.endWaiters_keeps {s₀ s : State} (h : Nat) (qs : List Nat) (event : Nat) (hk : Keeps s₀ s) :
    Keeps s₀ (State.endWaiters s h qs event) := by
  unfold State.endWaiters
  repeat' first
    | with_reducible assumption | intro _ | with_reducible apply Keeps.over | with_reducible apply Keeps.ite
    | with_reducible apply Keeps.ite_fst | with_reducible apply Keeps.ite_snd | with_reducible apply State.setInst_keeps
    | with_reducible apply State.retire_keeps | split

theorem State.completeGen_keeps {s₀ s : State} (p h : Nat) (hk : Keeps s₀ s) : Keeps s₀ (State.completeGen s p h) := by
  unfold State.completeGen
  repeat' first
    | with_reducible assumption | intro _ | with_reducible apply Keeps.ite | with_reducible apply Keeps.ite_fst
    | with_reducible apply Keeps.ite_snd | with_reducible apply Keeps.over | with_reducible apply State.setHurdle_keeps
    | with_reducible apply State.dropBuffer_keeps | with_reducible apply State.endWaiters_keeps | split

theorem State.expireGen_keeps {s₀ s : State} (p h q : Nat) (hk : Keeps s₀ s) : Keeps s₀ (State.expireGen s p h q) := by
  unfold State.expireGen
  repeat' first
    | with_reducible assumption | with_reducible apply State.endWaiters_keeps | with_reducible apply State.setHurdle_keeps | split
    | dsimp only

theorem cueStampBody_keeps {s₀ s : State} (i : Inst) (hk : Keeps s₀ s) : Keeps s₀ (cueStampBody s i).1 := by
  unfold cueStampBody
  repeat' first
    | with_reducible assumption | with_reducible apply State.drawNat_keeps | with_reducible apply State.finish_keeps

theorem propReadBody_keeps {s₀ s : State} (i : Inst) (hk : Keeps s₀ s) : Keeps s₀ (propReadBody s i).1 := by
  unfold propReadBody
  repeat' first
    | with_reducible assumption | with_reducible apply State.finish_keeps

theorem State.resumeQueue_keeps {s₀ s : State} (q : Nat) (hk : Keeps s₀ s) : Keeps s₀ (State.resumeQueue s q) := by
  unfold State.resumeQueue
  repeat' first
    | with_reducible assumption | with_reducible apply State.setFld_keeps

theorem queueResumeBody_keeps {s₀ s : State} (i : Inst) (hk : Keeps s₀ s) : Keeps s₀ (queueResumeBody s i).1 := by
  unfold queueResumeBody
  repeat' first
    | with_reducible assumption | with_reducible apply Keeps.ite | with_reducible apply Keeps.ite_fst
    | with_reducible apply Keeps.ite_snd | with_reducible apply State.resumeQueue_keeps | split

theorem preemptOkBody_keeps {s₀ s : State} (i : Inst) (hk : Keeps s₀ s) : Keeps s₀ (preemptOkBody s i).1 := by
  unfold preemptOkBody
  repeat' first
    | with_reducible assumption | with_reducible apply State.setScene_keeps | split

theorem sceneBeginBody_keeps {s₀ s : State} (i : Inst) (hk : Keeps s₀ s) : Keeps s₀ (sceneBeginBody s i).1 := by
  unfold sceneBeginBody
  repeat' first
    | with_reducible assumption | with_reducible apply Keeps.ite | with_reducible apply Keeps.ite_fst | with_reducible apply Keeps.ite_snd

theorem State.moveRosters_keeps {s₀ s : State} (p : Nat) (hk : Keeps s₀ s) : Keeps s₀ (State.moveRosters s p) := by
  unfold State.moveRosters
  repeat' first
    | with_reducible assumption | intro _ | with_reducible apply Keeps.over | with_reducible apply Keeps.ite
    | with_reducible apply Keeps.ite_fst | with_reducible apply Keeps.ite_snd | with_reducible apply State.setCompany_keeps

theorem State.joinPlan_keeps {s₀ s : State} (p : Nat) (hk : Keeps s₀ s) : Keeps s₀ (State.joinPlan s p) := by
  unfold State.joinPlan
  repeat' first
    | with_reducible assumption | intro _ | with_reducible apply Keeps.ite | with_reducible apply Keeps.ite_fst
    | with_reducible apply Keeps.ite_snd | with_reducible apply Keeps.over | with_reducible apply State.setCompany_keeps
    | with_reducible apply State.setFld_keeps | (with_reducible refine State.setPartition_keeps _ _ ?_ (fun _ c => State.gates_wf c _))
    | (with_reducible refine State.setPartition_keeps _ _ ?_ (fun c _ => State.gates_wf (Keeps.canonical (by assumption) c) _))
    | (refine State.setPartition_keeps _ _ ?_ (fun _ c => State.gates_wf c _)) | split

theorem State.writeSlot_keeps {s₀ s : State} (i : Inst) (hk : Keeps s₀ s) : Keeps s₀ (State.writeSlot s i) := by
  unfold State.writeSlot
  repeat' first
    | with_reducible assumption | intro _ | with_reducible apply Keeps.when | with_reducible apply State.setQueue_keeps
    | with_reducible apply State.writePart_keeps | with_reducible apply State.setFld_keeps
    | (with_reducible refine State.setPartition_keeps _ _ ?_ (fun _ c => State.gates_wf c _))
    | (with_reducible refine State.setPartition_keeps _ _ ?_ (fun c _ => State.gates_wf (Keeps.canonical (by assumption) c) _))
    | (refine State.setPartition_keeps _ _ ?_ (fun _ c => State.gates_wf c _)) | split | dsimp only

theorem State.openScene_keeps {s₀ s : State} (i : Inst) (hk : Keeps s₀ s) : Keeps s₀ (State.openScene s i) := by
  unfold State.openScene
  repeat' first
    | with_reducible assumption | with_reducible apply Keeps.ite | with_reducible apply Keeps.ite_fst
    | with_reducible apply Keeps.ite_snd | with_reducible apply State.setQueue_keeps | with_reducible apply State.noteRequest_keeps
    | (with_reducible refine State.setPartition_keeps _ _ ?_ (fun _ c => State.gates_wf c _))

theorem State.runScene_keeps {s₀ s : State} (p : Nat) (sc : Scene) (hk : Keeps s₀ s) : Keeps s₀ (State.runScene s p sc) := by
  unfold State.runScene
  repeat' first
    | with_reducible assumption | intro _ | with_reducible apply Keeps.over | with_reducible apply Keeps.ite
    | with_reducible apply Keeps.ite_fst | with_reducible apply Keeps.ite_snd | with_reducible apply State.dropBuffer_keeps
    | with_reducible apply State.moveRosters_keeps | with_reducible apply State.undefine_keeps
    | with_reducible apply State.setScene_keeps | with_reducible apply State.flushRing_keeps | split

theorem State.schedule_keeps {s₀ s : State} (p : Nat) (hk : Keeps s₀ s) : Keeps s₀ (State.schedule s p) := by
  unfold State.schedule
  repeat' first
    | with_reducible assumption | with_reducible apply Keeps.ite | with_reducible apply Keeps.ite_fst
    | with_reducible apply Keeps.ite_snd | with_reducible apply State.settlePart_keeps | with_reducible apply State.joinPlan_keeps
    | with_reducible apply State.runScene_keeps | split

theorem sceneEndBody_keeps {s₀ s : State} (i : Inst) (hk : Keeps s₀ s) : Keeps s₀ (sceneEndBody s i).1 := by
  unfold sceneEndBody
  repeat' first
    | with_reducible assumption | split

theorem State.retireEnd_keeps {s₀ s : State} (i : Inst) (event : Nat) (own : Bool) (hk : Keeps s₀ s) :
    Keeps s₀ (State.retireEnd s i event own) := by
  unfold State.retireEnd
  repeat' first
    | with_reducible assumption | with_reducible apply State.retireWith_keeps | with_reducible apply State.dropScene_keeps
    | with_reducible apply State.writeAccount_keeps | split | dsimp only

theorem State.retireOf_keeps {s₀ s : State} (i : Inst) (hk : Keeps s₀ s) : Keeps s₀ (State.retireOf s i) := by
  unfold State.retireOf
  repeat' first
    | with_reducible assumption | intro _ | with_reducible apply Keeps.ite | with_reducible apply Keeps.ite_fst
    | with_reducible apply Keeps.ite_snd | with_reducible apply Keeps.when | with_reducible apply State.retire_keeps
    | with_reducible apply State.setScene_keeps | with_reducible apply State.writeSlot_keeps
    | with_reducible apply State.moveRosters_keeps | with_reducible apply State.openScene_keeps
    | with_reducible apply State.retireEnd_keeps | with_reducible apply State.retireWith_keeps
    | with_reducible apply State.releaseGate_keeps | split

theorem State.place_keeps {s₀ s : State} (i : Inst) (hk : Keeps s₀ s) : Keeps s₀ (State.place s i) := by
  unfold State.place
  repeat' first
    | with_reducible assumption | with_reducible apply Keeps.ite | with_reducible apply Keeps.ite_fst
    | with_reducible apply Keeps.ite_snd | with_reducible apply State.setInst_keeps | with_reducible apply State.retireOf_keeps

end Sys2Proof.Machine
end

