-- ==== Sys2Proof/Laws/KeepsIssue.lean ====
section
/-!
SUPPORT. What each operation keeps (Laws/Keeps.lean): partitions, stops and the ledger, sparing, the cast table, running orders and issue. One lemma for each operation, named after it.
-/

namespace Sys2Proof.Machine

theorem State.configChanged_keeps {s₀ s : State}  (hk : Keeps s₀ s) : Keeps s₀ (State.configChanged s) := by
  unfold State.configChanged
  repeat' first
    | with_reducible assumption | with_reducible apply Keeps.ite | with_reducible apply Keeps.ite_fst
    | with_reducible apply Keeps.ite_snd | with_reducible apply Keeps.setConfig | with_reducible apply State.setFld_keeps

theorem State.refuseEnable_keeps {s₀ s : State} (p cause : Nat) (hk : Keeps s₀ s) : Keeps s₀ (State.refuseEnable s p cause) := by
  unfold State.refuseEnable
  repeat' first
    | with_reducible assumption | with_reducible apply State.raiseGlobal_keeps | with_reducible apply State.setFld_keeps

theorem cleanGates_wf (l : List (Nat × Gate)) (h : tblWf {} l) : tblWf {} (cleanGates l) :=
  tblWf_filterMap _ _ _ h fun x _ y hy => by
    dsimp only at hy
    split at hy
    · cases hy
    · next ne =>
      injection hy with hy
      exact hy ▸ ⟨rfl, ne⟩

theorem State.grantEnable_keeps {s₀ s : State} (p : Nat) (hk : Keeps s₀ s) : Keeps s₀ (State.grantEnable s p) := by
  unfold State.grantEnable
  repeat' first
    | with_reducible assumption | with_reducible apply Keeps.ite | with_reducible apply Keeps.ite_fst
    | with_reducible apply Keeps.ite_snd | with_reducible apply State.zeroLocal_keeps | with_reducible apply State.setFld_keeps
    | with_reducible apply State.configChanged_keeps
    | (with_reducible refine State.setPartition_keeps _ _ ?_ (fun _ c => State.gates_wf c _))
    | (refine State.setPartition_keeps _ _ ?_ (fun _ c => State.gates_wf c _))
    | exact State.setPartition_keeps _ _ (by assumption) (fun _ c => cleanGates_wf _ (State.gates_wf c _))

theorem State.enablePart_keeps {s₀ s : State} (p : Nat) (hk : Keeps s₀ s) : Keeps s₀ (State.enablePart s p) := by
  unfold State.enablePart
  repeat' first
    | with_reducible assumption | with_reducible apply Keeps.ite | with_reducible apply Keeps.ite_fst
    | with_reducible apply Keeps.ite_snd | with_reducible apply State.grantEnable_keeps | with_reducible apply State.refuseEnable_keeps

theorem State.enableDone_keeps {s₀ s : State} (p : Nat) (hk : Keeps s₀ s) : Keeps s₀ (State.enableDone s p) := by
  unfold State.enableDone
  repeat' first
    | with_reducible assumption | with_reducible apply Keeps.ite | with_reducible apply Keeps.ite_fst
    | with_reducible apply Keeps.ite_snd | with_reducible apply State.setFld_keeps

theorem State.loseLock_keeps {s₀ s : State} (p : Nat) (hk : Keeps s₀ s) : Keeps s₀ (State.loseLock s p) := by
  unfold State.loseLock
  repeat' first
    | with_reducible assumption | with_reducible apply Keeps.ite | with_reducible apply Keeps.ite_fst | with_reducible apply Keeps.ite_snd
    | with_reducible apply State.setFld_keeps | with_reducible apply State.raiseVector_keeps
    | (with_reducible refine State.setPartition_keeps _ _ ?_ (fun _ c => State.gates_wf c _))
    | with_reducible apply State.raiseEvent_keeps

theorem State.disablePart_keeps {s₀ s : State} (p : Nat) (hk : Keeps s₀ s) : Keeps s₀ (State.disablePart s p) := by
  unfold State.disablePart
  repeat' first
    | with_reducible assumption | with_reducible apply Keeps.ite | with_reducible apply Keeps.ite_fst
    | with_reducible apply Keeps.ite_snd | with_reducible apply State.setFld_keeps | with_reducible apply State.loseLock_keeps
    | with_reducible apply State.triggerReset_keeps

theorem State.resetDone_keeps {s₀ s : State} (p : Nat) (hk : Keeps s₀ s) : Keeps s₀ (State.resetDone s p) := by
  unfold State.resetDone
  repeat' first
    | with_reducible assumption | with_reducible apply Keeps.ite | with_reducible apply Keeps.ite_fst | with_reducible apply Keeps.ite_snd
    | with_reducible apply State.setFld_keeps | with_reducible apply State.raiseVector_keeps
    | (with_reducible refine State.setPartition_keeps _ _ ?_ (fun _ c => State.gates_wf c _))
    | (with_reducible refine State.setPartition_keeps _ _ ?_ (fun c _ => State.gates_wf (Keeps.canonical (by assumption) c) _))
    | with_reducible apply State.raiseEvent_keeps

theorem State.resetFn_keeps {s₀ s : State} (fn : Nat) (hk : Keeps s₀ s) : Keeps s₀ (State.resetFn s fn) := by
  unfold State.resetFn
  repeat' first
    | with_reducible assumption | intro _ | with_reducible apply Keeps.over | with_reducible apply State.triggerReset_keeps

theorem State.loseFnLocks_keeps {s₀ s : State} (fn : Nat) (hk : Keeps s₀ s) : Keeps s₀ (State.loseFnLocks s fn) := by
  unfold State.loseFnLocks
  repeat' first
    | with_reducible assumption | intro _ | with_reducible apply Keeps.over | with_reducible apply State.loseLock_keeps

theorem State.resetFunction_keeps {s₀ s : State} (fn : Nat) (hk : Keeps s₀ s) : Keeps s₀ (State.resetFunction s fn) := by
  unfold State.resetFunction
  repeat' first
    | with_reducible assumption | with_reducible apply Keeps.setHost | with_reducible apply Keeps.ite
    | with_reducible apply Keeps.ite_fst | with_reducible apply Keeps.ite_snd | with_reducible apply State.loseFnLocks_keeps
    | with_reducible apply State.resetFn_keeps

theorem State.enterD3_keeps {s₀ s : State} (fn : Nat) (hk : Keeps s₀ s) : Keeps s₀ (State.enterD3 s fn) := by
  unfold State.enterD3
  repeat' first
    | with_reducible assumption | with_reducible apply Keeps.ite | with_reducible apply Keeps.ite_fst
    | with_reducible apply Keeps.ite_snd | with_reducible apply Keeps.setHost | with_reducible apply State.resetFn_keeps

theorem State.takeLock_keeps {s₀ s : State} (p : Nat) (who : Requester) (hk : Keeps s₀ s) : Keeps s₀ (State.takeLock s p who) := by
  unfold State.takeLock
  repeat' first
    | with_reducible assumption | with_reducible apply Keeps.ite | with_reducible apply Keeps.ite_fst
    | with_reducible apply Keeps.ite_snd | with_reducible apply State.setFld_keeps
    | (with_reducible refine State.setPartition_keeps _ _ ?_ (fun _ c => State.gates_wf c _))
    | (with_reducible refine State.setPartition_keeps _ _ ?_ (fun c _ => State.gates_wf (Keeps.canonical (by assumption) c) _))
    | (refine State.setPartition_keeps _ _ ?_ (fun _ c => State.gates_wf c _)) | split

theorem State.freeLock_keeps {s₀ s : State} (p : Nat) (hk : Keeps s₀ s) : Keeps s₀ (State.freeLock s p) := by
  unfold State.freeLock
  repeat' first
    | with_reducible assumption | with_reducible apply State.setFld_keeps
    | (with_reducible refine State.setPartition_keeps _ _ ?_ (fun _ c => State.gates_wf c _))

theorem State.lockedOut_keeps {s₀ s : State} (p : Nat) (hk : Keeps s₀ s) : Keeps s₀ (State.lockedOut s p) := by
  unfold State.lockedOut
  repeat' first
    | with_reducible assumption | with_reducible apply State.raiseVector_keeps | with_reducible apply State.setFld_keeps
    | with_reducible apply State.raiseEvent_keeps

theorem State.applyPlan_keeps {s₀ s : State} (p : Nat) (l : List (Nat × Nat × Nat)) (hk : Keeps s₀ s) :
    Keeps s₀ (State.applyPlan s p l) := by
  unfold State.applyPlan
  repeat' first
    | with_reducible assumption | intro _ | with_reducible apply Keeps.over | with_reducible apply State.setCompany_keeps | split

theorem State.applyWord_keeps {s₀ s : State} (r : Reg) (v : Option Word32) (hk : Keeps s₀ s) : Keeps s₀ (State.applyWord s r v) := by
  unfold State.applyWord
  repeat' first
    | with_reducible assumption | with_reducible apply Keeps.setWord | split

theorem State.commitLock_keeps {s₀ s : State} (p : Nat) (hk : Keeps s₀ s) : Keeps s₀ (State.commitLock s p) := by
  unfold State.commitLock
  repeat' first
    | with_reducible assumption | with_reducible apply Keeps.ite | with_reducible apply Keeps.ite_fst
    | with_reducible apply Keeps.ite_snd | with_reducible apply State.freeLock_keeps | with_reducible apply State.setFld_keeps
    | with_reducible apply State.applyWord_keeps | with_reducible apply State.applyPlan_keeps
    | with_reducible apply State.configChanged_keeps | split | dsimp only

theorem State.commitBy_keeps {s₀ s : State} (p : Nat) (who : Requester) (hk : Keeps s₀ s) : Keeps s₀ (State.commitBy s p who) := by
  unfold State.commitBy
  repeat' first
    | with_reducible assumption | with_reducible apply Keeps.ite | with_reducible apply Keeps.ite_fst
    | with_reducible apply Keeps.ite_snd | with_reducible apply State.commitLock_keeps | with_reducible apply State.lockedOut_keeps

theorem State.abortBy_keeps {s₀ s : State} (p : Nat) (who : Requester) (hk : Keeps s₀ s) : Keeps s₀ (State.abortBy s p who) := by
  unfold State.abortBy
  repeat' first
    | with_reducible assumption | with_reducible apply Keeps.ite | with_reducible apply Keeps.ite_fst
    | with_reducible apply Keeps.ite_snd | with_reducible apply State.freeLock_keeps

theorem State.expireLease_keeps {s₀ s : State} (p : Nat) (hk : Keeps s₀ s) : Keeps s₀ (State.expireLease s p) := by
  unfold State.expireLease
  repeat' first
    | with_reducible assumption | with_reducible apply Keeps.ite | with_reducible apply Keeps.ite_fst
    | with_reducible apply Keeps.ite_snd | with_reducible apply State.loseLock_keeps

theorem State.byHost_keeps {s₀ s : State} (f : State → State) (hf_f : ∀ s, Keeps s₀ s → Keeps s₀ (f s)) (hk : Keeps s₀ s) :
    Keeps s₀ (State.byHost s f) := by
  unfold State.byHost
  repeat' first
    | with_reducible assumption | intro _ | with_reducible apply hf_f | with_reducible apply Keeps.ite
    | with_reducible apply Keeps.ite_fst | with_reducible apply Keeps.ite_snd

theorem State.byAgent_keeps {s₀ s : State} (who : Requester) (f : State → State) (hf_f : ∀ s, Keeps s₀ s → Keeps s₀ (f s))
    (hk : Keeps s₀ s) : Keeps s₀ (State.byAgent s who f) := by
  unfold State.byAgent
  repeat' first
    | with_reducible assumption | intro _ | with_reducible apply hf_f | with_reducible apply Keeps.ite
    | with_reducible apply Keeps.ite_fst | with_reducible apply Keeps.ite_snd | with_reducible apply Keeps.clocked | split

theorem State.hotReset_keeps {s₀ s : State}  (hk : Keeps s₀ s) : Keeps s₀ (State.hotReset s) := by
  unfold State.hotReset
  repeat' first
    | with_reducible assumption | with_reducible apply Keeps.setHost | with_reducible apply State.resetFn_keeps

theorem State.commitRecord_keeps {s₀ s : State} (w : LedgerWrite) (hk : Keeps s₀ s) : Keeps s₀ (State.commitRecord s w) := by
  unfold State.commitRecord
  repeat' first
    | with_reducible assumption | with_reducible apply State.setPair_keeps | with_reducible apply State.setSlot_keeps
    | with_reducible apply State.setFld_keeps | with_reducible refine Keeps.setLedg _ ?_ (fun h => h)

theorem State.recordDone_keeps {s₀ s : State}  (hk : Keeps s₀ s) : Keeps s₀ (State.recordDone s) := by
  unfold State.recordDone
  repeat' first
    | with_reducible assumption | with_reducible apply Keeps.ite | with_reducible apply Keeps.ite_fst
    | with_reducible apply Keeps.ite_snd | with_reducible apply State.commitRecord_keeps | with_reducible apply State.beginRecord_keeps
    | with_reducible refine Keeps.setLedg _ ?_ (fun h => h) | split

theorem State.tearRecord_keeps {s₀ s : State}  (hk : Keeps s₀ s) : Keeps s₀ (State.tearRecord s) := by
  unfold State.tearRecord
  repeat' first
    | with_reducible assumption | with_reducible apply State.drawNat_keeps | with_reducible apply State.setSlot_keeps
    | with_reducible refine Keeps.setLedg _ ?_ (fun h => h) | split

theorem State.shepEvent_keeps {s₀ s : State} (code : Nat) (unit : Nat := 0) (hk : Keeps s₀ s) :
    Keeps s₀ (State.shepEvent s code unit) := by
  unfold State.shepEvent
  repeat' first
    | with_reducible assumption | with_reducible apply Keeps.ite | with_reducible apply Keeps.ite_fst | with_reducible apply Keeps.ite_snd
    | with_reducible apply State.noteHistory_keeps | with_reducible apply State.raiseGlobal_keeps

theorem State.setShp_keeps {s₀ s : State} (v : Nat) (hk : Keeps s₀ s) : Keeps s₀ (State.setShp s v) := by
  unfold State.setShp
  repeat' first
    | with_reducible assumption | with_reducible apply Keeps.ite | with_reducible apply Keeps.ite_fst
    | with_reducible apply Keeps.ite_snd | with_reducible apply State.beginRecord_keeps | with_reducible apply State.setFld_keeps

theorem State.degrade_keeps {s₀ s : State}  (hk : Keeps s₀ s) : Keeps s₀ (State.degrade s) := by
  unfold State.degrade
  repeat' first
    | with_reducible assumption | with_reducible apply Keeps.ite | with_reducible apply Keeps.ite_fst
    | with_reducible apply Keeps.ite_snd | with_reducible apply State.drawBool_keeps | with_reducible apply State.setShp_keeps

theorem State.sensorEvent_keeps {s₀ s : State} (unit : Nat) (hk : Keeps s₀ s) : Keeps s₀ (State.sensorEvent s unit) := by
  unfold State.sensorEvent
  repeat' first
    | with_reducible assumption | with_reducible apply State.degrade_keeps | with_reducible apply State.shepEvent_keeps

theorem State.drawNats_keeps {s₀ s : State} (n : Nat) (hk : Keeps s₀ s) : Keeps s₀ (State.drawNats s n).2 := by
  unfold State.drawNats
  repeat' first
    | with_reducible assumption | with_reducible apply Keeps.setFree

theorem State.fillCurtain_keeps {s₀ s : State} (cause unit : Nat) (hk : Keeps s₀ s) : Keeps s₀ (State.fillCurtain s cause unit).2 := by
  unfold State.fillCurtain
  repeat' first
    | with_reducible assumption | with_reducible apply State.drawNats_keeps

theorem State.halt_keeps {s₀ s : State} (v : Stop) (hk : Keeps s₀ s) : Keeps s₀ (State.halt s v) := by
  unfold State.halt
  repeat' first
    | with_reducible assumption | with_reducible apply Keeps.setHost | with_reducible refine Keeps.setShep _ ?_ (fun h => h) | split
    | dsimp only | refine Keeps.setShep _ ?_ (fun h => h)

theorem State.releaseRails_keeps {s₀ s : State}  (hk : Keeps s₀ s) : Keeps s₀ (State.releaseRails s) := by
  unfold State.releaseRails
  repeat' first
    | with_reducible assumption | with_reducible apply State.setFld_keeps | with_reducible refine Keeps.setShep _ ?_ (fun h => h)

theorem State.curtain_keeps {s₀ s : State} (cause unit : Nat) (hk : Keeps s₀ s) : Keeps s₀ (State.curtain s cause unit) := by
  unfold State.curtain
  repeat' first
    | with_reducible assumption | with_reducible apply Keeps.ite | with_reducible apply Keeps.ite_fst | with_reducible apply Keeps.ite_snd
    | with_reducible apply State.halt_keeps | with_reducible apply State.fillCurtain_keeps | with_reducible apply State.setFld_keeps
    | with_reducible refine Keeps.setLedg _ ?_ (fun h => h) | with_reducible apply State.releaseRails_keeps | split

theorem State.setCause_keeps {s₀ s : State} (event unit : Nat) (hk : Keeps s₀ s) : Keeps s₀ (State.setCause s event unit) := by
  unfold State.setCause
  repeat' first
    | with_reducible assumption | with_reducible apply State.setFld_keeps

theorem State.stopNow_keeps {s₀ s : State} (event unit : Nat) (hk : Keeps s₀ s) : Keeps s₀ (State.stopNow s event unit) := by
  unfold State.stopNow
  repeat' first
    | with_reducible assumption | with_reducible apply Keeps.ite | with_reducible apply Keeps.ite_fst | with_reducible apply Keeps.ite_snd
    | with_reducible apply State.setFld_keeps | with_reducible apply State.setCause_keeps | with_reducible apply State.curtain_keeps
    | with_reducible apply State.releaseRails_keeps

theorem State.stopOrderly_keeps {s₀ s : State} (event unit : Nat) (hk : Keeps s₀ s) : Keeps s₀ (State.stopOrderly s event unit) := by
  unfold State.stopOrderly
  repeat' first
    | with_reducible assumption | with_reducible apply State.withdraw_keeps | with_reducible refine Keeps.setShep _ ?_ (fun h => h)
    | split

theorem State.stopWithdrawn_keeps {s₀ s : State}  (hk : Keeps s₀ s) : Keeps s₀ (State.stopWithdrawn s) := by
  unfold State.stopWithdrawn
  repeat' first
    | with_reducible assumption | with_reducible apply State.stopNow_keeps | split

theorem State.forgetMemory_keeps {s₀ s : State}  (hk : Keeps s₀ s) : Keeps s₀ (State.forgetMemory s) := by
  unfold State.forgetMemory
  repeat' first
    | with_reducible assumption | with_reducible apply State.undefineCells_keeps

theorem State.restart_keeps {s₀ s : State} (keep : Bool) (h : Keeps s₀ s) : Keeps s₀ (s.restart keep) := by
  have m := State.forgetMemory_keeps h
  have e : ∀ {α : Type} (d : α), tblWf d [] := fun d => ⟨List.Pairwise.nil, fun x hx => absurd hx List.not_mem_nil⟩
  refine ⟨h.part, h.serial, h.pending, h.out, fun c => ?_⟩
  obtain ⟨h1, h2, h3, -, -, -, -⟩ := (m.canonical c).mem
  have hc := h.canonical c
  obtain ⟨-, -, -, h4, -, -, -⟩ := hc.mem
  exact ⟨⟨h1, h2, h3, h4, e _, e _, e _, e _, e _⟩, ⟨⟨List.Pairwise.nil, fun x hx => absurd hx List.not_mem_nil⟩, e _, e _⟩, e _,
    ⟨e _, fun x hx => absurd hx List.not_mem_nil⟩, ⟨e _, e _, e _, e _⟩, ⟨e _, e _⟩, ⟨e _, e _, hc.prom.2.2⟩, ⟨e _, e _⟩, e _, hc.ledg,
    ⟨e _, e _, e _, e _, e _⟩⟩

theorem State.afterStop_keeps {s₀ s : State}  (hk : Keeps s₀ s) : Keeps s₀ (State.afterStop s) := by
  unfold State.afterStop
  repeat' first
    | with_reducible assumption | with_reducible apply Keeps.ite | with_reducible apply Keeps.ite_fst
    | with_reducible apply Keeps.ite_snd | with_reducible apply State.restart_keeps

theorem State.saveDone_keeps {s₀ s : State}  (hk : Keeps s₀ s) : Keeps s₀ (State.saveDone s) := by
  unfold State.saveDone
  repeat' first
    | with_reducible assumption | with_reducible apply State.releaseRails_keeps | with_reducible apply State.commitRecord_keeps
    | with_reducible apply State.afterStop_keeps | with_reducible apply State.setFld_keeps
    | with_reducible refine Keeps.setShep _ ?_ (fun h => h) | split

theorem State.supplyTrigger_keeps {s₀ s : State} (unit : Nat) (hk : Keeps s₀ s) : Keeps s₀ (State.supplyTrigger s unit) := by
  unfold State.supplyTrigger
  repeat' first
    | with_reducible assumption | with_reducible apply Keeps.ite | with_reducible apply Keeps.ite_fst
    | with_reducible apply Keeps.ite_snd | with_reducible apply State.curtain_keeps | with_reducible apply State.setCause_keeps

theorem State.vholdCollapse_keeps {s₀ s : State}  (hk : Keeps s₀ s) : Keeps s₀ (State.vholdCollapse s) := by
  unfold State.vholdCollapse
  repeat' first
    | with_reducible assumption | with_reducible apply State.tearRecord_keeps | with_reducible apply State.afterStop_keeps
    | with_reducible apply State.releaseRails_keeps | with_reducible refine Keeps.setLedg _ ?_ (fun h => h)
    | with_reducible refine Keeps.setShep _ ?_ (fun h => h) | split | dsimp only

theorem State.foldStatus_keeps {s₀ s : State} (f idx : Nat) (depleted : Bool) (hk : Keeps s₀ s) :
    Keeps s₀ (State.foldStatus s f idx depleted) := by
  unfold State.foldStatus
  repeat' first
    | with_reducible assumption | with_reducible apply Keeps.ite | with_reducible apply Keeps.ite_fst | with_reducible apply Keeps.ite_snd
    | with_reducible apply State.setFld_keeps

theorem State.takeOver_keeps {s₀ s : State} (c u : Nat) (hk : Keeps s₀ s) : Keeps s₀ (State.takeOver s c u) := by
  unfold State.takeOver
  repeat' first
    | with_reducible assumption | intro _ | with_reducible apply Keeps.over | with_reducible apply Keeps.ite
    | with_reducible apply Keeps.ite_fst | with_reducible apply Keeps.ite_snd
    | (with_reducible refine State.setPartition_keeps _ _ ?_ (fun _ c => State.gates_wf c _))

theorem State.markFailed_keeps {s₀ s : State} (c : Nat) (hk : Keeps s₀ s) : Keeps s₀ (State.markFailed s c).1 := by
  unfold State.markFailed
  repeat' first
    | with_reducible assumption | with_reducible apply Keeps.ite | with_reducible apply Keeps.ite_fst
    | with_reducible apply Keeps.ite_snd | with_reducible apply State.foldStatus_keeps
    | with_reducible refine Keeps.setSpare _ ?_ (fun h => h)

theorem State.declareFailed_keeps {s₀ s : State} (c : Nat) (hk : Keeps s₀ s) : Keeps s₀ (State.declareFailed s c).1 := by
  unfold State.declareFailed
  repeat' first
    | with_reducible assumption | with_reducible apply State.markFailed_keeps | with_reducible apply State.spared_keeps

theorem State.deplete_keeps {s₀ s : State} (f : Nat) (hk : Keeps s₀ s) : Keeps s₀ (State.deplete s f) := by
  unfold State.deplete
  repeat' first
    | with_reducible assumption | intro _ | with_reducible apply Keeps.over | with_reducible apply State.withdraw_keeps
    | with_reducible apply State.triggerReset_keeps
    | (with_reducible refine State.setPartition_keeps _ _ ?_ (fun _ c => State.gates_wf c _))

theorem State.copyLocal_keeps {s₀ s : State} (src dst : Nat) (h : Keeps s₀ s) : Keeps s₀ (s.copyLocal src dst) :=
  h.setMem _ fun ⟨h1, h2, h3, h4, h5, h6, h7⟩ => ⟨Memory.foldl_write_wf _ _ _ _ (tblWf_filter _ _ _ h1), h2, h3, h4, h5, h6, h7⟩

theorem State.failTwice_keeps {s₀ s : State} (i : Inst) (c : Nat) (hk : Keeps s₀ s) : Keeps s₀ (State.failTwice s i c) := by
  unfold State.failTwice
  repeat' first
    | with_reducible assumption | with_reducible apply State.declareFailed_keeps | with_reducible apply State.deplete_keeps
    | with_reducible apply State.endEarly_keeps | with_reducible refine Keeps.setSpare _ ?_ (fun h => h) | split | dsimp only

theorem State.kStep_keeps {s₀ s : State} (q index c : Nat) (ok : Bool) (hk : Keeps s₀ s) : Keeps s₀ (State.kStep s q index c ok) := by
  unfold State.kStep
  repeat' first
    | with_reducible assumption | with_reducible apply Keeps.ite | with_reducible apply Keeps.ite_fst | with_reducible apply Keeps.ite_snd
    | with_reducible apply State.setInst_keeps | with_reducible apply State.failTwice_keeps | split

theorem State.restartDone_keeps {s₀ s : State} (c : Nat) (hk : Keeps s₀ s) : Keeps s₀ (State.restartDone s c) := by
  unfold State.restartDone
  repeat' first
    | with_reducible assumption | with_reducible apply State.takeOver_keeps | with_reducible apply State.copyLocal_keeps
    | with_reducible refine Keeps.setSpare _ ?_ (fun h => h) | split

theorem State.replaceRow_keeps {s₀ s : State} (c row : Nat) (hk : Keeps s₀ s) : Keeps s₀ (State.replaceRow s c row) := by
  unfold State.replaceRow
  repeat' first
    | with_reducible assumption | with_reducible apply Keeps.ite | with_reducible apply Keeps.ite_fst | with_reducible apply Keeps.ite_snd
    | with_reducible apply State.spared_keeps | with_reducible refine Keeps.setSpare _ ?_ (fun k => tblSet_wf _ _ _ _ k)
    | with_reducible refine Keeps.setSpare _ ?_ (fun h => h) | with_reducible refine Keeps.setLedg _ ?_ (fun h => h)

theorem State.declareOut_keeps {s₀ s : State} (c : Nat) (hk : Keeps s₀ s) : Keeps s₀ (State.declareOut s c) := by
  unfold State.declareOut
  repeat' first
    | with_reducible assumption | with_reducible apply Keeps.ite | with_reducible apply Keeps.ite_fst
    | with_reducible apply Keeps.ite_snd | with_reducible apply State.declareFailed_keeps | with_reducible apply State.undefine_keeps
    | with_reducible apply State.takeOver_keeps | with_reducible apply State.deplete_keeps | split | dsimp only

theorem State.setPageFree_keeps {s₀ s : State} (part base k : Nat) (v : Bool) (hk : Keeps s₀ s) :
    Keeps s₀ (State.setPageFree s part base k v) := by
  unfold State.setPageFree
  repeat' first
    | with_reducible assumption | with_reducible apply State.writePart_keeps

theorem State.returnPages_keeps {s₀ s : State} (part base : Nat) (e : CastEntry) (hk : Keeps s₀ s) :
    Keeps s₀ (State.returnPages s part base e) := by
  unfold State.returnPages
  repeat' first
    | with_reducible assumption | intro _ | with_reducible apply Keeps.over | with_reducible apply State.setPageFree_keeps

theorem State.takePage_keeps {s₀ s : State} (part base n : Nat) (e : CastEntry) (hk : Keeps s₀ s) :
    Keeps s₀ (State.takePage s part base n e).1 := by
  unfold State.takePage
  repeat' first
    | with_reducible assumption | with_reducible apply State.drawNat_keeps | with_reducible apply State.setPageFree_keeps
    | with_reducible apply State.writePart_keeps | split | dsimp only

theorem State.takePages_keeps {s₀ s : State} (part base n : Nat) (e : CastEntry) (m : Nat) (h : Keeps s₀ s) :
    Keeps s₀ (s.takePages part base n e m).1 := by
  induction m generalizing s e with
  | zero => exact h
  | succ m ih => exact ih _ (State.takePage_keeps _ _ _ _ h)

theorem State.setCastOf_keeps {s₀ s : State} (p e : Nat) (v : CastEntry) (hk : Keeps s₀ s) : Keeps s₀ (State.setCastOf s p e v) := by
  unfold State.setCastOf
  repeat' first
    | with_reducible assumption | with_reducible apply State.setCast_keeps

theorem castLoad_keeps {s₀ s : State} (i : Inst) (hk : Keeps s₀ s) : Keeps s₀ (castLoad s i).1 := by
  unfold castLoad
  repeat' first
    | with_reducible assumption | intro _ | with_reducible apply Keeps.ite | with_reducible apply Keeps.ite_fst
    | with_reducible apply Keeps.ite_snd | with_reducible apply Keeps.over | with_reducible apply State.returnPages_keeps
    | with_reducible apply State.setCastOf_keeps | with_reducible apply State.consume_keeps | split

theorem State.swapIn_keeps {s₀ s : State} (i : Inst) (b : DecodeBlock) (x : Nat × CastEntry) (hk : Keeps s₀ s) :
    Keeps s₀ (State.swapIn s i b x).1 := by
  unfold State.swapIn
  repeat' first
    | with_reducible assumption | intro _ | with_reducible apply Keeps.ite | with_reducible apply Keeps.ite_fst
    | with_reducible apply Keeps.ite_snd | with_reducible apply Keeps.over | with_reducible apply State.takePages_keeps
    | with_reducible apply State.writePart_keeps | with_reducible apply State.setCastOf_keeps

theorem State.swapOut_keeps {s₀ s : State} (i : Inst) (b : DecodeBlock) (x : Nat × CastEntry) (hk : Keeps s₀ s) :
    Keeps s₀ (State.swapOut s i b x).1 := by
  unfold State.swapOut
  repeat' first
    | with_reducible assumption | intro _ | with_reducible apply Keeps.ite | with_reducible apply Keeps.ite_fst
    | with_reducible apply Keeps.ite_snd | with_reducible apply Keeps.over | with_reducible apply State.writeHost_keeps
    | with_reducible apply State.returnPages_keeps | with_reducible apply State.setCastOf_keeps

theorem State.swapsIn_keeps {s₀ s : State} (i : Inst) (b : DecodeBlock) (hk : Keeps s₀ s) : Keeps s₀ (State.swapsIn s i b).1 := by
  unfold State.swapsIn
  repeat' first
    | with_reducible assumption | intro _ | with_reducible apply Keeps.foldl | with_reducible apply Keeps.foldl_fst
    | with_reducible apply Keeps.foldl_snd | with_reducible apply Keeps.ite | with_reducible apply Keeps.ite_fst
    | with_reducible apply Keeps.ite_snd | with_reducible apply State.swapIn_keeps

theorem State.swapsOut_keeps {s₀ s : State} (i : Inst) (b : DecodeBlock) (keep : List Nat) (hk : Keeps s₀ s) :
    Keeps s₀ (State.swapsOut s i b keep).1 := by
  unfold State.swapsOut
  repeat' first
    | with_reducible assumption | intro _ | with_reducible apply Keeps.foldl | with_reducible apply Keeps.foldl_fst
    | with_reducible apply Keeps.foldl_snd | with_reducible apply Keeps.ite | with_reducible apply Keeps.ite_fst
    | with_reducible apply Keeps.ite_snd | with_reducible apply State.swapOut_keeps

theorem State.decodeEntry_keeps {s₀ s : State} (i : Inst) (b : DecodeBlock) (n : Nat) (hk : Keeps s₀ s) :
    Keeps s₀ (State.decodeEntry s i b n).1 := by
  unfold State.decodeEntry
  repeat' first
    | with_reducible assumption | intro _ | with_reducible apply Keeps.ite | with_reducible apply Keeps.ite_fst
    | with_reducible apply Keeps.ite_snd | with_reducible apply Keeps.over | with_reducible apply State.takePages_keeps
    | with_reducible apply State.writePart_keeps | with_reducible apply State.setCastOf_keeps

theorem decodeRun_keeps {s₀ s : State} (i : Inst) (hk : Keeps s₀ s) : Keeps s₀ (decodeRun s i).1 := by
  unfold decodeRun
  repeat' first
    | with_reducible assumption | intro _ | with_reducible apply Keeps.ite | with_reducible apply Keeps.ite_fst
    | with_reducible apply Keeps.ite_snd | with_reducible apply Keeps.foldl | with_reducible apply Keeps.foldl_fst
    | with_reducible apply Keeps.foldl_snd | with_reducible apply State.loseOuts_keeps | with_reducible apply State.swapsIn_keeps
    | with_reducible apply State.swapsOut_keeps | with_reducible apply State.decodeEntry_keeps | with_reducible apply State.finish_keeps
    | (with_reducible refine State.setPartition_keeps _ _ ?_ (fun _ c => State.gates_wf c _))

theorem runLoadBody_keeps {s₀ s : State} (i : Inst) (hk : Keeps s₀ s) : Keeps s₀ (runLoadBody s i).1 := by
  unfold runLoadBody
  repeat' first
    | with_reducible assumption | with_reducible apply Keeps.ite | with_reducible apply Keeps.ite_fst
    | with_reducible apply Keeps.ite_snd | with_reducible apply State.setQueue_keeps | with_reducible apply State.consume_keeps

theorem State.setEntry_keeps {s₀ s : State} (q k : Nat) (e : RunEntry) (hk : Keeps s₀ s) : Keeps s₀ (State.setEntry s q k e) := by
  unfold State.setEntry
  repeat' first
    | with_reducible assumption | with_reducible apply State.setQueue_keeps

theorem State.sendEntry_keeps {s₀ s : State} (p : Nat) (e : RunEntry) (hk : Keeps s₀ s) : Keeps s₀ (State.sendEntry s p e).1 := by
  unfold State.sendEntry
  repeat' first
    | with_reducible assumption | with_reducible apply State.sendPeer_keeps

theorem State.askEntry_keeps {s₀ s : State} (p : Nat) (e : RunEntry) (hk : Keeps s₀ s) : Keeps s₀ (State.askEntry s p e).1 := by
  unfold State.askEntry
  repeat' first
    | with_reducible assumption | intro _ | with_reducible apply Keeps.foldl | with_reducible apply Keeps.foldl_fst
    | with_reducible apply Keeps.foldl_snd | with_reducible apply State.sendRead_keeps

theorem State.startEntry_keeps {s₀ s : State} (p q k : Nat) (hk : Keeps s₀ s) : Keeps s₀ (State.startEntry s p q k) := by
  unfold State.startEntry
  repeat' first
    | with_reducible assumption | intro _ | with_reducible apply Keeps.ite | with_reducible apply Keeps.ite_fst
    | with_reducible apply Keeps.ite_snd | with_reducible apply Keeps.over | with_reducible apply State.setQueue_keeps
    | with_reducible apply State.sendRead_keeps | with_reducible apply State.sendPeer_keeps | with_reducible apply State.askEntry_keeps
    | with_reducible apply State.sendEntry_keeps | with_reducible apply State.setEntry_keeps | split | dsimp only

theorem State.startEntries_keeps {s₀ s : State} (p q : Nat) (which : RunEntry → Bool) (hk : Keeps s₀ s) :
    Keeps s₀ (State.startEntries s p q which) := by
  unfold State.startEntries
  repeat' first
    | with_reducible assumption | intro _ | with_reducible apply Keeps.over | with_reducible apply Keeps.ite
    | with_reducible apply Keeps.ite_fst | with_reducible apply Keeps.ite_snd | with_reducible apply State.startEntry_keeps | split

theorem runMarkBody_keeps {s₀ s : State} (i : Inst) (hk : Keeps s₀ s) : Keeps s₀ (runMarkBody s i).1 := by
  unfold runMarkBody
  repeat' first
    | with_reducible assumption | with_reducible apply Keeps.ite | with_reducible apply Keeps.ite_fst
    | with_reducible apply Keeps.ite_snd | with_reducible apply State.startEntries_keeps

theorem State.endRunWait_keeps {s₀ s : State} (i : Inst) (l : Nat) (hk : Keeps s₀ s) : Keeps s₀ (State.endRunWait s i l).1 := by
  unfold State.endRunWait
  repeat' first
    | with_reducible assumption | with_reducible apply Keeps.ite | with_reducible apply Keeps.ite_fst
    | with_reducible apply Keeps.ite_snd | with_reducible apply State.setQueue_keeps

theorem runWaitBody_keeps {s₀ s : State} (i : Inst) (hk : Keeps s₀ s) : Keeps s₀ (runWaitBody s i).1 := by
  unfold runWaitBody
  repeat' first
    | with_reducible assumption | with_reducible apply Keeps.ite | with_reducible apply Keeps.ite_fst
    | with_reducible apply Keeps.ite_snd | with_reducible apply State.startEntries_keeps | with_reducible apply State.endRunWait_keeps

theorem State.copyDone_keeps {s₀ s : State} (p : Nat) (e : RunEntry) (link : Nat) (hk : Keeps s₀ s) :
    Keeps s₀ (State.copyDone s p e link).1 := by
  unfold State.copyDone
  repeat' first
    | with_reducible assumption | with_reducible apply Keeps.ite | with_reducible apply Keeps.ite_fst
    | with_reducible apply Keeps.ite_snd | with_reducible apply State.undefineExtent_keeps | with_reducible apply State.drawBytes_keeps
    | with_reducible apply State.readThrough_keeps | with_reducible apply State.writePart_keeps

theorem State.entryDone_keeps {s₀ s : State} (q k link : Nat) (hk : Keeps s₀ s) : Keeps s₀ (State.entryDone s q k link) := by
  unfold State.entryDone
  repeat' first
    | with_reducible assumption | with_reducible apply Keeps.ite | with_reducible apply Keeps.ite_fst | with_reducible apply Keeps.ite_snd
    | with_reducible apply State.copyDone_keeps | with_reducible apply State.touch_keeps | with_reducible apply State.setQueue_keeps
    | with_reducible apply State.endRunWait_keeps | with_reducible apply State.setInst_keeps | with_reducible apply State.setEntry_keeps
    | split | dsimp only

theorem prefetchBody_keeps {s₀ s : State} (i : Inst) (hk : Keeps s₀ s) : Keeps s₀ (prefetchBody s i).1 := by
  unfold prefetchBody
  repeat' first
    | with_reducible assumption | with_reducible apply State.touch_keeps

theorem cleanBody_keeps {s₀ s : State} (i : Inst) (hk : Keeps s₀ s) : Keeps s₀ (cleanBody s i).1 := by
  unfold cleanBody
  repeat' first
    | with_reducible assumption | with_reducible apply Keeps.ite | with_reducible apply Keeps.ite_fst
    | with_reducible apply Keeps.ite_snd | with_reducible refine Keeps.setMem _ ?_ (fun h => h)

theorem unitBody_keeps {s₀ s : State} (i : Inst) (hk : Keeps s₀ s) : Keeps s₀ (unitBody s i).1 := by
  unfold unitBody
  repeat' first
    | with_reducible assumption | with_reducible apply Keeps.ite | with_reducible apply Keeps.ite_fst
    | with_reducible apply Keeps.ite_snd | with_reducible apply State.consume_keeps | split | dsimp only

theorem State.unitBegun_keeps {s₀ s : State} (i : Inst) (waits : Bool) (hk : Keeps s₀ s) : Keeps s₀ (State.unitBegun s i waits) := by
  unfold State.unitBegun
  repeat' first
    | with_reducible assumption | with_reducible apply Keeps.ite | with_reducible apply Keeps.ite_fst
    | with_reducible apply Keeps.ite_snd | with_reducible apply State.setInst_keeps

theorem State.popUnit_keeps {s₀ s t : State} (i : Inst) (sc : Scene) (pair : Nat) (h : Keeps s₀ s) (e : s.popUnit i sc pair = some t) :
    Keeps s₀ t := by
  unfold State.popUnit at e
  dsimp only at e
  split at e
  · cases e
  · injection e with e
    rw [← e]
    refine State.unitBegun_keeps _ _ ?_
    repeat' first
      | with_reducible assumption | intro _ | with_reducible apply Keeps.foldl_fst | with_reducible apply State.sendPeer_keeps
      | with_reducible apply State.writePart_keeps | with_reducible apply State.setScene_keeps | split | dsimp only

theorem State.pushUnit_keeps {s₀ s t : State} (i : Inst) (sc : Scene) (pair : Nat) (h : Keeps s₀ s) (e : s.pushUnit i sc pair = some t) :
    Keeps s₀ t := by
  have opt : ∀ (c : Prop) [Decidable c] (u : State), Keeps s₀ u → (if c then some u else none) = some t → Keeps s₀ t := by
    intro c _ u hu he
    split at he
    · injection he with he
      exact he ▸ hu
    · cases he
  unfold State.pushUnit at e
  dsimp only at e
  split at e <;> exact opt _ _ (State.unitBegun_keeps _ _ (State.setScene_keeps _ _ h)) e

theorem State.workUnit_keeps {s₀ s t : State} (i : Inst) (sc : Scene) (pair : Nat) (h : Keeps s₀ s) (e : s.workUnit i sc pair = some t) :
    Keeps s₀ t := by
  unfold State.workUnit at e
  dsimp only at e
  split at e
  · cases e
  · split at e
    · injection e with e
      exact e ▸ State.unitBegun_keeps _ _ (State.setScene_keeps _ _ h)
    · cases e

theorem State.claimUnit_keeps {s₀ s t : State} (i : Inst) (sc : Scene) (pair : Nat) (h : Keeps s₀ s) (e : s.claimUnit i sc pair = some t) :
    Keeps s₀ t := by
  unfold State.claimUnit at e
  dsimp only at e
  split at e
  · cases e
  · split at e
    · injection e with e
      exact e ▸ State.setInst_keeps _ (State.setScene_keeps _ _ h)
    · cases e

theorem State.beginUnit_keeps {s₀ s : State} (q : Nat) (h : Keeps s₀ s) : Keeps s₀ (s.beginUnit q) := by
  have tried : ∀ (i? : Option Inst) (f : Inst → Scene → Nat → Option State) (t : State),
      (∀ i sc k t, f i sc k = some t → Keeps s₀ t) →
      (i?.bind fun i => (s.instPair i).bind fun x => if x.1.running then f i x.1 x.2 else none) = some t → Keeps s₀ t := by
    intro i? f t hf e
    obtain ⟨i, -, e⟩ := Option.bind_eq_some_iff.mp e
    obtain ⟨x, -, e⟩ := Option.bind_eq_some_iff.mp e
    split at e
    · exact hf _ _ _ _ e
    · cases e
  have got : ∀ o : Option State, (∀ t, o = some t → Keeps s₀ t) → Keeps s₀ (o.getD s) := by
    intro o ho
    cases o with
    | none => exact h
    | some t => exact ho t rfl
  unfold State.beginUnit
  dsimp only
  split
  · exact got _ fun t e => tried _ s.workUnit t (fun i sc k t e => State.workUnit_keeps i sc k h e) e
  · split
    · next e => exact tried _ s.popUnit _ (fun i sc k t e => State.popUnit_keeps i sc k h e) e
    · split
      · next e => exact tried _ s.claimUnit _ (fun i sc k t e => State.claimUnit_keeps i sc k h e) e
      · exact got _ fun t e => tried _ s.pushUnit t (fun i sc k t e => State.pushUnit_keeps i sc k h e) e

theorem State.loadParams_keeps {s₀ s : State} (i : Inst) (table : Nat) (hk : Keeps s₀ s) : Keeps s₀ (State.loadParams s i table).1 := by
  unfold State.loadParams
  repeat' first
    | with_reducible assumption | with_reducible apply Keeps.ite | with_reducible apply Keeps.ite_fst | with_reducible apply Keeps.ite_snd
    | with_reducible apply State.drawBytes_keeps | with_reducible apply State.fetchDescs_keeps | with_reducible apply State.touch_keeps
    | split

theorem State.clearHand_keeps {s₀ s : State} (q : Nat) (h : Keeps s₀ s) : Keeps s₀ (s.clearHand q) :=
  h.setMem _ fun ⟨h1, h2, h3, h4, h5, h6, h7⟩ => ⟨h1, h2, h3, h4, h5, tblWf_filter _ _ _ h6, h7⟩

theorem State.brokenEnd_keeps {s₀ s : State} (i : Inst) (port : Nat) (hk : Keeps s₀ s) : Keeps s₀ (State.brokenEnd s i port) := by
  unfold State.brokenEnd
  repeat' first
    | with_reducible assumption | with_reducible apply State.endEarly_keeps | with_reducible apply State.setChainPort_keeps

theorem convBody_keeps {s₀ s : State} (i : Inst) (hk : Keeps s₀ s) : Keeps s₀ (convBody s i).1 := by
  unfold convBody
  repeat' first
    | with_reducible assumption | with_reducible apply Keeps.ite | with_reducible apply Keeps.ite_fst
    | with_reducible apply Keeps.ite_snd | with_reducible apply State.finish_keeps

theorem opBody_keeps {s₀ s : State} (i : Inst) (hk : Keeps s₀ s) : Keeps s₀ (opBody s i).1 := by
  unfold opBody
  repeat' first
    | with_reducible assumption | with_reducible apply Keeps.ite | with_reducible apply Keeps.ite_fst
    | with_reducible apply Keeps.ite_snd | with_reducible apply sceneBeginBody_keeps | with_reducible apply sceneEndBody_keeps
    | with_reducible apply preemptOkBody_keeps | with_reducible apply gateAcqBody_keeps | with_reducible apply gateRelBody_keeps
    | with_reducible apply hurdleBody_keeps | with_reducible apply cueStampBody_keeps | with_reducible apply propReadBody_keeps
    | with_reducible apply queueResumeBody_keeps | with_reducible apply convBody_keeps | with_reducible apply State.finish_keeps
    | with_reducible apply unitBody_keeps | with_reducible apply prefetchBody_keeps | with_reducible apply cleanBody_keeps
    | with_reducible apply runLoadBody_keeps | with_reducible apply runMarkBody_keeps | with_reducible apply runWaitBody_keeps
    | with_reducible apply castLoad_keeps | with_reducible apply decodeRun_keeps | split

theorem State.pullPort_keeps {s₀ s : State} (i : Inst) (u : PortUse) (hk : Keeps s₀ s) : Keeps s₀ (State.pullPort s i u).1 := by
  unfold State.pullPort
  repeat' first
    | with_reducible assumption | with_reducible apply Keeps.ite | with_reducible apply Keeps.ite_fst
    | with_reducible apply Keeps.ite_snd | with_reducible apply State.writeTier_keeps | with_reducible apply State.setChainPort_keeps

theorem State.pushPort_keeps {s₀ s : State} (i : Inst) (port : Nat) (hk : Keeps s₀ s) : Keeps s₀ (State.pushPort s i port).1 := by
  unfold State.pushPort
  repeat' first
    | with_reducible assumption | with_reducible apply State.setChainPort_keeps

theorem State.atPort_keeps {s₀ s : State} (i : Inst) (port : Nat) (moved : Bool) (hk : Keeps s₀ s) :
    Keeps s₀ (State.atPort s i port moved) := by
  unfold State.atPort
  repeat' first
    | with_reducible assumption | with_reducible apply Keeps.ite | with_reducible apply Keeps.ite_fst
    | with_reducible apply Keeps.ite_snd | with_reducible apply State.setInst_keeps

theorem State.chainGo_keeps {s₀ s : State} (i : Inst) (fuel : Nat) (h : Keeps s₀ s) : Keeps s₀ (s.chainGo i fuel) := by
  induction fuel generalizing s i with
  | zero => exact State.setInst_keeps _ h
  | succ fuel ih =>
    unfold State.chainGo
    repeat' first
      | with_reducible assumption
      | with_reducible apply ih
      | with_reducible apply State.brokenEnd_keeps
      | with_reducible apply State.atPort_keeps
      | with_reducible apply State.pullPort_keeps
      | with_reducible apply State.pushPort_keeps
      | with_reducible apply State.startColl_keeps
      | with_reducible apply State.endEarly_keeps
      | with_reducible apply State.finish_keeps
      | with_reducible apply State.place_keeps
      | with_reducible apply State.clearHand_keeps
      | with_reducible apply Keeps.ite
      | split
      | dsimp only

theorem State.nextStage_keeps {s₀ s : State} (i : Inst) (hk : Keeps s₀ s) : Keeps s₀ (State.nextStage s i) := by
  unfold State.nextStage
  repeat' first
    | with_reducible assumption | with_reducible apply Keeps.ite | with_reducible apply Keeps.ite_fst
    | with_reducible apply Keeps.ite_snd | with_reducible apply State.endEarly_keeps | with_reducible apply State.chainGo_keeps

theorem State.advance_keeps {s₀ s : State}  (hk : Keeps s₀ s) : Keeps s₀ (State.advance s) := by
  unfold State.advance
  repeat' first
    | with_reducible assumption | intro _ | with_reducible apply Keeps.over | with_reducible apply Keeps.ite
    | with_reducible apply Keeps.ite_fst | with_reducible apply Keeps.ite_snd | with_reducible apply State.nextStage_keeps | split

theorem State.apronTake_keeps {s₀ s : State} (die : Nat) (hk : Keeps s₀ s) : Keeps s₀ (State.apronTake s die) := by
  unfold State.apronTake
  repeat' first
    | with_reducible assumption | with_reducible apply State.setApron_keeps | split

theorem State.apronStart_keeps {s₀ s : State}  (hk : Keeps s₀ s) : Keeps s₀ (State.apronStart s) := by
  unfold State.apronStart
  repeat' first
    | with_reducible assumption | intro _ | with_reducible apply Keeps.over | with_reducible apply Keeps.ite
    | with_reducible apply Keeps.ite_fst | with_reducible apply Keeps.ite_snd | with_reducible apply State.apronTake_keeps

theorem State.apronEnd_keeps {s₀ s : State} (die : Nat) (hk : Keeps s₀ s) : Keeps s₀ (State.apronEnd s die) := by
  unfold State.apronEnd
  repeat' first
    | with_reducible assumption | with_reducible apply Keeps.ite | with_reducible apply Keeps.ite_fst
    | with_reducible apply Keeps.ite_snd | with_reducible apply State.setInst_keeps | with_reducible apply State.apronTake_keeps | split

theorem State.launch_keeps {s₀ s : State} (i : Inst) (hk : Keeps s₀ s) : Keeps s₀ (State.launch s i) := by
  unfold State.launch
  repeat' first
    | with_reducible assumption | with_reducible apply Keeps.ite | with_reducible apply Keeps.ite_fst | with_reducible apply Keeps.ite_snd
    | with_reducible apply State.chainGo_keeps | with_reducible apply State.startColl_keeps | with_reducible apply State.endEarly_keeps
    | with_reducible apply State.startRing_keeps | with_reducible apply opBody_keeps | with_reducible apply State.apronStart_keeps
    | with_reducible apply State.place_keeps | with_reducible apply State.claimTiles_keeps | split

theorem State.askPeer_keeps {s₀ s : State} (p : Nat) (d : Desc) (hk : Keeps s₀ s) : Keeps s₀ (State.askPeer s p d).1 := by
  unfold State.askPeer
  repeat' first
    | with_reducible assumption | intro _ | with_reducible apply Keeps.foldl | with_reducible apply Keeps.foldl_fst
    | with_reducible apply Keeps.foldl_snd | with_reducible apply State.sendRead_keeps

theorem State.takeNumber_keeps {s₀ s : State} (i : Inst) (hk : Keeps s₀ s) : Keeps s₀ (State.takeNumber s i).1 := by
  unfold State.takeNumber
  repeat' first
    | with_reducible assumption | with_reducible apply Keeps.ite | with_reducible apply Keeps.ite_fst
    | with_reducible apply Keeps.ite_snd | with_reducible apply State.takeSeq_keeps | split

theorem State.endAtIssue_keeps {s₀ s : State} (i : Inst) (event : Nat) (hk : Keeps s₀ s) : Keeps s₀ (State.endAtIssue s i event) := by
  unfold State.endAtIssue
  repeat' first
    | with_reducible assumption | with_reducible apply Keeps.ite | with_reducible apply Keeps.ite_fst
    | with_reducible apply Keeps.ite_snd | with_reducible apply State.collAtIssue_keeps | with_reducible apply State.takeSeq_keeps
    | with_reducible apply State.ringAtIssue_keeps | split

theorem State.noteIssue_keeps {s₀ s : State} (i : Inst) (n : Nat) (hk : Keeps s₀ s) : Keeps s₀ (State.noteIssue s i n) := by
  unfold State.noteIssue
  repeat' first
    | with_reducible assumption | with_reducible apply Keeps.ite | with_reducible apply Keeps.ite_fst
    | with_reducible apply Keeps.ite_snd | with_reducible apply State.setQueue_keeps | with_reducible apply State.setScene_keeps | split
    | dsimp only

theorem State.enter_keeps {s₀ s : State} (i : Inst) (hk : Keeps s₀ s) : Keeps s₀ (State.enter s i) := by
  unfold State.enter
  repeat' first
    | with_reducible assumption | with_reducible apply Keeps.setInsts

theorem State.retireAtIssue_keeps {s₀ s : State} (i : Inst) (js : List Inst) (event : Nat) (hk : Keeps s₀ s) :
    Keeps s₀ (State.retireAtIssue s i js event) := by
  unfold State.retireAtIssue
  repeat' first
    | with_reducible assumption | intro _ | with_reducible apply Keeps.over | with_reducible apply Keeps.ite
    | with_reducible apply Keeps.ite_fst | with_reducible apply Keeps.ite_snd | with_reducible apply State.endAtIssue_keeps
    | with_reducible apply State.place_keeps | with_reducible apply State.enter_keeps | with_reducible apply State.noteIssue_keeps

theorem State.fetchAll_keeps {s₀ s : State} (table : Nat) (l : List Inst) (h : Keeps s₀ s) : Keeps s₀ (s.fetchAll table l).1 := by
  induction l generalizing s with
  | nil => exact h
  | cons i t ih => exact ih (State.fetchDescs_keeps _ _ _ h)

theorem State.loadAll_keeps {s₀ s : State} (table : Nat) (l : List Inst) (h : Keeps s₀ s) : Keeps s₀ (s.loadAll table l).1 := by
  induction l generalizing s with
  | nil => exact h
  | cons i t ih => exact ih (State.loadParams_keeps _ _ h)

theorem State.issuePass_keeps {s₀ s : State} (s0 : State) (i : Inst) (js : List Inst) (window : Nat) (h0 : Keeps s₀ s0) (hk : Keeps s₀ s) :
    Keeps s₀ (State.issuePass s s0 i js window) := by
  unfold State.issuePass
  repeat' first
    | with_reducible assumption | intro _ | with_reducible apply Keeps.ite | with_reducible apply Keeps.ite_fst
    | with_reducible apply Keeps.ite_snd | with_reducible apply Keeps.foldl | with_reducible apply Keeps.foldl_fst
    | with_reducible apply Keeps.foldl_snd | with_reducible apply State.setQueue_keeps | with_reducible apply State.takeNumber_keeps
    | with_reducible apply State.enter_keeps | with_reducible apply State.noteIssue_keeps | with_reducible apply State.askPeer_keeps
    | with_reducible apply State.launch_keeps | with_reducible apply State.setInst_keeps | split | dsimp only

theorem State.issue_keeps {s₀ s : State} (q op : Nat) (hk : Keeps s₀ s) : Keeps s₀ (State.issue s q op) := by
  unfold State.issue
  repeat' first
    | with_reducible assumption | with_reducible apply Keeps.ite | with_reducible apply Keeps.ite_fst | with_reducible apply Keeps.ite_snd
    | with_reducible apply State.settle_keeps | with_reducible apply State.retireAtIssue_keeps | with_reducible apply State.fetchAll_keeps
    | with_reducible apply State.loadAll_keeps | with_reducible apply State.issuePass_keeps | split

theorem State.entryResponse_keeps {s₀ s : State} (x : Nat × Nat × RunEntry × PeerRead) (st : PeerStatus) (bs : Bytes) (hk : Keeps s₀ s) :
    Keeps s₀ (State.entryResponse s x st bs) := by
  unfold State.entryResponse
  repeat' first
    | with_reducible assumption | with_reducible apply Keeps.ite | with_reducible apply Keeps.ite_fst | with_reducible apply Keeps.ite_snd
    | with_reducible apply State.sendEntry_keeps | with_reducible apply State.setEntry_keeps | with_reducible apply State.writeTier_keeps
    | split | dsimp only

theorem State.entryRefused_keeps {s₀ s : State} (node n : Nat) (hk : Keeps s₀ s) : Keeps s₀ (State.entryRefused s node n) :=
  hk.setQueues _ fun k => tblWf_map _ _ _ k fun x hx e => k.2 x hx <| by
    have hr : x.2.runOrder = [] := List.map_eq_nil_iff.mp (congrArg Queue.runOrder e)
    rw [hr] at e
    rw [← e, List.map_nil, ← hr]

theorem State.setRowBit_keeps {s₀ s : State} (k v : Nat) (hk : Keeps s₀ s) :
    Keeps s₀ (s.setMem { s.mem with rowBit := tblSet 0 s.mem.rowBit k v }) :=
  hk.setMem _ fun ⟨h1, h2, h3, h4, h5, h6, h7, h8, h9⟩ => ⟨h1, h2, h3, h4, h5, h6, h7, h8, tblSet_wf _ _ _ _ h9⟩

theorem State.rowShows_keeps {s₀ s : State} (c row : Nat) (e : RowError) (hk : Keeps s₀ s) : Keeps s₀ (State.rowShows s c row e) := by
  have hc : ∀ v, Keeps s₀ (s.setMem { s.mem with locCorr := tblSet 0 s.mem.locCorr c v }) := fun v =>
    hk.setMem _ fun ⟨h1, h2, h3, h4, h5, h6, h7, h8, h9⟩ => ⟨h1, h2, h3, h4, h5, h6, h7, tblSet_wf _ _ _ _ h8, h9⟩
  unfold State.rowShows
  repeat' first
    | with_reducible assumption | exact hc _ | with_reducible apply Keeps.ite | with_reducible apply State.addPoison_keeps
    | with_reducible apply State.replaceRow_keeps | apply State.setRowBit_keeps | split | dsimp only

end Sys2Proof.Machine
end

