-- ==== Sys2Proof/Laws/KeepsDevice.lean ====
section
/-!
SUPPORT. What each operation keeps (Laws/Keeps.lean): upkeep, start-up, the link, the cue, resilience and peer accesses. One lemma for each operation, named after it.
-/

namespace Sys2Proof.Machine

theorem State.markMapped_keeps {s₀ s : State} (c : Nat) (hk : Keeps s₀ s) : Keeps s₀ (State.markMapped s c) := by
  unfold State.markMapped
  repeat' first
    | with_reducible assumption | with_reducible apply State.setFld_keeps | with_reducible refine Keeps.setSpare _ ?_ (fun h => h)

theorem State.mapOut_keeps {s₀ s : State} (c : Nat) (hk : Keeps s₀ s) : Keeps s₀ (State.mapOut s c) := by
  unfold State.mapOut
  repeat' first
    | with_reducible assumption | with_reducible apply State.spared_keeps | with_reducible apply State.markMapped_keeps

theorem State.raiseMapped_keeps {s₀ s : State} (c : Nat) (hk : Keeps s₀ s) : Keeps s₀ (State.raiseMapped s c) := by
  unfold State.raiseMapped
  repeat' first
    | with_reducible assumption | intro _ | with_reducible apply Keeps.over | with_reducible apply State.raiseGlobal_keeps
    | with_reducible apply State.raiseVector_keeps | split

theorem State.startDrain_keeps {s₀ s : State} (c : Nat) (waiting : List Nat) (hk : Keeps s₀ s) :
    Keeps s₀ (State.startDrain s c waiting) := by
  unfold State.startDrain
  repeat' first
    | with_reducible assumption | intro _ | with_reducible apply Keeps.over | with_reducible apply State.setFld_keeps
    | with_reducible apply State.raiseMapped_keeps | with_reducible apply State.endEarly_keeps
    | with_reducible refine Keeps.setSpare _ ?_ (fun h => h) | split

theorem State.beyondRepair_keeps {s₀ s : State} (c : Nat) (hk : Keeps s₀ s) : Keeps s₀ (State.beyondRepair s c) := by
  unfold State.beyondRepair
  repeat' first
    | with_reducible assumption | with_reducible apply Keeps.ite | with_reducible apply Keeps.ite_fst
    | with_reducible apply Keeps.ite_snd | with_reducible apply State.withdraw_keeps | with_reducible apply State.startDrain_keeps
    | with_reducible refine Keeps.setSpare _ ?_ (fun h => h) | split

theorem State.drainPoison_keeps {s₀ s : State} (c : Nat) (hk : Keeps s₀ s) : Keeps s₀ (State.drainPoison s c) := by
  unfold State.drainPoison
  repeat' first
    | with_reducible assumption | intro _ | with_reducible apply Keeps.over | with_reducible apply State.addPoison_keeps
    | with_reducible apply Keeps.setFree

theorem State.drainDone_keeps {s₀ s : State} (hk : Keeps s₀ s) : Keeps s₀ (State.drainDone s) := by
  unfold State.drainDone
  repeat' first
    | with_reducible assumption | with_reducible apply State.setFld_keeps | with_reducible apply State.mapOut_keeps
    | with_reducible apply State.startDrain_keeps | with_reducible refine Keeps.setSpare _ ?_ (fun h => h)
    | with_reducible apply State.drainPoison_keeps | split

theorem State.hbcOn_keeps {s₀ s : State}  (hk : Keeps s₀ s) : Keeps s₀ (State.hbcOn s) := by
  unfold State.hbcOn
  repeat' first
    | with_reducible assumption | with_reducible apply State.setFld_keeps

theorem State.hbcOff_keeps {s₀ s : State}  (hk : Keeps s₀ s) : Keeps s₀ (State.hbcOff s) := by
  unfold State.hbcOff
  repeat' first
    | with_reducible assumption | with_reducible apply State.setFld_keeps

theorem State.cacOn_keeps {s₀ s : State}  (hk : Keeps s₀ s) : Keeps s₀ (State.cacOn s) := by
  unfold State.cacOn
  repeat' first
    | with_reducible assumption | with_reducible apply Keeps.ite | with_reducible apply Keeps.ite_fst
    | with_reducible apply Keeps.ite_snd | with_reducible apply State.undefineCells_keeps | with_reducible apply State.setFld_keeps
    | with_reducible refine Keeps.setMem _ ?_ (fun h => h)

theorem State.rehearse_keeps {s₀ s : State}  (hk : Keeps s₀ s) : Keeps s₀ (State.rehearse s) := by
  unfold State.rehearse
  repeat' first
    | with_reducible assumption | intro _ | with_reducible apply Keeps.ite | with_reducible apply Keeps.ite_fst
    | with_reducible apply Keeps.ite_snd | with_reducible apply Keeps.when | with_reducible apply State.wignOther_keeps
    | with_reducible apply State.undefineCells_keeps | with_reducible apply State.setFld_keeps
    | with_reducible refine Keeps.setMem _ ?_ (fun h => h)

theorem State.rehearseMode_keeps {s₀ s : State} (mode : Nat) (hk : Keeps s₀ s) : Keeps s₀ (State.rehearseMode s mode) := by
  unfold State.rehearseMode
  repeat' first
    | with_reducible assumption | with_reducible apply Keeps.ite | with_reducible apply Keeps.ite_fst
    | with_reducible apply Keeps.ite_snd | with_reducible apply State.rehearse_keeps | with_reducible apply State.setFld_keeps

theorem State.mapUnused_keeps {s₀ s : State} (c : Nat) (hk : Keeps s₀ s) : Keeps s₀ (State.mapUnused s c) := by
  unfold State.mapUnused
  repeat' first
    | with_reducible assumption | with_reducible apply Keeps.ite | with_reducible apply Keeps.ite_fst
    | with_reducible apply Keeps.ite_snd | with_reducible apply State.withdraw_keeps | with_reducible apply State.raiseGlobal_keeps
    | with_reducible apply State.mapOut_keeps

theorem State.laneRepaired_keeps {s₀ s : State} (c : Nat) (hk : Keeps s₀ s) : Keeps s₀ (State.laneRepaired s c) := by
  unfold State.laneRepaired
  repeat' first
    | with_reducible assumption | with_reducible apply State.countFld_keeps

theorem State.rowRepaired_keeps {s₀ s : State} (c : Nat) (hk : Keeps s₀ s) : Keeps s₀ (State.rowRepaired s c) := by
  unfold State.rowRepaired
  repeat' first
    | with_reducible assumption | with_reducible apply State.setFld_keeps

theorem State.rehearsalEnds_keeps {s₀ s : State} (o : RehOutcome) (hk : Keeps s₀ s) : Keeps s₀ (State.rehearsalEnds s o) := by
  unfold State.rehearsalEnds
  repeat' first
    | with_reducible assumption | intro _ | with_reducible apply Keeps.ite | with_reducible apply Keeps.ite_fst
    | with_reducible apply Keeps.ite_snd | with_reducible apply Keeps.over | with_reducible apply State.setFld_keeps
    | with_reducible apply State.laneRepaired_keeps | with_reducible apply State.mapUnused_keeps
    | with_reducible apply State.queueRepair_keeps | with_reducible apply State.rowRepaired_keeps
    | with_reducible apply State.spared_keeps

theorem State.corrected_keeps {s₀ s : State} (c : Nat) (hk : Keeps s₀ s) : Keeps s₀ (State.corrected s c) := by
  unfold State.corrected
  repeat' first
    | with_reducible assumption | with_reducible apply Keeps.ite | with_reducible apply Keeps.ite_fst | with_reducible apply Keeps.ite_snd
    | with_reducible apply State.beyondRepair_keeps | with_reducible apply State.countFld_keeps

theorem State.scrub_keeps {s₀ s : State} (c a : Nat) (o : ScrubOutcome) (hk : Keeps s₀ s) : Keeps s₀ (State.scrub s c a o) := by
  unfold State.scrub
  repeat' first
    | with_reducible assumption | with_reducible apply Keeps.ite | with_reducible apply Keeps.ite_fst | with_reducible apply Keeps.ite_snd
    | with_reducible apply State.countFld_keeps | with_reducible apply State.drawNat_keeps | with_reducible apply State.addPoison_keeps
    | with_reducible apply State.setFld_keeps | with_reducible apply State.raiseGlobal_keeps | with_reducible apply State.corrected_keeps
    | split

theorem State.poisonLine_keeps {s₀ s : State} (way a : Nat) (hk : Keeps s₀ s) : Keeps s₀ (State.poisonLine s way a) := by
  unfold State.poisonLine
  repeat' first
    | with_reducible assumption | with_reducible apply Keeps.ite | with_reducible apply Keeps.ite_fst | with_reducible apply Keeps.ite_snd
    | with_reducible apply State.setFld_keeps | with_reducible apply State.addPoison_keeps
    | with_reducible refine Keeps.setMem _ ?_ (fun h => h)

theorem State.scrubLine_keeps {s₀ s : State} (slice way a : Nat) (o : ScrubOutcome) (hk : Keeps s₀ s) :
    Keeps s₀ (State.scrubLine s slice way a o) := by
  unfold State.scrubLine
  repeat' first
    | with_reducible assumption | with_reducible apply Keeps.ite | with_reducible apply Keeps.ite_fst | with_reducible apply Keeps.ite_snd
    | with_reducible apply State.poisonLine_keeps
    | with_reducible refine Keeps.setMem _ ?_ (fun h => ⟨h.1, h.2.1, h.2.2.1, h.2.2.2.1, h.2.2.2.2.1, h.2.2.2.2.2.1, tblSet_wf _ _ _ _ h.2.2.2.2.2.2.1, h.2.2.2.2.2.2.2⟩)
    | with_reducible refine Keeps.setMem _ ?_ (fun h => h) | with_reducible apply State.corrected_keeps | split

theorem State.replaceWay_keeps {s₀ s : State} (slice way : Nat) (hk : Keeps s₀ s) : Keeps s₀ (State.replaceWay s slice way) := by
  unfold State.replaceWay
  repeat' first
    | with_reducible assumption | with_reducible apply Keeps.ite | with_reducible apply Keeps.ite_fst | with_reducible apply Keeps.ite_snd
    | with_reducible apply State.countFld_keeps | with_reducible apply State.setFld_keeps | with_reducible apply State.spared_keeps
    | with_reducible refine Keeps.setMem _ ?_ (fun h => ⟨h.1, h.2.1, h.2.2.1, h.2.2.2.1, h.2.2.2.2.1, h.2.2.2.2.2.1, tblSet_wf _ _ _ _ h.2.2.2.2.2.2.1, h.2.2.2.2.2.2.2⟩)
    | with_reducible apply Keeps.setFree

theorem State.stackRepair_keeps {s₀ s : State} (c : Nat) (k : HbmRepair) (hk : Keeps s₀ s) : Keeps s₀ (State.stackRepair s c k) := by
  unfold State.stackRepair
  repeat' first
    | with_reducible assumption | with_reducible apply Keeps.ite | with_reducible apply Keeps.ite_fst | with_reducible apply Keeps.ite_snd
    | with_reducible apply State.laneRepaired_keeps | with_reducible apply State.setFld_keeps | with_reducible apply State.spared_keeps
    | with_reducible apply State.rowRepaired_keeps | split

theorem State.setPhase_keeps {s₀ s : State} (v : Nat) (hk : Keeps s₀ s) : Keeps s₀ (State.setPhase s v) := by
  unfold State.setPhase
  repeat' first
    | with_reducible assumption | with_reducible apply State.setFld_keeps

theorem State.selfTested_keeps {s₀ s : State}  (hk : Keeps s₀ s) : Keeps s₀ (State.selfTested s) := by
  unfold State.selfTested
  repeat' first
    | with_reducible assumption | with_reducible apply Keeps.ite | with_reducible apply Keeps.ite_fst
    | with_reducible apply Keeps.ite_snd | with_reducible apply State.setPhase_keeps

theorem State.tornSlot_keeps {s₀ s : State} (cur : Nat) (x : Nat × LedgerSlot) (hk : Keeps s₀ s) :
    Keeps s₀ (State.tornSlot s cur x) := by
  unfold State.tornSlot
  repeat' first
    | with_reducible assumption | with_reducible apply Keeps.ite | with_reducible apply Keeps.ite_fst
    | with_reducible apply Keeps.ite_snd | with_reducible apply State.setFld_keeps | with_reducible apply State.shepEvent_keeps

theorem State.corruptSlot_keeps {s₀ s : State} (x : Nat × LedgerSlot) (hk : Keeps s₀ s) : Keeps s₀ (State.corruptSlot s x) := by
  unfold State.corruptSlot
  repeat' first
    | with_reducible assumption | with_reducible apply Keeps.ite | with_reducible apply Keeps.ite_fst
    | with_reducible apply Keeps.ite_snd | with_reducible apply State.shepEvent_keeps | with_reducible apply State.setFld_keeps

theorem State.applyLimits_keeps {s₀ s : State}  (hk : Keeps s₀ s) : Keeps s₀ (State.applyLimits s) := by
  unfold State.applyLimits
  repeat' first
    | with_reducible assumption | intro _ | with_reducible apply Keeps.over | with_reducible apply Keeps.setWord | split

theorem State.reportCurtain_keeps {s₀ s : State} (r : LedgerSlot) (hk : Keeps s₀ s) : Keeps s₀ (State.reportCurtain s r) := by
  unfold State.reportCurtain
  repeat' first
    | with_reducible assumption | with_reducible apply Keeps.ite | with_reducible apply Keeps.ite_fst | with_reducible apply Keeps.ite_snd
    | with_reducible apply State.shepEvent_keeps | with_reducible apply State.setCause_keeps | with_reducible apply State.curtain_keeps

theorem State.recover_keeps {s₀ s : State}  (hk : Keeps s₀ s) : Keeps s₀ (State.recover s) := by
  unfold State.recover
  repeat' first
    | with_reducible assumption | intro _ | with_reducible apply Keeps.ite | with_reducible apply Keeps.ite_fst
    | with_reducible apply Keeps.ite_snd | with_reducible apply Keeps.over | with_reducible apply State.setFld_keeps
    | with_reducible apply State.setPair_keeps | with_reducible apply State.applyLimits_keeps | with_reducible apply State.tornSlot_keeps
    | with_reducible apply State.corruptSlot_keeps | with_reducible apply State.reportCurtain_keeps
    | with_reducible refine Keeps.setLedg _ ?_ (fun h => h) | with_reducible refine Keeps.setShep _ ?_ (fun h => h) | split

theorem State.enableGroup_keeps {s₀ s : State} (k : Nat) (hk : Keeps s₀ s) : Keeps s₀ (State.enableGroup s k) := by
  unfold State.enableGroup
  repeat' first
    | with_reducible assumption | with_reducible refine Keeps.setShep _ ?_ (fun h => h)

theorem State.powerRails_keeps {s₀ s : State}  (hk : Keeps s₀ s) : Keeps s₀ (State.powerRails s) := by
  unfold State.powerRails
  repeat' first
    | with_reducible assumption | with_reducible apply State.enableGroup_keeps | with_reducible apply State.setFld_keeps
    | with_reducible refine Keeps.setShep _ ?_ (fun h => h)

theorem State.railsEntry_keeps {s₀ s : State}  (hk : Keeps s₀ s) : Keeps s₀ (State.railsEntry s) := by
  unfold State.railsEntry
  repeat' first
    | with_reducible assumption | with_reducible apply Keeps.ite | with_reducible apply Keeps.ite_fst
    | with_reducible apply Keeps.ite_snd | with_reducible apply State.powerRails_keeps | with_reducible apply State.setPhase_keeps

theorem State.railsAnyway_keeps {s₀ s : State}  (hk : Keeps s₀ s) : Keeps s₀ (State.railsAnyway s) := by
  unfold State.railsAnyway
  repeat' first
    | with_reducible assumption | with_reducible apply Keeps.ite | with_reducible apply Keeps.ite_fst
    | with_reducible apply Keeps.ite_snd | with_reducible apply State.shepEvent_keeps | with_reducible apply State.powerRails_keeps
    | with_reducible apply State.setPhase_keeps

theorem rowsUsedOf_wf (l : List RowRepl) : tblWf 0 (rowsUsedOf l) := by
  unfold rowsUsedOf
  have : ∀ t : List (Nat × Nat), tblWf 0 t → tblWf 0 (l.foldl (fun t r => tblSet 0 t r.cluster (tblGet 0 t r.cluster + 1)) t) := by
    induction l with
    | nil => exact fun t h => h
    | cons x l ih => exact fun t h => ih _ (tblSet_wf _ _ _ _ h)
  exact this [] ⟨List.Pairwise.nil, fun x hx => absurd hx List.not_mem_nil⟩

theorem State.applySparing_keeps {s₀ s : State}  (hk : Keeps s₀ s) : Keeps s₀ (State.applySparing s) := by
  unfold State.applySparing
  repeat' first
    | with_reducible assumption | intro _ | with_reducible apply Keeps.over | with_reducible apply Keeps.setWord
    | with_reducible apply State.setFld_keeps | with_reducible refine Keeps.setSpare _ ?_ (fun _ => rowsUsedOf_wf _)
    | with_reducible refine Keeps.setMem _ ?_ (fun h => h)

theorem State.groupInRange_keeps {s₀ s : State}  (hk : Keeps s₀ s) : Keeps s₀ (State.groupInRange s) := by
  unfold State.groupInRange
  repeat' first
    | with_reducible assumption | with_reducible apply Keeps.ite | with_reducible apply Keeps.ite_fst
    | with_reducible apply Keeps.ite_snd | with_reducible apply State.applySparing_keeps | with_reducible apply State.setPhase_keeps
    | with_reducible refine Keeps.setProm _ ?_ (fun h => h) | with_reducible refine Keeps.setShep _ ?_ (fun h => h)

theorem State.nextGroup_keeps {s₀ s : State}  (hk : Keeps s₀ s) : Keeps s₀ (State.nextGroup s) := by
  unfold State.nextGroup
  repeat' first
    | with_reducible assumption | with_reducible apply Keeps.ite | with_reducible apply Keeps.ite_fst
    | with_reducible apply Keeps.ite_snd | with_reducible apply State.enableGroup_keeps

theorem State.groupLate_keeps {s₀ s : State}  (hk : Keeps s₀ s) : Keeps s₀ (State.groupLate s) := by
  unfold State.groupLate
  repeat' first
    | with_reducible assumption | with_reducible apply Keeps.ite | with_reducible apply Keeps.ite_fst
    | with_reducible apply Keeps.ite_snd | with_reducible apply State.releaseRails_keeps | with_reducible apply State.shepEvent_keeps
    | with_reducible refine Keeps.setShep _ ?_ (fun h => h)

theorem State.retryRails_keeps {s₀ s : State}  (hk : Keeps s₀ s) : Keeps s₀ (State.retryRails s) := by
  unfold State.retryRails
  repeat' first
    | with_reducible assumption | with_reducible apply Keeps.ite | with_reducible apply Keeps.ite_fst
    | with_reducible apply Keeps.ite_snd | with_reducible apply State.powerRails_keeps

theorem State.channelTested_keeps {s₀ s : State} (c : Nat) (hk : Keeps s₀ s) : Keeps s₀ (State.channelTested s c) := by
  unfold State.channelTested
  repeat' first
    | with_reducible assumption | with_reducible apply Keeps.ite | with_reducible apply Keeps.ite_fst
    | with_reducible apply Keeps.ite_snd | with_reducible apply State.drawNat_keeps | with_reducible apply State.setFld_keeps

theorem State.broughtUp_keeps {s₀ s : State} (o : BringupOutcome) (hk : Keeps s₀ s) : Keeps s₀ (State.broughtUp s o) := by
  unfold State.broughtUp
  repeat' first
    | with_reducible assumption | intro _ | with_reducible apply Keeps.ite | with_reducible apply Keeps.ite_fst
    | with_reducible apply Keeps.ite_snd | with_reducible apply Keeps.over | with_reducible apply State.queueRepair_keeps
    | with_reducible apply State.markFailed_keeps | with_reducible apply State.raiseGlobal_keeps
    | with_reducible apply State.markMapped_keeps | with_reducible apply State.channelTested_keeps
    | with_reducible apply State.undefineCells_keeps | with_reducible apply State.beginRecord_keeps
    | with_reducible apply State.setPhase_keeps | with_reducible apply State.setFld_keeps
    | with_reducible refine Keeps.setMem _ ?_ (fun k => ⟨⟨List.Pairwise.nil, fun _ hx => absurd hx List.not_mem_nil⟩, k.2⟩)
    | with_reducible refine Keeps.setMem _ ?_ (fun h => h) | with_reducible refine Keeps.setLedg _ ?_ (fun h => h)

theorem State.resetPcie_keeps {s₀ s : State}  (hk : Keeps s₀ s) : Keeps s₀ (State.resetPcie s) := by
  unfold State.resetPcie
  repeat' first
    | with_reducible assumption | with_reducible apply Keeps.setWord | with_reducible apply Keeps.setHost

theorem State.fundamental_keeps {s₀ s : State}  (hk : Keeps s₀ s) : Keeps s₀ (State.fundamental s) := by
  unfold State.fundamental
  repeat' first
    | with_reducible assumption | with_reducible apply State.resetPcie_keeps | with_reducible apply State.resetFn_keeps
    | with_reducible refine Keeps.setShep _ ?_ (fun h => h)

theorem State.perstUp_keeps {s₀ s : State}  (hk : Keeps s₀ s) : Keeps s₀ (State.perstUp s) := by
  unfold State.perstUp
  repeat' first
    | with_reducible assumption | with_reducible apply Keeps.ite | with_reducible apply Keeps.ite_fst
    | with_reducible apply Keeps.ite_snd | with_reducible apply Keeps.setHost | with_reducible refine Keeps.setShep _ ?_ (fun h => h)

theorem State.powerOnReset_keeps {s₀ s : State}  (hk : Keeps s₀ s) : Keeps s₀ (State.powerOnReset s) := by
  unfold State.powerOnReset
  repeat' first
    | with_reducible assumption | with_reducible apply State.stopNow_keeps | with_reducible apply State.restart_keeps
    | with_reducible refine Keeps.setShep _ ?_ (fun h => h) | with_reducible apply Keeps.ite | with_reducible apply Keeps.ite_fst
    | with_reducible apply Keeps.ite_snd | split | dsimp only

theorem State.putFrames_keeps {s₀ s : State} (p vc kind : Nat) (ends : Option Queued) (l : List Bytes) (h : Keeps s₀ s) :
    Keeps s₀ (s.putFrames p vc kind ends l) := by
  induction l generalizing s with
  | nil => exact h
  | cons b t ih => exact ih (State.setPort_keeps _ _ h)

theorem State.sendLink_keeps {s₀ s : State} (p : Nat) (o : Out) (hk : Keeps s₀ s) : Keeps s₀ (State.sendLink s p o) := by
  unfold State.sendLink
  repeat' first
    | with_reducible assumption | with_reducible apply Keeps.ite | with_reducible apply Keeps.ite_fst
    | with_reducible apply Keeps.ite_snd | with_reducible apply Keeps.emit | with_reducible apply State.drawBytes_keeps
    | with_reducible apply State.putFrames_keeps

theorem State.leaveBuffer_keeps {s₀ s : State} (x : Queued) (hk : Keeps s₀ s) : Keeps s₀ (State.leaveBuffer s x) := by
  unfold State.leaveBuffer
  repeat' first
    | with_reducible assumption | with_reducible apply Keeps.ite | with_reducible apply Keeps.ite_fst
    | with_reducible apply Keeps.ite_snd | with_reducible apply State.sendLink_keeps | split

theorem State.transmit_keeps {s₀ s : State} (p : Nat) (x : Queued) (k : Packet) (hk : Keeps s₀ s) :
    Keeps s₀ (State.transmit s p x k) := by
  unfold State.transmit
  repeat' first
    | with_reducible assumption | with_reducible apply Keeps.emit | with_reducible apply State.putFrames_keeps
    | with_reducible apply State.setPort_keeps | with_reducible apply State.leaveBuffer_keeps

theorem State.discardPacket_keeps {s₀ s : State} (x : Queued) (hk : Keeps s₀ s) : Keeps s₀ (State.discardPacket s x) := by
  unfold State.discardPacket
  repeat' first
    | with_reducible assumption | with_reducible apply State.leaveBuffer_keeps | with_reducible apply State.countFld_keeps
    | with_reducible apply State.raiseGlobal_keeps | split

theorem State.sendAck_keeps {s₀ s : State} (src : Nat) (st : PeerStatus) (hk : Keeps s₀ s) : Keeps s₀ (State.sendAck s src st) := by
  unfold State.sendAck
  repeat' first
    | with_reducible assumption | with_reducible apply Keeps.emit

theorem State.assemble_keeps {s₀ s : State} (k : Packet) (hk : Keeps s₀ s) : Keeps s₀ (State.assemble s k) := by
  unfold State.assemble
  repeat' first
    | with_reducible assumption | with_reducible apply Keeps.ite | with_reducible apply Keeps.ite_fst
    | with_reducible apply Keeps.ite_snd | with_reducible refine Keeps.setLink _ ?_ (fun h => h) | split | dsimp only

theorem State.acceptSeq_keeps {s₀ s t : State} (src pseq : Nat) (h : Keeps s₀ s) (e : s.acceptSeq src pseq = some t) : Keeps s₀ t := by
  unfold State.acceptSeq at e
  obtain ⟨n, -, e⟩ := Option.bind_eq_some_iff.mp e
  split at e
  · cases e
  · injection e with e
    exact e ▸ State.setPeerPair_keeps _ _ h

theorem State.deliver_keeps {s₀ s : State} (x : Queued) (h : Keeps s₀ s) : Keeps s₀ (s.deliver x) := by
  have h1 := State.leaveBuffer_keeps x h
  unfold State.deliver
  dsimp only
  split
  · split
    · exact h1
    · next e => exact State.sendAck_keeps _ _ (State.assemble_keeps _ (State.acceptSeq_keeps _ _ h1 e))
  · exact h1

theorem State.route_keeps {s₀ s : State} (x : Queued) (hk : Keeps s₀ s) : Keeps s₀ (State.route s x) := by
  unfold State.route
  repeat' first
    | with_reducible assumption | with_reducible apply Keeps.ite | with_reducible apply Keeps.ite_fst
    | with_reducible apply Keeps.ite_snd | with_reducible apply State.deliver_keeps | with_reducible apply State.discardPacket_keeps
    | with_reducible apply State.transmit_keeps | with_reducible apply State.setPort_keeps
    | with_reducible refine Keeps.setLink _ ?_ (fun h => h) | split

theorem State.routeAll_keeps {s₀ s : State} (l : List Queued) (hk : Keeps s₀ s) : Keeps s₀ (State.routeAll s l) := by
  unfold State.routeAll
  repeat' first
    | with_reducible assumption | intro _ | with_reducible apply Keeps.over | with_reducible apply State.route_keeps

theorem State.countGrant_keeps {s₀ s : State} (p : Nat) (hk : Keeps s₀ s) : Keeps s₀ (State.countGrant s p) := by
  unfold State.countGrant
  repeat' first
    | with_reducible assumption | with_reducible apply Keeps.ite | with_reducible apply Keeps.ite_fst | with_reducible apply Keeps.ite_snd
    | with_reducible refine Keeps.setLink _ ?_ (fun h => h)

theorem State.routeInTurn_keeps {s₀ s : State} (n : Nat) (l : List Queued) (hk : Keeps s₀ s) : Keeps s₀ (s.routeInTurn n l) := by
  induction n generalizing s l with
  | zero => exact hk
  | succ n ih =>
    unfold State.routeInTurn
    split
    · exact hk
    · exact ih _ (.when (State.route_keeps _ hk) fun _ h => State.countGrant_keeps _ h)

theorem State.pumpLinks_keeps {s₀ s : State}  (hk : Keeps s₀ s) : Keeps s₀ (State.pumpLinks s) := by
  unfold State.pumpLinks
  repeat' first
    | with_reducible assumption | intro _ | with_reducible apply Keeps.over | with_reducible apply State.setPort_keeps
    | with_reducible apply State.routeAll_keeps | with_reducible refine Keeps.setLink _ ?_ (fun h => h)
    | with_reducible apply State.route_keeps | with_reducible apply State.routeInTurn_keeps

theorem State.creditReturned_keeps {s₀ s : State} (p vc n : Nat) (hk : Keeps s₀ s) : Keeps s₀ (State.creditReturned s p vc n) := by
  unfold State.creditReturned
  repeat' first
    | with_reducible assumption | with_reducible apply Keeps.ite | with_reducible apply Keeps.ite_fst | with_reducible apply Keeps.ite_snd
    | with_reducible apply State.pumpLinks_keeps | with_reducible apply State.setPort_keeps

theorem State.routePacket_keeps {s₀ s : State} (origin : PacketOrigin) (k : Packet) (hk : Keeps s₀ s) :
    Keeps s₀ (State.routePacket s origin k) := by
  unfold State.routePacket
  repeat' first
    | with_reducible assumption | with_reducible apply Keeps.ite | with_reducible apply Keeps.ite_fst
    | with_reducible apply Keeps.ite_snd | with_reducible apply State.route_keeps | with_reducible apply State.setPort_keeps | split

theorem State.escapeWait_keeps {s₀ s : State} (origin : PacketOrigin) (k : Packet) (hk : Keeps s₀ s) :
    Keeps s₀ (State.escapeWait s origin k) := by
  unfold State.escapeWait
  repeat' first
    | with_reducible assumption | with_reducible apply State.route_keeps | with_reducible refine Keeps.setLink _ ?_ (fun h => h) | split
    | dsimp only

theorem State.reclaim_keeps {s₀ s : State} (p : Nat) (hk : Keeps s₀ s) : Keeps s₀ (State.reclaim s p) := by
  unfold State.reclaim
  repeat' first
    | with_reducible assumption | with_reducible apply State.setPort_keeps | with_reducible refine Keeps.setLink _ ?_ (fun h => h)

theorem State.goDown_keeps {s₀ s : State} (p : Nat) (served : Bool) (hk : Keeps s₀ s) : Keeps s₀ (State.goDown s p served) := by
  unfold State.goDown
  repeat' first
    | with_reducible assumption | with_reducible apply Keeps.ite | with_reducible apply Keeps.ite_fst
    | with_reducible apply Keeps.ite_snd | with_reducible apply State.reclaim_keeps | with_reducible apply State.setFld_keeps
    | with_reducible apply State.pumpLinks_keeps | with_reducible apply State.raiseGlobal_keeps

theorem State.oxlOn_keeps {s₀ s : State}  (hk : Keeps s₀ s) : Keeps s₀ (State.oxlOn s) := by
  unfold State.oxlOn
  repeat' first
    | with_reducible assumption | intro _ | with_reducible apply Keeps.ite | with_reducible apply Keeps.ite_fst
    | with_reducible apply Keeps.ite_snd | with_reducible apply Keeps.over | with_reducible apply State.setFld_keeps

theorem State.oxlOff_keeps {s₀ s : State}  (hk : Keeps s₀ s) : Keeps s₀ (State.oxlOff s) := by
  unfold State.oxlOff
  repeat' first
    | with_reducible assumption | intro _ | with_reducible apply Keeps.over | with_reducible apply State.setFld_keeps
    | with_reducible apply State.reclaim_keeps

theorem State.ackFrames_keeps {s₀ s : State} (p fseq : Nat) (hk : Keeps s₀ s) : Keeps s₀ (State.ackFrames s p fseq) := by
  unfold State.ackFrames
  repeat' first
    | with_reducible assumption | with_reducible apply State.pumpLinks_keeps | with_reducible apply State.setPort_keeps | split
    | dsimp only

theorem State.resend_keeps {s₀ s : State} (p : Nat) (l : List Replayed) (hk : Keeps s₀ s) : Keeps s₀ (State.resend s p l) := by
  unfold State.resend
  repeat' first
    | with_reducible assumption | intro _ | with_reducible apply Keeps.over | with_reducible apply Keeps.emit
    | with_reducible apply State.countFld_keeps

theorem State.nakFrames_keeps {s₀ s : State} (p fseq : Nat) (hk : Keeps s₀ s) : Keeps s₀ (State.nakFrames s p fseq) := by
  unfold State.nakFrames
  repeat' first
    | with_reducible assumption | with_reducible apply State.resend_keeps | split | dsimp only

theorem State.replayFrame_keeps {s₀ s : State} (p fseq : Nat) (hk : Keeps s₀ s) : Keeps s₀ (State.replayFrame s p fseq) := by
  unfold State.replayFrame
  repeat' first
    | with_reducible assumption | with_reducible apply State.resend_keeps

theorem State.retrain_keeps {s₀ s : State} (p : Nat) (hk : Keeps s₀ s) : Keeps s₀ (State.retrain s p) := by
  unfold State.retrain
  repeat' first
    | with_reducible assumption | with_reducible apply State.countFld_keeps | with_reducible apply State.setFld_keeps

theorem State.nakBack_keeps {s₀ s : State} (p : Nat) (hk : Keeps s₀ s) : Keeps s₀ (State.nakBack s p) := by
  unfold State.nakBack
  repeat' first
    | with_reducible assumption | with_reducible apply State.sendLink_keeps

theorem State.crcFailed_keeps {s₀ s : State} (p : Nat) (hk : Keeps s₀ s) : Keeps s₀ (State.crcFailed s p) := by
  unfold State.crcFailed
  repeat' first
    | with_reducible assumption | with_reducible apply Keeps.ite | with_reducible apply Keeps.ite_fst
    | with_reducible apply Keeps.ite_snd | with_reducible apply State.nakBack_keeps | with_reducible apply State.retrain_keeps
    | with_reducible apply State.raiseGlobal_keeps | with_reducible apply State.setPort_keeps

theorem State.headerAck_keeps {s₀ s : State} (p : Nat) (f : Frame) (hk : Keeps s₀ s) : Keeps s₀ (State.headerAck s p f) := by
  unfold State.headerAck
  repeat' first
    | with_reducible assumption | with_reducible apply Keeps.ite | with_reducible apply Keeps.ite_fst
    | with_reducible apply Keeps.ite_snd | with_reducible apply State.ackFrames_keeps

theorem State.acceptFrame_keeps {s₀ s : State} (p : Nat) (f : Frame) (hk : Keeps s₀ s) : Keeps s₀ (State.acceptFrame s p f).2 := by
  unfold State.acceptFrame
  repeat' first
    | with_reducible assumption | with_reducible apply Keeps.ite | with_reducible apply Keeps.ite_fst
    | with_reducible apply Keeps.ite_snd | with_reducible apply Keeps.emit | with_reducible apply State.crcFailed_keeps
    | with_reducible apply State.headerAck_keeps | with_reducible apply State.setPort_keeps | with_reducible apply State.nakBack_keeps

theorem State.takePayload_keeps {s₀ s : State} (p : Nat) (b : Bytes) (hk : Keeps s₀ s) : Keeps s₀ (State.takePayload s p b) := by
  unfold State.takePayload
  repeat' first
    | with_reducible assumption | with_reducible apply Keeps.ite | with_reducible apply Keeps.ite_fst
    | with_reducible apply Keeps.ite_snd | with_reducible apply State.setPort_keeps

theorem State.dataFrame_keeps {s₀ s : State} (p : Nat) (f : Frame) (hk : Keeps s₀ s) : Keeps s₀ (State.dataFrame s p f) := by
  unfold State.dataFrame
  repeat' first
    | with_reducible assumption | with_reducible apply Keeps.ite | with_reducible apply Keeps.ite_fst
    | with_reducible apply Keeps.ite_snd | with_reducible apply State.acceptFrame_keeps | with_reducible apply State.takePayload_keeps

theorem State.idleFrame_keeps {s₀ s : State} (p : Nat) (f : Frame) (hk : Keeps s₀ s) : Keeps s₀ (State.idleFrame s p f) := by
  unfold State.idleFrame
  repeat' first
    | with_reducible assumption | with_reducible apply Keeps.ite | with_reducible apply Keeps.ite_fst
    | with_reducible apply Keeps.ite_snd | with_reducible apply State.crcFailed_keeps | with_reducible apply State.headerAck_keeps

theorem State.swapLane_keeps {s₀ s : State} (p lane : Nat) (hk : Keeps s₀ s) : Keeps s₀ (State.swapLane s p lane) := by
  unfold State.swapLane
  repeat' first
    | with_reducible assumption | with_reducible apply State.sendLink_keeps | with_reducible apply State.setPort_keeps

theorem State.laneFails_keeps {s₀ s : State} (p lane : Nat) (hk : Keeps s₀ s) : Keeps s₀ (State.laneFails s p lane) := by
  unfold State.laneFails
  repeat' first
    | with_reducible assumption | with_reducible apply Keeps.ite | with_reducible apply Keeps.ite_fst | with_reducible apply Keeps.ite_snd
    | with_reducible apply State.setPort_keeps | with_reducible apply State.swapLane_keeps | with_reducible apply State.goDown_keeps

theorem State.swapCommand_keeps {s₀ s : State} (p lane : Nat) (hk : Keeps s₀ s) : Keeps s₀ (State.swapCommand s p lane) := by
  unfold State.swapCommand
  repeat' first
    | with_reducible assumption | with_reducible apply Keeps.ite | with_reducible apply Keeps.ite_fst | with_reducible apply Keeps.ite_snd
    | with_reducible apply State.swapLane_keeps

theorem State.swapDone_keeps {s₀ s : State} (p : Nat) (hk : Keeps s₀ s) : Keeps s₀ (State.swapDone s p) := by
  unfold State.swapDone
  repeat' first
    | with_reducible assumption | with_reducible apply State.setPort_keeps | with_reducible apply State.spared_keeps
    | with_reducible apply State.setFld_keeps | split

theorem State.identityOf_keeps {s₀ s : State} (p : Nat) (hk : Keeps s₀ s) : Keeps s₀ (State.identityOf s p).2 := by
  unfold State.identityOf
  repeat' first
    | with_reducible assumption | with_reducible apply State.drawNat_keeps

theorem State.sendIdentity_keeps {s₀ s : State} (p : Nat) (hk : Keeps s₀ s) : Keeps s₀ (State.sendIdentity s p) := by
  unfold State.sendIdentity
  repeat' first
    | with_reducible assumption | with_reducible apply State.identityOf_keeps | with_reducible apply State.sendLink_keeps
    | with_reducible apply State.setPort_keeps

theorem State.sendIdentities_keeps {s₀ s : State}  (hk : Keeps s₀ s) : Keeps s₀ (State.sendIdentities s) := by
  unfold State.sendIdentities
  repeat' first
    | with_reducible assumption | intro _ | with_reducible apply Keeps.over | with_reducible apply State.sendIdentity_keeps

theorem State.detect_keeps {s₀ s : State} (p : Nat) (signal : Bool) (hk : Keeps s₀ s) : Keeps s₀ (State.detect s p signal) := by
  unfold State.detect
  repeat' first
    | with_reducible assumption | with_reducible apply Keeps.ite | with_reducible apply Keeps.ite_fst
    | with_reducible apply Keeps.ite_snd | with_reducible apply State.setFld_keeps

theorem State.equalised_keeps {s₀ s : State} (p : Nat) (hk : Keeps s₀ s) : Keeps s₀ (State.equalised s p) := by
  unfold State.equalised
  repeat' first
    | with_reducible assumption | with_reducible apply Keeps.ite | with_reducible apply Keeps.ite_fst
    | with_reducible apply Keeps.ite_snd | with_reducible apply State.setFld_keeps

theorem State.equaliseLate_keeps {s₀ s : State} (p : Nat) (hk : Keeps s₀ s) : Keeps s₀ (State.equaliseLate s p) := by
  unfold State.equaliseLate
  repeat' first
    | with_reducible assumption | with_reducible apply Keeps.ite | with_reducible apply Keeps.ite_fst
    | with_reducible apply Keeps.ite_snd | with_reducible apply State.goDown_keeps

theorem State.lanesChecked_keeps {s₀ s : State} (p good : Nat) (hk : Keeps s₀ s) : Keeps s₀ (State.lanesChecked s p good) := by
  unfold State.lanesChecked
  repeat' first
    | with_reducible assumption | with_reducible apply Keeps.ite | with_reducible apply Keeps.ite_fst | with_reducible apply Keeps.ite_snd
    | with_reducible apply State.setPort_keeps | with_reducible apply State.goDown_keeps | with_reducible apply State.setFld_keeps
    | with_reducible apply State.spared_keeps | with_reducible apply State.sendIdentity_keeps | split | dsimp only

theorem State.becomeActive_keeps {s₀ s : State} (p : Nat) (hk : Keeps s₀ s) : Keeps s₀ (State.becomeActive s p) := by
  unfold State.becomeActive
  repeat' first
    | with_reducible assumption | with_reducible apply State.pumpLinks_keeps | with_reducible apply State.setPort_keeps
    | with_reducible apply State.setFld_keeps

theorem State.bookSplit_keeps {s₀ s : State} (p : Nat) (hk : Keeps s₀ s) : Keeps s₀ (State.bookSplit s p) := by
  unfold State.bookSplit
  repeat' first
    | with_reducible assumption | with_reducible apply State.raiseGlobal_keeps | with_reducible apply State.setFld_keeps

theorem State.identity_keeps {s₀ s : State} (p : Nat) (r : IdRecord) (hk : Keeps s₀ s) : Keeps s₀ (State.identity s p r) := by
  unfold State.identity
  repeat' first
    | with_reducible assumption | with_reducible apply Keeps.ite | with_reducible apply Keeps.ite_fst
    | with_reducible apply Keeps.ite_snd | with_reducible apply State.setFld_keeps | with_reducible apply State.sendLink_keeps
    | with_reducible apply State.raiseGlobal_keeps | with_reducible apply State.bookSplit_keeps
    | with_reducible apply State.becomeActive_keeps

theorem State.lockLost_keeps {s₀ s : State} (p : Nat) (hk : Keeps s₀ s) : Keeps s₀ (State.lockLost s p) := by
  unfold State.lockLost
  repeat' first
    | with_reducible assumption | with_reducible apply Keeps.ite | with_reducible apply Keeps.ite_fst
    | with_reducible apply Keeps.ite_snd | with_reducible apply State.retrain_keeps

theorem State.retrained_keeps {s₀ s : State} (p : Nat) (hk : Keeps s₀ s) : Keeps s₀ (State.retrained s p) := by
  unfold State.retrained
  repeat' first
    | with_reducible assumption | with_reducible apply Keeps.ite | with_reducible apply Keeps.ite_fst
    | with_reducible apply Keeps.ite_snd | with_reducible apply State.pumpLinks_keeps | with_reducible apply State.resend_keeps
    | with_reducible apply State.setFld_keeps

theorem State.retrainLate_keeps {s₀ s : State} (p : Nat) (hk : Keeps s₀ s) : Keeps s₀ (State.retrainLate s p) := by
  unfold State.retrainLate
  repeat' first
    | with_reducible assumption | with_reducible apply Keeps.ite | with_reducible apply Keeps.ite_fst
    | with_reducible apply Keeps.ite_snd | with_reducible apply State.goDown_keeps

theorem State.downOver_keeps {s₀ s : State} (p : Nat) (hk : Keeps s₀ s) : Keeps s₀ (State.downOver s p) := by
  unfold State.downOver
  repeat' first
    | with_reducible assumption | with_reducible apply Keeps.ite | with_reducible apply Keeps.ite_fst
    | with_reducible apply Keeps.ite_snd | with_reducible apply State.setFld_keeps

theorem State.sendBeacons_keeps {s₀ s : State}  (hk : Keeps s₀ s) : Keeps s₀ (State.sendBeacons s) := by
  unfold State.sendBeacons
  repeat' first
    | with_reducible assumption | intro _ | with_reducible apply Keeps.ite | with_reducible apply Keeps.ite_fst
    | with_reducible apply Keeps.ite_snd | with_reducible apply Keeps.over | with_reducible apply Keeps.emit

theorem State.beaconIn_keeps {s₀ s : State} (p : Nat) (h : CollHeader) (hk : Keeps s₀ s) : Keeps s₀ (State.beaconIn s p h) := by
  unfold State.beaconIn
  repeat' first
    | with_reducible assumption | with_reducible apply Keeps.ite | with_reducible apply Keeps.ite_fst
    | with_reducible apply Keeps.ite_snd | with_reducible apply State.bookSplit_keeps

theorem State.rootConfigured_keeps {s₀ s : State}  (hk : Keeps s₀ s) : Keeps s₀ (State.rootConfigured s) := by
  unfold State.rootConfigured
  repeat' first
    | with_reducible assumption | with_reducible apply Keeps.ite | with_reducible apply Keeps.ite_fst
    | with_reducible apply Keeps.ite_snd | with_reducible apply State.setFld_keeps

theorem State.countCycles_keeps {s₀ s : State}  (hk : Keeps s₀ s) : Keeps s₀ (State.countCycles s) := by
  unfold State.countCycles
  repeat' first
    | with_reducible assumption | intro _ | with_reducible apply Keeps.ite | with_reducible apply Keeps.ite_fst
    | with_reducible apply Keeps.ite_snd | with_reducible apply Keeps.over
    | with_reducible refine Keeps.setTime _ ?_ (fun k => ⟨tblSet_wf _ _ _ _ k.1, k.2⟩)

theorem State.secondOver_keeps {s₀ s : State}  (hk : Keeps s₀ s) : Keeps s₀ (State.secondOver s) := by
  unfold State.secondOver
  repeat' first
    | with_reducible assumption | intro _ | with_reducible apply Keeps.ite | with_reducible apply Keeps.ite_fst
    | with_reducible apply Keeps.ite_snd | with_reducible apply Keeps.over | with_reducible apply State.setFld_keeps
    | with_reducible apply State.setPort_keeps

theorem State.leases_keeps {s₀ s : State}  (hk : Keeps s₀ s) : Keeps s₀ (State.leases s) := by
  unfold State.leases
  repeat' first
    | with_reducible assumption | intro _ | with_reducible apply Keeps.over | with_reducible apply State.setFld_keeps

theorem State.telemAges_keeps {s₀ s : State}  (hk : Keeps s₀ s) : Keeps s₀ (State.telemAges s) := by
  unfold State.telemAges
  repeat' first
    | with_reducible assumption | intro _ | with_reducible apply Keeps.ite | with_reducible apply Keeps.ite_fst
    | with_reducible apply Keeps.ite_snd | with_reducible apply Keeps.over | with_reducible apply State.countFld_keeps

theorem State.reportCue_keeps {s₀ s : State}  (hk : Keeps s₀ s) : Keeps s₀ (State.reportCue s) := by
  unfold State.reportCue
  repeat' first
    | with_reducible assumption | intro _ | with_reducible apply Keeps.over | with_reducible apply State.sendLink_keeps
    | with_reducible apply State.drawNat_keeps

theorem State.cueEdge_keeps {s₀ s : State}  (hk : Keeps s₀ s) : Keeps s₀ (State.cueEdge s) := by
  unfold State.cueEdge
  repeat' first
    | with_reducible assumption | intro _ | with_reducible apply Keeps.ite | with_reducible apply Keeps.ite_fst
    | with_reducible apply Keeps.ite_snd | with_reducible apply Keeps.clocked | with_reducible apply State.telemAges_keeps
    | with_reducible apply State.leases_keeps | with_reducible apply State.secondOver_keeps
    | with_reducible apply State.countCycles_keeps | with_reducible apply State.reportCue_keeps
    | with_reducible refine Keeps.setTime _ ?_ (fun h => h)

theorem State.showDelay_keeps {s₀ s : State} (p : Nat) (hk : Keeps s₀ s) : Keeps s₀ (State.showDelay s p) := by
  unfold State.showDelay
  repeat' first
    | with_reducible assumption | with_reducible apply State.setFld_keeps

theorem State.firstReport_keeps {s₀ s : State} (count : Nat) (hk : Keeps s₀ s) : Keeps s₀ (State.firstReport s count) := by
  unfold State.firstReport
  repeat' first
    | with_reducible assumption | with_reducible apply Keeps.ite | with_reducible apply Keeps.ite_fst
    | with_reducible apply Keeps.ite_snd | with_reducible apply State.setFld_keeps
    | with_reducible refine Keeps.setTime _ ?_ (fun h => h)

theorem State.steer_keeps {s₀ s : State} (p : Nat) (r : CueReport) (hk : Keeps s₀ s) : Keeps s₀ (State.steer s p r) := by
  unfold State.steer
  repeat' first
    | with_reducible assumption | with_reducible apply State.setFld_keeps | with_reducible refine Keeps.setTime _ ?_ (fun h => h)

theorem State.cueReportIn_keeps {s₀ s : State} (p : Nat) (r : CueReport) (hk : Keeps s₀ s) : Keeps s₀ (State.cueReportIn s p r) := by
  unfold State.cueReportIn
  repeat' first
    | with_reducible assumption | with_reducible apply Keeps.ite | with_reducible apply Keeps.ite_fst
    | with_reducible apply Keeps.ite_snd | with_reducible apply State.setFld_keeps | with_reducible apply State.showDelay_keeps
    | with_reducible apply State.firstReport_keeps | with_reducible apply State.steer_keeps
    | with_reducible refine Keeps.setTime _ ?_ (fun h => h)

theorem State.parentSilent_keeps {s₀ s : State}  (hk : Keeps s₀ s) : Keeps s₀ (State.parentSilent s) := by
  unfold State.parentSilent
  repeat' first
    | with_reducible assumption | with_reducible apply Keeps.ite | with_reducible apply Keeps.ite_fst
    | with_reducible apply Keeps.ite_snd | with_reducible apply State.setFld_keeps | with_reducible apply State.raiseGlobal_keeps
    | with_reducible refine Keeps.setTime _ ?_ (fun h => h) | split | dsimp only | refine Keeps.setTime _ ?_ (fun h => h)

theorem State.probeIn_keeps {s₀ s : State} (p : Nat) (r : RttProbe) (hk : Keeps s₀ s) : Keeps s₀ (State.probeIn s p r) := by
  unfold State.probeIn
  repeat' first
    | with_reducible assumption | with_reducible apply Keeps.ite | with_reducible apply Keeps.ite_fst
    | with_reducible apply Keeps.ite_snd | with_reducible apply State.sendLink_keeps | with_reducible apply State.setPort_keeps
    | with_reducible apply State.showDelay_keeps | split

theorem State.remeasure_keeps {s₀ s : State}  (hk : Keeps s₀ s) : Keeps s₀ (State.remeasure s) := by
  unfold State.remeasure
  repeat' first
    | with_reducible assumption | intro _ | with_reducible apply Keeps.ite | with_reducible apply Keeps.ite_fst
    | with_reducible apply Keeps.ite_snd | with_reducible apply Keeps.over | with_reducible apply State.drawNat_keeps
    | with_reducible apply State.sendLink_keeps | with_reducible apply State.setPort_keeps

theorem State.withField_keeps {s₀ s : State} {α : Type} (o : Option α) (f : State → α → State)
    (hf_f : ∀ s x, Keeps s₀ s → Keeps s₀ (f s x)) (hk : Keeps s₀ s) : Keeps s₀ (State.withField s o f) := by
  unfold State.withField
  repeat' first
    | with_reducible assumption | intro _ | with_reducible apply hf_f | split

theorem State.linkFields_keeps {s₀ s : State} (p : Nat) (x : LinkFields) (hk : Keeps s₀ s) : Keeps s₀ (State.linkFields s p x) := by
  unfold State.linkFields
  repeat' first
    | with_reducible assumption | intro _ | with_reducible apply Keeps.over | with_reducible apply State.withField_keeps
    | with_reducible apply State.nakFrames_keeps | with_reducible apply State.creditReturned_keeps
    | with_reducible apply State.swapCommand_keeps | with_reducible apply State.probeIn_keeps | with_reducible apply State.identity_keeps
    | with_reducible apply State.cueReportIn_keeps

theorem State.linkFrame_keeps {s₀ s : State} (p : Nat) (f : Frame) (x : LinkFields) (hk : Keeps s₀ s) :
    Keeps s₀ (State.linkFrame s p f x) := by
  unfold State.linkFrame
  repeat' first
    | with_reducible assumption | with_reducible apply Keeps.ite | with_reducible apply Keeps.ite_fst
    | with_reducible apply Keeps.ite_snd | with_reducible apply State.acceptFrame_keeps | with_reducible apply State.linkFields_keeps

theorem State.rewriteRoster_keeps {s₀ s : State} (p : Nat) (moved : List (RosterEntry × Nat)) (a : Nat × Nat) (hk : Keeps s₀ s) :
    Keeps s₀ (State.rewriteRoster s p moved a) := by
  unfold State.rewriteRoster
  repeat' first
    | with_reducible assumption | intro _ | with_reducible apply Keeps.over | with_reducible apply State.writePart_keeps | split
    | dsimp only

theorem State.setEpochs_keeps {s₀ s : State} (p epoch : Nat) (hk : Keeps s₀ s) : Keeps s₀ (State.setEpochs s p epoch) := by
  unfold State.setEpochs
  repeat' first
    | with_reducible assumption | intro _ | with_reducible apply Keeps.over | with_reducible apply State.setCompany_keeps

theorem State.rewindQueue_keeps {s₀ s : State} (q head : Nat) (hk : Keeps s₀ s) : Keeps s₀ (State.rewindQueue s q head) := by
  unfold State.rewindQueue
  repeat' first
    | with_reducible assumption | with_reducible apply State.setQueue_keeps | with_reducible apply State.setFld_keeps

theorem State.rewindQueues_keeps {s₀ s : State} (p : Nat) (b : ResBlock) (at' origin : Nat) (hk : Keeps s₀ s) :
    Keeps s₀ (State.rewindQueues s p b at' origin) := by
  unfold State.rewindQueues
  repeat' first
    | with_reducible assumption | intro _ | with_reducible apply Keeps.over | with_reducible apply Keeps.ite
    | with_reducible apply Keeps.ite_fst | with_reducible apply Keeps.ite_snd | with_reducible apply State.rewindQueue_keeps
    | with_reducible apply State.setQueue_keeps

theorem State.rewindCompanies_keeps {s₀ s : State} (p at' : Nat) (hk : Keeps s₀ s) : Keeps s₀ (State.rewindCompanies s p at') := by
  unfold State.rewindCompanies
  repeat' first
    | with_reducible assumption | intro _ | with_reducible apply Keeps.over | with_reducible apply State.setCompany_keeps

theorem State.rewindGates_keeps {s₀ s : State} (p at' : Nat) (hk : Keeps s₀ s) : Keeps s₀ (State.rewindGates s p at') := by
  unfold State.rewindGates
  repeat' first
    | with_reducible assumption | intro _ | with_reducible apply Keeps.over | with_reducible apply State.setGate_keeps

theorem State.unseal_keeps {s₀ s : State} (p addr : Nat) (x : RosterEntry) (hk : Keeps s₀ s) : Keeps s₀ (State.unseal s p addr x) := by
  unfold State.unseal
  repeat' first
    | with_reducible assumption | with_reducible apply State.sendPackets_keeps

theorem State.unsealFrom_keeps {s₀ s : State} (p : Nat) (b : ResBlock) (origin : Nat) (hk : Keeps s₀ s) :
    Keeps s₀ (State.unsealFrom s p b origin) := by
  unfold State.unsealFrom
  repeat' first
    | with_reducible assumption | intro _ | with_reducible apply Keeps.ite | with_reducible apply Keeps.ite_fst
    | with_reducible apply Keeps.ite_snd | with_reducible apply Keeps.over | with_reducible apply State.unseal_keeps
    | (with_reducible refine State.setPartition_keeps _ _ ?_ (fun _ c => State.gates_wf c _))
    | (with_reducible refine State.setPartition_keeps _ _ ?_ (fun c _ => State.gates_wf (Keeps.canonical (by assumption) c) _))
    | (refine State.setPartition_keeps _ _ ?_ (fun _ c => State.gates_wf c _)) | split

theorem State.emptyPorts_keeps {s₀ s : State} (p : Nat) (hk : Keeps s₀ s) : Keeps s₀ (State.emptyPorts s p) := by
  unfold State.emptyPorts
  repeat' first
    | with_reducible assumption | intro _ | with_reducible apply Keeps.over | with_reducible apply State.setChainPort_keeps

theorem State.abandonAll_keeps {s₀ s : State} (p : Nat) (hk : Keeps s₀ s) : Keeps s₀ (State.abandonAll s p) := by
  unfold State.abandonAll
  repeat' first
    | with_reducible assumption | intro _ | with_reducible apply Keeps.over | with_reducible apply Keeps.setInsts
    | with_reducible apply State.abandonInst_keeps
    | (with_reducible refine State.setPartition_keeps _ _ ?_ (fun _ c => State.gates_wf c _))

theorem State.rewind_keeps {s₀ s : State} (p : Nat) (b : ResBlock) (k origin epoch : Nat) (absent : List Nat) (hk : Keeps s₀ s) :
    Keeps s₀ (State.rewind s p b k origin epoch absent) := by
  unfold State.rewind
  repeat' first
    | with_reducible assumption | with_reducible apply State.emptyPorts_keeps | with_reducible apply State.abandonAll_keeps
    | with_reducible apply State.rewindQueues_keeps | with_reducible apply State.rewindGates_keeps
    | with_reducible apply State.setEpochs_keeps | with_reducible apply State.rewindCompanies_keeps
    | with_reducible apply State.unsealFrom_keeps | with_reducible apply State.setFld_keeps | with_reducible apply State.countFld_keeps
    | with_reducible apply State.writePart_keeps | with_reducible apply State.raiseVector_keeps
    | (with_reducible refine State.setPartition_keeps _ _ ?_ (fun _ c => State.gates_wf c _))
    | with_reducible apply State.raiseEvent_keeps

theorem State.suspend_keeps {s₀ s : State} (p code : Nat) (hk : Keeps s₀ s) : Keeps s₀ (State.suspend s p code) := by
  unfold State.suspend
  repeat' first
    | with_reducible assumption | intro _ | with_reducible apply Keeps.over | with_reducible apply State.haltQueue_keeps
    | with_reducible apply State.raiseVector_keeps | with_reducible apply State.setFld_keeps | with_reducible apply State.raiseEvent_keeps

theorem State.promote_keeps {s₀ s : State} (p : Nat) (b : ResBlock) (hk : Keeps s₀ s) : Keeps s₀ (State.promote s p b) := by
  unfold State.promote
  repeat' first
    | with_reducible assumption | intro _ | with_reducible apply Keeps.over | with_reducible apply State.setCompany_keeps
    | with_reducible apply State.raiseGlobal_keeps | with_reducible apply State.raiseVector_keeps
    | with_reducible apply State.setFld_keeps | (with_reducible refine State.setPartition_keeps _ _ ?_ (fun _ c => State.gates_wf c _))
    | (with_reducible refine State.setPartition_keeps _ _ ?_ (fun c _ => State.gates_wf (Keeps.canonical (by assumption) c) _))
    | (refine State.setPartition_keeps _ _ ?_ (fun _ c => State.gates_wf c _)) | with_reducible apply State.raiseEvent_keeps
    | with_reducible apply State.recordSparing_keeps | split

theorem State.nextRound_keeps {s₀ s : State} (p : Nat) (left : List (Nat × Nat)) (hk : Keeps s₀ s) :
    Keeps s₀ (State.nextRound s p left) := by
  unfold State.nextRound
  repeat' first
    | with_reducible assumption | intro _ | with_reducible apply Keeps.when | with_reducible apply State.setFld_keeps
    | (with_reducible refine State.setPartition_keeps _ _ ?_ (fun _ c => State.gates_wf c _))

theorem State.decideRound_keeps {s₀ s : State} (p : Nat) (b : ResBlock) (hk : Keeps s₀ s) : Keeps s₀ (State.decideRound s p b) := by
  unfold State.decideRound
  repeat' first
    | with_reducible assumption | intro _ | with_reducible apply Keeps.ite | with_reducible apply Keeps.ite_fst
    | with_reducible apply Keeps.ite_snd | with_reducible apply Keeps.over | with_reducible apply State.withdraw_keeps
    | with_reducible apply State.rewind_keeps | with_reducible apply State.nextRound_keeps | with_reducible apply State.suspend_keeps
    | with_reducible apply State.setFld_keeps | with_reducible apply State.rewriteRoster_keeps
    | with_reducible apply State.setEpochs_keeps | with_reducible apply State.promote_keeps
    | (with_reducible refine State.setPartition_keeps _ _ ?_ (fun _ c => State.gates_wf c _))
    | (with_reducible refine State.setPartition_keeps _ _ ?_ (fun c _ => State.gates_wf (Keeps.canonical (by assumption) c) _))
    | (refine State.setPartition_keeps _ _ ?_ (fun _ c => State.gates_wf c _)) | split | dsimp only

theorem State.decisionCue_keeps {s₀ s : State} (p : Nat) (hk : Keeps s₀ s) : Keeps s₀ (State.decisionCue s p) := by
  unfold State.decisionCue
  repeat' first
    | with_reducible assumption | with_reducible apply Keeps.ite | with_reducible apply Keeps.ite_fst
    | with_reducible apply Keeps.ite_snd | with_reducible apply State.settle_keeps | with_reducible apply State.decideRound_keeps | split

theorem State.wingsRead_keeps {s₀ s : State} (p : Nat) (x : RosterEntry) (what addr dst len : Nat) (hk : Keeps s₀ s) :
    Keeps s₀ (State.wingsRead s p x what addr dst len) := by
  unfold State.wingsRead
  repeat' first
    | with_reducible assumption | intro _ | with_reducible apply Keeps.over | with_reducible apply State.sendPackets_keeps
    | (with_reducible refine State.setPartition_keeps _ _ ?_ (fun _ c => State.gates_wf c _))

theorem State.wingsStart_keeps {s₀ s : State} (p : Nat) (b : ResBlock) (hk : Keeps s₀ s) : Keeps s₀ (State.wingsStart s p b) := by
  unfold State.wingsStart
  repeat' first
    | with_reducible assumption | intro _ | with_reducible apply Keeps.ite | with_reducible apply Keeps.ite_fst
    | with_reducible apply Keeps.ite_snd | with_reducible apply Keeps.over | with_reducible apply State.wingsRead_keeps
    | (with_reducible refine State.setPartition_keeps _ _ ?_ (fun _ c => State.gates_wf c _))
    | (with_reducible refine State.setPartition_keeps _ _ ?_ (fun c _ => State.gates_wf (Keeps.canonical (by assumption) c) _))
    | (refine State.setPartition_keeps _ _ ?_ (fun _ c => State.gates_wf c _)) | split | dsimp only

theorem State.wingsChoose_keeps {s₀ s : State} (p : Nat) (b : ResBlock) (hk : Keeps s₀ s) : Keeps s₀ (State.wingsChoose s p b) := by
  unfold State.wingsChoose
  repeat' first
    | with_reducible assumption | intro _ | with_reducible apply Keeps.ite | with_reducible apply Keeps.ite_fst
    | with_reducible apply Keeps.ite_snd | with_reducible apply Keeps.over | with_reducible apply State.wingsRead_keeps
    | (with_reducible refine State.setPartition_keeps _ _ ?_ (fun _ c => State.gates_wf c _))
    | (with_reducible refine State.setPartition_keeps _ _ ?_ (fun c _ => State.gates_wf (Keeps.canonical (by assumption) c) _))
    | (refine State.setPartition_keeps _ _ ?_ (fun _ c => State.gates_wf c _)) | split | dsimp only

theorem State.wingsResponse_keeps {s₀ s : State} (p src tag : Nat) (st : PeerStatus) (bs : Bytes) (hk : Keeps s₀ s) :
    Keeps s₀ (State.wingsResponse s p src tag st bs) := by
  unfold State.wingsResponse
  repeat' first
    | with_reducible assumption | with_reducible apply Keeps.ite | with_reducible apply Keeps.ite_fst | with_reducible apply Keeps.ite_snd
    | with_reducible apply State.writePart_keeps | with_reducible apply State.wingsChoose_keeps
    | (with_reducible refine State.setPartition_keeps _ _ ?_ (fun _ c => State.gates_wf c _))
    | (with_reducible refine State.setPartition_keeps _ _ ?_ (fun c _ => State.gates_wf (Keeps.canonical (by assumption) c) _))
    | (refine State.setPartition_keeps _ _ ?_ (fun _ c => State.gates_wf c _)) | split | dsimp only

theorem State.wingsNumbers_keeps {s₀ s : State} (p : Nat) (c : WingsCopy) (hk : Keeps s₀ s) : Keeps s₀ (State.wingsNumbers s p c) := by
  unfold State.wingsNumbers
  repeat' first
    | with_reducible assumption | intro _ | with_reducible apply Keeps.over | with_reducible apply State.setCompany_keeps | split
    | dsimp only

theorem State.wingsEnd_keeps {s₀ s : State} (p : Nat) (hk : Keeps s₀ s) : Keeps s₀ (State.wingsEnd s p) := by
  unfold State.wingsEnd
  repeat' first
    | with_reducible assumption | intro _ | with_reducible apply Keeps.ite | with_reducible apply Keeps.ite_fst
    | with_reducible apply Keeps.ite_snd | with_reducible apply State.suspend_keeps | with_reducible apply State.setFld_keeps
    | with_reducible apply State.wingsNumbers_keeps
    | (with_reducible refine State.setPartition_keeps _ _ ?_ (fun _ c => State.gates_wf c _))
    | (with_reducible refine State.setPartition_keeps _ _ ?_ (fun c _ => State.gates_wf (Keeps.canonical (by assumption) c) _))
    | (refine State.setPartition_keeps _ _ ?_ (fun _ c => State.gates_wf c _)) | with_reducible apply Keeps.over | split | dsimp only

theorem State.resumeReplay_keeps {s₀ s : State} (p : Nat) (hk : Keeps s₀ s) : Keeps s₀ (State.resumeReplay s p) := by
  unfold State.resumeReplay
  repeat' first
    | with_reducible assumption | with_reducible apply Keeps.ite | with_reducible apply Keeps.ite_fst
    | with_reducible apply Keeps.ite_snd | with_reducible apply State.settle_keeps
    | (with_reducible refine State.setPartition_keeps _ _ ?_ (fun _ c => State.gates_wf c _))

theorem State.peerWriteIn_keeps {s₀ s : State} (src pseq p a : Nat) (bs : Bytes) (hk : Keeps s₀ s) :
    Keeps s₀ (State.peerWriteIn s src pseq p a bs) := by
  unfold State.peerWriteIn
  repeat' first
    | with_reducible assumption | with_reducible apply Keeps.ite | with_reducible apply Keeps.ite_fst | with_reducible apply Keeps.ite_snd
    | with_reducible apply State.sendAck_keeps | with_reducible apply State.writePart_keeps
    | (refine State.acceptSeq_keeps _ _ ?_ (by assumption)) | split

theorem State.peerReadIn_keeps {s₀ s : State} (src pseq p a n tag : Nat) (hk : Keeps s₀ s) :
    Keeps s₀ (State.peerReadIn s src pseq p a n tag) := by
  unfold State.peerReadIn
  repeat' first
    | with_reducible assumption | with_reducible apply Keeps.ite | with_reducible apply Keeps.ite_fst | with_reducible apply Keeps.ite_snd
    | with_reducible apply Keeps.emit | with_reducible apply State.sendAck_keeps | with_reducible apply State.touch_keeps
    | (refine State.acceptSeq_keeps _ _ ?_ (by assumption)) | split

theorem State.peerResponseIn_keeps {s₀ s : State} (src tag : Nat) (st : PeerStatus) (bs : Bytes) (hk : Keeps s₀ s) :
    Keeps s₀ (State.peerResponseIn s src tag st bs) := by
  unfold State.peerResponseIn
  repeat' first
    | with_reducible assumption | intro _ | with_reducible apply Keeps.over | with_reducible apply Keeps.ite
    | with_reducible apply Keeps.ite_fst | with_reducible apply Keeps.ite_snd | with_reducible apply State.wingsResponse_keeps
    | with_reducible apply State.endEarly_keeps | with_reducible apply State.writeTier_keeps | with_reducible apply State.launch_keeps
    | with_reducible apply State.setInst_keeps | with_reducible apply State.entryResponse_keeps | split

theorem State.peerLost_keeps {s₀ s : State} (q index : Nat) (hk : Keeps s₀ s) : Keeps s₀ (State.peerLost s q index) := by
  unfold State.peerLost
  repeat' first
    | with_reducible assumption | with_reducible apply Keeps.ite | with_reducible apply Keeps.ite_fst | with_reducible apply Keeps.ite_snd
    | with_reducible apply State.settle_keeps | with_reducible apply State.endEarly_keeps | split

end Sys2Proof.Machine
end

