-- ==== Sys2Proof/Laws/KeepsHost.lean ====
section
/-!
SUPPORT. What each operation keeps (Laws/Keeps.lean): the Prompter, queues, the hub, progress, register accesses and the Shepherd. One lemma for each operation, named after it.
-/

namespace Sys2Proof.Machine

theorem State.pageWrite_keeps {s₀ s : State} (b off : Nat) (bs : Bytes) (hk : Keeps s₀ s) : Keeps s₀ (State.pageWrite s b off bs) := by
  unfold State.pageWrite
  repeat' first
    | with_reducible assumption | with_reducible apply Keeps.ite | with_reducible apply Keeps.ite_fst | with_reducible apply Keeps.ite_snd
    | with_reducible apply State.writeHost_keeps
    | with_reducible refine Keeps.setProm _ ?_ (fun k => ⟨k.1, Memory.writeN_wf _ _ _ k.2.1, k.2.2⟩)

theorem State.respond_keeps {s₀ s : State} (b status : Nat) (hk : Keeps s₀ s) : Keeps s₀ (State.respond s b status) := by
  unfold State.respond
  repeat' first
    | with_reducible assumption | intro _ | with_reducible apply Keeps.when | with_reducible apply State.pageWrite_keeps
    | with_reducible apply State.setFld_keeps | with_reducible apply State.setBox_keeps | with_reducible apply State.msix_keeps

theorem State.respondBusy_keeps {s₀ s : State} (b retry : Nat) (hk : Keeps s₀ s) : Keeps s₀ (State.respondBusy s b retry) := by
  unfold State.respondBusy
  repeat' first
    | with_reducible assumption | with_reducible apply State.respond_keeps | with_reducible apply State.pageWrite_keeps

theorem State.respondOk_keeps {s₀ s : State} (b result : Nat) (payload : Bytes) (hk : Keeps s₀ s) :
    Keeps s₀ (State.respondOk s b result payload) := by
  unfold State.respondOk
  repeat' first
    | with_reducible assumption | with_reducible apply State.pageWrite_keeps | with_reducible apply State.respond_keeps

theorem State.loadNow_keeps {s₀ s : State}  (hk : Keeps s₀ s) : Keeps s₀ (State.loadNow s).2 := by
  unfold State.loadNow
  repeat' first
    | with_reducible assumption | with_reducible apply Keeps.setFree

theorem State.submit_keeps {s₀ s : State} (b : Nat) (hk : Keeps s₀ s) : Keeps s₀ (State.submit s b) := by
  unfold State.submit
  repeat' first
    | with_reducible assumption | with_reducible apply Keeps.ite | with_reducible apply Keeps.ite_fst
    | with_reducible apply Keeps.ite_snd | with_reducible apply State.setFld_keeps | with_reducible apply State.setBox_keeps
    | with_reducible apply State.respond_keeps | with_reducible apply State.respondBusy_keeps | split

theorem State.boxTimeout_keeps {s₀ s : State} (b : Nat) (hk : Keeps s₀ s) : Keeps s₀ (State.boxTimeout s b) := by
  unfold State.boxTimeout
  repeat' first
    | with_reducible assumption | with_reducible apply Keeps.ite | with_reducible apply Keeps.ite_fst
    | with_reducible apply Keeps.ite_snd | with_reducible apply State.loadNow_keeps | with_reducible apply State.respondBusy_keeps

theorem State.setImage_keeps {s₀ s : State} (k : Nat) (v : BootImage) (hk : Keeps s₀ s) : Keeps s₀ (State.setImage s k v) := by
  unfold State.setImage
  repeat' first
    | with_reducible assumption | with_reducible refine Keeps.setProm _ ?_ (fun k => ⟨k.1, k.2.1, tblSet_wf _ _ _ _ k.2.2⟩)

theorem State.beginImage_keeps {s₀ s : State} (b : Nat) (hk : Keeps s₀ s) : Keeps s₀ (State.beginImage s b) := by
  unfold State.beginImage
  repeat' first
    | with_reducible assumption | with_reducible apply Keeps.ite | with_reducible apply Keeps.ite_fst
    | with_reducible apply Keeps.ite_snd | with_reducible apply State.setImage_keeps

theorem State.claim_keeps {s₀ s : State} (b : Nat) (hk : Keeps s₀ s) : Keeps s₀ (State.claim s b) := by
  unfold State.claim
  repeat' first
    | with_reducible assumption | intro _ | with_reducible apply Keeps.when | with_reducible apply State.setBox_keeps
    | with_reducible apply State.setFld_keeps | with_reducible apply State.beginImage_keeps
    | with_reducible refine Keeps.setProm _ ?_ (fun h => h)

theorem State.serve_keeps {s₀ s : State} (box : Mailbox) (op : Nat) (f : State → Nat → State) (hk : Keeps s₀ s)
    (hf_f : ∀ x0 x1, Keeps s₀ x0 → Keeps s₀ (f x0 x1)) : Keeps s₀ (State.serve s box op f) := by
  unfold State.serve
  repeat' first
    | with_reducible assumption | intro _ | with_reducible apply hf_f | with_reducible apply Keeps.ite
    | with_reducible apply Keeps.ite_fst | with_reducible apply Keeps.ite_snd | with_reducible apply State.respond_keeps
    | with_reducible apply State.claim_keeps

theorem State.answer_keeps {s₀ s : State} (b result : Nat) (full : Bytes) (hk : Keeps s₀ s) :
    Keeps s₀ (State.answer s b result full) := by
  unfold State.answer
  repeat' first
    | with_reducible assumption | with_reducible apply Keeps.ite | with_reducible apply Keeps.ite_fst | with_reducible apply Keeps.ite_snd
    | with_reducible apply State.respond_keeps | with_reducible apply State.respondOk_keeps

theorem State.answerBulk_keeps {s₀ s : State} (b result : Nat) (full : Bytes) (hk : Keeps s₀ s) :
    Keeps s₀ (State.answerBulk s b result full) := by
  unfold State.answerBulk
  repeat' first
    | with_reducible assumption | with_reducible apply Keeps.ite | with_reducible apply Keeps.ite_fst | with_reducible apply Keeps.ite_snd
    | with_reducible apply State.answer_keeps | with_reducible apply State.respond_keeps | with_reducible apply State.respondOk_keeps
    | with_reducible apply State.writeHost_keeps

theorem State.freeResult_keeps {s₀ s : State}  (hk : Keeps s₀ s) : Keeps s₀ (State.freeResult s).2 := by
  unfold State.freeResult
  repeat' first
    | with_reducible assumption | with_reducible apply State.drawNat_keeps

theorem State.doIdent_keeps {s₀ s : State} (b : Nat) (hk : Keeps s₀ s) : Keeps s₀ (State.doIdent s b) := by
  unfold State.doIdent
  repeat' first
    | with_reducible assumption | with_reducible apply Keeps.ite | with_reducible apply Keeps.ite_fst
    | with_reducible apply Keeps.ite_snd | with_reducible apply State.freeResult_keeps | with_reducible apply State.answer_keeps

theorem State.doTelemCfg_keeps {s₀ s : State} (b : Nat) (hk : Keeps s₀ s) : Keeps s₀ (State.doTelemCfg s b) := by
  unfold State.doTelemCfg
  repeat' first
    | with_reducible assumption | with_reducible apply Keeps.ite | with_reducible apply Keeps.ite_fst
    | with_reducible apply Keeps.ite_snd | with_reducible apply State.freeResult_keeps | with_reducible apply State.respondOk_keeps
    | with_reducible apply State.setBox_keeps | with_reducible apply State.respond_keeps

theorem State.doLedgerRead_keeps {s₀ s : State} (b : Nat) (hk : Keeps s₀ s) : Keeps s₀ (State.doLedgerRead s b) := by
  unfold State.doLedgerRead
  repeat' first
    | with_reducible assumption | with_reducible apply Keeps.ite | with_reducible apply Keeps.ite_fst
    | with_reducible apply Keeps.ite_snd | with_reducible apply State.respond_keeps | with_reducible apply State.answerBulk_keeps

theorem State.doSharesSet_keeps {s₀ s : State} (b : Nat) (hk : Keeps s₀ s) : Keeps s₀ (State.doSharesSet s b) := by
  unfold State.doSharesSet
  repeat' first
    | with_reducible assumption | with_reducible apply Keeps.ite | with_reducible apply Keeps.ite_fst
    | with_reducible apply Keeps.ite_snd | with_reducible apply Keeps.setWord | with_reducible apply State.freeResult_keeps
    | with_reducible apply State.respond_keeps | with_reducible apply State.respondOk_keeps
    | with_reducible apply State.configChanged_keeps | with_reducible apply State.respondBusy_keeps
    | with_reducible apply State.takeLock_keeps | with_reducible apply State.commitLock_keeps
    | (with_reducible refine State.setPartition_keeps _ _ ?_ (fun _ c => State.gates_wf c _))

theorem State.doChannelReport_keeps {s₀ s : State} (b : Nat) (hk : Keeps s₀ s) : Keeps s₀ (State.doChannelReport s b) := by
  unfold State.doChannelReport
  repeat' first
    | with_reducible assumption | with_reducible apply Keeps.ite | with_reducible apply Keeps.ite_fst
    | with_reducible apply Keeps.ite_snd | with_reducible apply State.respond_keeps | with_reducible apply State.freeResult_keeps
    | with_reducible apply State.answer_keeps

theorem State.doPortMargin_keeps {s₀ s : State} (b : Nat) (hk : Keeps s₀ s) : Keeps s₀ (State.doPortMargin s b) := by
  unfold State.doPortMargin
  repeat' first
    | with_reducible assumption | with_reducible apply Keeps.ite | with_reducible apply Keeps.ite_fst
    | with_reducible apply Keeps.ite_snd | with_reducible apply State.respond_keeps | with_reducible apply State.freeResult_keeps
    | with_reducible apply State.answer_keeps

theorem State.doImageWrite_keeps {s₀ s : State} (b : Nat) (hk : Keeps s₀ s) : Keeps s₀ (State.doImageWrite s b) := by
  unfold State.doImageWrite
  repeat' first
    | with_reducible assumption | with_reducible apply Keeps.ite | with_reducible apply Keeps.ite_fst
    | with_reducible apply Keeps.ite_snd | with_reducible apply State.respond_keeps | with_reducible apply State.freeResult_keeps
    | with_reducible apply State.respondOk_keeps | with_reducible apply State.setImage_keeps

theorem State.doLog_keeps {s₀ s : State} (b : Nat) (hk : Keeps s₀ s) : Keeps s₀ (State.doLog s b) := by
  unfold State.doLog
  repeat' first
    | with_reducible assumption | with_reducible apply State.freeResult_keeps | with_reducible apply State.answerBulk_keeps

theorem State.writeTelem_keeps {s₀ s : State} (b : Nat) (sampledAll : Bool) (hk : Keeps s₀ s) :
    Keeps s₀ (State.writeTelem s b sampledAll) := by
  unfold State.writeTelem
  repeat' first
    | with_reducible assumption | intro _ | with_reducible apply Keeps.ite | with_reducible apply Keeps.ite_fst
    | with_reducible apply Keeps.ite_snd | with_reducible apply Keeps.when | with_reducible apply State.drawBytes_keeps
    | with_reducible apply State.setBox_keeps | with_reducible apply State.writeHost_keeps | with_reducible apply State.setFld_keeps
    | with_reducible apply State.drawNat_keeps | with_reducible apply Keeps.setFree

theorem State.markStale_keeps {s₀ s : State}  (hk : Keeps s₀ s) : Keeps s₀ (State.markStale s) := by
  unfold State.markStale
  repeat' first
    | with_reducible assumption | intro _ | with_reducible apply Keeps.over | with_reducible apply Keeps.when
    | with_reducible apply State.setFld_keeps

theorem State.kick_keeps {s₀ s : State} (who : Requester) (v : Nat) (hk : Keeps s₀ s) : Keeps s₀ (State.kick s who v) := by
  unfold State.kick
  repeat' first
    | with_reducible assumption | with_reducible apply Keeps.ite | with_reducible apply Keeps.ite_fst
    | with_reducible apply Keeps.ite_snd | with_reducible refine Keeps.setProm _ ?_ (fun h => h)

theorem State.abortBox_keeps {s₀ s : State} (b : Nat) (hk : Keeps s₀ s) : Keeps s₀ (State.abortBox s b) := by
  unfold State.abortBox
  repeat' first
    | with_reducible assumption | with_reducible apply Keeps.ite | with_reducible apply Keeps.ite_fst
    | with_reducible apply Keeps.ite_snd | with_reducible apply State.drawBytes_keeps | with_reducible apply State.writeHost_keeps
    | with_reducible apply State.respond_keeps

theorem State.watchdog_keeps {s₀ s : State}  (hk : Keeps s₀ s) : Keeps s₀ (State.watchdog s) := by
  unfold State.watchdog
  repeat' first
    | with_reducible assumption | intro _ | with_reducible apply Keeps.ite | with_reducible apply Keeps.ite_fst
    | with_reducible apply Keeps.ite_snd | with_reducible apply Keeps.when | with_reducible apply Keeps.over
    | with_reducible apply State.countFld_keeps | with_reducible apply State.setFld_keeps | with_reducible apply State.abortBox_keeps
    | with_reducible apply State.loseLock_keeps | with_reducible apply State.shepEvent_keeps
    | with_reducible refine Keeps.setProm _ ?_ (fun h => h)

theorem State.releaseCores_keeps {s₀ s : State}  (hk : Keeps s₀ s) : Keeps s₀ (State.releaseCores s) := by
  unfold State.releaseCores
  repeat' first
    | with_reducible assumption | with_reducible apply Keeps.ite | with_reducible apply Keeps.ite_fst
    | with_reducible apply Keeps.ite_snd | with_reducible refine Keeps.setProm _ ?_ (fun h => h)

theorem State.coresRun_keeps {s₀ s : State}  (hk : Keeps s₀ s) : Keeps s₀ (State.coresRun s) := by
  unfold State.coresRun
  repeat' first
    | with_reducible assumption | with_reducible refine Keeps.setProm _ ?_ (fun h => h)

theorem State.booted_keeps {s₀ s : State}  (hk : Keeps s₀ s) : Keeps s₀ (State.booted s) := by
  unfold State.booted
  repeat' first
    | with_reducible assumption | intro _ | with_reducible apply Keeps.when | with_reducible apply State.coresRun_keeps
    | with_reducible apply State.setFld_keeps | with_reducible refine Keeps.setProm _ ?_ (fun h => h) | split

theorem State.repairOne_keeps {s₀ s : State} (h : Keeps s₀ s) : Keeps s₀ s.repairOne := by
  unfold State.repairOne
  split
  · exact h
  · split
    · exact h
    · exact (State.drawNat_keeps (State.drawNat_keeps h)).setProm _ fun k => k

theorem State.refuseQueue_keeps {s₀ s : State} (p q : Nat) (hk : Keeps s₀ s) : Keeps s₀ (State.refuseQueue s p q) := by
  unfold State.refuseQueue
  repeat' first
    | with_reducible assumption | with_reducible apply State.raiseVector_keeps | with_reducible apply State.setFld_keeps
    | with_reducible apply State.raiseEvent_keeps

theorem State.startQueue_keeps {s₀ s : State} (q : Nat) (b : QueueBlock) (hk : Keeps s₀ s) : Keeps s₀ (State.startQueue s q b) := by
  unfold State.startQueue
  repeat' first
    | with_reducible assumption | with_reducible apply State.setFld_keeps | with_reducible apply State.setQueue_keeps

theorem State.enableQueue_keeps {s₀ s : State} (q : Nat) (hk : Keeps s₀ s) : Keeps s₀ (State.enableQueue s q) := by
  unfold State.enableQueue
  repeat' first
    | with_reducible assumption | with_reducible apply Keeps.ite | with_reducible apply Keeps.ite_fst
    | with_reducible apply Keeps.ite_snd | with_reducible apply State.setFld_keeps | with_reducible apply State.refuseQueue_keeps
    | with_reducible apply State.startQueue_keeps | split

theorem State.disableQueue_keeps {s₀ s : State} (q : Nat) (hk : Keeps s₀ s) : Keeps s₀ (State.disableQueue s q) := by
  unfold State.disableQueue
  repeat' first
    | with_reducible assumption | with_reducible apply State.settle_keeps | with_reducible apply State.setFld_keeps

theorem State.ring_keeps {s₀ s : State} (p q tail : Nat) (hk : Keeps s₀ s) : Keeps s₀ (State.ring s p q tail) := by
  unfold State.ring
  repeat' first
    | with_reducible assumption | with_reducible apply Keeps.ite | with_reducible apply Keeps.ite_fst | with_reducible apply Keeps.ite_snd
    | with_reducible apply State.raiseVector_keeps | with_reducible apply State.setQueue_keeps
    | with_reducible apply State.raiseEvent_keeps

theorem State.doorbell_keeps {s₀ s : State} (fn number tail : Nat) (hk : Keeps s₀ s) : Keeps s₀ (State.doorbell s fn number tail) := by
  unfold State.doorbell
  repeat' first
    | with_reducible assumption | with_reducible apply Keeps.ite | with_reducible apply Keeps.ite_fst | with_reducible apply Keeps.ite_snd
    | with_reducible apply State.ring_keeps | split

theorem State.refuseFn_keeps {s₀ s : State} (fn : FnNo) (hk : Keeps s₀ s) : Keeps s₀ (State.refuseFn s fn) := by
  unfold State.refuseFn
  repeat' first
    | with_reducible assumption | with_reducible apply Keeps.emit

theorem State.snap_keeps {s₀ s : State}  (hk : Keeps s₀ s) : Keeps s₀ (State.snap s) := by
  unfold State.snap
  repeat' first
    | with_reducible assumption | with_reducible apply State.setFld_keeps

theorem mirror_wf {α : Type} (l : List α) (key : α → Nat) (val : α → Word32) (m : List (Nat × Word32)) (h : tblWf 0 m) :
    tblWf 0 (l.foldl (fun m r => tblSet 0 m (key r) (val r)) m) := by
  induction l generalizing m with
  | nil => exact h
  | cons x l ih => exact ih _ (tblSet_wf _ _ _ _ h)

theorem State.capture_keeps {s₀ s : State}  (hk : Keeps s₀ s) : Keeps s₀ (State.capture s) := by
  unfold State.capture
  repeat' first
    | with_reducible assumption | intro _ | with_reducible apply Keeps.ite | with_reducible apply Keeps.ite_fst
    | with_reducible apply Keeps.ite_snd | with_reducible apply Keeps.foldl | with_reducible apply Keeps.foldl_fst
    | with_reducible apply Keeps.foldl_snd | with_reducible apply State.setFld_keeps
    | with_reducible refine Keeps.setRegs _ ?_ (fun k => ⟨k.1, k.2.1, mirror_wf _ _ _ _ k.2.2⟩)

theorem State.commitBook_keeps {s₀ s : State}  (hk : Keeps s₀ s) : Keeps s₀ (State.commitBook s) := by
  unfold State.commitBook
  repeat' first
    | with_reducible assumption | with_reducible apply Keeps.ite | with_reducible apply Keeps.ite_fst
    | with_reducible apply Keeps.ite_snd | with_reducible apply Keeps.setConfig | with_reducible apply State.raiseGlobal_keeps
    | with_reducible apply State.setFld_keeps

theorem State.bookDone_keeps {s₀ s : State}  (hk : Keeps s₀ s) : Keeps s₀ (State.bookDone s) := by
  unfold State.bookDone
  repeat' first
    | with_reducible assumption | with_reducible apply Keeps.setConfig | with_reducible apply State.setPair_keeps
    | with_reducible apply State.setFld_keeps | with_reducible apply State.sendIdentities_keeps
    | with_reducible apply State.configChanged_keeps | split

theorem State.crcOn_keeps {s₀ s : State}  (hk : Keeps s₀ s) : Keeps s₀ (State.crcOn s) := by
  unfold State.crcOn
  repeat' first
    | with_reducible assumption | with_reducible apply Keeps.ite | with_reducible apply Keeps.ite_fst
    | with_reducible apply Keeps.ite_snd | with_reducible apply Keeps.setConfig | with_reducible apply State.setFld_keeps

theorem State.crcOff_keeps {s₀ s : State}  (hk : Keeps s₀ s) : Keeps s₀ (State.crcOff s) := by
  unfold State.crcOff
  repeat' first
    | with_reducible assumption | with_reducible apply Keeps.setConfig | with_reducible apply State.setFld_keeps

theorem State.crcTake_keeps {s₀ s : State}  (hk : Keeps s₀ s) : Keeps s₀ (State.crcTake s) := by
  unfold State.crcTake
  repeat' first
    | with_reducible assumption | with_reducible apply Keeps.ite | with_reducible apply Keeps.ite_fst
    | with_reducible apply Keeps.ite_snd | with_reducible apply Keeps.setConfig | with_reducible apply State.setFld_keeps

theorem State.drift_keeps {s₀ s : State}  (hk : Keeps s₀ s) : Keeps s₀ (State.drift s) := by
  unfold State.drift
  repeat' first
    | with_reducible assumption | intro _ | with_reducible apply Keeps.when | with_reducible apply State.raiseGlobal_keeps
    | with_reducible apply State.setFld_keeps | with_reducible apply State.withdraw_keeps

theorem State.crcPass_keeps {s₀ s : State}  (hk : Keeps s₀ s) : Keeps s₀ (State.crcPass s) := by
  unfold State.crcPass
  repeat' first
    | with_reducible assumption | with_reducible apply Keeps.ite | with_reducible apply Keeps.ite_fst
    | with_reducible apply Keeps.ite_snd | with_reducible apply Keeps.setConfig | with_reducible apply State.countFld_keeps
    | with_reducible apply State.setPair_keeps | with_reducible apply State.setFld_keeps | with_reducible apply State.drift_keeps | split
    | dsimp only

theorem State.evtOn_keeps {s₀ s : State}  (hk : Keeps s₀ s) : Keeps s₀ (State.evtOn s) := by
  unfold State.evtOn
  repeat' first
    | with_reducible assumption | intro _ | with_reducible apply Keeps.ite | with_reducible apply Keeps.ite_fst
    | with_reducible apply Keeps.ite_snd | with_reducible apply Keeps.setHost | with_reducible apply Keeps.over
    | with_reducible apply State.setFld_keeps | with_reducible apply State.eventWrite_keeps

theorem State.follow_keeps {s₀ s : State}  (hk : Keeps s₀ s) : Keeps s₀ (State.follow s) := by
  unfold State.follow
  repeat' first
    | with_reducible assumption | with_reducible apply State.settle_keeps | with_reducible apply State.advance_keeps
    | with_reducible apply State.pumpAll_keeps

theorem State.retireOldest_keeps {s₀ s : State} (q : Nat) (hk : Keeps s₀ s) : Keeps s₀ (State.retireOldest s q) := by
  unfold State.retireOldest
  repeat' first
    | with_reducible assumption | with_reducible apply Keeps.ite | with_reducible apply Keeps.ite_fst | with_reducible apply Keeps.ite_snd
    | with_reducible apply State.retireOf_keeps | with_reducible apply State.land_keeps | with_reducible apply State.setInst_keeps | split

theorem State.beginWaited_keeps {s₀ s : State} (q : Nat) (hk : Keeps s₀ s) : Keeps s₀ (State.beginWaited s q) := by
  unfold State.beginWaited
  repeat' first
    | with_reducible assumption | with_reducible apply Keeps.ite | with_reducible apply Keeps.ite_fst
    | with_reducible apply Keeps.ite_snd | with_reducible apply State.retireOf_keeps | split

theorem State.endWaited_keeps {s₀ s : State} (q : Nat) (hk : Keeps s₀ s) : Keeps s₀ (State.endWaited s q) := by
  unfold State.endWaited
  repeat' first
    | with_reducible assumption | with_reducible apply Keeps.ite | with_reducible apply Keeps.ite_fst
    | with_reducible apply Keeps.ite_snd | with_reducible apply State.retireEnd_keeps | split

theorem State.grant_keeps {s₀ s : State} (p g : Nat) (hk : Keeps s₀ s) : Keeps s₀ (State.grant s p g) := by
  unfold State.grant
  repeat' first
    | with_reducible assumption | with_reducible apply Keeps.ite | with_reducible apply Keeps.ite_fst | with_reducible apply Keeps.ite_snd
    | with_reducible apply State.setGate_keeps | with_reducible apply State.acquire_keeps | with_reducible apply State.place_keeps | split
    | dsimp only

theorem State.portGoes_keeps {s₀ s : State} (port : Nat) (hk : Keeps s₀ s) : Keeps s₀ (State.portGoes s port) := by
  unfold State.portGoes
  repeat' first
    | with_reducible assumption | intro _ | with_reducible apply Keeps.over | with_reducible apply State.chainGo_keeps | split

theorem State.expire_keeps {s₀ s : State} (i : Inst) (hk : Keeps s₀ s) : Keeps s₀ (State.expire s i) := by
  unfold State.expire
  repeat' first
    | with_reducible assumption | with_reducible apply State.place_keeps | with_reducible apply State.setGate_keeps
    | with_reducible apply State.expireGen_keeps | with_reducible apply State.endEarly_keeps
    | with_reducible apply State.raiseVector_keeps | with_reducible apply State.abortScene_keeps
    | with_reducible apply State.raiseEvent_keeps | split

theorem State.expireWait_keeps {s₀ s : State} (q : Nat) (hk : Keeps s₀ s) : Keeps s₀ (State.expireWait s q) := by
  unfold State.expireWait
  repeat' first
    | with_reducible assumption | with_reducible apply State.expire_keeps | split

theorem State.expireHold_keeps {s₀ s : State} (p : Nat) (hk : Keeps s₀ s) : Keeps s₀ (State.expireHold s p) := by
  unfold State.expireHold
  repeat' first
    | with_reducible assumption | with_reducible apply Keeps.ite | with_reducible apply Keeps.ite_fst
    | with_reducible apply Keeps.ite_snd | with_reducible apply State.abortHold_keeps | with_reducible apply State.setScene_keeps | split

theorem State.placeWaiting_keeps {s₀ s : State} (q : Nat) (hk : Keeps s₀ s) : Keeps s₀ (State.placeWaiting s q) := by
  unfold State.placeWaiting
  repeat' first
    | with_reducible assumption | with_reducible apply Keeps.ite | with_reducible apply Keeps.ite_fst
    | with_reducible apply Keeps.ite_snd | with_reducible apply State.issue_keeps | with_reducible apply State.setQueue_keeps | split

theorem State.writeSeal_keeps {s₀ s : State} (q : Nat) (hk : Keeps s₀ s) : Keeps s₀ (State.writeSeal s q) := by
  unfold State.writeSeal
  repeat' first
    | with_reducible assumption | intro _ | with_reducible apply State.sendSeal_keeps | with_reducible apply State.setInst_keeps
    | with_reducible apply Keeps.foldl | with_reducible apply Keeps.foldl_fst | with_reducible apply Keeps.foldl_snd | split

theorem State.readBy_keeps {s₀ s : State} (who : Requester) (r : Reg) (hk : Keeps s₀ s) : Keeps s₀ (State.readBy s who r).2 := by
  unfold State.readBy
  repeat' first
    | with_reducible assumption | with_reducible apply Keeps.ite | with_reducible apply Keeps.ite_fst
    | with_reducible apply Keeps.ite_snd | with_reducible apply State.loadNow_keeps
    | with_reducible refine Keeps.setRegs _ ?_ (fun k => ⟨k.1, tblSet_wf _ _ _ _ k.2.1, k.2.2⟩)
    | with_reducible refine Keeps.setRegs _ ?_ (fun h => h) | split

theorem State.readAt_keeps {s₀ s : State} (who : Requester) (off : Nat) (hk : Keeps s₀ s) : Keeps s₀ (State.readAt s who off) := by
  unfold State.readAt
  repeat' first
    | with_reducible assumption | with_reducible apply Keeps.emit | with_reducible apply State.readBy_keeps | split

theorem State.writeCtrl_keeps {s₀ s : State} (r : Reg) (old w : Nat) (on off : State → State) (hk : Keeps s₀ s)
    (hf_on : ∀ x0, Keeps s₀ x0 → Keeps s₀ (on x0)) (hf_off : ∀ x0, Keeps s₀ x0 → Keeps s₀ (off x0)) :
    Keeps s₀ (State.writeCtrl s r old w on off) := by
  unfold State.writeCtrl
  repeat' first
    | with_reducible assumption | intro _ | with_reducible apply hf_on | with_reducible apply hf_off | with_reducible apply Keeps.setWord
    | with_reducible apply Keeps.ite | with_reducible apply Keeps.ite_fst | with_reducible apply Keeps.ite_snd

theorem State.writeParCtrl_keeps {s₀ s : State} (p old w : Nat) (reset : Bool) (hk : Keeps s₀ s) :
    Keeps s₀ (State.writeParCtrl s p old w reset) := by
  unfold State.writeParCtrl
  repeat' first
    | with_reducible assumption | intro _ | with_reducible apply Keeps.ite | with_reducible apply Keeps.ite_fst
    | with_reducible apply Keeps.ite_snd | with_reducible apply Keeps.when | with_reducible apply State.enablePart_keeps
    | with_reducible apply State.disablePart_keeps | with_reducible apply State.triggerReset_keeps

theorem State.writeLock_keeps {s₀ s : State} (p : Nat) (who : Requester) (acq commit abort : Bool) (hk : Keeps s₀ s) :
    Keeps s₀ (State.writeLock s p who acq commit abort) := by
  unfold State.writeLock
  repeat' first
    | with_reducible assumption | intro _ | with_reducible apply Keeps.when | with_reducible apply State.takeLock_keeps
    | with_reducible apply State.commitBy_keeps | with_reducible apply State.abortBy_keeps

theorem State.writeStaged_keeps {s₀ s : State} (p : Nat) (who : Requester) (r : Reg) (sub v : Nat) (hk : Keeps s₀ s) :
    Keeps s₀ (State.writeStaged s p who r sub v) := by
  unfold State.writeStaged
  repeat' first
    | with_reducible assumption | with_reducible apply Keeps.ite | with_reducible apply Keeps.ite_fst | with_reducible apply Keeps.ite_snd
    | with_reducible apply Keeps.setWord | with_reducible apply State.lockedOut_keeps
    | (with_reducible refine State.setPartition_keeps _ _ ?_ (fun _ c => State.gates_wf c _))

theorem State.writeQctrl_keeps {s₀ s : State} (q old w : Nat) (resume : Bool) (hk : Keeps s₀ s) :
    Keeps s₀ (State.writeQctrl s q old w resume) := by
  unfold State.writeQctrl
  repeat' first
    | with_reducible assumption | intro _ | with_reducible apply Keeps.ite | with_reducible apply Keeps.ite_fst
    | with_reducible apply Keeps.ite_snd | with_reducible apply Keeps.when | with_reducible apply State.setFld_keeps
    | with_reducible apply State.enableQueue_keeps | with_reducible apply State.disableQueue_keeps
    | with_reducible apply State.resumeQueue_keeps

theorem State.store_keeps {s₀ s : State} (who : Requester) (window : Option Nat) (r : Reg) (sub v old w : Nat) (hk : Keeps s₀ s) :
    Keeps s₀ (State.store s who window r sub v old w) := by
  unfold State.store
  repeat' first
    | with_reducible assumption | intro _ | with_reducible apply Keeps.setWord | with_reducible apply Keeps.when
    | with_reducible apply State.writeParCtrl_keeps | with_reducible apply State.writeLock_keeps
    | with_reducible apply State.writeStaged_keeps | with_reducible apply State.setGate_keeps
    | with_reducible apply State.writeQctrl_keeps | with_reducible apply State.writeCtrl_keeps | with_reducible apply State.cacOn_keeps
    | with_reducible apply State.setFld_keeps | with_reducible apply State.hbcOn_keeps | with_reducible apply State.hbcOff_keeps
    | with_reducible apply State.rehearse_keeps | with_reducible apply State.oxlOn_keeps | with_reducible apply State.oxlOff_keeps
    | with_reducible apply State.rootConfigured_keeps | with_reducible apply State.crcOn_keeps | with_reducible apply State.crcOff_keeps
    | with_reducible apply State.crcTake_keeps | with_reducible apply State.evtOn_keeps | with_reducible apply State.snap_keeps
    | with_reducible apply State.commitBook_keeps | with_reducible apply State.submit_keeps | with_reducible apply State.kick_keeps
    | split

theorem State.wign_keeps {s₀ s : State} (window : Option Nat) (off : Nat) (r : Reg) (hk : Keeps s₀ s) :
    Keeps s₀ (State.wign s window off r) := by
  unfold State.wign
  repeat' first
    | with_reducible assumption | with_reducible apply State.wignPar_keeps | with_reducible apply State.wignOther_keeps | split

theorem State.writeReg_keeps {s₀ s : State} (who : Requester) (window : Option Nat) (off : Nat) (r : Reg) (v : Nat) (hk : Keeps s₀ s) :
    Keeps s₀ (State.writeReg s who window off r v) := by
  unfold State.writeReg
  repeat' first
    | with_reducible assumption | intro _ | with_reducible apply Keeps.when | with_reducible apply State.store_keeps
    | with_reducible apply State.configChanged_keeps | with_reducible apply State.wign_keeps

theorem State.sidebandWrite_keeps {s₀ s : State} (place : Place) (v : Nat) (hk : Keeps s₀ s) :
    Keeps s₀ (State.sidebandWrite s place v) := by
  unfold State.sidebandWrite
  repeat' first
    | with_reducible assumption | intro _ | with_reducible apply Keeps.when | with_reducible apply State.submit_keeps
    | with_reducible refine Keeps.setProm _ ?_ (fun k => ⟨k.1, Memory.writeN_wf _ _ _ k.2.1, k.2.2⟩)
    | with_reducible refine Keeps.setProm _ ?_ (fun h => h) | with_reducible apply Keeps.setWord | split

theorem State.writeAt_keeps {s₀ s : State} (who : Requester) (off v : Nat) (hk : Keeps s₀ s) : Keeps s₀ (State.writeAt s who off v) := by
  unfold State.writeAt
  repeat' first
    | with_reducible assumption | with_reducible apply Keeps.ite | with_reducible apply Keeps.ite_fst | with_reducible apply Keeps.ite_snd
    | with_reducible apply Keeps.emit | with_reducible apply State.sidebandWrite_keeps | with_reducible apply State.writeReg_keeps | split

theorem State.applyCap_keeps {s₀ s : State} (f : Nat) (hk : Keeps s₀ s) : Keeps s₀ (State.applyCap s f) := by
  unfold State.applyCap
  repeat' first
    | with_reducible assumption | with_reducible apply Keeps.ite | with_reducible apply Keeps.ite_fst
    | with_reducible apply Keeps.ite_snd | with_reducible apply State.setFoldClock_keeps | with_reducible apply State.setFld_keeps

theorem State.reduceClock_keeps {s₀ s : State} (f : Nat) (hk : Keeps s₀ s) : Keeps s₀ (State.reduceClock s f) := by
  unfold State.reduceClock
  repeat' first
    | with_reducible assumption | with_reducible apply Keeps.ite | with_reducible apply Keeps.ite_fst
    | with_reducible apply Keeps.ite_snd | with_reducible apply State.drawNat_keeps | with_reducible apply State.setFoldClock_keeps

theorem State.capAll_keeps {s₀ s : State}  (hk : Keeps s₀ s) : Keeps s₀ (State.capAll s) := by
  unfold State.capAll
  repeat' first
    | with_reducible assumption | intro _ | with_reducible apply Keeps.over | with_reducible apply State.applyCap_keeps
    | with_reducible refine Keeps.setShep _ ?_ (fun h => h)

theorem State.sensorsFail_keeps {s₀ s : State} (f mask : Nat) (hk : Keeps s₀ s) : Keeps s₀ (State.sensorsFail s f mask) := by
  unfold State.sensorsFail
  repeat' first
    | with_reducible assumption | with_reducible apply Keeps.ite | with_reducible apply Keeps.ite_fst | with_reducible apply Keeps.ite_snd
    | with_reducible apply State.applyCap_keeps | with_reducible apply State.sensorEvent_keeps | with_reducible apply State.setFld_keeps
    | with_reducible apply State.stopOrderly_keeps

theorem State.judgeTemp_keeps {s₀ s : State} (f mask : Nat) (reading : Int) (hk : Keeps s₀ s) :
    Keeps s₀ (State.judgeTemp s f mask reading) := by
  unfold State.judgeTemp
  repeat' first
    | with_reducible assumption | with_reducible apply Keeps.ite | with_reducible apply Keeps.ite_fst | with_reducible apply Keeps.ite_snd
    | with_reducible apply State.sensorsFail_keeps | with_reducible apply State.shepEvent_keeps
    | with_reducible apply State.applyCap_keeps | with_reducible apply State.setFld_keeps | with_reducible apply State.reduceClock_keeps

theorem State.thermalTrip_keeps {s₀ s : State} (unit : Nat) (hk : Keeps s₀ s) : Keeps s₀ (State.thermalTrip s unit) := by
  unfold State.thermalTrip
  repeat' first
    | with_reducible assumption | with_reducible apply State.noteHistory_keeps | with_reducible apply State.stopNow_keeps
    | with_reducible refine Keeps.setShep _ ?_ (fun h => h) | with_reducible apply Keeps.ite | with_reducible apply Keeps.ite_fst
    | with_reducible apply Keeps.ite_snd

theorem State.noteSample_keeps {s₀ s : State} (k : Nat) (hk : Keeps s₀ s) : Keeps s₀ (State.noteSample s k) := by
  unfold State.noteSample
  repeat' first
    | with_reducible assumption | with_reducible apply Keeps.ite | with_reducible apply Keeps.ite_fst | with_reducible apply Keeps.ite_snd
    | with_reducible refine Keeps.setShep _ ?_ (fun h => h)

theorem State.tempSample_keeps {s₀ s : State} (f : Nat) (a : Bool) (reading : Int) (hk : Keeps s₀ s) :
    Keeps s₀ (State.tempSample s f a reading) := by
  unfold State.tempSample
  repeat' first
    | with_reducible assumption | intro _ | with_reducible apply Keeps.ite | with_reducible apply Keeps.ite_fst
    | with_reducible apply Keeps.ite_snd | with_reducible apply State.setFld_keeps | with_reducible apply State.thermalTrip_keeps
    | with_reducible apply State.judgeTemp_keeps | with_reducible apply State.noteSample_keeps
    | with_reducible apply State.sensorsFail_keeps | with_reducible apply Keeps.when

theorem State.sensorsDisagree_keeps {s₀ s : State} (f : Nat) (hk : Keeps s₀ s) : Keeps s₀ (State.sensorsDisagree s f) := by
  unfold State.sensorsDisagree
  repeat' first
    | with_reducible assumption | with_reducible apply Keeps.ite | with_reducible apply Keeps.ite_fst
    | with_reducible apply Keeps.ite_snd | with_reducible apply State.sensorEvent_keeps | with_reducible apply State.setFld_keeps

theorem State.currentWarn_keeps {s₀ s : State} (r : CurrentRail) (milliamps : Nat) (hk : Keeps s₀ s) :
    Keeps s₀ (State.currentWarn s r milliamps) := by
  unfold State.currentWarn
  repeat' first
    | with_reducible assumption | intro _ | with_reducible apply Keeps.over | with_reducible apply State.reduceClock_keeps
    | with_reducible apply Keeps.ite | with_reducible apply Keeps.ite_fst | with_reducible apply Keeps.ite_snd

theorem State.currentTrip_keeps {s₀ s : State} (r : CurrentRail) (milliamps : Nat) (hk : Keeps s₀ s) :
    Keeps s₀ (State.currentTrip s r milliamps) := by
  unfold State.currentTrip
  repeat' first
    | with_reducible assumption | with_reducible apply State.shepEvent_keeps | with_reducible refine Keeps.setTime _ ?_ (fun h => h)
    | with_reducible apply Keeps.ite | with_reducible apply Keeps.ite_fst | with_reducible apply Keeps.ite_snd

theorem State.currentRestart_keeps {s₀ s : State} (d : Nat) (hk : Keeps s₀ s) : Keeps s₀ (State.currentRestart s d) := by
  unfold State.currentRestart
  repeat' first
    | with_reducible assumption | intro _ | with_reducible apply Keeps.ite | with_reducible apply Keeps.ite_fst
    | with_reducible apply Keeps.ite_snd | with_reducible apply Keeps.over | with_reducible apply State.setFoldClock_keeps
    | with_reducible refine Keeps.setTime _ ?_ (fun h => h)

theorem State.currentHeld_keeps {s₀ s : State} (r : CurrentRail) (milliamps : Nat) (hk : Keeps s₀ s) :
    Keeps s₀ (State.currentHeld s r milliamps) := by
  unfold State.currentHeld
  repeat' first
    | with_reducible assumption | with_reducible apply Keeps.ite | with_reducible apply Keeps.ite_fst | with_reducible apply Keeps.ite_snd
    | with_reducible apply State.stopNow_keeps

theorem State.comparatorTested_keeps {s₀ s : State} (r : CurrentRail) (pass : Bool) (hk : Keeps s₀ s) :
    Keeps s₀ (State.comparatorTested s r pass) := by
  unfold State.comparatorTested
  repeat' first
    | with_reducible assumption | with_reducible apply Keeps.ite | with_reducible apply Keeps.ite_fst
    | with_reducible apply Keeps.ite_snd | with_reducible apply State.sensorEvent_keeps
    | with_reducible refine Keeps.setShep _ ?_ (fun h => h)

theorem State.readFlow_keeps {s₀ s : State} (x : FlowSample) (hk : Keeps s₀ s) : Keeps s₀ (State.readFlow s x) := by
  unfold State.readFlow
  repeat' first
    | with_reducible assumption | with_reducible apply State.setFld_keeps

theorem State.flowAlarm_keeps {s₀ s : State} (x : FlowSample) (hk : Keeps s₀ s) : Keeps s₀ (State.flowAlarm s x) := by
  unfold State.flowAlarm
  repeat' first
    | with_reducible assumption | with_reducible apply Keeps.ite | with_reducible apply Keeps.ite_fst
    | with_reducible apply Keeps.ite_snd | with_reducible apply State.readFlow_keeps | with_reducible apply State.shepEvent_keeps
    | with_reducible apply State.capAll_keeps

theorem State.flowTrip_keeps {s₀ s : State} (x : FlowSample) (hk : Keeps s₀ s) : Keeps s₀ (State.flowTrip s x) := by
  unfold State.flowTrip
  repeat' first
    | with_reducible assumption | with_reducible apply Keeps.ite | with_reducible apply Keeps.ite_fst
    | with_reducible apply Keeps.ite_snd | with_reducible apply State.readFlow_keeps | with_reducible apply State.stopOrderly_keeps
    | with_reducible apply State.shepEvent_keeps

theorem State.flowZero_keeps {s₀ s : State} (x : FlowSample) (hk : Keeps s₀ s) : Keeps s₀ (State.flowZero s x) := by
  unfold State.flowZero
  repeat' first
    | with_reducible assumption | with_reducible apply Keeps.ite | with_reducible apply Keeps.ite_fst
    | with_reducible apply Keeps.ite_snd | with_reducible apply State.readFlow_keeps | with_reducible apply State.stopNow_keeps
    | with_reducible apply State.noteHistory_keeps

theorem State.meterFails_keeps {s₀ s : State} (x : FlowSample) (hk : Keeps s₀ s) : Keeps s₀ (State.meterFails s x) := by
  unfold State.meterFails
  repeat' first
    | with_reducible assumption | with_reducible apply Keeps.ite | with_reducible apply Keeps.ite_fst
    | with_reducible apply Keeps.ite_snd | with_reducible apply State.readFlow_keeps | with_reducible apply State.sensorEvent_keeps
    | with_reducible apply State.capAll_keeps | with_reducible refine Keeps.setShep _ ?_ (fun h => h)

theorem State.leak_keeps {s₀ s : State} (c : LeakCable) (hk : Keeps s₀ s) : Keeps s₀ (State.leak s c) := by
  unfold State.leak
  repeat' first
    | with_reducible assumption | with_reducible apply Keeps.ite | with_reducible apply Keeps.ite_fst
    | with_reducible apply Keeps.ite_snd | with_reducible apply State.shepEvent_keeps | with_reducible apply State.noteHistory_keeps
    | with_reducible apply State.stopNow_keeps | with_reducible refine Keeps.setShep _ ?_ (fun h => h)

theorem State.leakSample_keeps {s₀ s : State} (c : LeakCable) (ohms : Nat) (hk : Keeps s₀ s) :
    Keeps s₀ (State.leakSample s c ohms) := by
  unfold State.leakSample
  repeat' first
    | with_reducible assumption | intro _ | with_reducible apply Keeps.ite | with_reducible apply Keeps.ite_fst
    | with_reducible apply Keeps.ite_snd | with_reducible apply State.setFld_keeps | with_reducible apply State.leak_keeps
    | with_reducible apply State.sensorEvent_keeps | with_reducible apply Keeps.when

theorem State.bankTest_keeps {s₀ s : State} (x : BankSample) (hk : Keeps s₀ s) : Keeps s₀ (State.bankTest s x) := by
  unfold State.bankTest
  repeat' first
    | with_reducible assumption | with_reducible apply Keeps.ite | with_reducible apply Keeps.ite_fst
    | with_reducible apply Keeps.ite_snd | with_reducible apply State.setFld_keeps | with_reducible apply State.shepEvent_keeps

theorem State.holdLow_keeps {s₀ s : State} (x : BankSample) (hk : Keeps s₀ s) : Keeps s₀ (State.holdLow s x) := by
  unfold State.holdLow
  repeat' first
    | with_reducible assumption | with_reducible apply Keeps.ite | with_reducible apply Keeps.ite_fst
    | with_reducible apply Keeps.ite_snd | with_reducible apply State.setFld_keeps | with_reducible apply State.shepEvent_keeps

theorem State.lockstepError_keeps {s₀ s : State}  (hk : Keeps s₀ s) : Keeps s₀ (State.lockstepError s) := by
  unfold State.lockstepError
  repeat' first
    | with_reducible assumption | with_reducible apply Keeps.ite | with_reducible apply Keeps.ite_fst
    | with_reducible apply Keeps.ite_snd | with_reducible apply State.countFld_keeps | with_reducible apply State.shepEvent_keeps
    | with_reducible apply State.stopOrderly_keeps | with_reducible refine Keeps.setShep _ ?_ (fun h => h)

theorem State.shepherdDark_keeps {s₀ s : State}  (hk : Keeps s₀ s) : Keeps s₀ (State.shepherdDark s) := by
  unfold State.shepherdDark
  repeat' first
    | with_reducible assumption | with_reducible apply State.releaseRails_keeps | with_reducible apply State.halt_keeps
    | with_reducible apply State.tearRecord_keeps | with_reducible refine Keeps.setShep _ ?_ (fun h => h) | split | dsimp only

theorem State.countClamp_keeps {s₀ s : State} (clamped : Bool) (hk : Keeps s₀ s) : Keeps s₀ (State.countClamp s clamped) := by
  unfold State.countClamp
  repeat' first
    | with_reducible assumption | with_reducible apply Keeps.ite | with_reducible apply Keeps.ite_fst
    | with_reducible apply Keeps.ite_snd | with_reducible refine Keeps.setShep _ ?_ (fun h => h)

theorem State.askClock_keeps {s₀ s : State} (f want mv : Nat) (hk : Keeps s₀ s) : Keeps s₀ (State.askClock s f want mv) := by
  unfold State.askClock
  repeat' first
    | with_reducible assumption | with_reducible apply Keeps.ite | with_reducible apply Keeps.ite_fst | with_reducible apply Keeps.ite_snd
    | with_reducible apply State.countClamp_keeps | with_reducible apply State.setFoldClock_keeps

theorem State.askClaims_keeps {s₀ s : State} (f : Nat) (on : Bool) (hk : Keeps s₀ s) : Keeps s₀ (State.askClaims s f on) := by
  unfold State.askClaims
  repeat' first
    | with_reducible assumption | with_reducible apply Keeps.ite | with_reducible apply Keeps.ite_fst
    | with_reducible apply Keeps.ite_snd | with_reducible apply State.countClamp_keeps
    | with_reducible refine Keeps.setTime _ ?_ (fun h => h)

theorem State.loopRequest_keeps {s₀ s : State} (r : LoopRequest) (hk : Keeps s₀ s) : Keeps s₀ (State.loopRequest s r) := by
  unfold State.loopRequest
  repeat' first
    | with_reducible assumption | with_reducible apply State.askClock_keeps | with_reducible apply State.askClaims_keeps
    | with_reducible apply State.countClamp_keeps | with_reducible refine Keeps.setShep _ ?_ (fun k => ⟨tblSet_wf _ _ _ _ k.1, k.2⟩)
    | with_reducible refine Keeps.setShep _ ?_ (fun k => ⟨k.1, tblSet_wf _ _ _ _ k.2.1, k.2.2.1, k.2.2.2.1, tblSet_wf _ _ _ _ k.2.2.2.2⟩)
    | split

theorem State.heatSample_keeps {s₀ s : State} (unit : Nat) (a : Bool) (reading : Int) (hk : Keeps s₀ s) :
    Keeps s₀ (State.heatSample s unit a reading) := by
  unfold State.heatSample
  repeat' first
    | with_reducible assumption | intro _ | with_reducible apply Keeps.ite | with_reducible apply Keeps.ite_fst
    | with_reducible apply Keeps.ite_snd | with_reducible apply Keeps.when | with_reducible apply State.sensorEvent_keeps
    | with_reducible apply State.thermalTrip_keeps
    | with_reducible refine Keeps.setShep _ ?_ (fun k => ⟨k.1, k.2.1, tblSet_wf _ _ _ _ k.2.2.1, k.2.2.2⟩)
    | with_reducible refine Keeps.setShep _ ?_ (fun k => ⟨k.1, k.2.1, k.2.2.1, tblSet_wf _ _ _ _ k.2.2.2.1, k.2.2.2.2⟩)

theorem State.sampleAt_keeps {s₀ s : State} (x : HeatPlace) (a : Bool) (reading : Int) (hk : Keeps s₀ s) :
    Keeps s₀ (State.sampleAt s x a reading) := by
  unfold State.sampleAt
  repeat' first
    | with_reducible assumption | with_reducible apply Keeps.ite | with_reducible apply Keeps.ite_fst | with_reducible apply Keeps.ite_snd
    | with_reducible apply State.heatSample_keeps | with_reducible apply State.tempSample_keeps | split

theorem State.e2eAckIn_keeps {s₀ s : State} (src pseq : Nat) (st : PeerStatus) (hk : Keeps s₀ s) :
    Keeps s₀ (State.e2eAckIn s src pseq st) := by
  unfold State.e2eAckIn
  repeat' first
    | with_reducible assumption | with_reducible apply State.ackPackets_keeps | with_reducible apply State.endEarly_keeps
    | with_reducible apply State.settle_keeps | with_reducible apply State.advance_keeps | with_reducible apply State.pumpAll_keeps
    | with_reducible apply State.entryRefused_keeps | with_reducible apply State.follow_keeps | split

end Sys2Proof.Machine
end

