-- ==== Sys2Proof/Laws/KeepsExec.lean ====
section
/-!
SUPPORT. What each command keeps (Laws/Keeps.lean): one lemma for each meaning, named after it.
-/

namespace Sys2Proof.Machine

/-- What an answer keeps, when the state that it is keeps it. -/
theorem Keeps.next {s t u : State} (h : (.next u : Result) = .next t) (k : Keeps s u) : Keeps s t := by
  injection h with h
  exact h ▸ k

theorem execNop_keeps (q : QueueNo) {s t : State} (h : execNop q s = .next t) : Keeps s t := .next h <| by
  have h0 := Keeps.refl s
  repeat' first
    | with_reducible assumption | intro _ | with_reducible exact Keeps.refl _ | with_reducible apply State.issue_keeps

theorem execSceneBegin_keeps (q : QueueNo) {s t : State} (h : execSceneBegin q s = .next t) : Keeps s t := .next h <| by
  have h0 := Keeps.refl s
  repeat' first
    | with_reducible assumption | intro _ | with_reducible exact Keeps.refl _ | with_reducible apply State.issue_keeps

theorem execSceneBeginRetire_keeps (q : QueueNo) {s t : State} (h : execSceneBeginRetire q s = .next t) : Keeps s t := .next h <| by
  have h0 := Keeps.refl s
  repeat' first
    | with_reducible assumption | intro _ | with_reducible exact Keeps.refl _ | with_reducible apply Keeps.clocked
    | with_reducible apply State.settle_keeps | with_reducible apply State.beginWaited_keeps

theorem execSceneEnd_keeps (q : QueueNo) {s t : State} (h : execSceneEnd q s = .next t) : Keeps s t := .next h <| by
  have h0 := Keeps.refl s
  repeat' first
    | with_reducible assumption | intro _ | with_reducible exact Keeps.refl _ | with_reducible apply State.issue_keeps

theorem execSceneEndRetire_keeps (q : QueueNo) {s t : State} (h : execSceneEndRetire q s = .next t) : Keeps s t := .next h <| by
  have h0 := Keeps.refl s
  repeat' first
    | with_reducible assumption | intro _ | with_reducible exact Keeps.refl _ | with_reducible apply Keeps.clocked
    | with_reducible apply State.settle_keeps | with_reducible apply State.endWaited_keeps

theorem execSceneRun_keeps (p : PartNo) {s t : State} (h : execSceneRun p s = .next t) : Keeps s t := .next h <| by
  have h0 := Keeps.refl s
  repeat' first
    | with_reducible assumption | intro _ | with_reducible exact Keeps.refl _ | with_reducible apply Keeps.clocked
    | with_reducible apply State.schedule_keeps

theorem execPreemptOk_keeps (q : QueueNo) {s t : State} (h : execPreemptOk q s = .next t) : Keeps s t := .next h <| by
  have h0 := Keeps.refl s
  repeat' first
    | with_reducible assumption | intro _ | with_reducible exact Keeps.refl _ | with_reducible apply State.issue_keeps

theorem execChain_keeps (q : QueueNo) {s t : State} (h : execChain q s = .next t) : Keeps s t := .next h <| by
  have h0 := Keeps.refl s
  repeat' first
    | with_reducible assumption | intro _ | with_reducible exact Keeps.refl _ | with_reducible apply State.issue_keeps

theorem execChainPortCredit_keeps (port : Word16) {s t : State} (h : execChainPortCredit port s = .next t) : Keeps s t := .next h <| by
  have h0 := Keeps.refl s
  repeat' first
    | with_reducible assumption | intro _ | with_reducible exact Keeps.refl _ | with_reducible apply Keeps.clocked
    | with_reducible apply State.settle_keeps | with_reducible apply State.portGoes_keeps | with_reducible apply State.follow_keeps

theorem execGateAcq_keeps (q : QueueNo) {s t : State} (h : execGateAcq q s = .next t) : Keeps s t := .next h <| by
  have h0 := Keeps.refl s
  repeat' first
    | with_reducible assumption | intro _ | with_reducible exact Keeps.refl _ | with_reducible apply State.issue_keeps

theorem execGateAcqGrant_keeps (p : PartNo) (g : GateNo) {s t : State} (h : execGateAcqGrant p g s = .next t) : Keeps s t := .next h <| by
  have h0 := Keeps.refl s
  repeat' first
    | with_reducible assumption | intro _ | with_reducible exact Keeps.refl _ | with_reducible apply Keeps.clocked
    | with_reducible apply State.settle_keeps | with_reducible apply State.grant_keeps

theorem execGateRel_keeps (q : QueueNo) {s t : State} (h : execGateRel q s = .next t) : Keeps s t := .next h <| by
  have h0 := Keeps.refl s
  repeat' first
    | with_reducible assumption | intro _ | with_reducible exact Keeps.refl _ | with_reducible apply State.issue_keeps

theorem execHurdle_keeps (q : QueueNo) {s t : State} (h : execHurdle q s = .next t) : Keeps s t := .next h <| by
  have h0 := Keeps.refl s
  repeat' first
    | with_reducible assumption | intro _ | with_reducible exact Keeps.refl _ | with_reducible apply State.issue_keeps

theorem execHurdleGenerationComplete_keeps (p : PartNo) (h : HurdleNo)
    {s t : State} (h : execHurdleGenerationComplete p h s = .next t) : Keeps s t := .next h <| by
  have h0 := Keeps.refl s
  repeat' first
    | with_reducible assumption | intro _ | with_reducible exact Keeps.refl _ | with_reducible apply Keeps.clocked
    | with_reducible apply State.settle_keeps | with_reducible apply State.completeGen_keeps

theorem execCueStamp_keeps (q : QueueNo) {s t : State} (h : execCueStamp q s = .next t) : Keeps s t := .next h <| by
  have h0 := Keeps.refl s
  repeat' first
    | with_reducible assumption | intro _ | with_reducible exact Keeps.refl _ | with_reducible apply State.issue_keeps

theorem execPropRead_keeps (q : QueueNo) {s t : State} (h : execPropRead q s = .next t) : Keeps s t := .next h <| by
  have h0 := Keeps.refl s
  repeat' first
    | with_reducible assumption | intro _ | with_reducible exact Keeps.refl _ | with_reducible apply State.issue_keeps

theorem execQueueResume_keeps (q : QueueNo) {s t : State} (h : execQueueResume q s = .next t) : Keeps s t := .next h <| by
  have h0 := Keeps.refl s
  repeat' first
    | with_reducible assumption | intro _ | with_reducible exact Keeps.refl _ | with_reducible apply State.issue_keeps

theorem execMma_keeps (q : QueueNo) {s t : State} (h : execMma q s = .next t) : Keeps s t := .next h <| by
  have h0 := Keeps.refl s
  repeat' first
    | with_reducible assumption | intro _ | with_reducible exact Keeps.refl _ | with_reducible apply State.issue_keeps

theorem execMmaSend_keeps (q : QueueNo) {s t : State} (h : execMmaSend q s = .next t) : Keeps s t := .next h <| by
  have h0 := Keeps.refl s
  repeat' first
    | with_reducible assumption | intro _ | with_reducible exact Keeps.refl _ | with_reducible apply State.issue_keeps

theorem execMmaRsum_keeps (q : QueueNo) {s t : State} (h : execMmaRsum q s = .next t) : Keeps s t := .next h <| by
  have h0 := Keeps.refl s
  repeat' first
    | with_reducible assumption | intro _ | with_reducible exact Keeps.refl _ | with_reducible apply State.issue_keeps

theorem execGatherMma_keeps (q : QueueNo) {s t : State} (h : execGatherMma q s = .next t) : Keeps s t := .next h <| by
  have h0 := Keeps.refl s
  repeat' first
    | with_reducible assumption | intro _ | with_reducible exact Keeps.refl _ | with_reducible apply State.issue_keeps

theorem execA2aMma_keeps (q : QueueNo) {s t : State} (h : execA2aMma q s = .next t) : Keeps s t := .next h <| by
  have h0 := Keeps.refl s
  repeat' first
    | with_reducible assumption | intro _ | with_reducible exact Keeps.refl _ | with_reducible apply State.issue_keeps

theorem execMmaA2a_keeps (q : QueueNo) {s t : State} (h : execMmaA2a q s = .next t) : Keeps s t := .next h <| by
  have h0 := Keeps.refl s
  repeat' first
    | with_reducible assumption | intro _ | with_reducible exact Keeps.refl _ | with_reducible apply State.issue_keeps

theorem execConv_keeps (q : QueueNo) {s t : State} (h : execConv q s = .next t) : Keeps s t := .next h <| by
  have h0 := Keeps.refl s
  repeat' first
    | with_reducible assumption | intro _ | with_reducible exact Keeps.refl _ | with_reducible apply State.issue_keeps

theorem execApronTileEnd_keeps (die : DieNo) {s t : State} (h : execApronTileEnd die s = .next t) : Keeps s t := .next h <| by
  have h0 := Keeps.refl s
  repeat' first
    | with_reducible assumption | intro _ | with_reducible exact Keeps.refl _ | with_reducible apply Keeps.clocked
    | with_reducible apply State.apronEnd_keeps | with_reducible apply State.follow_keeps

theorem execAttnFwd_keeps (q : QueueNo) {s t : State} (h : execAttnFwd q s = .next t) : Keeps s t := .next h <| by
  have h0 := Keeps.refl s
  repeat' first
    | with_reducible assumption | intro _ | with_reducible exact Keeps.refl _ | with_reducible apply State.issue_keeps

theorem execAttnBwd_keeps (q : QueueNo) {s t : State} (h : execAttnBwd q s = .next t) : Keeps s t := .next h <| by
  have h0 := Keeps.refl s
  repeat' first
    | with_reducible assumption | intro _ | with_reducible exact Keeps.refl _ | with_reducible apply State.issue_keeps

theorem execRingStepBegin_keeps (q : QueueNo) {s t : State} (h : execRingStepBegin q s = .next t) : Keeps s t := .next h <| by
  have h0 := Keeps.refl s
  repeat' first
    | with_reducible assumption | intro _ | with_reducible exact Keeps.refl _ | with_reducible apply Keeps.clocked
    | with_reducible apply State.settle_keeps | with_reducible apply State.beginStep_keeps
    | with_reducible refine Keeps.setMem _ ?_ (fun h => h) | with_reducible refine Keeps.setShep _ ?_ (fun h => h)
    | with_reducible apply Keeps.ite
    | with_reducible refine Keeps.setMem _ ?_ (fun h => ⟨h.1, h.2.1, h.2.2.1, h.2.2.2.1, h.2.2.2.2.1, h.2.2.2.2.2.1,
        ⟨List.Pairwise.nil, fun _ hx => absurd hx List.not_mem_nil⟩, h.2.2.2.2.2.2.2⟩)
    | with_reducible apply State.follow_keeps | split

theorem execRingStepEnd_keeps (q : QueueNo) {s t : State} (h : execRingStepEnd q s = .next t) : Keeps s t := .next h <| by
  have h0 := Keeps.refl s
  repeat' first
    | with_reducible assumption | intro _ | with_reducible exact Keeps.refl _ | with_reducible apply Keeps.clocked
    | with_reducible apply State.settle_keeps | with_reducible apply State.endStep_keeps
    | with_reducible refine Keeps.setMem _ ?_ (fun h => h) | with_reducible refine Keeps.setShep _ ?_ (fun h => h)
    | with_reducible apply Keeps.ite
    | with_reducible refine Keeps.setMem _ ?_ (fun h => ⟨h.1, h.2.1, h.2.2.1, h.2.2.2.1, h.2.2.2.2.1, h.2.2.2.2.2.1,
        ⟨List.Pairwise.nil, fun _ hx => absurd hx List.not_mem_nil⟩, h.2.2.2.2.2.2.2⟩)
    | with_reducible apply State.follow_keeps | split

theorem execRingData_keeps (p : PartNo) (hdr : RingHeader) (payload : Bytes)
    {s t : State} (h : execRingData p hdr payload s = .next t) : Keeps s t := .next h <| by
  have h0 := Keeps.refl s
  repeat' first
    | with_reducible assumption | intro _ | with_reducible exact Keeps.refl _ | with_reducible apply Keeps.clocked
    | with_reducible apply State.settle_keeps | with_reducible apply State.ringMessage_keeps | with_reducible apply State.follow_keeps

theorem execRingCredit_keeps (p : PartNo) (hdr : RingHeader) {s t : State} (h : execRingCredit p hdr s = .next t) : Keeps s t := .next h <| by
  have h0 := Keeps.refl s
  repeat' first
    | with_reducible assumption | intro _ | with_reducible exact Keeps.refl _ | with_reducible apply Keeps.clocked
    | with_reducible apply State.settle_keeps | with_reducible apply State.ringMessage_keeps | with_reducible apply State.follow_keeps

theorem execRingDone_keeps (p : PartNo) (hdr : RingHeader) {s t : State} (h : execRingDone p hdr s = .next t) : Keeps s t := .next h <| by
  have h0 := Keeps.refl s
  repeat' first
    | with_reducible assumption | intro _ | with_reducible exact Keeps.refl _ | with_reducible apply Keeps.clocked
    | with_reducible apply State.settle_keeps | with_reducible apply State.ringMessage_keeps | with_reducible apply State.follow_keeps

theorem execRingPoison_keeps (p : PartNo) (hdr : RingHeader) {s t : State} (h : execRingPoison p hdr s = .next t) : Keeps s t := .next h <| by
  have h0 := Keeps.refl s
  repeat' first
    | with_reducible assumption | intro _ | with_reducible exact Keeps.refl _ | with_reducible apply Keeps.clocked
    | with_reducible apply State.settle_keeps | with_reducible apply State.ringMessage_keeps | with_reducible apply State.follow_keeps

theorem execRingAbsent_keeps (p : PartNo) (hdr : RingHeader) {s t : State} (h : execRingAbsent p hdr s = .next t) : Keeps s t := .next h <| by
  have h0 := Keeps.refl s
  repeat' first
    | with_reducible assumption | intro _ | with_reducible exact Keeps.refl _ | with_reducible apply Keeps.clocked
    | with_reducible apply State.holdAbsent_keeps | with_reducible apply State.settle_keeps | with_reducible apply State.ringMessage_keeps
    | with_reducible apply State.follow_keeps

theorem execRingZero_keeps (p : PartNo) (hdr : RingHeader) {s t : State} (h : execRingZero p hdr s = .next t) : Keeps s t := .next h <| by
  have h0 := Keeps.refl s
  repeat' first
    | with_reducible assumption | intro _ | with_reducible exact Keeps.refl _ | with_reducible apply Keeps.clocked
    | with_reducible apply State.settle_keeps | with_reducible apply State.ringMessage_keeps | with_reducible apply State.follow_keeps

theorem execRingSlipExpiry_keeps (q : QueueNo) (fromNext : Bool)
    {s t : State} (h : execRingSlipExpiry q fromNext s = .next t) : Keeps s t := .next h <| by
  have h0 := Keeps.refl s
  repeat' first
    | with_reducible assumption | intro _ | with_reducible exact Keeps.refl _ | with_reducible apply Keeps.clocked
    | with_reducible apply State.settle_keeps | with_reducible apply State.ringSlip_keeps
    | with_reducible refine Keeps.setMem _ ?_ (fun h => h) | with_reducible refine Keeps.setShep _ ?_ (fun h => h)
    | with_reducible apply Keeps.ite
    | with_reducible refine Keeps.setMem _ ?_ (fun h => ⟨h.1, h.2.1, h.2.2.1, h.2.2.2.1, h.2.2.2.2.1, h.2.2.2.2.2.1,
        ⟨List.Pairwise.nil, fun _ hx => absurd hx List.not_mem_nil⟩, h.2.2.2.2.2.2.2⟩)
    | with_reducible apply State.follow_keeps | split

theorem execCollReady_keeps (p : PartNo) (hdr : CollHeader) {s t : State} (h : execCollReady p hdr s = .next t) : Keeps s t := .next h <| by
  have h0 := Keeps.refl s
  repeat' first
    | with_reducible assumption | intro _ | with_reducible exact Keeps.refl _ | with_reducible apply Keeps.clocked
    | with_reducible apply State.follow_keeps | with_reducible apply State.collMessage_keeps

theorem execCollGo_keeps (p : PartNo) (hdr : CollHeader) {s t : State} (h : execCollGo p hdr s = .next t) : Keeps s t := .next h <| by
  have h0 := Keeps.refl s
  repeat' first
    | with_reducible assumption | intro _ | with_reducible exact Keeps.refl _ | with_reducible apply Keeps.clocked
    | with_reducible apply State.follow_keeps | with_reducible apply State.collMessage_keeps

theorem execCollOpen_keeps (p : PartNo) (hdr : CollHeader) (payload : Bytes)
    {s t : State} (h : execCollOpen p hdr payload s = .next t) : Keeps s t := .next h <| by
  have h0 := Keeps.refl s
  repeat' first
    | with_reducible assumption | intro _ | with_reducible exact Keeps.refl _ | with_reducible apply Keeps.clocked
    | with_reducible apply State.follow_keeps | with_reducible apply State.collMessage_keeps

theorem execCollCredit_keeps (p : PartNo) (hdr : CollHeader) {s t : State} (h : execCollCredit p hdr s = .next t) : Keeps s t := .next h <| by
  have h0 := Keeps.refl s
  repeat' first
    | with_reducible assumption | intro _ | with_reducible exact Keeps.refl _ | with_reducible apply Keeps.clocked
    | with_reducible apply State.follow_keeps | with_reducible apply State.collMessage_keeps

theorem execCollData_keeps (p : PartNo) (hdr : CollHeader) (payload : Bytes)
    {s t : State} (h : execCollData p hdr payload s = .next t) : Keeps s t := .next h <| by
  have h0 := Keeps.refl s
  repeat' first
    | with_reducible assumption | intro _ | with_reducible exact Keeps.refl _ | with_reducible apply Keeps.clocked
    | with_reducible apply State.follow_keeps | with_reducible apply State.collMessage_keeps

theorem execCollDone_keeps (p : PartNo) (hdr : CollHeader) {s t : State} (h : execCollDone p hdr s = .next t) : Keeps s t := .next h <| by
  have h0 := Keeps.refl s
  repeat' first
    | with_reducible assumption | intro _ | with_reducible exact Keeps.refl _ | with_reducible apply Keeps.clocked
    | with_reducible apply State.follow_keeps | with_reducible apply State.collMessage_keeps

theorem execCollClose_keeps (p : PartNo) (hdr : CollHeader) {s t : State} (h : execCollClose p hdr s = .next t) : Keeps s t := .next h <| by
  have h0 := Keeps.refl s
  repeat' first
    | with_reducible assumption | intro _ | with_reducible exact Keeps.refl _ | with_reducible apply Keeps.clocked
    | with_reducible apply State.follow_keeps | with_reducible apply State.collMessage_keeps

theorem execCollPoison_keeps (p : PartNo) (hdr : CollHeader) {s t : State} (h : execCollPoison p hdr s = .next t) : Keeps s t := .next h <| by
  have h0 := Keeps.refl s
  repeat' first
    | with_reducible assumption | intro _ | with_reducible exact Keeps.refl _ | with_reducible apply Keeps.clocked
    | with_reducible apply State.follow_keeps | with_reducible apply State.collMessage_keeps

theorem execCollZero_keeps (p : PartNo) (hdr : CollHeader) {s t : State} (h : execCollZero p hdr s = .next t) : Keeps s t := .next h <| by
  have h0 := Keeps.refl s
  repeat' first
    | with_reducible assumption | intro _ | with_reducible exact Keeps.refl _ | with_reducible apply Keeps.clocked
    | with_reducible apply State.follow_keeps | with_reducible apply State.collMessage_keeps

theorem execCollAbsent_keeps (p : PartNo) (hdr : CollHeader) {s t : State} (h : execCollAbsent p hdr s = .next t) : Keeps s t := .next h <| by
  have h0 := Keeps.refl s
  repeat' first
    | with_reducible assumption | intro _ | with_reducible exact Keeps.refl _ | with_reducible apply Keeps.clocked
    | with_reducible apply State.holdAbsent_keeps | with_reducible apply State.follow_keeps | with_reducible apply State.collMessage_keeps

theorem execCollSlipExpiry_keeps (q : QueueNo) (rank : Word16)
    {s t : State} (h : execCollSlipExpiry q rank s = .next t) : Keeps s t := .next h <| by
  have h0 := Keeps.refl s
  repeat' first
    | with_reducible assumption | intro _ | with_reducible exact Keeps.refl _ | with_reducible apply Keeps.clocked
    | with_reducible apply State.follow_keeps | with_reducible apply State.collSlip_keeps
    | with_reducible refine Keeps.setMem _ ?_ (fun h => h) | with_reducible refine Keeps.setShep _ ?_ (fun h => h)
    | with_reducible apply Keeps.ite
    | with_reducible refine Keeps.setMem _ ?_ (fun h => ⟨h.1, h.2.1, h.2.2.1, h.2.2.2.1, h.2.2.2.2.1, h.2.2.2.2.2.1,
        ⟨List.Pairwise.nil, fun _ hx => absurd hx List.not_mem_nil⟩, h.2.2.2.2.2.2.2⟩)
    | with_reducible apply Keeps.ite_fst | with_reducible apply Keeps.ite_snd | split

theorem execBeacon_keeps (port : PortNo) (hdr : CollHeader) {s t : State} (h : execBeacon port hdr s = .next t) : Keeps s t := .next h <| by
  have h0 := Keeps.refl s
  repeat' first
    | with_reducible assumption | intro _ | with_reducible exact Keeps.refl _ | with_reducible apply Keeps.clocked
    | with_reducible apply State.beaconIn_keeps

theorem execBeaconSend_keeps {s t : State} (h : execBeaconSend s = .next t) : Keeps s t := .next h <| by
  have h0 := Keeps.refl s
  repeat' first
    | with_reducible assumption | intro _ | with_reducible exact Keeps.refl _ | with_reducible apply Keeps.clocked
    | with_reducible apply State.sendBeacons_keeps

theorem execVadd_keeps (q : QueueNo) {s t : State} (h : execVadd q s = .next t) : Keeps s t := .next h <| by
  have h0 := Keeps.refl s
  repeat' first
    | with_reducible assumption | intro _ | with_reducible exact Keeps.refl _ | with_reducible apply State.issue_keeps

theorem execVsub_keeps (q : QueueNo) {s t : State} (h : execVsub q s = .next t) : Keeps s t := .next h <| by
  have h0 := Keeps.refl s
  repeat' first
    | with_reducible assumption | intro _ | with_reducible exact Keeps.refl _ | with_reducible apply State.issue_keeps

theorem execVmul_keeps (q : QueueNo) {s t : State} (h : execVmul q s = .next t) : Keeps s t := .next h <| by
  have h0 := Keeps.refl s
  repeat' first
    | with_reducible assumption | intro _ | with_reducible exact Keeps.refl _ | with_reducible apply State.issue_keeps

theorem execVfma_keeps (q : QueueNo) {s t : State} (h : execVfma q s = .next t) : Keeps s t := .next h <| by
  have h0 := Keeps.refl s
  repeat' first
    | with_reducible assumption | intro _ | with_reducible exact Keeps.refl _ | with_reducible apply State.issue_keeps

theorem execVmax_keeps (q : QueueNo) {s t : State} (h : execVmax q s = .next t) : Keeps s t := .next h <| by
  have h0 := Keeps.refl s
  repeat' first
    | with_reducible assumption | intro _ | with_reducible exact Keeps.refl _ | with_reducible apply State.issue_keeps

theorem execVmin_keeps (q : QueueNo) {s t : State} (h : execVmin q s = .next t) : Keeps s t := .next h <| by
  have h0 := Keeps.refl s
  repeat' first
    | with_reducible assumption | intro _ | with_reducible exact Keeps.refl _ | with_reducible apply State.issue_keeps

theorem execVcvt_keeps (q : QueueNo) {s t : State} (h : execVcvt q s = .next t) : Keeps s t := .next h <| by
  have h0 := Keeps.refl s
  repeat' first
    | with_reducible assumption | intro _ | with_reducible exact Keeps.refl _ | with_reducible apply State.issue_keeps

theorem execVscale_keeps (q : QueueNo) {s t : State} (h : execVscale q s = .next t) : Keeps s t := .next h <| by
  have h0 := Keeps.refl s
  repeat' first
    | with_reducible assumption | intro _ | with_reducible exact Keeps.refl _ | with_reducible apply State.issue_keeps

theorem execVrsum_keeps (q : QueueNo) {s t : State} (h : execVrsum q s = .next t) : Keeps s t := .next h <| by
  have h0 := Keeps.refl s
  repeat' first
    | with_reducible assumption | intro _ | with_reducible exact Keeps.refl _ | with_reducible apply State.issue_keeps

theorem execVrmax_keeps (q : QueueNo) {s t : State} (h : execVrmax q s = .next t) : Keeps s t := .next h <| by
  have h0 := Keeps.refl s
  repeat' first
    | with_reducible assumption | intro _ | with_reducible exact Keeps.refl _ | with_reducible apply State.issue_keeps

theorem execVrsqsum_keeps (q : QueueNo) {s t : State} (h : execVrsqsum q s = .next t) : Keeps s t := .next h <| by
  have h0 := Keeps.refl s
  repeat' first
    | with_reducible assumption | intro _ | with_reducible exact Keeps.refl _ | with_reducible apply State.issue_keeps

theorem execExp_keeps (q : QueueNo) {s t : State} (h : execExp q s = .next t) : Keeps s t := .next h <| by
  have h0 := Keeps.refl s
  repeat' first
    | with_reducible assumption | intro _ | with_reducible exact Keeps.refl _ | with_reducible apply State.issue_keeps

theorem execExp2_keeps (q : QueueNo) {s t : State} (h : execExp2 q s = .next t) : Keeps s t := .next h <| by
  have h0 := Keeps.refl s
  repeat' first
    | with_reducible assumption | intro _ | with_reducible exact Keeps.refl _ | with_reducible apply State.issue_keeps

theorem execLog_keeps (q : QueueNo) {s t : State} (h : execLog q s = .next t) : Keeps s t := .next h <| by
  have h0 := Keeps.refl s
  repeat' first
    | with_reducible assumption | intro _ | with_reducible exact Keeps.refl _ | with_reducible apply State.issue_keeps

theorem execRcp_keeps (q : QueueNo) {s t : State} (h : execRcp q s = .next t) : Keeps s t := .next h <| by
  have h0 := Keeps.refl s
  repeat' first
    | with_reducible assumption | intro _ | with_reducible exact Keeps.refl _ | with_reducible apply State.issue_keeps

theorem execRsqrt_keeps (q : QueueNo) {s t : State} (h : execRsqrt q s = .next t) : Keeps s t := .next h <| by
  have h0 := Keeps.refl s
  repeat' first
    | with_reducible assumption | intro _ | with_reducible exact Keeps.refl _ | with_reducible apply State.issue_keeps

theorem execTanh_keeps (q : QueueNo) {s t : State} (h : execTanh q s = .next t) : Keeps s t := .next h <| by
  have h0 := Keeps.refl s
  repeat' first
    | with_reducible assumption | intro _ | with_reducible exact Keeps.refl _ | with_reducible apply State.issue_keeps

theorem execSigmoid_keeps (q : QueueNo) {s t : State} (h : execSigmoid q s = .next t) : Keeps s t := .next h <| by
  have h0 := Keeps.refl s
  repeat' first
    | with_reducible assumption | intro _ | with_reducible exact Keeps.refl _ | with_reducible apply State.issue_keeps

theorem execSilu_keeps (q : QueueNo) {s t : State} (h : execSilu q s = .next t) : Keeps s t := .next h <| by
  have h0 := Keeps.refl s
  repeat' first
    | with_reducible assumption | intro _ | with_reducible exact Keeps.refl _ | with_reducible apply State.issue_keeps

theorem execGelu_keeps (q : QueueNo) {s t : State} (h : execGelu q s = .next t) : Keeps s t := .next h <| by
  have h0 := Keeps.refl s
  repeat' first
    | with_reducible assumption | intro _ | with_reducible exact Keeps.refl _ | with_reducible apply State.issue_keeps

theorem execSin_keeps (q : QueueNo) {s t : State} (h : execSin q s = .next t) : Keeps s t := .next h <| by
  have h0 := Keeps.refl s
  repeat' first
    | with_reducible assumption | intro _ | with_reducible exact Keeps.refl _ | with_reducible apply State.issue_keeps

theorem execCos_keeps (q : QueueNo) {s t : State} (h : execCos q s = .next t) : Keeps s t := .next h <| by
  have h0 := Keeps.refl s
  repeat' first
    | with_reducible assumption | intro _ | with_reducible exact Keeps.refl _ | with_reducible apply State.issue_keeps

theorem execGluAct_keeps (q : QueueNo) {s t : State} (h : execGluAct q s = .next t) : Keeps s t := .next h <| by
  have h0 := Keeps.refl s
  repeat' first
    | with_reducible assumption | intro _ | with_reducible exact Keeps.refl _ | with_reducible apply State.issue_keeps

theorem execSoftmax_keeps (q : QueueNo) {s t : State} (h : execSoftmax q s = .next t) : Keeps s t := .next h <| by
  have h0 := Keeps.refl s
  repeat' first
    | with_reducible assumption | intro _ | with_reducible exact Keeps.refl _ | with_reducible apply State.issue_keeps

theorem execRmsnorm_keeps (q : QueueNo) {s t : State} (h : execRmsnorm q s = .next t) : Keeps s t := .next h <| by
  have h0 := Keeps.refl s
  repeat' first
    | with_reducible assumption | intro _ | with_reducible exact Keeps.refl _ | with_reducible apply State.issue_keeps

theorem execRope_keeps (q : QueueNo) {s t : State} (h : execRope q s = .next t) : Keeps s t := .next h <| by
  have h0 := Keeps.refl s
  repeat' first
    | with_reducible assumption | intro _ | with_reducible exact Keeps.refl _ | with_reducible apply State.issue_keeps

theorem execKStepDone_keeps (q : QueueNo) (index : Word32) (cluster : ClusterNo) (ok : Bool)
    {s t : State} (h : execKStepDone q index cluster ok s = .next t) : Keeps s t := .next h <| by
  have h0 := Keeps.refl s
  repeat' first
    | with_reducible assumption | intro _ | with_reducible exact Keeps.refl _ | with_reducible apply State.kStep_keeps

theorem execUnderstudyRestart_keeps (failed : ClusterNo)
    {s t : State} (h : execUnderstudyRestart failed s = .next t) : Keeps s t := .next h <| by
  have h0 := Keeps.refl s
  repeat' first
    | with_reducible assumption | intro _ | with_reducible exact Keeps.refl _ | with_reducible apply State.restartDone_keeps

theorem execMove_keeps (q : QueueNo) {s t : State} (h : execMove q s = .next t) : Keeps s t := .next h <| by
  have h0 := Keeps.refl s
  repeat' first
    | with_reducible assumption | intro _ | with_reducible exact Keeps.refl _ | with_reducible apply State.issue_keeps

theorem execFill_keeps (q : QueueNo) {s t : State} (h : execFill q s = .next t) : Keeps s t := .next h <| by
  have h0 := Keeps.refl s
  repeat' first
    | with_reducible assumption | intro _ | with_reducible exact Keeps.refl _ | with_reducible apply State.issue_keeps

theorem execGather_keeps (q : QueueNo) {s t : State} (h : execGather q s = .next t) : Keeps s t := .next h <| by
  have h0 := Keeps.refl s
  repeat' first
    | with_reducible assumption | intro _ | with_reducible exact Keeps.refl _ | with_reducible apply State.issue_keeps

theorem execScatter_keeps (q : QueueNo) {s t : State} (h : execScatter q s = .next t) : Keeps s t := .next h <| by
  have h0 := Keeps.refl s
  repeat' first
    | with_reducible assumption | intro _ | with_reducible exact Keeps.refl _ | with_reducible apply State.issue_keeps

theorem execPush_keeps (q : QueueNo) {s t : State} (h : execPush q s = .next t) : Keeps s t := .next h <| by
  have h0 := Keeps.refl s
  repeat' first
    | with_reducible assumption | intro _ | with_reducible exact Keeps.refl _ | with_reducible apply State.issue_keeps

theorem execPop_keeps (q : QueueNo) {s t : State} (h : execPop q s = .next t) : Keeps s t := .next h <| by
  have h0 := Keeps.refl s
  repeat' first
    | with_reducible assumption | intro _ | with_reducible exact Keeps.refl _ | with_reducible apply State.issue_keeps

theorem execFifoUnitBegin_keeps (q : QueueNo) {s t : State} (h : execFifoUnitBegin q s = .next t) : Keeps s t := .next h <| by
  have h0 := Keeps.refl s
  repeat' first
    | with_reducible assumption | intro _ | with_reducible exact Keeps.refl _ | with_reducible apply Keeps.clocked
    | with_reducible apply State.beginUnit_keeps

theorem execWorkAreaPlace_keeps (q : QueueNo) {s t : State} (h : execWorkAreaPlace q s = .next t) : Keeps s t := .next h <| by
  have h0 := Keeps.refl s
  repeat' first
    | with_reducible assumption | intro _ | with_reducible exact Keeps.refl _ | with_reducible apply Keeps.clocked
    | with_reducible apply State.placeWaiting_keeps

theorem execPrefetch_keeps (q : QueueNo) {s t : State} (h : execPrefetch q s = .next t) : Keeps s t := .next h <| by
  have h0 := Keeps.refl s
  repeat' first
    | with_reducible assumption | intro _ | with_reducible exact Keeps.refl _ | with_reducible apply State.issue_keeps

theorem execClean_keeps (q : QueueNo) {s t : State} (h : execClean q s = .next t) : Keeps s t := .next h <| by
  have h0 := Keeps.refl s
  repeat' first
    | with_reducible assumption | intro _ | with_reducible exact Keeps.refl _ | with_reducible apply State.issue_keeps

theorem execRunLoad_keeps (q : QueueNo) {s t : State} (h : execRunLoad q s = .next t) : Keeps s t := .next h <| by
  have h0 := Keeps.refl s
  repeat' first
    | with_reducible assumption | intro _ | with_reducible exact Keeps.refl _ | with_reducible apply State.issue_keeps

theorem execRunMark_keeps (q : QueueNo) {s t : State} (h : execRunMark q s = .next t) : Keeps s t := .next h <| by
  have h0 := Keeps.refl s
  repeat' first
    | with_reducible assumption | intro _ | with_reducible exact Keeps.refl _ | with_reducible apply State.issue_keeps

theorem execRunWait_keeps (q : QueueNo) {s t : State} (h : execRunWait q s = .next t) : Keeps s t := .next h <| by
  have h0 := Keeps.refl s
  repeat' first
    | with_reducible assumption | intro _ | with_reducible exact Keeps.refl _ | with_reducible apply State.issue_keeps

theorem execRunEntryDone_keeps (q : QueueNo) (entry : Nat) (event : Word16)
    {s t : State} (h : execRunEntryDone q entry event s = .next t) : Keeps s t := .next h <| by
  have h0 := Keeps.refl s
  repeat' first
    | with_reducible assumption | intro _ | with_reducible exact Keeps.refl _ | with_reducible apply Keeps.clocked
    | with_reducible apply State.settle_keeps | with_reducible apply State.entryDone_keeps

theorem execAtom_keeps (q : QueueNo) {s t : State} (h : execAtom q s = .next t) : Keeps s t := .next h <| by
  have h0 := Keeps.refl s
  repeat' first
    | with_reducible assumption | intro _ | with_reducible exact Keeps.refl _ | with_reducible apply State.issue_keeps

theorem execAtomCas_keeps (q : QueueNo) {s t : State} (h : execAtomCas q s = .next t) : Keeps s t := .next h <| by
  have h0 := Keeps.refl s
  repeat' first
    | with_reducible assumption | intro _ | with_reducible exact Keeps.refl _ | with_reducible apply State.issue_keeps

theorem execOptAdamw_keeps (q : QueueNo) {s t : State} (h : execOptAdamw q s = .next t) : Keeps s t := .next h <| by
  have h0 := Keeps.refl s
  repeat' first
    | with_reducible assumption | intro _ | with_reducible exact Keeps.refl _ | with_reducible apply State.issue_keeps

theorem execOptLion_keeps (q : QueueNo) {s t : State} (h : execOptLion q s = .next t) : Keeps s t := .next h <| by
  have h0 := Keeps.refl s
  repeat' first
    | with_reducible assumption | intro _ | with_reducible exact Keeps.refl _ | with_reducible apply State.issue_keeps

theorem execOptSgdm_keeps (q : QueueNo) {s t : State} (h : execOptSgdm q s = .next t) : Keeps s t := .next h <| by
  have h0 := Keeps.refl s
  repeat' first
    | with_reducible assumption | intro _ | with_reducible exact Keeps.refl _ | with_reducible apply State.issue_keeps

theorem execSealWrite_keeps (q : QueueNo) {s t : State} (h : execSealWrite q s = .next t) : Keeps s t := .next h <| by
  have h0 := Keeps.refl s
  repeat' first
    | with_reducible assumption | intro _ | with_reducible exact Keeps.refl _ | with_reducible apply Keeps.clocked
    | with_reducible apply State.writeSeal_keeps | with_reducible apply State.follow_keeps

theorem execCastLoad_keeps (q : QueueNo) {s t : State} (h : execCastLoad q s = .next t) : Keeps s t := .next h <| by
  have h0 := Keeps.refl s
  repeat' first
    | with_reducible assumption | intro _ | with_reducible exact Keeps.refl _ | with_reducible apply State.issue_keeps

theorem execCastRead_keeps (q : QueueNo) {s t : State} (h : execCastRead q s = .next t) : Keeps s t := .next h <| by
  have h0 := Keeps.refl s
  repeat' first
    | with_reducible assumption | intro _ | with_reducible exact Keeps.refl _ | with_reducible apply State.issue_keeps

theorem execDecodeAttn_keeps (q : QueueNo) {s t : State} (h : execDecodeAttn q s = .next t) : Keeps s t := .next h <| by
  have h0 := Keeps.refl s
  repeat' first
    | with_reducible assumption | intro _ | with_reducible exact Keeps.refl _ | with_reducible apply State.issue_keeps

theorem execInstructionRetire_keeps (q : QueueNo) {s t : State} (h : execInstructionRetire q s = .next t) : Keeps s t := .next h <| by
  have h0 := Keeps.refl s
  repeat' first
    | with_reducible assumption | intro _ | with_reducible exact Keeps.refl _ | with_reducible apply Keeps.clocked
    | with_reducible apply State.settle_keeps | with_reducible apply State.retireOldest_keeps | with_reducible apply State.follow_keeps

theorem execWaitBudgetExpiry_keeps (q : QueueNo) {s t : State} (h : execWaitBudgetExpiry q s = .next t) : Keeps s t := .next h <| by
  have h0 := Keeps.refl s
  repeat' first
    | with_reducible assumption | intro _ | with_reducible exact Keeps.refl _ | with_reducible apply Keeps.clocked
    | with_reducible apply State.settle_keeps | with_reducible apply State.expireWait_keeps

theorem execHoldBudgetExpiry_keeps (p : PartNo) {s t : State} (h : execHoldBudgetExpiry p s = .next t) : Keeps s t := .next h <| by
  have h0 := Keeps.refl s
  repeat' first
    | with_reducible assumption | intro _ | with_reducible exact Keeps.refl _ | with_reducible apply Keeps.clocked
    | with_reducible apply State.settle_keeps | with_reducible apply State.expireHold_keeps

theorem execCueTick_keeps {s t : State} (h : execCueTick s = .next t) : Keeps s t := .next h <| by
  have h0 := Keeps.refl s
  repeat' first
    | with_reducible assumption | intro _ | with_reducible exact Keeps.refl _ | with_reducible apply State.cueEdge_keeps
    | with_reducible refine Keeps.setMem _ ?_ (fun h => h) | with_reducible refine Keeps.setShep _ ?_ (fun h => h)
    | with_reducible apply Keeps.ite | with_reducible apply Keeps.ite_fst | with_reducible apply Keeps.ite_snd

theorem execCueInEdge_keeps {s t : State} (h : execCueInEdge s = .next t) : Keeps s t := .next h <| by
  have h0 := Keeps.refl s
  repeat' first
    | with_reducible assumption | intro _ | with_reducible exact Keeps.refl _ | with_reducible apply State.cueEdge_keeps
    | with_reducible refine Keeps.setMem _ ?_ (fun h => h) | with_reducible refine Keeps.setShep _ ?_ (fun h => h)
    | with_reducible apply Keeps.ite | with_reducible apply Keeps.ite_fst | with_reducible apply Keeps.ite_snd

theorem execDoorbell_keeps (fn : FnNo) (number : Nat) (value : Word64)
    {s t : State} (h : execDoorbell fn number value s = .next t) : Keeps s t := .next h <| by
  have h0 := Keeps.refl s
  repeat' first
    | with_reducible assumption | intro _ | with_reducible exact Keeps.refl _ | with_reducible apply State.byHost_keeps
    | with_reducible apply State.doorbell_keeps

theorem execQueueEnable_keeps (q : QueueNo) {s t : State} (h : execQueueEnable q s = .next t) : Keeps s t := .next h <| by
  have h0 := Keeps.refl s
  repeat' first
    | with_reducible assumption | intro _ | with_reducible exact Keeps.refl _ | with_reducible apply State.byHost_keeps
    | with_reducible apply State.enableQueue_keeps

theorem execQueueDisable_keeps (q : QueueNo) {s t : State} (h : execQueueDisable q s = .next t) : Keeps s t := .next h <| by
  have h0 := Keeps.refl s
  repeat' first
    | with_reducible assumption | intro _ | with_reducible exact Keeps.refl _ | with_reducible apply State.byHost_keeps
    | with_reducible apply State.disableQueue_keeps | with_reducible refine Keeps.setMem _ ?_ (fun h => h)
    | with_reducible refine Keeps.setShep _ ?_ (fun h => h) | with_reducible apply Keeps.ite | with_reducible apply Keeps.ite_fst
    | with_reducible apply Keeps.ite_snd

theorem execQctrlResume_keeps (q : QueueNo) {s t : State} (h : execQctrlResume q s = .next t) : Keeps s t := .next h <| by
  have h0 := Keeps.refl s
  repeat' first
    | with_reducible assumption | intro _ | with_reducible exact Keeps.refl _ | with_reducible apply State.byHost_keeps
    | with_reducible apply State.resumeQueue_keeps

theorem execParEnable_keeps (p : PartNo) {s t : State} (h : execParEnable p s = .next t) : Keeps s t := .next h <| by
  have h0 := Keeps.refl s
  repeat' first
    | with_reducible assumption | intro _ | with_reducible exact Keeps.refl _ | with_reducible apply State.byHost_keeps
    | with_reducible apply State.enablePart_keeps

theorem execParEnableDone_keeps (p : PartNo) {s t : State} (h : execParEnableDone p s = .next t) : Keeps s t := .next h <| by
  have h0 := Keeps.refl s
  repeat' first
    | with_reducible assumption | intro _ | with_reducible exact Keeps.refl _ | with_reducible apply State.enableDone_keeps

theorem execParDisable_keeps (p : PartNo) {s t : State} (h : execParDisable p s = .next t) : Keeps s t := .next h <| by
  have h0 := Keeps.refl s
  repeat' first
    | with_reducible assumption | intro _ | with_reducible exact Keeps.refl _ | with_reducible apply State.byHost_keeps
    | with_reducible apply State.disablePart_keeps

theorem execParReset_keeps (p : PartNo) {s t : State} (h : execParReset p s = .next t) : Keeps s t := .next h <| by
  have h0 := Keeps.refl s
  repeat' first
    | with_reducible assumption | intro _ | with_reducible exact Keeps.refl _ | with_reducible apply State.byHost_keeps
    | with_reducible apply State.triggerReset_keeps

theorem execParResetDone_keeps (p : PartNo) {s t : State} (h : execParResetDone p s = .next t) : Keeps s t := .next h <| by
  have h0 := Keeps.refl s
  repeat' first
    | with_reducible assumption | intro _ | with_reducible exact Keeps.refl _ | with_reducible apply State.resetDone_keeps

theorem execParLockAcq_keeps (p : PartNo) (agent : Requester)
    {s t : State} (h : execParLockAcq p agent s = .next t) : Keeps s t := .next h <| by
  have h0 := Keeps.refl s
  repeat' first
    | with_reducible assumption | intro _ | with_reducible exact Keeps.refl _ | with_reducible apply State.byAgent_keeps
    | with_reducible apply State.takeLock_keeps

theorem execParLockCommit_keeps (p : PartNo) (agent : Requester)
    {s t : State} (h : execParLockCommit p agent s = .next t) : Keeps s t := .next h <| by
  have h0 := Keeps.refl s
  repeat' first
    | with_reducible assumption | intro _ | with_reducible exact Keeps.refl _ | with_reducible apply State.byAgent_keeps
    | with_reducible apply State.commitBy_keeps

theorem execParLockAbort_keeps (p : PartNo) (agent : Requester)
    {s t : State} (h : execParLockAbort p agent s = .next t) : Keeps s t := .next h <| by
  have h0 := Keeps.refl s
  repeat' first
    | with_reducible assumption | intro _ | with_reducible exact Keeps.refl _ | with_reducible apply State.byAgent_keeps
    | with_reducible apply State.abortBy_keeps

theorem execLockLeaseExpiry_keeps (p : PartNo) {s t : State} (h : execLockLeaseExpiry p s = .next t) : Keeps s t := .next h <| by
  have h0 := Keeps.refl s
  repeat' first
    | with_reducible assumption | intro _ | with_reducible exact Keeps.refl _ | with_reducible apply State.expireLease_keeps

theorem execFunctionLevelReset_keeps (fn : FnNo) {s t : State} (h : execFunctionLevelReset fn s = .next t) : Keeps s t := .next h <| by
  have h0 := Keeps.refl s
  repeat' first
    | with_reducible assumption | intro _ | with_reducible exact Keeps.refl _ | with_reducible apply State.byHost_keeps
    | with_reducible apply State.resetFunction_keeps

theorem execD3hotEntry_keeps (fn : FnNo) {s t : State} (h : execD3hotEntry fn s = .next t) : Keeps s t := .next h <| by
  have h0 := Keeps.refl s
  repeat' first
    | with_reducible assumption | intro _ | with_reducible exact Keeps.refl _ | with_reducible apply State.byHost_keeps
    | with_reducible apply State.enterD3_keeps

theorem execHotReset_keeps {s t : State} (h : execHotReset s = .next t) : Keeps s t := .next h <| by
  have h0 := Keeps.refl s
  repeat' first
    | with_reducible assumption | intro _ | with_reducible exact Keeps.refl _ | with_reducible apply State.byHost_keeps
    | with_reducible apply State.hotReset_keeps

theorem execPerstNAssert_keeps {s t : State} (h : execPerstNAssert s = .next t) : Keeps s t := .next h <| by
  have h0 := Keeps.refl s
  repeat' first
    | with_reducible assumption | intro _ | with_reducible exact Keeps.refl _ | with_reducible apply State.fundamental_keeps

theorem execPerstNRise_keeps {s t : State} (h : execPerstNRise s = .next t) : Keeps s t := .next h <| by
  have h0 := Keeps.refl s
  repeat' first
    | with_reducible assumption | intro _ | with_reducible exact Keeps.refl _ | with_reducible apply State.perstUp_keeps

theorem execPorNAssert_keeps {s t : State} (h : execPorNAssert s = .next t) : Keeps s t := .next h <| by
  have h0 := Keeps.refl s
  repeat' first
    | with_reducible assumption | intro _ | with_reducible exact Keeps.refl _ | with_reducible apply State.powerOnReset_keeps

theorem execColdStart_keeps (straps : BitVec 2) {s t : State} (h : execColdStart straps s = .next t) : Keeps s t :=
  .next h ((State.restart_keeps false (Keeps.refl s)).other rfl rfl rfl rfl rfl rfl rfl rfl rfl rfl rfl rfl rfl rfl rfl)

theorem execTrstNAssert_keeps {s t : State} (h : execTrstNAssert s = .next t) : Keeps s t := .next h <| by
  have h0 := Keeps.refl s
  repeat' first
    | with_reducible assumption

theorem execBar4Write_keeps (fn : FnNo) (offset : Nat) (data : Bytes)
    {s t : State} (h : execBar4Write fn offset data s = .next t) : Keeps s t := .next h <| by
  have h0 := Keeps.refl s
  repeat' first
    | with_reducible assumption | intro _ | with_reducible exact Keeps.refl _ | with_reducible apply State.byHost_keeps
    | with_reducible apply State.refuseFn_keeps | with_reducible apply State.touch_keeps | with_reducible apply State.writeTier_keeps
    | with_reducible refine Keeps.setMem _ ?_ (fun h => h) | with_reducible refine Keeps.setShep _ ?_ (fun h => h)
    | with_reducible apply Keeps.ite
    | with_reducible refine Keeps.setMem _ ?_ (fun h => ⟨h.1, h.2.1, h.2.2.1, h.2.2.2.1, h.2.2.2.2.1, h.2.2.2.2.2.1,
        ⟨List.Pairwise.nil, fun _ hx => absurd hx List.not_mem_nil⟩, h.2.2.2.2.2.2.2⟩)
    | split

theorem execBar4Read_keeps (fn : FnNo) (offset : Nat) (len : Nat)
    {s t : State} (h : execBar4Read fn offset len s = .next t) : Keeps s t := .next h <| by
  have h0 := Keeps.refl s
  repeat' first
    | with_reducible assumption | intro _ | with_reducible exact Keeps.refl _ | with_reducible apply Keeps.emit
    | with_reducible apply State.byHost_keeps | with_reducible apply State.refuseFn_keeps | with_reducible apply State.touch_keeps
    | with_reducible refine Keeps.setMem _ ?_ (fun h => h) | with_reducible refine Keeps.setShep _ ?_ (fun h => h)
    | with_reducible apply Keeps.ite
    | with_reducible refine Keeps.setMem _ ?_ (fun h => ⟨h.1, h.2.1, h.2.2.1, h.2.2.2.1, h.2.2.2.2.1, h.2.2.2.2.2.1,
        ⟨List.Pairwise.nil, fun _ hx => absurd hx List.not_mem_nil⟩, h.2.2.2.2.2.2.2⟩)
    | with_reducible apply Keeps.ite_fst | with_reducible apply Keeps.ite_snd | split

theorem execRegisterWrite_keeps (who : Requester) (offset : Nat) (value : Word32)
    {s t : State} (h : execRegisterWrite who offset value s = .next t) : Keeps s t := .next h <| by
  have h0 := Keeps.refl s
  repeat' first
    | with_reducible assumption | intro _ | with_reducible exact Keeps.refl _ | with_reducible apply State.writeAt_keeps
    | with_reducible refine Keeps.setMem _ ?_ (fun h => h) | with_reducible refine Keeps.setShep _ ?_ (fun h => h)
    | with_reducible apply Keeps.ite | with_reducible apply Keeps.ite_fst | with_reducible apply Keeps.ite_snd

theorem execLoReadLatch_keeps (who : Requester) (offset : Nat)
    {s t : State} (h : execLoReadLatch who offset s = .next t) : Keeps s t := .next h <| by
  have h0 := Keeps.refl s
  repeat' first
    | with_reducible assumption | intro _ | with_reducible exact Keeps.refl _ | with_reducible apply State.readAt_keeps
    | with_reducible refine Keeps.setMem _ ?_ (fun h => h) | with_reducible refine Keeps.setShep _ ?_ (fun h => h)
    | with_reducible apply Keeps.ite | with_reducible apply Keeps.ite_fst | with_reducible apply Keeps.ite_snd

theorem execSnapGo_keeps {s t : State} (h : execSnapGo s = .next t) : Keeps s t := .next h <| by
  have h0 := Keeps.refl s
  repeat' first
    | with_reducible assumption | intro _ | with_reducible exact Keeps.refl _ | with_reducible apply State.byHost_keeps
    | with_reducible apply State.snap_keeps

theorem execTapSnap_keeps {s t : State} (h : execTapSnap s = .next t) : Keeps s t := .next h <| by
  have h0 := Keeps.refl s
  repeat' first
    | with_reducible assumption | intro _ | with_reducible exact Keeps.refl _ | with_reducible apply Keeps.clocked
    | with_reducible apply State.snap_keeps

theorem execSnapCapture_keeps {s t : State} (h : execSnapCapture s = .next t) : Keeps s t := .next h <| by
  have h0 := Keeps.refl s
  repeat' first
    | with_reducible assumption | intro _ | with_reducible exact Keeps.refl _ | with_reducible apply Keeps.clocked
    | with_reducible apply State.capture_keeps

theorem execBookCommit_keeps {s t : State} (h : execBookCommit s = .next t) : Keeps s t := .next h <| by
  have h0 := Keeps.refl s
  repeat' first
    | with_reducible assumption | intro _ | with_reducible exact Keeps.refl _ | with_reducible apply State.byHost_keeps
    | with_reducible apply State.commitBook_keeps

theorem execBookCommitDone_keeps {s t : State} (h : execBookCommitDone s = .next t) : Keeps s t := .next h <| by
  have h0 := Keeps.refl s
  repeat' first
    | with_reducible assumption | intro _ | with_reducible exact Keeps.refl _ | with_reducible apply Keeps.clocked
    | with_reducible apply State.bookDone_keeps

theorem execCrcEnable_keeps {s t : State} (h : execCrcEnable s = .next t) : Keeps s t := .next h <| by
  have h0 := Keeps.refl s
  repeat' first
    | with_reducible assumption | intro _ | with_reducible exact Keeps.refl _ | with_reducible apply State.byHost_keeps
    | with_reducible apply State.crcOn_keeps

theorem execCrcCommit_keeps {s t : State} (h : execCrcCommit s = .next t) : Keeps s t := .next h <| by
  have h0 := Keeps.refl s
  repeat' first
    | with_reducible assumption | intro _ | with_reducible exact Keeps.refl _ | with_reducible apply State.byHost_keeps
    | with_reducible apply State.crcTake_keeps

theorem execCrcPassEnd_keeps {s t : State} (h : execCrcPassEnd s = .next t) : Keeps s t := .next h <| by
  have h0 := Keeps.refl s
  repeat' first
    | with_reducible assumption | intro _ | with_reducible exact Keeps.refl _ | with_reducible apply Keeps.clocked
    | with_reducible apply State.crcPass_keeps

theorem execEvtRingEnable_keeps {s t : State} (h : execEvtRingEnable s = .next t) : Keeps s t := .next h <| by
  have h0 := Keeps.refl s
  repeat' first
    | with_reducible assumption | intro _ | with_reducible exact Keeps.refl _ | with_reducible apply State.byHost_keeps
    | with_reducible apply State.evtOn_keeps

theorem execHbcEnable_keeps {s t : State} (h : execHbcEnable s = .next t) : Keeps s t := .next h <| by
  have h0 := Keeps.refl s
  repeat' first
    | with_reducible assumption | intro _ | with_reducible exact Keeps.refl _ | with_reducible apply State.byHost_keeps
    | with_reducible apply State.hbcOn_keeps

theorem execCacEnable_keeps {s t : State} (h : execCacEnable s = .next t) : Keeps s t := .next h <| by
  have h0 := Keeps.refl s
  repeat' first
    | with_reducible assumption | intro _ | with_reducible exact Keeps.refl _ | with_reducible apply State.byHost_keeps
    | with_reducible apply State.cacOn_keeps

theorem execOxlEnable_keeps {s t : State} (h : execOxlEnable s = .next t) : Keeps s t := .next h <| by
  have h0 := Keeps.refl s
  repeat' first
    | with_reducible assumption | intro _ | with_reducible exact Keeps.refl _ | with_reducible apply State.byHost_keeps
    | with_reducible apply State.oxlOn_keeps

theorem execPattern_keeps {s t : State} (h : execPattern s = .next t) : Keeps s t := .next h <| by
  have h0 := Keeps.refl s
  repeat' first
    | with_reducible assumption | intro _ | with_reducible exact Keeps.refl _ | with_reducible apply State.byHost_keeps
    | with_reducible apply State.rehearseMode_keeps

theorem execMarch_keeps {s t : State} (h : execMarch s = .next t) : Keeps s t := .next h <| by
  have h0 := Keeps.refl s
  repeat' first
    | with_reducible assumption | intro _ | with_reducible exact Keeps.refl _ | with_reducible apply State.byHost_keeps
    | with_reducible apply State.rehearseMode_keeps

theorem execTraffic_keeps {s t : State} (h : execTraffic s = .next t) : Keeps s t := .next h <| by
  have h0 := Keeps.refl s
  repeat' first
    | with_reducible assumption | intro _ | with_reducible exact Keeps.refl _ | with_reducible apply State.byHost_keeps
    | with_reducible apply State.rehearseMode_keeps

theorem execRehearsalDone_keeps (outcome : RehOutcome) {s t : State} (h : execRehearsalDone outcome s = .next t) : Keeps s t := .next h <| by
  have h0 := Keeps.refl s
  repeat' first
    | with_reducible assumption | intro _ | with_reducible exact Keeps.refl _ | with_reducible apply State.rehearsalEnds_keeps

theorem execScrubSector_keeps (chan : ChanNo) (addr : Nat) (outcome : ScrubOutcome)
    {s t : State} (h : execScrubSector chan addr outcome s = .next t) : Keeps s t := .next h <| by
  have h0 := Keeps.refl s
  repeat' first
    | with_reducible assumption | intro _ | with_reducible exact Keeps.refl _ | with_reducible apply State.scrub_keeps
    | with_reducible apply State.settle_keeps

theorem execCacheScrub_keeps (slice : DieNo) (way : Fin 18) (addr : Nat) (outcome : ScrubOutcome)
    {s t : State} (h : execCacheScrub slice way addr outcome s = .next t) : Keeps s t := .next h <| by
  have h0 := Keeps.refl s
  repeat' first
    | with_reducible assumption | intro _ | with_reducible exact Keeps.refl _ | with_reducible apply State.scrubLine_keeps

theorem execCorrHourRollover_keeps {s t : State} (h : execCorrHourRollover s = .next t) : Keeps s t := .next h <| by
  have h0 := Keeps.refl s
  repeat' first
    | with_reducible assumption | intro _ | with_reducible exact Keeps.refl _ | with_reducible apply Keeps.over
    | with_reducible apply State.setFld_keeps | with_reducible refine Keeps.setMem _ ?_ (fun h => h)
    | with_reducible refine Keeps.setShep _ ?_ (fun h => h) | with_reducible apply Keeps.ite
    | with_reducible refine Keeps.setMem _ ?_ (fun h => ⟨h.1, h.2.1, h.2.2.1, h.2.2.2.1, h.2.2.2.2.1, h.2.2.2.2.2.1,
        ⟨List.Pairwise.nil, fun _ hx => absurd hx List.not_mem_nil⟩, h.2.2.2.2.2.2.2⟩)

theorem execLsRowReplace_keeps (cluster : ClusterNo) (fault : RowFault)
    {s t : State} (h : execLsRowReplace cluster fault s = .next t) : Keeps s t := .next h <| by
  have h0 := Keeps.refl s
  repeat' first
    | with_reducible assumption | intro _ | with_reducible exact Keeps.refl _ | with_reducible apply State.replaceRow_keeps
    | with_reducible apply State.rowShows_keeps

theorem execClusterDeclaredFailed_keeps (cluster : ClusterNo)
    {s t : State} (h : execClusterDeclaredFailed cluster s = .next t) : Keeps s t := .next h <| by
  have h0 := Keeps.refl s
  repeat' first
    | with_reducible assumption | intro _ | with_reducible exact Keeps.refl _ | with_reducible apply State.declareOut_keeps

theorem execCacheWayReplace_keeps (slice : DieNo) (way : Fin 18)
    {s t : State} (h : execCacheWayReplace slice way s = .next t) : Keeps s t := .next h <| by
  have h0 := Keeps.refl s
  repeat' first
    | with_reducible assumption | intro _ | with_reducible exact Keeps.refl _ | with_reducible apply State.replaceWay_keeps

theorem execHbmLaneRepair_keeps (chan : ChanNo) (kind : HbmRepair)
    {s t : State} (h : execHbmLaneRepair chan kind s = .next t) : Keeps s t := .next h <| by
  have h0 := Keeps.refl s
  repeat' first
    | with_reducible assumption | intro _ | with_reducible exact Keeps.refl _ | with_reducible apply State.stackRepair_keeps

theorem execChannelDrainStart_keeps (chan : ChanNo) {s t : State} (h : execChannelDrainStart chan s = .next t) : Keeps s t := .next h <| by
  have h0 := Keeps.refl s
  repeat' first
    | with_reducible assumption | intro _ | with_reducible exact Keeps.refl _ | with_reducible apply State.settle_keeps
    | with_reducible apply State.beyondRepair_keeps

theorem execChannelDrainDone_keeps {s t : State} (h : execChannelDrainDone s = .next t) : Keeps s t := .next h <| by
  have h0 := Keeps.refl s
  repeat' first
    | with_reducible assumption | intro _ | with_reducible exact Keeps.refl _ | with_reducible apply State.drainDone_keeps
    | with_reducible apply State.settle_keeps

theorem execDataFrame_keeps (port : PortNo) (frame : Frame)
    {s t : State} (h : execDataFrame port frame s = .next t) : Keeps s t := .next h <| by
  have h0 := Keeps.refl s
  repeat' first
    | with_reducible assumption | intro _ | with_reducible exact Keeps.refl _ | with_reducible apply Keeps.clocked
    | with_reducible apply State.dataFrame_keeps

theorem execLinkFrame_keeps (port : PortNo) (frame : Frame) (fields : LinkFields)
    {s t : State} (h : execLinkFrame port frame fields s = .next t) : Keeps s t := .next h <| by
  have h0 := Keeps.refl s
  repeat' first
    | with_reducible assumption | intro _ | with_reducible exact Keeps.refl _ | with_reducible apply Keeps.clocked
    | with_reducible apply State.linkFrame_keeps

theorem execIdleFrame_keeps (port : PortNo) (frame : Frame)
    {s t : State} (h : execIdleFrame port frame s = .next t) : Keeps s t := .next h <| by
  have h0 := Keeps.refl s
  repeat' first
    | with_reducible assumption | intro _ | with_reducible exact Keeps.refl _ | with_reducible apply Keeps.clocked
    | with_reducible apply State.idleFrame_keeps

theorem execFrameAck_keeps (port : PortNo) (fseq : BitVec 12)
    {s t : State} (h : execFrameAck port fseq s = .next t) : Keeps s t := .next h <| by
  have h0 := Keeps.refl s
  repeat' first
    | with_reducible assumption | intro _ | with_reducible exact Keeps.refl _ | with_reducible apply Keeps.clocked
    | with_reducible apply State.ackFrames_keeps | with_reducible refine Keeps.setMem _ ?_ (fun h => h)
    | with_reducible refine Keeps.setShep _ ?_ (fun h => h) | with_reducible apply Keeps.ite | with_reducible apply Keeps.ite_fst
    | with_reducible apply Keeps.ite_snd

theorem execFrameNak_keeps (port : PortNo) (fseq : BitVec 12)
    {s t : State} (h : execFrameNak port fseq s = .next t) : Keeps s t := .next h <| by
  have h0 := Keeps.refl s
  repeat' first
    | with_reducible assumption | intro _ | with_reducible exact Keeps.refl _ | with_reducible apply Keeps.clocked
    | with_reducible apply State.nakFrames_keeps | with_reducible refine Keeps.setMem _ ?_ (fun h => h)
    | with_reducible refine Keeps.setShep _ ?_ (fun h => h) | with_reducible apply Keeps.ite | with_reducible apply Keeps.ite_fst
    | with_reducible apply Keeps.ite_snd

theorem execFrameReplayTimeout_keeps (port : PortNo) (fseq : BitVec 12)
    {s t : State} (h : execFrameReplayTimeout port fseq s = .next t) : Keeps s t := .next h <| by
  have h0 := Keeps.refl s
  repeat' first
    | with_reducible assumption | intro _ | with_reducible exact Keeps.refl _ | with_reducible apply Keeps.clocked
    | with_reducible apply State.replayFrame_keeps | with_reducible refine Keeps.setMem _ ?_ (fun h => h)
    | with_reducible refine Keeps.setShep _ ?_ (fun h => h) | with_reducible apply Keeps.ite | with_reducible apply Keeps.ite_fst
    | with_reducible apply Keeps.ite_snd

theorem execLinkCreditReturn_keeps (port : PortNo) (vc : VcNo) (frames : Nat)
    {s t : State} (h : execLinkCreditReturn port vc frames s = .next t) : Keeps s t := .next h <| by
  have h0 := Keeps.refl s
  repeat' first
    | with_reducible assumption | intro _ | with_reducible exact Keeps.refl _ | with_reducible apply Keeps.clocked
    | with_reducible apply State.creditReturned_keeps

theorem execLaneSwapCommand_keeps (port : PortNo) (lane : LaneNo)
    {s t : State} (h : execLaneSwapCommand port lane s = .next t) : Keeps s t := .next h <| by
  have h0 := Keeps.refl s
  repeat' first
    | with_reducible assumption | intro _ | with_reducible exact Keeps.refl _ | with_reducible apply Keeps.clocked
    | with_reducible apply State.swapCommand_keeps

theorem execLaneSwapDone_keeps (port : PortNo) {s t : State} (h : execLaneSwapDone port s = .next t) : Keeps s t := .next h <| by
  have h0 := Keeps.refl s
  repeat' first
    | with_reducible assumption | intro _ | with_reducible exact Keeps.refl _ | with_reducible apply Keeps.clocked
    | with_reducible apply State.swapDone_keeps

theorem execLaneFault_keeps (port : PortNo) (lane : LaneNo) {s t : State} (h : execLaneFault port lane s = .next t) : Keeps s t := .next h <| by
  have h0 := Keeps.refl s
  repeat' first
    | with_reducible assumption | intro _ | with_reducible exact Keeps.refl _ | with_reducible apply Keeps.clocked
    | with_reducible apply State.laneFails_keeps

theorem execRttProbe_keeps (port : PortNo) (probe : RttProbe)
    {s t : State} (h : execRttProbe port probe s = .next t) : Keeps s t := .next h <| by
  have h0 := Keeps.refl s
  repeat' first
    | with_reducible assumption | intro _ | with_reducible exact Keeps.refl _ | with_reducible apply Keeps.clocked
    | with_reducible apply State.probeIn_keeps

theorem execDelayRemeasure_keeps {s t : State} (h : execDelayRemeasure s = .next t) : Keeps s t := .next h <| by
  have h0 := Keeps.refl s
  repeat' first
    | with_reducible assumption | intro _ | with_reducible exact Keeps.refl _ | with_reducible apply Keeps.clocked
    | with_reducible apply State.remeasure_keeps

theorem execIdentityRecord_keeps (port : PortNo) (record : IdRecord)
    {s t : State} (h : execIdentityRecord port record s = .next t) : Keeps s t := .next h <| by
  have h0 := Keeps.refl s
  repeat' first
    | with_reducible assumption | intro _ | with_reducible exact Keeps.refl _ | with_reducible apply Keeps.clocked
    | with_reducible apply State.identity_keeps

theorem execCueReport_keeps (port : PortNo) (report : CueReport)
    {s t : State} (h : execCueReport port report s = .next t) : Keeps s t := .next h <| by
  have h0 := Keeps.refl s
  repeat' first
    | with_reducible assumption | intro _ | with_reducible exact Keeps.refl _ | with_reducible apply Keeps.clocked
    | with_reducible apply State.cueReportIn_keeps

theorem execParentSilent_keeps {s t : State} (h : execParentSilent s = .next t) : Keeps s t := .next h <| by
  have h0 := Keeps.refl s
  repeat' first
    | with_reducible assumption | intro _ | with_reducible exact Keeps.refl _ | with_reducible apply Keeps.clocked
    | with_reducible apply State.parentSilent_keeps

theorem execPortDetectPoll_keeps (port : PortNo) (signal : Bool)
    {s t : State} (h : execPortDetectPoll port signal s = .next t) : Keeps s t := .next h <| by
  have h0 := Keeps.refl s
  repeat' first
    | with_reducible assumption | intro _ | with_reducible exact Keeps.refl _ | with_reducible apply Keeps.clocked
    | with_reducible apply State.detect_keeps

theorem execEqualiseDone_keeps (port : PortNo) {s t : State} (h : execEqualiseDone port s = .next t) : Keeps s t := .next h <| by
  have h0 := Keeps.refl s
  repeat' first
    | with_reducible assumption | intro _ | with_reducible exact Keeps.refl _ | with_reducible apply Keeps.clocked
    | with_reducible apply State.equalised_keeps

theorem execEqualiseTimeout_keeps (port : PortNo) {s t : State} (h : execEqualiseTimeout port s = .next t) : Keeps s t := .next h <| by
  have h0 := Keeps.refl s
  repeat' first
    | with_reducible assumption | intro _ | with_reducible exact Keeps.refl _ | with_reducible apply Keeps.clocked
    | with_reducible apply State.equaliseLate_keeps

theorem execLaneCheckDone_keeps (port : PortNo) (good : BitVec 9)
    {s t : State} (h : execLaneCheckDone port good s = .next t) : Keeps s t := .next h <| by
  have h0 := Keeps.refl s
  repeat' first
    | with_reducible assumption | intro _ | with_reducible exact Keeps.refl _ | with_reducible apply Keeps.clocked
    | with_reducible apply State.lanesChecked_keeps

theorem execLossOfLock_keeps (port : PortNo) {s t : State} (h : execLossOfLock port s = .next t) : Keeps s t := .next h <| by
  have h0 := Keeps.refl s
  repeat' first
    | with_reducible assumption | intro _ | with_reducible exact Keeps.refl _ | with_reducible apply Keeps.clocked
    | with_reducible apply State.lockLost_keeps

theorem execRetrainDone_keeps (port : PortNo) {s t : State} (h : execRetrainDone port s = .next t) : Keeps s t := .next h <| by
  have h0 := Keeps.refl s
  repeat' first
    | with_reducible assumption | intro _ | with_reducible exact Keeps.refl _ | with_reducible apply Keeps.clocked
    | with_reducible apply State.retrained_keeps

theorem execRetrainTimeout_keeps (port : PortNo) {s t : State} (h : execRetrainTimeout port s = .next t) : Keeps s t := .next h <| by
  have h0 := Keeps.refl s
  repeat' first
    | with_reducible assumption | intro _ | with_reducible exact Keeps.refl _ | with_reducible apply Keeps.clocked
    | with_reducible apply State.retrainLate_keeps

theorem execDownTimer_keeps (port : PortNo) {s t : State} (h : execDownTimer port s = .next t) : Keeps s t := .next h <| by
  have h0 := Keeps.refl s
  repeat' first
    | with_reducible assumption | intro _ | with_reducible exact Keeps.refl _ | with_reducible apply Keeps.clocked
    | with_reducible apply State.downOver_keeps

theorem execPacketRoute_keeps (origin : PacketOrigin) (packet : Packet)
    {s t : State} (h : execPacketRoute origin packet s = .next t) : Keeps s t := .next h <| by
  have h0 := Keeps.refl s
  repeat' first
    | with_reducible assumption | intro _ | with_reducible exact Keeps.refl _ | with_reducible apply Keeps.clocked
    | with_reducible apply State.routePacket_keeps

theorem execEscWaitExpiry_keeps (origin : PacketOrigin) (packet : Packet)
    {s t : State} (h : execEscWaitExpiry origin packet s = .next t) : Keeps s t := .next h <| by
  have h0 := Keeps.refl s
  repeat' first
    | with_reducible assumption | intro _ | with_reducible exact Keeps.refl _ | with_reducible apply Keeps.clocked
    | with_reducible apply State.escapeWait_keeps

theorem execPeerWrite_keeps (src : Word16) (pseq : Word32) (_part : PartNo) (access : PeerAccess) (data : Bytes)
    {s t : State} (h : execPeerWrite src pseq _part access data s = .next t) : Keeps s t := .next h <| by
  have h0 := Keeps.refl s
  repeat' first
    | with_reducible assumption | intro _ | with_reducible exact Keeps.refl _ | with_reducible apply Keeps.clocked
    | with_reducible apply State.peerWriteIn_keeps

theorem execPeerReadRequest_keeps (src : Word16) (pseq : Word32) (_part : PartNo) (access : PeerAccess) (len : Nat)
    {s t : State} (h : execPeerReadRequest src pseq _part access len s = .next t) : Keeps s t := .next h <| by
  have h0 := Keeps.refl s
  repeat' first
    | with_reducible assumption | intro _ | with_reducible exact Keeps.refl _ | with_reducible apply Keeps.clocked
    | with_reducible apply State.peerReadIn_keeps

theorem execPeerReadResponse_keeps (src : Word16) (tag : Word32) (status : PeerStatus) (data : Bytes)
    {s t : State} (h : execPeerReadResponse src tag status data s = .next t) : Keeps s t := .next h <| by
  have h0 := Keeps.refl s
  repeat' first
    | with_reducible assumption | intro _ | with_reducible exact Keeps.refl _ | with_reducible apply Keeps.clocked
    | with_reducible apply State.settle_keeps | with_reducible apply State.peerResponseIn_keeps | with_reducible apply State.follow_keeps

theorem execE2eAck_keeps (src : Word16) (pseq : Word32) (status : PeerStatus)
    {s t : State} (h : execE2eAck src pseq status s = .next t) : Keeps s t := .next h <| by
  have h0 := Keeps.refl s
  repeat' first
    | with_reducible assumption | intro _ | with_reducible exact Keeps.refl _ | with_reducible apply Keeps.clocked
    | with_reducible apply State.e2eAckIn_keeps

theorem execPeerTimeout_keeps (q : QueueNo) (index : Word32)
    {s t : State} (h : execPeerTimeout q index s = .next t) : Keeps s t := .next h <| by
  have h0 := Keeps.refl s
  repeat' first
    | with_reducible assumption | intro _ | with_reducible exact Keeps.refl _ | with_reducible apply Keeps.clocked
    | with_reducible apply State.peerLost_keeps

theorem execMailboxGo_keeps (box : Mailbox) {s t : State} (h : execMailboxGo box s = .next t) : Keeps s t := .next h <| by
  have h0 := Keeps.refl s
  repeat' first
    | with_reducible assumption | intro _ | with_reducible exact Keeps.refl _ | with_reducible apply Keeps.clocked
    | with_reducible apply State.submit_keeps | with_reducible refine Keeps.setMem _ ?_ (fun h => h)
    | with_reducible refine Keeps.setShep _ ?_ (fun h => h) | with_reducible apply Keeps.ite | with_reducible apply Keeps.ite_fst
    | with_reducible apply Keeps.ite_snd

theorem execMailboxTimeout_keeps (box : Mailbox) {s t : State} (h : execMailboxTimeout box s = .next t) : Keeps s t := .next h <| by
  have h0 := Keeps.refl s
  repeat' first
    | with_reducible assumption | intro _ | with_reducible exact Keeps.refl _ | with_reducible apply Keeps.clocked
    | with_reducible apply State.boxTimeout_keeps

theorem execIdent_keeps (box : Mailbox) {s t : State} (h : execIdent box s = .next t) : Keeps s t := .next h <| by
  have h0 := Keeps.refl s
  repeat' first
    | with_reducible assumption | intro _ | with_reducible exact Keeps.refl _ | with_reducible apply Keeps.clocked
    | with_reducible apply State.serve_keeps | with_reducible apply State.doIdent_keeps

theorem execTelemCfg_keeps (box : Mailbox) {s t : State} (h : execTelemCfg box s = .next t) : Keeps s t := .next h <| by
  have h0 := Keeps.refl s
  repeat' first
    | with_reducible assumption | intro _ | with_reducible exact Keeps.refl _ | with_reducible apply Keeps.clocked
    | with_reducible apply State.serve_keeps | with_reducible apply State.doTelemCfg_keeps

theorem execLedgerRead_keeps (box : Mailbox) {s t : State} (h : execLedgerRead box s = .next t) : Keeps s t := .next h <| by
  have h0 := Keeps.refl s
  repeat' first
    | with_reducible assumption | intro _ | with_reducible exact Keeps.refl _ | with_reducible apply Keeps.clocked
    | with_reducible apply State.serve_keeps | with_reducible apply State.doLedgerRead_keeps

theorem execSharesSet_keeps (box : Mailbox) {s t : State} (h : execSharesSet box s = .next t) : Keeps s t := .next h <| by
  have h0 := Keeps.refl s
  repeat' first
    | with_reducible assumption | intro _ | with_reducible exact Keeps.refl _ | with_reducible apply Keeps.clocked
    | with_reducible apply State.serve_keeps | with_reducible apply State.doSharesSet_keeps

theorem execChannelReport_keeps (box : Mailbox) {s t : State} (h : execChannelReport box s = .next t) : Keeps s t := .next h <| by
  have h0 := Keeps.refl s
  repeat' first
    | with_reducible assumption | intro _ | with_reducible exact Keeps.refl _ | with_reducible apply Keeps.clocked
    | with_reducible apply State.serve_keeps | with_reducible apply State.doChannelReport_keeps

theorem execPortMargin_keeps (box : Mailbox) {s t : State} (h : execPortMargin box s = .next t) : Keeps s t := .next h <| by
  have h0 := Keeps.refl s
  repeat' first
    | with_reducible assumption | intro _ | with_reducible exact Keeps.refl _ | with_reducible apply Keeps.clocked
    | with_reducible apply State.serve_keeps | with_reducible apply State.doPortMargin_keeps

theorem execImageWrite_keeps (box : Mailbox) {s t : State} (h : execImageWrite box s = .next t) : Keeps s t := .next h <| by
  have h0 := Keeps.refl s
  repeat' first
    | with_reducible assumption | intro _ | with_reducible exact Keeps.refl _ | with_reducible apply Keeps.clocked
    | with_reducible apply State.serve_keeps | with_reducible apply State.doImageWrite_keeps

theorem execPrompterLog_keeps (box : Mailbox) {s t : State} (h : execPrompterLog box s = .next t) : Keeps s t := .next h <| by
  have h0 := Keeps.refl s
  repeat' first
    | with_reducible assumption | intro _ | with_reducible exact Keeps.refl _ | with_reducible apply Keeps.clocked
    | with_reducible apply State.serve_keeps | with_reducible apply State.doLog_keeps

theorem execTelemWrite_keeps (box : Mailbox) (sampledAll : Bool)
    {s t : State} (h : execTelemWrite box sampledAll s = .next t) : Keeps s t := .next h <| by
  have h0 := Keeps.refl s
  repeat' first
    | with_reducible assumption | intro _ | with_reducible exact Keeps.refl _ | with_reducible apply Keeps.clocked
    | with_reducible apply State.writeTelem_keeps

theorem execTelemStale_keeps {s t : State} (h : execTelemStale s = .next t) : Keeps s t := .next h <| by
  have h0 := Keeps.refl s
  repeat' first
    | with_reducible assumption | intro _ | with_reducible exact Keeps.refl _ | with_reducible apply Keeps.clocked
    | with_reducible apply State.markStale_keeps

theorem execPmtKick_keeps (who : Requester) (value : Word32) {s t : State} (h : execPmtKick who value s = .next t) : Keeps s t := .next h <| by
  have h0 := Keeps.refl s
  repeat' first
    | with_reducible assumption | intro _ | with_reducible exact Keeps.refl _ | with_reducible apply Keeps.clocked
    | with_reducible apply State.kick_keeps

theorem execWatchdogExpiry_keeps {s t : State} (h : execWatchdogExpiry s = .next t) : Keeps s t := .next h <| by
  have h0 := Keeps.refl s
  repeat' first
    | with_reducible assumption | intro _ | with_reducible exact Keeps.refl _ | with_reducible apply Keeps.clocked
    | with_reducible apply State.watchdog_keeps

theorem execPrompterResetRelease_keeps {s t : State} (h : execPrompterResetRelease s = .next t) : Keeps s t := .next h <| by
  have h0 := Keeps.refl s
  repeat' first
    | with_reducible assumption | intro _ | with_reducible exact Keeps.refl _ | with_reducible apply Keeps.clocked
    | with_reducible apply State.releaseCores_keeps

theorem execPrompterBootDone_keeps {s t : State} (h : execPrompterBootDone s = .next t) : Keeps s t := .next h <| by
  have h0 := Keeps.refl s
  repeat' first
    | with_reducible assumption | intro _ | with_reducible exact Keeps.refl _ | with_reducible apply Keeps.clocked
    | with_reducible apply State.booted_keeps

theorem execTempSampleA_keeps (place : HeatPlace) (reading : SensorReading)
    {s t : State} (h : execTempSampleA place reading s = .next t) : Keeps s t := .next h <| by
  have h0 := Keeps.refl s
  repeat' first
    | with_reducible assumption | intro _ | with_reducible exact Keeps.refl _ | with_reducible apply State.tempSample_keeps
    | with_reducible apply State.sampleAt_keeps

theorem execTempSampleB_keeps (place : HeatPlace) (reading : SensorReading)
    {s t : State} (h : execTempSampleB place reading s = .next t) : Keeps s t := .next h <| by
  have h0 := Keeps.refl s
  repeat' first
    | with_reducible assumption | intro _ | with_reducible exact Keeps.refl _ | with_reducible apply State.tempSample_keeps
    | with_reducible apply State.sampleAt_keeps

theorem execSensorDisagree_keeps (fold : FoldNo) {s t : State} (h : execSensorDisagree fold s = .next t) : Keeps s t := .next h <| by
  have h0 := Keeps.refl s
  repeat' first
    | with_reducible assumption | intro _ | with_reducible exact Keeps.refl _ | with_reducible apply Keeps.clocked
    | with_reducible apply State.sensorsDisagree_keeps

theorem execCurrentWarn_keeps (reading : RailCurrent)
    {s t : State} (h : execCurrentWarn reading s = .next t) : Keeps s t := .next h <| by
  have h0 := Keeps.refl s
  repeat' first
    | with_reducible assumption | intro _ | with_reducible exact Keeps.refl _ | with_reducible apply Keeps.clocked
    | with_reducible apply State.currentWarn_keeps

theorem execCurrentLimit_keeps (reading : RailCurrent)
    {s t : State} (h : execCurrentLimit reading s = .next t) : Keeps s t := .next h <| by
  have h0 := Keeps.refl s
  repeat' first
    | with_reducible assumption | intro _ | with_reducible exact Keeps.refl _ | with_reducible apply Keeps.clocked
    | with_reducible apply State.currentTrip_keeps

theorem execCurrentRestart_keeps (die : DieNo) {s t : State} (h : execCurrentRestart die s = .next t) : Keeps s t := .next h <| by
  have h0 := Keeps.refl s
  repeat' first
    | with_reducible assumption | intro _ | with_reducible exact Keeps.refl _ | with_reducible apply Keeps.clocked
    | with_reducible apply State.currentRestart_keeps

theorem execCurrentSustained_keeps (reading : RailCurrent)
    {s t : State} (h : execCurrentSustained reading s = .next t) : Keeps s t := .next h <| by
  have h0 := Keeps.refl s
  repeat' first
    | with_reducible assumption | intro _ | with_reducible exact Keeps.refl _ | with_reducible apply Keeps.clocked
    | with_reducible apply State.currentHeld_keeps

theorem execComparatorTest_keeps (rail : CurrentRail) (pass : Bool)
    {s t : State} (h : execComparatorTest rail pass s = .next t) : Keeps s t := .next h <| by
  have h0 := Keeps.refl s
  repeat' first
    | with_reducible assumption | intro _ | with_reducible exact Keeps.refl _ | with_reducible apply Keeps.clocked
    | with_reducible apply State.comparatorTested_keeps

theorem execFlowAlarm_keeps (sample : FlowSample) {s t : State} (h : execFlowAlarm sample s = .next t) : Keeps s t := .next h <| by
  have h0 := Keeps.refl s
  repeat' first
    | with_reducible assumption | intro _ | with_reducible exact Keeps.refl _ | with_reducible apply Keeps.clocked
    | with_reducible apply State.flowAlarm_keeps

theorem execFlowTrip_keeps (sample : FlowSample) {s t : State} (h : execFlowTrip sample s = .next t) : Keeps s t := .next h <| by
  have h0 := Keeps.refl s
  repeat' first
    | with_reducible assumption | intro _ | with_reducible exact Keeps.refl _ | with_reducible apply Keeps.clocked
    | with_reducible apply State.flowTrip_keeps

theorem execFlowZero_keeps (sample : FlowSample) {s t : State} (h : execFlowZero sample s = .next t) : Keeps s t := .next h <| by
  have h0 := Keeps.refl s
  repeat' first
    | with_reducible assumption | intro _ | with_reducible exact Keeps.refl _ | with_reducible apply Keeps.clocked
    | with_reducible apply State.flowZero_keeps

theorem execFlowMeterFail_keeps (sample : FlowSample) {s t : State} (h : execFlowMeterFail sample s = .next t) : Keeps s t := .next h <| by
  have h0 := Keeps.refl s
  repeat' first
    | with_reducible assumption | intro _ | with_reducible exact Keeps.refl _ | with_reducible apply Keeps.clocked
    | with_reducible apply State.meterFails_keeps

theorem execLeakSample_keeps (cable : LeakCable) (ohms : Nat)
    {s t : State} (h : execLeakSample cable ohms s = .next t) : Keeps s t := .next h <| by
  have h0 := Keeps.refl s
  repeat' first
    | with_reducible assumption | intro _ | with_reducible exact Keeps.refl _ | with_reducible apply State.leakSample_keeps

theorem execBankTest_keeps (sample : BankSample) {s t : State} (h : execBankTest sample s = .next t) : Keeps s t := .next h <| by
  have h0 := Keeps.refl s
  repeat' first
    | with_reducible assumption | intro _ | with_reducible exact Keeps.refl _ | with_reducible apply Keeps.clocked
    | with_reducible apply State.bankTest_keeps

theorem execVholdLow_keeps (sample : BankSample) {s t : State} (h : execVholdLow sample s = .next t) : Keeps s t := .next h <| by
  have h0 := Keeps.refl s
  repeat' first
    | with_reducible assumption | intro _ | with_reducible exact Keeps.refl _ | with_reducible apply Keeps.clocked
    | with_reducible apply State.holdLow_keeps

theorem execLockstepMismatch_keeps {s t : State} (h : execLockstepMismatch s = .next t) : Keeps s t := .next h <| by
  have h0 := Keeps.refl s
  repeat' first
    | with_reducible assumption | intro _ | with_reducible exact Keeps.refl _ | with_reducible apply Keeps.clocked
    | with_reducible apply State.lockstepError_keeps

theorem execShepherdRestartDone_keeps {s t : State} (h : execShepherdRestartDone s = .next t) : Keeps s t := .next h <| by
  have h0 := Keeps.refl s
  repeat' first
    | with_reducible assumption | intro _ | with_reducible exact Keeps.refl _ | with_reducible refine Keeps.setMem _ ?_ (fun h => h)
    | with_reducible refine Keeps.setShep _ ?_ (fun h => h)

theorem execVshpLoss_keeps {s t : State} (h : execVshpLoss s = .next t) : Keeps s t := .next h <| by
  have h0 := Keeps.refl s
  repeat' first
    | with_reducible assumption | intro _ | with_reducible exact Keeps.refl _ | with_reducible apply State.shepherdDark_keeps

theorem execLoopSettingRequest_keeps (request : LoopRequest)
    {s t : State} (h : execLoopSettingRequest request s = .next t) : Keeps s t := .next h <| by
  have h0 := Keeps.refl s
  repeat' first
    | with_reducible assumption | intro _ | with_reducible exact Keeps.refl _ | with_reducible apply Keeps.clocked
    | with_reducible apply State.loopRequest_keeps

theorem execOrderlyStopWithdrawn_keeps {s t : State} (h : execOrderlyStopWithdrawn s = .next t) : Keeps s t := .next h <| by
  have h0 := Keeps.refl s
  repeat' first
    | with_reducible assumption | intro _ | with_reducible exact Keeps.refl _ | with_reducible apply State.stopWithdrawn_keeps

theorem execPwrfailNAssert_keeps {s t : State} (h : execPwrfailNAssert s = .next t) : Keeps s t := .next h <| by
  have h0 := Keeps.refl s
  repeat' first
    | with_reducible assumption | intro _ | with_reducible exact Keeps.refl _ | with_reducible apply State.supplyTrigger_keeps
    | with_reducible refine Keeps.setMem _ ?_ (fun h => h) | with_reducible refine Keeps.setShep _ ?_ (fun h => h)

theorem execRailUndervoltage_keeps (reading : RailVoltage)
    {s t : State} (h : execRailUndervoltage reading s = .next t) : Keeps s t := .next h <| by
  have h0 := Keeps.refl s
  repeat' first
    | with_reducible assumption | intro _ | with_reducible exact Keeps.refl _ | with_reducible apply State.supplyTrigger_keeps
    | with_reducible apply Keeps.ite | with_reducible apply Keeps.ite_fst | with_reducible apply Keeps.ite_snd

theorem execCurtainSaveDone_keeps {s t : State} (h : execCurtainSaveDone s = .next t) : Keeps s t := .next h <| by
  have h0 := Keeps.refl s
  repeat' first
    | with_reducible assumption | intro _ | with_reducible exact Keeps.refl _ | with_reducible apply State.saveDone_keeps

theorem execVholdCollapse_keeps {s t : State} (h : execVholdCollapse s = .next t) : Keeps s t := .next h <| by
  have h0 := Keeps.refl s
  repeat' first
    | with_reducible assumption | intro _ | with_reducible exact Keeps.refl _ | with_reducible apply State.vholdCollapse_keeps

theorem execLedgerRecordDone_keeps {s t : State} (h : execLedgerRecordDone s = .next t) : Keeps s t := .next h <| by
  have h0 := Keeps.refl s
  repeat' first
    | with_reducible assumption | intro _ | with_reducible exact Keeps.refl _ | with_reducible apply State.recordDone_keeps

theorem execShepherdSelfTestDone_keeps {s t : State} (h : execShepherdSelfTestDone s = .next t) : Keeps s t := .next h <| by
  have h0 := Keeps.refl s
  repeat' first
    | with_reducible assumption | intro _ | with_reducible exact Keeps.refl _ | with_reducible apply Keeps.clocked
    | with_reducible apply State.selfTested_keeps

theorem execLedgerRecoveryDone_keeps {s t : State} (h : execLedgerRecoveryDone s = .next t) : Keeps s t := .next h <| by
  have h0 := Keeps.refl s
  repeat' first
    | with_reducible assumption | intro _ | with_reducible exact Keeps.refl _ | with_reducible apply Keeps.clocked
    | with_reducible apply State.recover_keeps

theorem execRailsEntry_keeps {s t : State} (h : execRailsEntry s = .next t) : Keeps s t := .next h <| by
  have h0 := Keeps.refl s
  repeat' first
    | with_reducible assumption | intro _ | with_reducible exact Keeps.refl _ | with_reducible apply Keeps.clocked
    | with_reducible apply State.railsEntry_keeps

theorem execVholdWaitTimeout_keeps {s t : State} (h : execVholdWaitTimeout s = .next t) : Keeps s t := .next h <| by
  have h0 := Keeps.refl s
  repeat' first
    | with_reducible assumption | intro _ | with_reducible exact Keeps.refl _ | with_reducible apply Keeps.clocked
    | with_reducible apply State.railsAnyway_keeps

theorem execRailGroupInRange_keeps {s t : State} (h : execRailGroupInRange s = .next t) : Keeps s t := .next h <| by
  have h0 := Keeps.refl s
  repeat' first
    | with_reducible assumption | intro _ | with_reducible exact Keeps.refl _ | with_reducible apply Keeps.clocked
    | with_reducible apply State.groupInRange_keeps

theorem execRailGroupNextEnable_keeps {s t : State} (h : execRailGroupNextEnable s = .next t) : Keeps s t := .next h <| by
  have h0 := Keeps.refl s
  repeat' first
    | with_reducible assumption | intro _ | with_reducible exact Keeps.refl _ | with_reducible apply Keeps.clocked
    | with_reducible apply State.nextGroup_keeps

theorem execRailGroupTimeout_keeps {s t : State} (h : execRailGroupTimeout s = .next t) : Keeps s t := .next h <| by
  have h0 := Keeps.refl s
  repeat' first
    | with_reducible assumption | intro _ | with_reducible exact Keeps.refl _ | with_reducible apply Keeps.clocked
    | with_reducible apply State.groupLate_keeps

theorem execRailRetry_keeps {s t : State} (h : execRailRetry s = .next t) : Keeps s t := .next h <| by
  have h0 := Keeps.refl s
  repeat' first
    | with_reducible assumption | intro _ | with_reducible exact Keeps.refl _ | with_reducible apply Keeps.clocked
    | with_reducible apply State.retryRails_keeps

theorem execBringupDone_keeps (outcome : BringupOutcome) {s t : State} (h : execBringupDone outcome s = .next t) : Keeps s t := .next h <| by
  have h0 := Keeps.refl s
  repeat' first
    | with_reducible assumption | intro _ | with_reducible exact Keeps.refl _ | with_reducible apply Keeps.clocked
    | with_reducible apply State.broughtUp_keeps

theorem execAbsentReceived_keeps (p : PartNo) (absent : AbsentHeader)
    {s t : State} (h : execAbsentReceived p absent s = .next t) : Keeps s t := .next h <| by
  have h0 := Keeps.refl s
  repeat' first
    | with_reducible assumption | intro _ | with_reducible exact Keeps.refl _ | with_reducible apply Keeps.clocked
    | with_reducible apply State.settle_keeps | with_reducible apply State.holdAbsent_keeps

theorem execDecisionCue_keeps (p : PartNo) {s t : State} (h : execDecisionCue p s = .next t) : Keeps s t := .next h <| by
  have h0 := Keeps.refl s
  repeat' first
    | with_reducible assumption | intro _ | with_reducible exact Keeps.refl _ | with_reducible apply Keeps.clocked
    | with_reducible apply State.decisionCue_keeps

theorem execWingsCopyStart_keeps (p : PartNo) {s t : State} (h : execWingsCopyStart p s = .next t) : Keeps s t := .next h <| by
  have h0 := Keeps.refl s
  repeat' first
    | with_reducible assumption | intro _ | with_reducible exact Keeps.refl _ | with_reducible apply Keeps.clocked
    | with_reducible apply State.wingsStart_keeps | with_reducible refine Keeps.setMem _ ?_ (fun h => h)
    | with_reducible refine Keeps.setShep _ ?_ (fun h => h) | with_reducible apply Keeps.ite
    | with_reducible refine Keeps.setMem _ ?_ (fun h => ⟨h.1, h.2.1, h.2.2.1, h.2.2.2.1, h.2.2.2.2.1, h.2.2.2.2.2.1,
        ⟨List.Pairwise.nil, fun _ hx => absurd hx List.not_mem_nil⟩, h.2.2.2.2.2.2.2⟩)
    | with_reducible apply Keeps.ite_fst | with_reducible apply Keeps.ite_snd | split | dsimp only

theorem execWingsCopyDone_keeps (p : PartNo) {s t : State} (h : execWingsCopyDone p s = .next t) : Keeps s t := .next h <| by
  have h0 := Keeps.refl s
  repeat' first
    | with_reducible assumption | intro _ | with_reducible exact Keeps.refl _ | with_reducible apply Keeps.clocked
    | with_reducible apply State.wingsEnd_keeps

theorem execReplayResume_keeps (p : PartNo) {s t : State} (h : execReplayResume p s = .next t) : Keeps s t := .next h <| by
  have h0 := Keeps.refl s
  repeat' first
    | with_reducible assumption | intro _ | with_reducible exact Keeps.refl _ | with_reducible apply Keeps.clocked
    | with_reducible apply State.resumeReplay_keeps

theorem execOxlDisable_keeps {s t : State} (h : execOxlDisable s = .next t) : Keeps s t := .next h <| by
  have h0 := Keeps.refl s
  repeat' first
    | with_reducible assumption | intro _ | with_reducible exact Keeps.refl _ | with_reducible apply State.byHost_keeps
    | with_reducible apply State.oxlOff_keeps

theorem execHbcDisable_keeps {s t : State} (h : execHbcDisable s = .next t) : Keeps s t := .next h <| by
  have h0 := Keeps.refl s
  repeat' first
    | with_reducible assumption | intro _ | with_reducible exact Keeps.refl _ | with_reducible apply State.byHost_keeps
    | with_reducible apply State.hbcOff_keeps

theorem execCrcDisable_keeps {s t : State} (h : execCrcDisable s = .next t) : Keeps s t := .next h <| by
  have h0 := Keeps.refl s
  repeat' first
    | with_reducible assumption | intro _ | with_reducible exact Keeps.refl _ | with_reducible apply State.byHost_keeps
    | with_reducible apply State.crcOff_keeps

theorem execRepairWork_keeps {s t : State} (h : execRepairWork s = .next t) : Keeps s t := .next h <| by
  have h0 := Keeps.refl s
  repeat' first
    | with_reducible assumption | intro _ | with_reducible exact Keeps.refl _ | with_reducible apply Keeps.clocked
    | with_reducible apply State.repairOne_keeps

end Sys2Proof.Machine
end

