-- ==== Sys2Proof/WellFormed.lean ====
section
/-!
DEFINITION. Well-formed commands: what the manual's tables say of the lengths and ranges of the data that a command carries. The
meanings themselves are total, and hold for every command; this says which commands the outside can spell.
-/

namespace Sys2Proof

/-- A length from 1 up to a bound. -/
def inSize (most n : Nat) : Bool := decide (1 ≤ n ∧ n ≤ most)

/-- A frame carries 256 payload bytes (R311). -/
def Frame.wf (f : Frame) : Bool := f.payload.length == 256

/-- A packet of n frames holds its 16-byte header and a body that ends in its last frame (R317). -/
def Packet.wf (k : Packet) : Bool := decide (k.body.length + 16 ≤ 256 * (k.route.frames.toNat + 1))

/-- An identity record names one of 16 ports (R315). -/
def IdRecord.wf (r : IdRecord) : Bool := decide (r.port.toNat < 16)

/-- The fields of a LINK frame: a swap of a data lane, the depth of a cue report, the port of an identity record (R309, R315, R325). -/
def LinkFields.wf (x : LinkFields) : Bool :=
  (x.laneSwap.all fun l => decide (l.val < 8)) && (x.cue.all fun r => decide (r.depth ≤ 31)) && (x.identity.all IdRecord.wf)

/-- A Rehearsal's lists name no channel twice (R213). -/
def RehOutcome.wf (o : RehOutcome) : Bool :=
  decide o.repairedLanes.Nodup && decide o.repairedRows.Nodup && decide o.unrepairable.Nodup

/-- A well-formed command: payload lengths agree with their headers (R141, R161), frames and packets have their sizes (R311, R317), a
PEER access fits a packet of 64 frames (R317, R321), a BAR4 access a PCIe request (R330), a register offset the physical function's BAR0
(R365), a doorbell number the device's queues (R17), a scrubbed place its sector or line (R185, R187). -/
def Instr.wf (i : Instr) : Bool :=
  match i with
  | .nop _ => true
  | .sceneBegin _ => true
  | .sceneBeginRetire _ => true
  | .sceneEnd _ => true
  | .sceneEndRetire _ => true
  | .sceneRun _ => true
  | .preemptOk _ => true
  | .chain _ => true
  | .chainPortCredit _ => true
  | .gateAcq _ => true
  | .gateAcqGrant _ _ => true
  | .gateRel _ => true
  | .hurdle _ => true
  | .hurdleGenerationComplete _ _ => true
  | .cueStamp _ => true
  | .propRead _ => true
  | .queueResume _ => true
  | .mma _ => true
  | .mmaSend _ => true
  | .mmaRsum _ => true
  | .gatherMma _ => true
  | .a2aMma _ => true
  | .mmaA2a _ => true
  | .conv _ => true
  | .apronTileEnd _ => true
  | .attnFwd _ => true
  | .attnBwd _ => true
  | .ringStepBegin _ => true
  | .ringStepEnd _ => true
  | .ringData _ hdr payload => hdr.payloadLen.toNat == payload.length
  | .ringCredit _ hdr => hdr.payloadLen == 0
  | .ringDone _ hdr => hdr.payloadLen == 0
  | .ringPoison _ hdr => hdr.payloadLen == 0
  | .ringAbsent _ hdr => hdr.payloadLen == 0
  | .ringZero _ hdr => hdr.payloadLen == 0
  | .ringSlipExpiry _ _ => true
  | .collReady _ hdr => hdr.payloadLen == 0
  | .collGo _ hdr => hdr.payloadLen == 0
  | .collOpen _ hdr payload => hdr.payloadLen.toNat == payload.length
  | .collCredit _ hdr => hdr.payloadLen == 0
  | .collData _ hdr payload => hdr.payloadLen.toNat == payload.length
  | .collDone _ hdr => hdr.payloadLen == 0
  | .collClose _ hdr => hdr.payloadLen == 0
  | .collPoison _ hdr => hdr.payloadLen == 0
  | .collZero _ hdr => hdr.payloadLen == 0
  | .collAbsent _ hdr => hdr.payloadLen == 0
  | .collSlipExpiry _ _ => true
  | .beacon _ hdr => hdr.payloadLen == 0
  | .beaconSend => true
  | .vadd _ => true
  | .vsub _ => true
  | .vmul _ => true
  | .vfma _ => true
  | .vmax _ => true
  | .vmin _ => true
  | .vcvt _ => true
  | .vscale _ => true
  | .vrsum _ => true
  | .vrmax _ => true
  | .vrsqsum _ => true
  | .exp _ => true
  | .exp2 _ => true
  | .log _ => true
  | .rcp _ => true
  | .rsqrt _ => true
  | .tanh _ => true
  | .sigmoid _ => true
  | .silu _ => true
  | .gelu _ => true
  | .sin _ => true
  | .cos _ => true
  | .gluAct _ => true
  | .softmax _ => true
  | .rmsnorm _ => true
  | .rope _ => true
  | .kStepDone _ _ _ _ => true
  | .understudyRestart _ => true
  | .move _ => true
  | .fill _ => true
  | .gather _ => true
  | .scatter _ => true
  | .push _ => true
  | .pop _ => true
  | .fifoUnitBegin _ => true
  | .workAreaPlace _ => true
  | .prefetch _ => true
  | .clean _ => true
  | .runLoad _ => true
  | .runMark _ => true
  | .runWait _ => true
  | .runEntryDone _ _ _ => true
  | .atom _ => true
  | .atomCas _ => true
  | .optAdamw _ => true
  | .optLion _ => true
  | .optSgdm _ => true
  | .sealWrite _ => true
  | .castLoad _ => true
  | .castRead _ => true
  | .decodeAttn _ => true
  | .instructionRetire _ => true
  | .waitBudgetExpiry _ => true
  | .holdBudgetExpiry _ => true
  | .cueTick => true
  | .cueInEdge => true
  | .doorbell _ number _ => decide (number < 8192)
  | .queueEnable _ => true
  | .queueDisable _ => true
  | .qctrlResume _ => true
  | .parEnable _ => true
  | .parEnableDone _ => true
  | .parDisable _ => true
  | .parReset _ => true
  | .parResetDone _ => true
  | .parLockAcq _ _ => true
  | .parLockCommit _ _ => true
  | .parLockAbort _ _ => true
  | .lockLeaseExpiry _ => true
  | .functionLevelReset _ => true
  | .d3hotEntry _ => true
  | .hotReset => true
  | .perstNAssert => true
  | .perstNRise => true
  | .porNAssert => true
  | .coldStart _ => true
  | .trstNAssert => true
  | .bar4Write _ _ data => inSize 512 data.length
  | .bar4Read _ _ len => inSize 4096 len
  | .registerWrite _ offset _ => decide (offset < 2 ^ 25)
  | .loReadLatch _ offset => decide (offset < 2 ^ 25)
  | .snapGo => true
  | .tapSnap => true
  | .snapCapture => true
  | .bookCommit => true
  | .bookCommitDone => true
  | .crcEnable => true
  | .crcCommit => true
  | .crcPassEnd => true
  | .evtRingEnable => true
  | .hbcEnable => true
  | .cacEnable => true
  | .oxlEnable => true
  | .pattern => true
  | .march => true
  | .traffic => true
  | .rehearsalDone outcome => outcome.wf
  | .scrubSector _ addr _ => decide (addr % 64 = 0)
  | .cacheScrub _ _ addr _ => decide (addr % 64 = 0)
  | .corrHourRollover => true
  | .lsRowReplace _ _ => true
  | .clusterDeclaredFailed _ => true
  | .cacheWayReplace _ _ => true
  | .hbmLaneRepair _ _ => true
  | .channelDrainStart _ => true
  | .channelDrainDone => true
  | .dataFrame _ frame => frame.wf
  | .linkFrame _ frame fields => frame.wf && fields.wf
  | .idleFrame _ frame => frame.wf
  | .frameAck _ _ => true
  | .frameNak _ _ => true
  | .frameReplayTimeout _ _ => true
  | .linkCreditReturn _ _ frames => decide (frames ≤ 4096)
  | .laneSwapCommand _ lane => decide (lane.val < 8)
  | .laneSwapDone _ => true
  | .laneFault _ _ => true
  | .rttProbe _ _ => true
  | .delayRemeasure => true
  | .identityRecord _ record => record.wf
  | .cueReport _ report => decide (report.depth ≤ 31)
  | .parentSilent => true
  | .portDetectPoll _ _ => true
  | .equaliseDone _ => true
  | .equaliseTimeout _ => true
  | .laneCheckDone _ _ => true
  | .lossOfLock _ => true
  | .retrainDone _ => true
  | .retrainTimeout _ => true
  | .downTimer _ => true
  | .packetRoute _ packet => packet.wf
  | .escWaitExpiry _ packet => packet.wf
  | .peerWrite _ _ _ _ data => inSize 16368 data.length
  | .peerReadRequest _ _ _ _ len => inSize 16368 len
  | .peerReadResponse _ _ status data => if status == .done then inSize 16368 data.length else data.isEmpty
  | .e2eAck _ _ _ => true
  | .peerTimeout _ _ => true
  | .mailboxGo _ => true
  | .mailboxTimeout _ => true
  | .ident _ => true
  | .telemCfg _ => true
  | .ledgerRead _ => true
  | .sharesSet _ => true
  | .channelReport _ => true
  | .portMargin _ => true
  | .imageWrite _ => true
  | .prompterLog _ => true
  | .telemWrite _ _ => true
  | .telemStale => true
  | .pmtKick _ _ => true
  | .watchdogExpiry => true
  | .prompterResetRelease => true
  | .prompterBootDone => true
  | .tempSampleA _ _ => true
  | .tempSampleB _ _ => true
  | .sensorDisagree _ => true
  | .currentWarn _ => true
  | .currentLimit _ => true
  | .currentRestart _ => true
  | .currentSustained _ => true
  | .comparatorTest _ _ => true
  | .flowAlarm _ => true
  | .flowTrip _ => true
  | .flowZero _ => true
  | .flowMeterFail _ => true
  | .leakSample _ _ => true
  | .bankTest _ => true
  | .vholdLow _ => true
  | .lockstepMismatch => true
  | .shepherdRestartDone => true
  | .vshpLoss => true
  | .loopSettingRequest _ => true
  | .orderlyStopWithdrawn => true
  | .pwrfailNAssert => true
  | .railUndervoltage _ => true
  | .curtainSaveDone => true
  | .vholdCollapse => true
  | .ledgerRecordDone => true
  | .shepherdSelfTestDone => true
  | .ledgerRecoveryDone => true
  | .railsEntry => true
  | .vholdWaitTimeout => true
  | .railGroupInRange => true
  | .railGroupNextEnable => true
  | .railGroupTimeout => true
  | .railRetry => true
  | .bringupDone outcome => decide outcome.failedClusters.Nodup && decide outcome.unrepairable.Nodup
  | .absentReceived _ _ => true
  | .decisionCue _ => true
  | .wingsCopyStart _ => true
  | .wingsCopyDone _ => true
  | .replayResume _ => true
  | .oxlDisable => true
  | .hbcDisable => true
  | .crcDisable => true
  | .repairWork => true

end Sys2Proof
end

