-- ==== Sys2Proof/Laws/PerInstr.lean ====
section
/-!
SUPPORT. Laws stated constructor by constructor: the rows whose one operand is a queue number are well-formed for every queue.
-/

namespace Sys2Proof.Laws.QueueRows

/-- The queue of a command whose one operand it is. -/
def queueOf (i : Instr) : Option QueueNo :=
  match i with
  | .nop q => some q
  | .sceneBegin q => some q
  | .sceneBeginRetire q => some q
  | .sceneEnd q => some q
  | .sceneEndRetire q => some q
  | .sceneRun _ => none
  | .preemptOk q => some q
  | .chain q => some q
  | .chainPortCredit _ => none
  | .gateAcq q => some q
  | .gateAcqGrant _ _ => none
  | .gateRel q => some q
  | .hurdle q => some q
  | .hurdleGenerationComplete _ _ => none
  | .cueStamp q => some q
  | .propRead q => some q
  | .queueResume q => some q
  | .mma q => some q
  | .mmaSend q => some q
  | .mmaRsum q => some q
  | .gatherMma q => some q
  | .a2aMma q => some q
  | .mmaA2a q => some q
  | .conv q => some q
  | .apronTileEnd _ => none
  | .attnFwd q => some q
  | .attnBwd q => some q
  | .ringStepBegin q => some q
  | .ringStepEnd q => some q
  | .ringData _ _ _ => none
  | .ringCredit _ _ => none
  | .ringDone _ _ => none
  | .ringPoison _ _ => none
  | .ringAbsent _ _ => none
  | .ringZero _ _ => none
  | .ringSlipExpiry _ _ => none
  | .collReady _ _ => none
  | .collGo _ _ => none
  | .collOpen _ _ _ => none
  | .collCredit _ _ => none
  | .collData _ _ _ => none
  | .collDone _ _ => none
  | .collClose _ _ => none
  | .collPoison _ _ => none
  | .collZero _ _ => none
  | .collAbsent _ _ => none
  | .collSlipExpiry _ _ => none
  | .beacon _ _ => none
  | .beaconSend => none
  | .vadd q => some q
  | .vsub q => some q
  | .vmul q => some q
  | .vfma q => some q
  | .vmax q => some q
  | .vmin q => some q
  | .vcvt q => some q
  | .vscale q => some q
  | .vrsum q => some q
  | .vrmax q => some q
  | .vrsqsum q => some q
  | .exp q => some q
  | .exp2 q => some q
  | .log q => some q
  | .rcp q => some q
  | .rsqrt q => some q
  | .tanh q => some q
  | .sigmoid q => some q
  | .silu q => some q
  | .gelu q => some q
  | .sin q => some q
  | .cos q => some q
  | .gluAct q => some q
  | .softmax q => some q
  | .rmsnorm q => some q
  | .rope q => some q
  | .kStepDone _ _ _ _ => none
  | .understudyRestart _ => none
  | .move q => some q
  | .fill q => some q
  | .gather q => some q
  | .scatter q => some q
  | .push q => some q
  | .pop q => some q
  | .fifoUnitBegin q => some q
  | .workAreaPlace q => some q
  | .prefetch q => some q
  | .clean q => some q
  | .runLoad q => some q
  | .runMark q => some q
  | .runWait q => some q
  | .runEntryDone _ _ _ => none
  | .atom q => some q
  | .atomCas q => some q
  | .optAdamw q => some q
  | .optLion q => some q
  | .optSgdm q => some q
  | .sealWrite q => some q
  | .castLoad q => some q
  | .castRead q => some q
  | .decodeAttn q => some q
  | .instructionRetire q => some q
  | .waitBudgetExpiry q => some q
  | .holdBudgetExpiry _ => none
  | .cueTick => none
  | .cueInEdge => none
  | .doorbell _ _ _ => none
  | .queueEnable q => some q
  | .queueDisable q => some q
  | .qctrlResume q => some q
  | .parEnable _ => none
  | .parEnableDone _ => none
  | .parDisable _ => none
  | .parReset _ => none
  | .parResetDone _ => none
  | .parLockAcq _ _ => none
  | .parLockCommit _ _ => none
  | .parLockAbort _ _ => none
  | .lockLeaseExpiry _ => none
  | .functionLevelReset _ => none
  | .d3hotEntry _ => none
  | .hotReset => none
  | .perstNAssert => none
  | .perstNRise => none
  | .porNAssert => none
  | .coldStart _ => none
  | .trstNAssert => none
  | .bar4Write _ _ _ => none
  | .bar4Read _ _ _ => none
  | .registerWrite _ _ _ => none
  | .loReadLatch _ _ => none
  | .snapGo => none
  | .tapSnap => none
  | .snapCapture => none
  | .bookCommit => none
  | .bookCommitDone => none
  | .crcEnable => none
  | .crcCommit => none
  | .crcPassEnd => none
  | .evtRingEnable => none
  | .hbcEnable => none
  | .cacEnable => none
  | .oxlEnable => none
  | .pattern => none
  | .march => none
  | .traffic => none
  | .rehearsalDone _ => none
  | .scrubSector _ _ _ => none
  | .cacheScrub _ _ _ _ => none
  | .corrHourRollover => none
  | .lsRowReplace _ _ => none
  | .clusterDeclaredFailed _ => none
  | .cacheWayReplace _ _ => none
  | .hbmLaneRepair _ _ => none
  | .channelDrainStart _ => none
  | .channelDrainDone => none
  | .dataFrame _ _ => none
  | .linkFrame _ _ _ => none
  | .idleFrame _ _ => none
  | .frameAck _ _ => none
  | .frameNak _ _ => none
  | .frameReplayTimeout _ _ => none
  | .linkCreditReturn _ _ _ => none
  | .laneSwapCommand _ _ => none
  | .laneSwapDone _ => none
  | .laneFault _ _ => none
  | .rttProbe _ _ => none
  | .delayRemeasure => none
  | .identityRecord _ _ => none
  | .cueReport _ _ => none
  | .parentSilent => none
  | .portDetectPoll _ _ => none
  | .equaliseDone _ => none
  | .equaliseTimeout _ => none
  | .laneCheckDone _ _ => none
  | .lossOfLock _ => none
  | .retrainDone _ => none
  | .retrainTimeout _ => none
  | .downTimer _ => none
  | .packetRoute _ _ => none
  | .escWaitExpiry _ _ => none
  | .peerWrite _ _ _ _ _ => none
  | .peerReadRequest _ _ _ _ _ => none
  | .peerReadResponse _ _ _ _ => none
  | .e2eAck _ _ _ => none
  | .peerTimeout _ _ => none
  | .mailboxGo _ => none
  | .mailboxTimeout _ => none
  | .ident _ => none
  | .telemCfg _ => none
  | .ledgerRead _ => none
  | .sharesSet _ => none
  | .channelReport _ => none
  | .portMargin _ => none
  | .imageWrite _ => none
  | .prompterLog _ => none
  | .telemWrite _ _ => none
  | .telemStale => none
  | .pmtKick _ _ => none
  | .watchdogExpiry => none
  | .prompterResetRelease => none
  | .prompterBootDone => none
  | .tempSampleA _ _ => none
  | .tempSampleB _ _ => none
  | .sensorDisagree _ => none
  | .currentWarn _ => none
  | .currentLimit _ => none
  | .currentRestart _ => none
  | .currentSustained _ => none
  | .comparatorTest _ _ => none
  | .flowAlarm _ => none
  | .flowTrip _ => none
  | .flowZero _ => none
  | .flowMeterFail _ => none
  | .leakSample _ _ => none
  | .bankTest _ => none
  | .vholdLow _ => none
  | .lockstepMismatch => none
  | .shepherdRestartDone => none
  | .vshpLoss => none
  | .loopSettingRequest _ => none
  | .orderlyStopWithdrawn => none
  | .pwrfailNAssert => none
  | .railUndervoltage _ => none
  | .curtainSaveDone => none
  | .vholdCollapse => none
  | .ledgerRecordDone => none
  | .shepherdSelfTestDone => none
  | .ledgerRecoveryDone => none
  | .railsEntry => none
  | .vholdWaitTimeout => none
  | .railGroupInRange => none
  | .railGroupNextEnable => none
  | .railGroupTimeout => none
  | .railRetry => none
  | .bringupDone _ => none
  | .absentReceived _ _ => none
  | .decisionCue _ => none
  | .wingsCopyStart _ => none
  | .wingsCopyDone _ => none
  | .replayResume _ => none
  | .oxlDisable => none
  | .hbcDisable => none
  | .crcDisable => none
  | .repairWork => none

/-- A command that names a queue and nothing else is well-formed, whichever queue it is. -/
def Statement (i : Instr) : Prop := ∀ q, queueOf i = some q → i.wf = true

theorem nop (q : QueueNo) : Statement (.nop q) := fun _ _ => rfl
theorem sceneBegin (q : QueueNo) : Statement (.sceneBegin q) := fun _ _ => rfl
theorem sceneBeginRetire (q : QueueNo) : Statement (.sceneBeginRetire q) := fun _ _ => rfl
theorem sceneEnd (q : QueueNo) : Statement (.sceneEnd q) := fun _ _ => rfl
theorem sceneEndRetire (q : QueueNo) : Statement (.sceneEndRetire q) := fun _ _ => rfl
theorem sceneRun (p : PartNo) : Statement (.sceneRun p) := fun _ h => nomatch h
theorem preemptOk (q : QueueNo) : Statement (.preemptOk q) := fun _ _ => rfl
theorem chain (q : QueueNo) : Statement (.chain q) := fun _ _ => rfl
theorem chainPortCredit (port : Word16) : Statement (.chainPortCredit port) := fun _ h => nomatch h
theorem gateAcq (q : QueueNo) : Statement (.gateAcq q) := fun _ _ => rfl
theorem gateAcqGrant (p : PartNo) (g : GateNo) : Statement (.gateAcqGrant p g) := fun _ h => nomatch h
theorem gateRel (q : QueueNo) : Statement (.gateRel q) := fun _ _ => rfl
theorem hurdle (q : QueueNo) : Statement (.hurdle q) := fun _ _ => rfl
theorem hurdleGenerationComplete (p : PartNo) (h : HurdleNo) : Statement (.hurdleGenerationComplete p h) := fun _ h => nomatch h
theorem cueStamp (q : QueueNo) : Statement (.cueStamp q) := fun _ _ => rfl
theorem propRead (q : QueueNo) : Statement (.propRead q) := fun _ _ => rfl
theorem queueResume (q : QueueNo) : Statement (.queueResume q) := fun _ _ => rfl
theorem mma (q : QueueNo) : Statement (.mma q) := fun _ _ => rfl
theorem mmaSend (q : QueueNo) : Statement (.mmaSend q) := fun _ _ => rfl
theorem mmaRsum (q : QueueNo) : Statement (.mmaRsum q) := fun _ _ => rfl
theorem gatherMma (q : QueueNo) : Statement (.gatherMma q) := fun _ _ => rfl
theorem a2aMma (q : QueueNo) : Statement (.a2aMma q) := fun _ _ => rfl
theorem mmaA2a (q : QueueNo) : Statement (.mmaA2a q) := fun _ _ => rfl
theorem conv (q : QueueNo) : Statement (.conv q) := fun _ _ => rfl
theorem apronTileEnd (die : DieNo) : Statement (.apronTileEnd die) := fun _ h => nomatch h
theorem attnFwd (q : QueueNo) : Statement (.attnFwd q) := fun _ _ => rfl
theorem attnBwd (q : QueueNo) : Statement (.attnBwd q) := fun _ _ => rfl
theorem ringStepBegin (q : QueueNo) : Statement (.ringStepBegin q) := fun _ _ => rfl
theorem ringStepEnd (q : QueueNo) : Statement (.ringStepEnd q) := fun _ _ => rfl
theorem ringData (p : PartNo) (hdr : RingHeader) (payload : Bytes) : Statement (.ringData p hdr payload) := fun _ h => nomatch h
theorem ringCredit (p : PartNo) (hdr : RingHeader) : Statement (.ringCredit p hdr) := fun _ h => nomatch h
theorem ringDone (p : PartNo) (hdr : RingHeader) : Statement (.ringDone p hdr) := fun _ h => nomatch h
theorem ringPoison (p : PartNo) (hdr : RingHeader) : Statement (.ringPoison p hdr) := fun _ h => nomatch h
theorem ringAbsent (p : PartNo) (hdr : RingHeader) : Statement (.ringAbsent p hdr) := fun _ h => nomatch h
theorem ringZero (p : PartNo) (hdr : RingHeader) : Statement (.ringZero p hdr) := fun _ h => nomatch h
theorem ringSlipExpiry (q : QueueNo) (fromNext : Bool) : Statement (.ringSlipExpiry q fromNext) := fun _ h => nomatch h
theorem collReady (p : PartNo) (hdr : CollHeader) : Statement (.collReady p hdr) := fun _ h => nomatch h
theorem collGo (p : PartNo) (hdr : CollHeader) : Statement (.collGo p hdr) := fun _ h => nomatch h
theorem collOpen (p : PartNo) (hdr : CollHeader) (payload : Bytes) : Statement (.collOpen p hdr payload) := fun _ h => nomatch h
theorem collCredit (p : PartNo) (hdr : CollHeader) : Statement (.collCredit p hdr) := fun _ h => nomatch h
theorem collData (p : PartNo) (hdr : CollHeader) (payload : Bytes) : Statement (.collData p hdr payload) := fun _ h => nomatch h
theorem collDone (p : PartNo) (hdr : CollHeader) : Statement (.collDone p hdr) := fun _ h => nomatch h
theorem collClose (p : PartNo) (hdr : CollHeader) : Statement (.collClose p hdr) := fun _ h => nomatch h
theorem collPoison (p : PartNo) (hdr : CollHeader) : Statement (.collPoison p hdr) := fun _ h => nomatch h
theorem collZero (p : PartNo) (hdr : CollHeader) : Statement (.collZero p hdr) := fun _ h => nomatch h
theorem collAbsent (p : PartNo) (hdr : CollHeader) : Statement (.collAbsent p hdr) := fun _ h => nomatch h
theorem collSlipExpiry (q : QueueNo) (rank : Word16) : Statement (.collSlipExpiry q rank) := fun _ h => nomatch h
theorem beacon (port : PortNo) (hdr : CollHeader) : Statement (.beacon port hdr) := fun _ h => nomatch h
theorem beaconSend : Statement (.beaconSend) := fun _ h => nomatch h
theorem vadd (q : QueueNo) : Statement (.vadd q) := fun _ _ => rfl
theorem vsub (q : QueueNo) : Statement (.vsub q) := fun _ _ => rfl
theorem vmul (q : QueueNo) : Statement (.vmul q) := fun _ _ => rfl
theorem vfma (q : QueueNo) : Statement (.vfma q) := fun _ _ => rfl
theorem vmax (q : QueueNo) : Statement (.vmax q) := fun _ _ => rfl
theorem vmin (q : QueueNo) : Statement (.vmin q) := fun _ _ => rfl
theorem vcvt (q : QueueNo) : Statement (.vcvt q) := fun _ _ => rfl
theorem vscale (q : QueueNo) : Statement (.vscale q) := fun _ _ => rfl
theorem vrsum (q : QueueNo) : Statement (.vrsum q) := fun _ _ => rfl
theorem vrmax (q : QueueNo) : Statement (.vrmax q) := fun _ _ => rfl
theorem vrsqsum (q : QueueNo) : Statement (.vrsqsum q) := fun _ _ => rfl
theorem exp (q : QueueNo) : Statement (.exp q) := fun _ _ => rfl
theorem exp2 (q : QueueNo) : Statement (.exp2 q) := fun _ _ => rfl
theorem log (q : QueueNo) : Statement (.log q) := fun _ _ => rfl
theorem rcp (q : QueueNo) : Statement (.rcp q) := fun _ _ => rfl
theorem rsqrt (q : QueueNo) : Statement (.rsqrt q) := fun _ _ => rfl
theorem tanh (q : QueueNo) : Statement (.tanh q) := fun _ _ => rfl
theorem sigmoid (q : QueueNo) : Statement (.sigmoid q) := fun _ _ => rfl
theorem silu (q : QueueNo) : Statement (.silu q) := fun _ _ => rfl
theorem gelu (q : QueueNo) : Statement (.gelu q) := fun _ _ => rfl
theorem sin (q : QueueNo) : Statement (.sin q) := fun _ _ => rfl
theorem cos (q : QueueNo) : Statement (.cos q) := fun _ _ => rfl
theorem gluAct (q : QueueNo) : Statement (.gluAct q) := fun _ _ => rfl
theorem softmax (q : QueueNo) : Statement (.softmax q) := fun _ _ => rfl
theorem rmsnorm (q : QueueNo) : Statement (.rmsnorm q) := fun _ _ => rfl
theorem rope (q : QueueNo) : Statement (.rope q) := fun _ _ => rfl
theorem kStepDone (q : QueueNo) (index : Word32) (cluster : ClusterNo) (ok : Bool) : Statement (.kStepDone q index cluster ok) := fun _ h => nomatch h
theorem understudyRestart (failed : ClusterNo) : Statement (.understudyRestart failed) := fun _ h => nomatch h
theorem move (q : QueueNo) : Statement (.move q) := fun _ _ => rfl
theorem fill (q : QueueNo) : Statement (.fill q) := fun _ _ => rfl
theorem gather (q : QueueNo) : Statement (.gather q) := fun _ _ => rfl
theorem scatter (q : QueueNo) : Statement (.scatter q) := fun _ _ => rfl
theorem push (q : QueueNo) : Statement (.push q) := fun _ _ => rfl
theorem pop (q : QueueNo) : Statement (.pop q) := fun _ _ => rfl
theorem fifoUnitBegin (q : QueueNo) : Statement (.fifoUnitBegin q) := fun _ _ => rfl
theorem workAreaPlace (q : QueueNo) : Statement (.workAreaPlace q) := fun _ _ => rfl
theorem prefetch (q : QueueNo) : Statement (.prefetch q) := fun _ _ => rfl
theorem clean (q : QueueNo) : Statement (.clean q) := fun _ _ => rfl
theorem runLoad (q : QueueNo) : Statement (.runLoad q) := fun _ _ => rfl
theorem runMark (q : QueueNo) : Statement (.runMark q) := fun _ _ => rfl
theorem runWait (q : QueueNo) : Statement (.runWait q) := fun _ _ => rfl
theorem runEntryDone (q : QueueNo) (entry : Nat) (event : Word16) : Statement (.runEntryDone q entry event) := fun _ h => nomatch h
theorem atom (q : QueueNo) : Statement (.atom q) := fun _ _ => rfl
theorem atomCas (q : QueueNo) : Statement (.atomCas q) := fun _ _ => rfl
theorem optAdamw (q : QueueNo) : Statement (.optAdamw q) := fun _ _ => rfl
theorem optLion (q : QueueNo) : Statement (.optLion q) := fun _ _ => rfl
theorem optSgdm (q : QueueNo) : Statement (.optSgdm q) := fun _ _ => rfl
theorem sealWrite (q : QueueNo) : Statement (.sealWrite q) := fun _ _ => rfl
theorem castLoad (q : QueueNo) : Statement (.castLoad q) := fun _ _ => rfl
theorem castRead (q : QueueNo) : Statement (.castRead q) := fun _ _ => rfl
theorem decodeAttn (q : QueueNo) : Statement (.decodeAttn q) := fun _ _ => rfl
theorem instructionRetire (q : QueueNo) : Statement (.instructionRetire q) := fun _ _ => rfl
theorem waitBudgetExpiry (q : QueueNo) : Statement (.waitBudgetExpiry q) := fun _ _ => rfl
theorem holdBudgetExpiry (p : PartNo) : Statement (.holdBudgetExpiry p) := fun _ h => nomatch h
theorem cueTick : Statement (.cueTick) := fun _ h => nomatch h
theorem cueInEdge : Statement (.cueInEdge) := fun _ h => nomatch h
theorem doorbell (fn : FnNo) (number : Nat) (value : Word64) : Statement (.doorbell fn number value) := fun _ h => nomatch h
theorem queueEnable (q : QueueNo) : Statement (.queueEnable q) := fun _ _ => rfl
theorem queueDisable (q : QueueNo) : Statement (.queueDisable q) := fun _ _ => rfl
theorem qctrlResume (q : QueueNo) : Statement (.qctrlResume q) := fun _ _ => rfl
theorem parEnable (p : PartNo) : Statement (.parEnable p) := fun _ h => nomatch h
theorem parEnableDone (p : PartNo) : Statement (.parEnableDone p) := fun _ h => nomatch h
theorem parDisable (p : PartNo) : Statement (.parDisable p) := fun _ h => nomatch h
theorem parReset (p : PartNo) : Statement (.parReset p) := fun _ h => nomatch h
theorem parResetDone (p : PartNo) : Statement (.parResetDone p) := fun _ h => nomatch h
theorem parLockAcq (p : PartNo) (agent : Requester) : Statement (.parLockAcq p agent) := fun _ h => nomatch h
theorem parLockCommit (p : PartNo) (agent : Requester) : Statement (.parLockCommit p agent) := fun _ h => nomatch h
theorem parLockAbort (p : PartNo) (agent : Requester) : Statement (.parLockAbort p agent) := fun _ h => nomatch h
theorem lockLeaseExpiry (p : PartNo) : Statement (.lockLeaseExpiry p) := fun _ h => nomatch h
theorem functionLevelReset (fn : FnNo) : Statement (.functionLevelReset fn) := fun _ h => nomatch h
theorem d3hotEntry (fn : FnNo) : Statement (.d3hotEntry fn) := fun _ h => nomatch h
theorem hotReset : Statement (.hotReset) := fun _ h => nomatch h
theorem perstNAssert : Statement (.perstNAssert) := fun _ h => nomatch h
theorem perstNRise : Statement (.perstNRise) := fun _ h => nomatch h
theorem porNAssert : Statement (.porNAssert) := fun _ h => nomatch h
theorem coldStart (straps : BitVec 2) : Statement (.coldStart straps) := fun _ h => nomatch h
theorem trstNAssert : Statement (.trstNAssert) := fun _ h => nomatch h
theorem bar4Write (fn : FnNo) (offset : Nat) (data : Bytes) : Statement (.bar4Write fn offset data) := fun _ h => nomatch h
theorem bar4Read (fn : FnNo) (offset : Nat) (len : Nat) : Statement (.bar4Read fn offset len) := fun _ h => nomatch h
theorem registerWrite (who : Requester) (offset : Nat) (value : Word32) : Statement (.registerWrite who offset value) := fun _ h => nomatch h
theorem loReadLatch (who : Requester) (offset : Nat) : Statement (.loReadLatch who offset) := fun _ h => nomatch h
theorem snapGo : Statement (.snapGo) := fun _ h => nomatch h
theorem tapSnap : Statement (.tapSnap) := fun _ h => nomatch h
theorem snapCapture : Statement (.snapCapture) := fun _ h => nomatch h
theorem bookCommit : Statement (.bookCommit) := fun _ h => nomatch h
theorem bookCommitDone : Statement (.bookCommitDone) := fun _ h => nomatch h
theorem crcEnable : Statement (.crcEnable) := fun _ h => nomatch h
theorem crcCommit : Statement (.crcCommit) := fun _ h => nomatch h
theorem crcPassEnd : Statement (.crcPassEnd) := fun _ h => nomatch h
theorem evtRingEnable : Statement (.evtRingEnable) := fun _ h => nomatch h
theorem hbcEnable : Statement (.hbcEnable) := fun _ h => nomatch h
theorem cacEnable : Statement (.cacEnable) := fun _ h => nomatch h
theorem oxlEnable : Statement (.oxlEnable) := fun _ h => nomatch h
theorem pattern : Statement (.pattern) := fun _ h => nomatch h
theorem march : Statement (.march) := fun _ h => nomatch h
theorem traffic : Statement (.traffic) := fun _ h => nomatch h
theorem rehearsalDone (outcome : RehOutcome) : Statement (.rehearsalDone outcome) := fun _ h => nomatch h
theorem scrubSector (chan : ChanNo) (addr : Nat) (outcome : ScrubOutcome) : Statement (.scrubSector chan addr outcome) := fun _ h => nomatch h
theorem cacheScrub (slice : DieNo) (way : Fin 18) (addr : Nat) (outcome : ScrubOutcome) : Statement (.cacheScrub slice way addr outcome) := fun _ h => nomatch h
theorem corrHourRollover : Statement (.corrHourRollover) := fun _ h => nomatch h
theorem lsRowReplace (cluster : ClusterNo) (fault : RowFault) : Statement (.lsRowReplace cluster fault) := fun _ h => nomatch h
theorem clusterDeclaredFailed (cluster : ClusterNo) : Statement (.clusterDeclaredFailed cluster) := fun _ h => nomatch h
theorem cacheWayReplace (slice : DieNo) (way : Fin 18) : Statement (.cacheWayReplace slice way) := fun _ h => nomatch h
theorem hbmLaneRepair (chan : ChanNo) (kind : HbmRepair) : Statement (.hbmLaneRepair chan kind) := fun _ h => nomatch h
theorem channelDrainStart (chan : ChanNo) : Statement (.channelDrainStart chan) := fun _ h => nomatch h
theorem channelDrainDone : Statement .channelDrainDone := fun _ h => nomatch h
theorem dataFrame (port : PortNo) (frame : Frame) : Statement (.dataFrame port frame) := fun _ h => nomatch h
theorem linkFrame (port : PortNo) (frame : Frame) (fields : LinkFields) : Statement (.linkFrame port frame fields) := fun _ h => nomatch h
theorem idleFrame (port : PortNo) (frame : Frame) : Statement (.idleFrame port frame) := fun _ h => nomatch h
theorem frameAck (port : PortNo) (fseq : BitVec 12) : Statement (.frameAck port fseq) := fun _ h => nomatch h
theorem frameNak (port : PortNo) (fseq : BitVec 12) : Statement (.frameNak port fseq) := fun _ h => nomatch h
theorem frameReplayTimeout (port : PortNo) (fseq : BitVec 12) : Statement (.frameReplayTimeout port fseq) := fun _ h => nomatch h
theorem linkCreditReturn (port : PortNo) (vc : VcNo) (frames : Nat) : Statement (.linkCreditReturn port vc frames) := fun _ h => nomatch h
theorem laneSwapCommand (port : PortNo) (lane : LaneNo) : Statement (.laneSwapCommand port lane) := fun _ h => nomatch h
theorem laneSwapDone (port : PortNo) : Statement (.laneSwapDone port) := fun _ h => nomatch h
theorem laneFault (port : PortNo) (lane : LaneNo) : Statement (.laneFault port lane) := fun _ h => nomatch h
theorem rttProbe (port : PortNo) (probe : RttProbe) : Statement (.rttProbe port probe) := fun _ h => nomatch h
theorem delayRemeasure : Statement (.delayRemeasure) := fun _ h => nomatch h
theorem identityRecord (port : PortNo) (record : IdRecord) : Statement (.identityRecord port record) := fun _ h => nomatch h
theorem cueReport (port : PortNo) (report : CueReport) : Statement (.cueReport port report) := fun _ h => nomatch h
theorem parentSilent : Statement (.parentSilent) := fun _ h => nomatch h
theorem portDetectPoll (port : PortNo) (signal : Bool) : Statement (.portDetectPoll port signal) := fun _ h => nomatch h
theorem equaliseDone (port : PortNo) : Statement (.equaliseDone port) := fun _ h => nomatch h
theorem equaliseTimeout (port : PortNo) : Statement (.equaliseTimeout port) := fun _ h => nomatch h
theorem laneCheckDone (port : PortNo) (good : BitVec 9) : Statement (.laneCheckDone port good) := fun _ h => nomatch h
theorem lossOfLock (port : PortNo) : Statement (.lossOfLock port) := fun _ h => nomatch h
theorem retrainDone (port : PortNo) : Statement (.retrainDone port) := fun _ h => nomatch h
theorem retrainTimeout (port : PortNo) : Statement (.retrainTimeout port) := fun _ h => nomatch h
theorem downTimer (port : PortNo) : Statement (.downTimer port) := fun _ h => nomatch h
theorem packetRoute (origin : PacketOrigin) (packet : Packet) : Statement (.packetRoute origin packet) := fun _ h => nomatch h
theorem escWaitExpiry (origin : PacketOrigin) (packet : Packet) : Statement (.escWaitExpiry origin packet) := fun _ h => nomatch h
theorem peerWrite (src : Word16) (pseq : Word32) (part : PartNo) (access : PeerAccess) (data : Bytes) : Statement (.peerWrite src pseq part access data) := fun _ h => nomatch h
theorem peerReadRequest (src : Word16) (pseq : Word32) (part : PartNo) (access : PeerAccess) (len : Nat) : Statement (.peerReadRequest src pseq part access len) := fun _ h => nomatch h
theorem peerReadResponse (src : Word16) (tag : Word32) (status : PeerStatus) (data : Bytes) : Statement (.peerReadResponse src tag status data) := fun _ h => nomatch h
theorem e2eAck (src : Word16) (pseq : Word32) (status : PeerStatus) : Statement (.e2eAck src pseq status) := fun _ h => nomatch h
theorem peerTimeout (q : QueueNo) (index : Word32) : Statement (.peerTimeout q index) := fun _ h => nomatch h
theorem mailboxGo (box : Mailbox) : Statement (.mailboxGo box) := fun _ h => nomatch h
theorem mailboxTimeout (box : Mailbox) : Statement (.mailboxTimeout box) := fun _ h => nomatch h
theorem ident (box : Mailbox) : Statement (.ident box) := fun _ h => nomatch h
theorem telemCfg (box : Mailbox) : Statement (.telemCfg box) := fun _ h => nomatch h
theorem ledgerRead (box : Mailbox) : Statement (.ledgerRead box) := fun _ h => nomatch h
theorem sharesSet (box : Mailbox) : Statement (.sharesSet box) := fun _ h => nomatch h
theorem channelReport (box : Mailbox) : Statement (.channelReport box) := fun _ h => nomatch h
theorem portMargin (box : Mailbox) : Statement (.portMargin box) := fun _ h => nomatch h
theorem imageWrite (box : Mailbox) : Statement (.imageWrite box) := fun _ h => nomatch h
theorem prompterLog (box : Mailbox) : Statement (.prompterLog box) := fun _ h => nomatch h
theorem telemWrite (box : Mailbox) (sampledAll : Bool) : Statement (.telemWrite box sampledAll) := fun _ h => nomatch h
theorem telemStale : Statement (.telemStale) := fun _ h => nomatch h
theorem pmtKick (who : Requester) (value : Word32) : Statement (.pmtKick who value) := fun _ h => nomatch h
theorem watchdogExpiry : Statement (.watchdogExpiry) := fun _ h => nomatch h
theorem prompterResetRelease : Statement (.prompterResetRelease) := fun _ h => nomatch h
theorem prompterBootDone : Statement (.prompterBootDone) := fun _ h => nomatch h
theorem tempSampleA (place : HeatPlace) (reading : SensorReading) : Statement (.tempSampleA place reading) := fun _ h => nomatch h
theorem tempSampleB (place : HeatPlace) (reading : SensorReading) : Statement (.tempSampleB place reading) := fun _ h => nomatch h
theorem sensorDisagree (fold : FoldNo) : Statement (.sensorDisagree fold) := fun _ h => nomatch h
theorem currentWarn (reading : RailCurrent) : Statement (.currentWarn reading) := fun _ h => nomatch h
theorem currentLimit (reading : RailCurrent) : Statement (.currentLimit reading) := fun _ h => nomatch h
theorem currentRestart (die : DieNo) : Statement (.currentRestart die) := fun _ h => nomatch h
theorem currentSustained (reading : RailCurrent) : Statement (.currentSustained reading) := fun _ h => nomatch h
theorem comparatorTest (rail : CurrentRail) (pass : Bool) : Statement (.comparatorTest rail pass) := fun _ h => nomatch h
theorem flowAlarm (sample : FlowSample) : Statement (.flowAlarm sample) := fun _ h => nomatch h
theorem flowTrip (sample : FlowSample) : Statement (.flowTrip sample) := fun _ h => nomatch h
theorem flowZero (sample : FlowSample) : Statement (.flowZero sample) := fun _ h => nomatch h
theorem flowMeterFail (sample : FlowSample) : Statement (.flowMeterFail sample) := fun _ h => nomatch h
theorem leakSample (cable : LeakCable) (ohms : Nat) : Statement (.leakSample cable ohms) := fun _ h => nomatch h
theorem bankTest (sample : BankSample) : Statement (.bankTest sample) := fun _ h => nomatch h
theorem vholdLow (sample : BankSample) : Statement (.vholdLow sample) := fun _ h => nomatch h
theorem lockstepMismatch : Statement (.lockstepMismatch) := fun _ h => nomatch h
theorem shepherdRestartDone : Statement (.shepherdRestartDone) := fun _ h => nomatch h
theorem vshpLoss : Statement (.vshpLoss) := fun _ h => nomatch h
theorem loopSettingRequest (request : LoopRequest) : Statement (.loopSettingRequest request) := fun _ h => nomatch h
theorem orderlyStopWithdrawn : Statement (.orderlyStopWithdrawn) := fun _ h => nomatch h
theorem pwrfailNAssert : Statement (.pwrfailNAssert) := fun _ h => nomatch h
theorem railUndervoltage (reading : RailVoltage) : Statement (.railUndervoltage reading) := fun _ h => nomatch h
theorem curtainSaveDone : Statement (.curtainSaveDone) := fun _ h => nomatch h
theorem vholdCollapse : Statement (.vholdCollapse) := fun _ h => nomatch h
theorem ledgerRecordDone : Statement (.ledgerRecordDone) := fun _ h => nomatch h
theorem shepherdSelfTestDone : Statement (.shepherdSelfTestDone) := fun _ h => nomatch h
theorem ledgerRecoveryDone : Statement (.ledgerRecoveryDone) := fun _ h => nomatch h
theorem railsEntry : Statement (.railsEntry) := fun _ h => nomatch h
theorem vholdWaitTimeout : Statement (.vholdWaitTimeout) := fun _ h => nomatch h
theorem railGroupInRange : Statement (.railGroupInRange) := fun _ h => nomatch h
theorem railGroupNextEnable : Statement (.railGroupNextEnable) := fun _ h => nomatch h
theorem railGroupTimeout : Statement (.railGroupTimeout) := fun _ h => nomatch h
theorem railRetry : Statement (.railRetry) := fun _ h => nomatch h
theorem bringupDone (outcome : BringupOutcome) : Statement (.bringupDone outcome) := fun _ h => nomatch h
theorem absentReceived (p : PartNo) (absent : AbsentHeader) : Statement (.absentReceived p absent) := fun _ h => nomatch h
theorem decisionCue (p : PartNo) : Statement (.decisionCue p) := fun _ h => nomatch h
theorem wingsCopyStart (p : PartNo) : Statement (.wingsCopyStart p) := fun _ h => nomatch h
theorem wingsCopyDone (p : PartNo) : Statement (.wingsCopyDone p) := fun _ h => nomatch h
theorem replayResume (p : PartNo) : Statement (.replayResume p) := fun _ h => nomatch h
theorem oxlDisable : Statement (.oxlDisable) := fun _ h => nomatch h
theorem hbcDisable : Statement (.hbcDisable) := fun _ h => nomatch h
theorem crcDisable : Statement (.crcDisable) := fun _ h => nomatch h
theorem repairWork : Statement (.repairWork) := fun _ h => nomatch h

end Sys2Proof.Laws.QueueRows
end

