-- ==== Sys2Proof/Laws/State.lean ====
section
/-!
SUPPORT. One lemma for each field of State after each update: what the update leaves as it was, and what it sets. All hold by
computation, so that no proof unfolds a record update.
-/

namespace Sys2Proof.Machine

/-! ### setRegs -/

@[simp] theorem State.setRegs_part (s : State) (v) : (s.setRegs v).part = s.part := rfl
@[simp] theorem State.setRegs_serial (s : State) (v) : (s.setRegs v).serial = s.serial := rfl
@[simp] theorem State.setRegs_straps (s : State) (v) : (s.setRegs v).straps = s.straps := rfl
@[simp] theorem State.setRegs_regs (s : State) (v) : (s.setRegs v).regs = v := rfl
@[simp] theorem State.setRegs_mem (s : State) (v) : (s.setRegs v).mem = s.mem := rfl
@[simp] theorem State.setRegs_time (s : State) (v) : (s.setRegs v).time = s.time := rfl
@[simp] theorem State.setRegs_spare (s : State) (v) : (s.setRegs v).spare = s.spare := rfl
@[simp] theorem State.setRegs_config (s : State) (v) : (s.setRegs v).config = s.config := rfl
@[simp] theorem State.setRegs_queues (s : State) (v) : (s.setRegs v).queues = s.queues := rfl
@[simp] theorem State.setRegs_parts (s : State) (v) : (s.setRegs v).parts = s.parts := rfl
@[simp] theorem State.setRegs_insts (s : State) (v) : (s.setRegs v).insts = s.insts := rfl
@[simp] theorem State.setRegs_comp (s : State) (v) : (s.setRegs v).comp = s.comp := rfl
@[simp] theorem State.setRegs_link (s : State) (v) : (s.setRegs v).link = s.link := rfl
@[simp] theorem State.setRegs_host (s : State) (v) : (s.setRegs v).host = s.host := rfl
@[simp] theorem State.setRegs_prom (s : State) (v) : (s.setRegs v).prom = s.prom := rfl
@[simp] theorem State.setRegs_shep (s : State) (v) : (s.setRegs v).shep = s.shep := rfl
@[simp] theorem State.setRegs_ledg (s : State) (v) : (s.setRegs v).ledg = s.ledg := rfl
@[simp] theorem State.setRegs_out (s : State) (v) : (s.setRegs v).out = s.out := rfl
@[simp] theorem State.setRegs_free (s : State) (v) : (s.setRegs v).free = s.free := rfl
@[simp] theorem State.setRegs_pending (s : State) (v) : (s.setRegs v).pending = s.pending := rfl

/-! ### setMem -/

@[simp] theorem State.setMem_part (s : State) (v) : (s.setMem v).part = s.part := rfl
@[simp] theorem State.setMem_serial (s : State) (v) : (s.setMem v).serial = s.serial := rfl
@[simp] theorem State.setMem_straps (s : State) (v) : (s.setMem v).straps = s.straps := rfl
@[simp] theorem State.setMem_regs (s : State) (v) : (s.setMem v).regs = s.regs := rfl
@[simp] theorem State.setMem_mem (s : State) (v) : (s.setMem v).mem = v := rfl
@[simp] theorem State.setMem_time (s : State) (v) : (s.setMem v).time = s.time := rfl
@[simp] theorem State.setMem_spare (s : State) (v) : (s.setMem v).spare = s.spare := rfl
@[simp] theorem State.setMem_config (s : State) (v) : (s.setMem v).config = s.config := rfl
@[simp] theorem State.setMem_queues (s : State) (v) : (s.setMem v).queues = s.queues := rfl
@[simp] theorem State.setMem_parts (s : State) (v) : (s.setMem v).parts = s.parts := rfl
@[simp] theorem State.setMem_insts (s : State) (v) : (s.setMem v).insts = s.insts := rfl
@[simp] theorem State.setMem_comp (s : State) (v) : (s.setMem v).comp = s.comp := rfl
@[simp] theorem State.setMem_link (s : State) (v) : (s.setMem v).link = s.link := rfl
@[simp] theorem State.setMem_host (s : State) (v) : (s.setMem v).host = s.host := rfl
@[simp] theorem State.setMem_prom (s : State) (v) : (s.setMem v).prom = s.prom := rfl
@[simp] theorem State.setMem_shep (s : State) (v) : (s.setMem v).shep = s.shep := rfl
@[simp] theorem State.setMem_ledg (s : State) (v) : (s.setMem v).ledg = s.ledg := rfl
@[simp] theorem State.setMem_out (s : State) (v) : (s.setMem v).out = s.out := rfl
@[simp] theorem State.setMem_free (s : State) (v) : (s.setMem v).free = s.free := rfl
@[simp] theorem State.setMem_pending (s : State) (v) : (s.setMem v).pending = s.pending := rfl

/-! ### setTime -/

@[simp] theorem State.setTime_part (s : State) (v) : (s.setTime v).part = s.part := rfl
@[simp] theorem State.setTime_serial (s : State) (v) : (s.setTime v).serial = s.serial := rfl
@[simp] theorem State.setTime_straps (s : State) (v) : (s.setTime v).straps = s.straps := rfl
@[simp] theorem State.setTime_regs (s : State) (v) : (s.setTime v).regs = s.regs := rfl
@[simp] theorem State.setTime_mem (s : State) (v) : (s.setTime v).mem = s.mem := rfl
@[simp] theorem State.setTime_time (s : State) (v) : (s.setTime v).time = v := rfl
@[simp] theorem State.setTime_spare (s : State) (v) : (s.setTime v).spare = s.spare := rfl
@[simp] theorem State.setTime_config (s : State) (v) : (s.setTime v).config = s.config := rfl
@[simp] theorem State.setTime_queues (s : State) (v) : (s.setTime v).queues = s.queues := rfl
@[simp] theorem State.setTime_parts (s : State) (v) : (s.setTime v).parts = s.parts := rfl
@[simp] theorem State.setTime_insts (s : State) (v) : (s.setTime v).insts = s.insts := rfl
@[simp] theorem State.setTime_comp (s : State) (v) : (s.setTime v).comp = s.comp := rfl
@[simp] theorem State.setTime_link (s : State) (v) : (s.setTime v).link = s.link := rfl
@[simp] theorem State.setTime_host (s : State) (v) : (s.setTime v).host = s.host := rfl
@[simp] theorem State.setTime_prom (s : State) (v) : (s.setTime v).prom = s.prom := rfl
@[simp] theorem State.setTime_shep (s : State) (v) : (s.setTime v).shep = s.shep := rfl
@[simp] theorem State.setTime_ledg (s : State) (v) : (s.setTime v).ledg = s.ledg := rfl
@[simp] theorem State.setTime_out (s : State) (v) : (s.setTime v).out = s.out := rfl
@[simp] theorem State.setTime_free (s : State) (v) : (s.setTime v).free = s.free := rfl
@[simp] theorem State.setTime_pending (s : State) (v) : (s.setTime v).pending = s.pending := rfl

/-! ### setSpare -/

@[simp] theorem State.setSpare_part (s : State) (v) : (s.setSpare v).part = s.part := rfl
@[simp] theorem State.setSpare_serial (s : State) (v) : (s.setSpare v).serial = s.serial := rfl
@[simp] theorem State.setSpare_straps (s : State) (v) : (s.setSpare v).straps = s.straps := rfl
@[simp] theorem State.setSpare_regs (s : State) (v) : (s.setSpare v).regs = s.regs := rfl
@[simp] theorem State.setSpare_mem (s : State) (v) : (s.setSpare v).mem = s.mem := rfl
@[simp] theorem State.setSpare_time (s : State) (v) : (s.setSpare v).time = s.time := rfl
@[simp] theorem State.setSpare_spare (s : State) (v) : (s.setSpare v).spare = v := rfl
@[simp] theorem State.setSpare_config (s : State) (v) : (s.setSpare v).config = s.config := rfl
@[simp] theorem State.setSpare_queues (s : State) (v) : (s.setSpare v).queues = s.queues := rfl
@[simp] theorem State.setSpare_parts (s : State) (v) : (s.setSpare v).parts = s.parts := rfl
@[simp] theorem State.setSpare_insts (s : State) (v) : (s.setSpare v).insts = s.insts := rfl
@[simp] theorem State.setSpare_comp (s : State) (v) : (s.setSpare v).comp = s.comp := rfl
@[simp] theorem State.setSpare_link (s : State) (v) : (s.setSpare v).link = s.link := rfl
@[simp] theorem State.setSpare_host (s : State) (v) : (s.setSpare v).host = s.host := rfl
@[simp] theorem State.setSpare_prom (s : State) (v) : (s.setSpare v).prom = s.prom := rfl
@[simp] theorem State.setSpare_shep (s : State) (v) : (s.setSpare v).shep = s.shep := rfl
@[simp] theorem State.setSpare_ledg (s : State) (v) : (s.setSpare v).ledg = s.ledg := rfl
@[simp] theorem State.setSpare_out (s : State) (v) : (s.setSpare v).out = s.out := rfl
@[simp] theorem State.setSpare_free (s : State) (v) : (s.setSpare v).free = s.free := rfl
@[simp] theorem State.setSpare_pending (s : State) (v) : (s.setSpare v).pending = s.pending := rfl

/-! ### setConfig -/

@[simp] theorem State.setConfig_part (s : State) (v) : (s.setConfig v).part = s.part := rfl
@[simp] theorem State.setConfig_serial (s : State) (v) : (s.setConfig v).serial = s.serial := rfl
@[simp] theorem State.setConfig_straps (s : State) (v) : (s.setConfig v).straps = s.straps := rfl
@[simp] theorem State.setConfig_regs (s : State) (v) : (s.setConfig v).regs = s.regs := rfl
@[simp] theorem State.setConfig_mem (s : State) (v) : (s.setConfig v).mem = s.mem := rfl
@[simp] theorem State.setConfig_time (s : State) (v) : (s.setConfig v).time = s.time := rfl
@[simp] theorem State.setConfig_spare (s : State) (v) : (s.setConfig v).spare = s.spare := rfl
@[simp] theorem State.setConfig_config (s : State) (v) : (s.setConfig v).config = v := rfl
@[simp] theorem State.setConfig_queues (s : State) (v) : (s.setConfig v).queues = s.queues := rfl
@[simp] theorem State.setConfig_parts (s : State) (v) : (s.setConfig v).parts = s.parts := rfl
@[simp] theorem State.setConfig_insts (s : State) (v) : (s.setConfig v).insts = s.insts := rfl
@[simp] theorem State.setConfig_comp (s : State) (v) : (s.setConfig v).comp = s.comp := rfl
@[simp] theorem State.setConfig_link (s : State) (v) : (s.setConfig v).link = s.link := rfl
@[simp] theorem State.setConfig_host (s : State) (v) : (s.setConfig v).host = s.host := rfl
@[simp] theorem State.setConfig_prom (s : State) (v) : (s.setConfig v).prom = s.prom := rfl
@[simp] theorem State.setConfig_shep (s : State) (v) : (s.setConfig v).shep = s.shep := rfl
@[simp] theorem State.setConfig_ledg (s : State) (v) : (s.setConfig v).ledg = s.ledg := rfl
@[simp] theorem State.setConfig_out (s : State) (v) : (s.setConfig v).out = s.out := rfl
@[simp] theorem State.setConfig_free (s : State) (v) : (s.setConfig v).free = s.free := rfl
@[simp] theorem State.setConfig_pending (s : State) (v) : (s.setConfig v).pending = s.pending := rfl

/-! ### setQueues -/

@[simp] theorem State.setQueues_part (s : State) (v) : (s.setQueues v).part = s.part := rfl
@[simp] theorem State.setQueues_serial (s : State) (v) : (s.setQueues v).serial = s.serial := rfl
@[simp] theorem State.setQueues_straps (s : State) (v) : (s.setQueues v).straps = s.straps := rfl
@[simp] theorem State.setQueues_regs (s : State) (v) : (s.setQueues v).regs = s.regs := rfl
@[simp] theorem State.setQueues_mem (s : State) (v) : (s.setQueues v).mem = s.mem := rfl
@[simp] theorem State.setQueues_time (s : State) (v) : (s.setQueues v).time = s.time := rfl
@[simp] theorem State.setQueues_spare (s : State) (v) : (s.setQueues v).spare = s.spare := rfl
@[simp] theorem State.setQueues_config (s : State) (v) : (s.setQueues v).config = s.config := rfl
@[simp] theorem State.setQueues_queues (s : State) (v) : (s.setQueues v).queues = v := rfl
@[simp] theorem State.setQueues_parts (s : State) (v) : (s.setQueues v).parts = s.parts := rfl
@[simp] theorem State.setQueues_insts (s : State) (v) : (s.setQueues v).insts = s.insts := rfl
@[simp] theorem State.setQueues_comp (s : State) (v) : (s.setQueues v).comp = s.comp := rfl
@[simp] theorem State.setQueues_link (s : State) (v) : (s.setQueues v).link = s.link := rfl
@[simp] theorem State.setQueues_host (s : State) (v) : (s.setQueues v).host = s.host := rfl
@[simp] theorem State.setQueues_prom (s : State) (v) : (s.setQueues v).prom = s.prom := rfl
@[simp] theorem State.setQueues_shep (s : State) (v) : (s.setQueues v).shep = s.shep := rfl
@[simp] theorem State.setQueues_ledg (s : State) (v) : (s.setQueues v).ledg = s.ledg := rfl
@[simp] theorem State.setQueues_out (s : State) (v) : (s.setQueues v).out = s.out := rfl
@[simp] theorem State.setQueues_free (s : State) (v) : (s.setQueues v).free = s.free := rfl
@[simp] theorem State.setQueues_pending (s : State) (v) : (s.setQueues v).pending = s.pending := rfl

/-! ### setParts -/

@[simp] theorem State.setParts_part (s : State) (v) : (s.setParts v).part = s.part := rfl
@[simp] theorem State.setParts_serial (s : State) (v) : (s.setParts v).serial = s.serial := rfl
@[simp] theorem State.setParts_straps (s : State) (v) : (s.setParts v).straps = s.straps := rfl
@[simp] theorem State.setParts_regs (s : State) (v) : (s.setParts v).regs = s.regs := rfl
@[simp] theorem State.setParts_mem (s : State) (v) : (s.setParts v).mem = s.mem := rfl
@[simp] theorem State.setParts_time (s : State) (v) : (s.setParts v).time = s.time := rfl
@[simp] theorem State.setParts_spare (s : State) (v) : (s.setParts v).spare = s.spare := rfl
@[simp] theorem State.setParts_config (s : State) (v) : (s.setParts v).config = s.config := rfl
@[simp] theorem State.setParts_queues (s : State) (v) : (s.setParts v).queues = s.queues := rfl
@[simp] theorem State.setParts_parts (s : State) (v) : (s.setParts v).parts = v := rfl
@[simp] theorem State.setParts_insts (s : State) (v) : (s.setParts v).insts = s.insts := rfl
@[simp] theorem State.setParts_comp (s : State) (v) : (s.setParts v).comp = s.comp := rfl
@[simp] theorem State.setParts_link (s : State) (v) : (s.setParts v).link = s.link := rfl
@[simp] theorem State.setParts_host (s : State) (v) : (s.setParts v).host = s.host := rfl
@[simp] theorem State.setParts_prom (s : State) (v) : (s.setParts v).prom = s.prom := rfl
@[simp] theorem State.setParts_shep (s : State) (v) : (s.setParts v).shep = s.shep := rfl
@[simp] theorem State.setParts_ledg (s : State) (v) : (s.setParts v).ledg = s.ledg := rfl
@[simp] theorem State.setParts_out (s : State) (v) : (s.setParts v).out = s.out := rfl
@[simp] theorem State.setParts_free (s : State) (v) : (s.setParts v).free = s.free := rfl
@[simp] theorem State.setParts_pending (s : State) (v) : (s.setParts v).pending = s.pending := rfl

/-! ### setInsts -/

@[simp] theorem State.setInsts_part (s : State) (v) : (s.setInsts v).part = s.part := rfl
@[simp] theorem State.setInsts_serial (s : State) (v) : (s.setInsts v).serial = s.serial := rfl
@[simp] theorem State.setInsts_straps (s : State) (v) : (s.setInsts v).straps = s.straps := rfl
@[simp] theorem State.setInsts_regs (s : State) (v) : (s.setInsts v).regs = s.regs := rfl
@[simp] theorem State.setInsts_mem (s : State) (v) : (s.setInsts v).mem = s.mem := rfl
@[simp] theorem State.setInsts_time (s : State) (v) : (s.setInsts v).time = s.time := rfl
@[simp] theorem State.setInsts_spare (s : State) (v) : (s.setInsts v).spare = s.spare := rfl
@[simp] theorem State.setInsts_config (s : State) (v) : (s.setInsts v).config = s.config := rfl
@[simp] theorem State.setInsts_queues (s : State) (v) : (s.setInsts v).queues = s.queues := rfl
@[simp] theorem State.setInsts_parts (s : State) (v) : (s.setInsts v).parts = s.parts := rfl
@[simp] theorem State.setInsts_insts (s : State) (v) : (s.setInsts v).insts = v := rfl
@[simp] theorem State.setInsts_comp (s : State) (v) : (s.setInsts v).comp = s.comp := rfl
@[simp] theorem State.setInsts_link (s : State) (v) : (s.setInsts v).link = s.link := rfl
@[simp] theorem State.setInsts_host (s : State) (v) : (s.setInsts v).host = s.host := rfl
@[simp] theorem State.setInsts_prom (s : State) (v) : (s.setInsts v).prom = s.prom := rfl
@[simp] theorem State.setInsts_shep (s : State) (v) : (s.setInsts v).shep = s.shep := rfl
@[simp] theorem State.setInsts_ledg (s : State) (v) : (s.setInsts v).ledg = s.ledg := rfl
@[simp] theorem State.setInsts_out (s : State) (v) : (s.setInsts v).out = s.out := rfl
@[simp] theorem State.setInsts_free (s : State) (v) : (s.setInsts v).free = s.free := rfl
@[simp] theorem State.setInsts_pending (s : State) (v) : (s.setInsts v).pending = s.pending := rfl

/-! ### setComp -/

@[simp] theorem State.setComp_part (s : State) (v) : (s.setComp v).part = s.part := rfl
@[simp] theorem State.setComp_serial (s : State) (v) : (s.setComp v).serial = s.serial := rfl
@[simp] theorem State.setComp_straps (s : State) (v) : (s.setComp v).straps = s.straps := rfl
@[simp] theorem State.setComp_regs (s : State) (v) : (s.setComp v).regs = s.regs := rfl
@[simp] theorem State.setComp_mem (s : State) (v) : (s.setComp v).mem = s.mem := rfl
@[simp] theorem State.setComp_time (s : State) (v) : (s.setComp v).time = s.time := rfl
@[simp] theorem State.setComp_spare (s : State) (v) : (s.setComp v).spare = s.spare := rfl
@[simp] theorem State.setComp_config (s : State) (v) : (s.setComp v).config = s.config := rfl
@[simp] theorem State.setComp_queues (s : State) (v) : (s.setComp v).queues = s.queues := rfl
@[simp] theorem State.setComp_parts (s : State) (v) : (s.setComp v).parts = s.parts := rfl
@[simp] theorem State.setComp_insts (s : State) (v) : (s.setComp v).insts = s.insts := rfl
@[simp] theorem State.setComp_comp (s : State) (v) : (s.setComp v).comp = v := rfl
@[simp] theorem State.setComp_link (s : State) (v) : (s.setComp v).link = s.link := rfl
@[simp] theorem State.setComp_host (s : State) (v) : (s.setComp v).host = s.host := rfl
@[simp] theorem State.setComp_prom (s : State) (v) : (s.setComp v).prom = s.prom := rfl
@[simp] theorem State.setComp_shep (s : State) (v) : (s.setComp v).shep = s.shep := rfl
@[simp] theorem State.setComp_ledg (s : State) (v) : (s.setComp v).ledg = s.ledg := rfl
@[simp] theorem State.setComp_out (s : State) (v) : (s.setComp v).out = s.out := rfl
@[simp] theorem State.setComp_free (s : State) (v) : (s.setComp v).free = s.free := rfl
@[simp] theorem State.setComp_pending (s : State) (v) : (s.setComp v).pending = s.pending := rfl

/-! ### setLink -/

@[simp] theorem State.setLink_part (s : State) (v) : (s.setLink v).part = s.part := rfl
@[simp] theorem State.setLink_serial (s : State) (v) : (s.setLink v).serial = s.serial := rfl
@[simp] theorem State.setLink_straps (s : State) (v) : (s.setLink v).straps = s.straps := rfl
@[simp] theorem State.setLink_regs (s : State) (v) : (s.setLink v).regs = s.regs := rfl
@[simp] theorem State.setLink_mem (s : State) (v) : (s.setLink v).mem = s.mem := rfl
@[simp] theorem State.setLink_time (s : State) (v) : (s.setLink v).time = s.time := rfl
@[simp] theorem State.setLink_spare (s : State) (v) : (s.setLink v).spare = s.spare := rfl
@[simp] theorem State.setLink_config (s : State) (v) : (s.setLink v).config = s.config := rfl
@[simp] theorem State.setLink_queues (s : State) (v) : (s.setLink v).queues = s.queues := rfl
@[simp] theorem State.setLink_parts (s : State) (v) : (s.setLink v).parts = s.parts := rfl
@[simp] theorem State.setLink_insts (s : State) (v) : (s.setLink v).insts = s.insts := rfl
@[simp] theorem State.setLink_comp (s : State) (v) : (s.setLink v).comp = s.comp := rfl
@[simp] theorem State.setLink_link (s : State) (v) : (s.setLink v).link = v := rfl
@[simp] theorem State.setLink_host (s : State) (v) : (s.setLink v).host = s.host := rfl
@[simp] theorem State.setLink_prom (s : State) (v) : (s.setLink v).prom = s.prom := rfl
@[simp] theorem State.setLink_shep (s : State) (v) : (s.setLink v).shep = s.shep := rfl
@[simp] theorem State.setLink_ledg (s : State) (v) : (s.setLink v).ledg = s.ledg := rfl
@[simp] theorem State.setLink_out (s : State) (v) : (s.setLink v).out = s.out := rfl
@[simp] theorem State.setLink_free (s : State) (v) : (s.setLink v).free = s.free := rfl
@[simp] theorem State.setLink_pending (s : State) (v) : (s.setLink v).pending = s.pending := rfl

/-! ### setHost -/

@[simp] theorem State.setHost_part (s : State) (v) : (s.setHost v).part = s.part := rfl
@[simp] theorem State.setHost_serial (s : State) (v) : (s.setHost v).serial = s.serial := rfl
@[simp] theorem State.setHost_straps (s : State) (v) : (s.setHost v).straps = s.straps := rfl
@[simp] theorem State.setHost_regs (s : State) (v) : (s.setHost v).regs = s.regs := rfl
@[simp] theorem State.setHost_mem (s : State) (v) : (s.setHost v).mem = s.mem := rfl
@[simp] theorem State.setHost_time (s : State) (v) : (s.setHost v).time = s.time := rfl
@[simp] theorem State.setHost_spare (s : State) (v) : (s.setHost v).spare = s.spare := rfl
@[simp] theorem State.setHost_config (s : State) (v) : (s.setHost v).config = s.config := rfl
@[simp] theorem State.setHost_queues (s : State) (v) : (s.setHost v).queues = s.queues := rfl
@[simp] theorem State.setHost_parts (s : State) (v) : (s.setHost v).parts = s.parts := rfl
@[simp] theorem State.setHost_insts (s : State) (v) : (s.setHost v).insts = s.insts := rfl
@[simp] theorem State.setHost_comp (s : State) (v) : (s.setHost v).comp = s.comp := rfl
@[simp] theorem State.setHost_link (s : State) (v) : (s.setHost v).link = s.link := rfl
@[simp] theorem State.setHost_host (s : State) (v) : (s.setHost v).host = v := rfl
@[simp] theorem State.setHost_prom (s : State) (v) : (s.setHost v).prom = s.prom := rfl
@[simp] theorem State.setHost_shep (s : State) (v) : (s.setHost v).shep = s.shep := rfl
@[simp] theorem State.setHost_ledg (s : State) (v) : (s.setHost v).ledg = s.ledg := rfl
@[simp] theorem State.setHost_out (s : State) (v) : (s.setHost v).out = s.out := rfl
@[simp] theorem State.setHost_free (s : State) (v) : (s.setHost v).free = s.free := rfl
@[simp] theorem State.setHost_pending (s : State) (v) : (s.setHost v).pending = s.pending := rfl

/-! ### setProm -/

@[simp] theorem State.setProm_part (s : State) (v) : (s.setProm v).part = s.part := rfl
@[simp] theorem State.setProm_serial (s : State) (v) : (s.setProm v).serial = s.serial := rfl
@[simp] theorem State.setProm_straps (s : State) (v) : (s.setProm v).straps = s.straps := rfl
@[simp] theorem State.setProm_regs (s : State) (v) : (s.setProm v).regs = s.regs := rfl
@[simp] theorem State.setProm_mem (s : State) (v) : (s.setProm v).mem = s.mem := rfl
@[simp] theorem State.setProm_time (s : State) (v) : (s.setProm v).time = s.time := rfl
@[simp] theorem State.setProm_spare (s : State) (v) : (s.setProm v).spare = s.spare := rfl
@[simp] theorem State.setProm_config (s : State) (v) : (s.setProm v).config = s.config := rfl
@[simp] theorem State.setProm_queues (s : State) (v) : (s.setProm v).queues = s.queues := rfl
@[simp] theorem State.setProm_parts (s : State) (v) : (s.setProm v).parts = s.parts := rfl
@[simp] theorem State.setProm_insts (s : State) (v) : (s.setProm v).insts = s.insts := rfl
@[simp] theorem State.setProm_comp (s : State) (v) : (s.setProm v).comp = s.comp := rfl
@[simp] theorem State.setProm_link (s : State) (v) : (s.setProm v).link = s.link := rfl
@[simp] theorem State.setProm_host (s : State) (v) : (s.setProm v).host = s.host := rfl
@[simp] theorem State.setProm_prom (s : State) (v) : (s.setProm v).prom = v := rfl
@[simp] theorem State.setProm_shep (s : State) (v) : (s.setProm v).shep = s.shep := rfl
@[simp] theorem State.setProm_ledg (s : State) (v) : (s.setProm v).ledg = s.ledg := rfl
@[simp] theorem State.setProm_out (s : State) (v) : (s.setProm v).out = s.out := rfl
@[simp] theorem State.setProm_free (s : State) (v) : (s.setProm v).free = s.free := rfl
@[simp] theorem State.setProm_pending (s : State) (v) : (s.setProm v).pending = s.pending := rfl

/-! ### setShep -/

@[simp] theorem State.setShep_part (s : State) (v) : (s.setShep v).part = s.part := rfl
@[simp] theorem State.setShep_serial (s : State) (v) : (s.setShep v).serial = s.serial := rfl
@[simp] theorem State.setShep_straps (s : State) (v) : (s.setShep v).straps = s.straps := rfl
@[simp] theorem State.setShep_regs (s : State) (v) : (s.setShep v).regs = s.regs := rfl
@[simp] theorem State.setShep_mem (s : State) (v) : (s.setShep v).mem = s.mem := rfl
@[simp] theorem State.setShep_time (s : State) (v) : (s.setShep v).time = s.time := rfl
@[simp] theorem State.setShep_spare (s : State) (v) : (s.setShep v).spare = s.spare := rfl
@[simp] theorem State.setShep_config (s : State) (v) : (s.setShep v).config = s.config := rfl
@[simp] theorem State.setShep_queues (s : State) (v) : (s.setShep v).queues = s.queues := rfl
@[simp] theorem State.setShep_parts (s : State) (v) : (s.setShep v).parts = s.parts := rfl
@[simp] theorem State.setShep_insts (s : State) (v) : (s.setShep v).insts = s.insts := rfl
@[simp] theorem State.setShep_comp (s : State) (v) : (s.setShep v).comp = s.comp := rfl
@[simp] theorem State.setShep_link (s : State) (v) : (s.setShep v).link = s.link := rfl
@[simp] theorem State.setShep_host (s : State) (v) : (s.setShep v).host = s.host := rfl
@[simp] theorem State.setShep_prom (s : State) (v) : (s.setShep v).prom = s.prom := rfl
@[simp] theorem State.setShep_shep (s : State) (v) : (s.setShep v).shep = v := rfl
@[simp] theorem State.setShep_ledg (s : State) (v) : (s.setShep v).ledg = s.ledg := rfl
@[simp] theorem State.setShep_out (s : State) (v) : (s.setShep v).out = s.out := rfl
@[simp] theorem State.setShep_free (s : State) (v) : (s.setShep v).free = s.free := rfl
@[simp] theorem State.setShep_pending (s : State) (v) : (s.setShep v).pending = s.pending := rfl

/-! ### setLedg -/

@[simp] theorem State.setLedg_part (s : State) (v) : (s.setLedg v).part = s.part := rfl
@[simp] theorem State.setLedg_serial (s : State) (v) : (s.setLedg v).serial = s.serial := rfl
@[simp] theorem State.setLedg_straps (s : State) (v) : (s.setLedg v).straps = s.straps := rfl
@[simp] theorem State.setLedg_regs (s : State) (v) : (s.setLedg v).regs = s.regs := rfl
@[simp] theorem State.setLedg_mem (s : State) (v) : (s.setLedg v).mem = s.mem := rfl
@[simp] theorem State.setLedg_time (s : State) (v) : (s.setLedg v).time = s.time := rfl
@[simp] theorem State.setLedg_spare (s : State) (v) : (s.setLedg v).spare = s.spare := rfl
@[simp] theorem State.setLedg_config (s : State) (v) : (s.setLedg v).config = s.config := rfl
@[simp] theorem State.setLedg_queues (s : State) (v) : (s.setLedg v).queues = s.queues := rfl
@[simp] theorem State.setLedg_parts (s : State) (v) : (s.setLedg v).parts = s.parts := rfl
@[simp] theorem State.setLedg_insts (s : State) (v) : (s.setLedg v).insts = s.insts := rfl
@[simp] theorem State.setLedg_comp (s : State) (v) : (s.setLedg v).comp = s.comp := rfl
@[simp] theorem State.setLedg_link (s : State) (v) : (s.setLedg v).link = s.link := rfl
@[simp] theorem State.setLedg_host (s : State) (v) : (s.setLedg v).host = s.host := rfl
@[simp] theorem State.setLedg_prom (s : State) (v) : (s.setLedg v).prom = s.prom := rfl
@[simp] theorem State.setLedg_shep (s : State) (v) : (s.setLedg v).shep = s.shep := rfl
@[simp] theorem State.setLedg_ledg (s : State) (v) : (s.setLedg v).ledg = v := rfl
@[simp] theorem State.setLedg_out (s : State) (v) : (s.setLedg v).out = s.out := rfl
@[simp] theorem State.setLedg_free (s : State) (v) : (s.setLedg v).free = s.free := rfl
@[simp] theorem State.setLedg_pending (s : State) (v) : (s.setLedg v).pending = s.pending := rfl

/-! ### setFree -/

@[simp] theorem State.setFree_part (s : State) (v) : (s.setFree v).part = s.part := rfl
@[simp] theorem State.setFree_serial (s : State) (v) : (s.setFree v).serial = s.serial := rfl
@[simp] theorem State.setFree_straps (s : State) (v) : (s.setFree v).straps = s.straps := rfl
@[simp] theorem State.setFree_regs (s : State) (v) : (s.setFree v).regs = s.regs := rfl
@[simp] theorem State.setFree_mem (s : State) (v) : (s.setFree v).mem = s.mem := rfl
@[simp] theorem State.setFree_time (s : State) (v) : (s.setFree v).time = s.time := rfl
@[simp] theorem State.setFree_spare (s : State) (v) : (s.setFree v).spare = s.spare := rfl
@[simp] theorem State.setFree_config (s : State) (v) : (s.setFree v).config = s.config := rfl
@[simp] theorem State.setFree_queues (s : State) (v) : (s.setFree v).queues = s.queues := rfl
@[simp] theorem State.setFree_parts (s : State) (v) : (s.setFree v).parts = s.parts := rfl
@[simp] theorem State.setFree_insts (s : State) (v) : (s.setFree v).insts = s.insts := rfl
@[simp] theorem State.setFree_comp (s : State) (v) : (s.setFree v).comp = s.comp := rfl
@[simp] theorem State.setFree_link (s : State) (v) : (s.setFree v).link = s.link := rfl
@[simp] theorem State.setFree_host (s : State) (v) : (s.setFree v).host = s.host := rfl
@[simp] theorem State.setFree_prom (s : State) (v) : (s.setFree v).prom = s.prom := rfl
@[simp] theorem State.setFree_shep (s : State) (v) : (s.setFree v).shep = s.shep := rfl
@[simp] theorem State.setFree_ledg (s : State) (v) : (s.setFree v).ledg = s.ledg := rfl
@[simp] theorem State.setFree_out (s : State) (v) : (s.setFree v).out = s.out := rfl
@[simp] theorem State.setFree_free (s : State) (v) : (s.setFree v).free = v := rfl
@[simp] theorem State.setFree_pending (s : State) (v) : (s.setFree v).pending = s.pending := rfl

/-! ### setPending -/

@[simp] theorem State.setPending_part (s : State) (v) : (s.setPending v).part = s.part := rfl
@[simp] theorem State.setPending_serial (s : State) (v) : (s.setPending v).serial = s.serial := rfl
@[simp] theorem State.setPending_straps (s : State) (v) : (s.setPending v).straps = s.straps := rfl
@[simp] theorem State.setPending_regs (s : State) (v) : (s.setPending v).regs = s.regs := rfl
@[simp] theorem State.setPending_mem (s : State) (v) : (s.setPending v).mem = s.mem := rfl
@[simp] theorem State.setPending_time (s : State) (v) : (s.setPending v).time = s.time := rfl
@[simp] theorem State.setPending_spare (s : State) (v) : (s.setPending v).spare = s.spare := rfl
@[simp] theorem State.setPending_config (s : State) (v) : (s.setPending v).config = s.config := rfl
@[simp] theorem State.setPending_queues (s : State) (v) : (s.setPending v).queues = s.queues := rfl
@[simp] theorem State.setPending_parts (s : State) (v) : (s.setPending v).parts = s.parts := rfl
@[simp] theorem State.setPending_insts (s : State) (v) : (s.setPending v).insts = s.insts := rfl
@[simp] theorem State.setPending_comp (s : State) (v) : (s.setPending v).comp = s.comp := rfl
@[simp] theorem State.setPending_link (s : State) (v) : (s.setPending v).link = s.link := rfl
@[simp] theorem State.setPending_host (s : State) (v) : (s.setPending v).host = s.host := rfl
@[simp] theorem State.setPending_prom (s : State) (v) : (s.setPending v).prom = s.prom := rfl
@[simp] theorem State.setPending_shep (s : State) (v) : (s.setPending v).shep = s.shep := rfl
@[simp] theorem State.setPending_ledg (s : State) (v) : (s.setPending v).ledg = s.ledg := rfl
@[simp] theorem State.setPending_out (s : State) (v) : (s.setPending v).out = s.out := rfl
@[simp] theorem State.setPending_free (s : State) (v) : (s.setPending v).free = s.free := rfl
@[simp] theorem State.setPending_pending (s : State) (v) : (s.setPending v).pending = v := rfl

/-! ### emit -/

@[simp] theorem State.emit_part (s : State) (o : Out) : (s.emit o).part = s.part := rfl
@[simp] theorem State.emit_serial (s : State) (o : Out) : (s.emit o).serial = s.serial := rfl
@[simp] theorem State.emit_straps (s : State) (o : Out) : (s.emit o).straps = s.straps := rfl
@[simp] theorem State.emit_regs (s : State) (o : Out) : (s.emit o).regs = s.regs := rfl
@[simp] theorem State.emit_mem (s : State) (o : Out) : (s.emit o).mem = s.mem := rfl
@[simp] theorem State.emit_time (s : State) (o : Out) : (s.emit o).time = s.time := rfl
@[simp] theorem State.emit_spare (s : State) (o : Out) : (s.emit o).spare = s.spare := rfl
@[simp] theorem State.emit_config (s : State) (o : Out) : (s.emit o).config = s.config := rfl
@[simp] theorem State.emit_queues (s : State) (o : Out) : (s.emit o).queues = s.queues := rfl
@[simp] theorem State.emit_parts (s : State) (o : Out) : (s.emit o).parts = s.parts := rfl
@[simp] theorem State.emit_insts (s : State) (o : Out) : (s.emit o).insts = s.insts := rfl
@[simp] theorem State.emit_comp (s : State) (o : Out) : (s.emit o).comp = s.comp := rfl
@[simp] theorem State.emit_link (s : State) (o : Out) : (s.emit o).link = s.link := rfl
@[simp] theorem State.emit_host (s : State) (o : Out) : (s.emit o).host = s.host := rfl
@[simp] theorem State.emit_prom (s : State) (o : Out) : (s.emit o).prom = s.prom := rfl
@[simp] theorem State.emit_shep (s : State) (o : Out) : (s.emit o).shep = s.shep := rfl
@[simp] theorem State.emit_ledg (s : State) (o : Out) : (s.emit o).ledg = s.ledg := rfl
@[simp] theorem State.emit_out (s : State) (o : Out) : (s.emit o).out = s.out ++ [o] := rfl
@[simp] theorem State.emit_free (s : State) (o : Out) : (s.emit o).free = s.free := rfl
@[simp] theorem State.emit_pending (s : State) (o : Out) : (s.emit o).pending = s.pending := rfl

/-! ### setWord -/

@[simp] theorem State.setWord_part (s : State) (r v) : (s.setWord r v).part = s.part := rfl
@[simp] theorem State.setWord_serial (s : State) (r v) : (s.setWord r v).serial = s.serial := rfl
@[simp] theorem State.setWord_straps (s : State) (r v) : (s.setWord r v).straps = s.straps := rfl
@[simp] theorem State.setWord_mem (s : State) (r v) : (s.setWord r v).mem = s.mem := rfl
@[simp] theorem State.setWord_time (s : State) (r v) : (s.setWord r v).time = s.time := rfl
@[simp] theorem State.setWord_spare (s : State) (r v) : (s.setWord r v).spare = s.spare := rfl
@[simp] theorem State.setWord_config (s : State) (r v) : (s.setWord r v).config = s.config := rfl
@[simp] theorem State.setWord_queues (s : State) (r v) : (s.setWord r v).queues = s.queues := rfl
@[simp] theorem State.setWord_parts (s : State) (r v) : (s.setWord r v).parts = s.parts := rfl
@[simp] theorem State.setWord_insts (s : State) (r v) : (s.setWord r v).insts = s.insts := rfl
@[simp] theorem State.setWord_comp (s : State) (r v) : (s.setWord r v).comp = s.comp := rfl
@[simp] theorem State.setWord_link (s : State) (r v) : (s.setWord r v).link = s.link := rfl
@[simp] theorem State.setWord_host (s : State) (r v) : (s.setWord r v).host = s.host := rfl
@[simp] theorem State.setWord_prom (s : State) (r v) : (s.setWord r v).prom = s.prom := rfl
@[simp] theorem State.setWord_shep (s : State) (r v) : (s.setWord r v).shep = s.shep := rfl
@[simp] theorem State.setWord_ledg (s : State) (r v) : (s.setWord r v).ledg = s.ledg := rfl
@[simp] theorem State.setWord_out (s : State) (r v) : (s.setWord r v).out = s.out := rfl
@[simp] theorem State.setWord_free (s : State) (r v) : (s.setWord r v).free = s.free := rfl
@[simp] theorem State.setWord_pending (s : State) (r v) : (s.setWord r v).pending = s.pending := rfl

/-! ### setFld -/

@[simp] theorem State.setFld_part (s : State) (f v) : (s.setFld f v).part = s.part := rfl
@[simp] theorem State.setFld_serial (s : State) (f v) : (s.setFld f v).serial = s.serial := rfl
@[simp] theorem State.setFld_straps (s : State) (f v) : (s.setFld f v).straps = s.straps := rfl
@[simp] theorem State.setFld_mem (s : State) (f v) : (s.setFld f v).mem = s.mem := rfl
@[simp] theorem State.setFld_time (s : State) (f v) : (s.setFld f v).time = s.time := rfl
@[simp] theorem State.setFld_spare (s : State) (f v) : (s.setFld f v).spare = s.spare := rfl
@[simp] theorem State.setFld_config (s : State) (f v) : (s.setFld f v).config = s.config := rfl
@[simp] theorem State.setFld_queues (s : State) (f v) : (s.setFld f v).queues = s.queues := rfl
@[simp] theorem State.setFld_parts (s : State) (f v) : (s.setFld f v).parts = s.parts := rfl
@[simp] theorem State.setFld_insts (s : State) (f v) : (s.setFld f v).insts = s.insts := rfl
@[simp] theorem State.setFld_comp (s : State) (f v) : (s.setFld f v).comp = s.comp := rfl
@[simp] theorem State.setFld_link (s : State) (f v) : (s.setFld f v).link = s.link := rfl
@[simp] theorem State.setFld_host (s : State) (f v) : (s.setFld f v).host = s.host := rfl
@[simp] theorem State.setFld_prom (s : State) (f v) : (s.setFld f v).prom = s.prom := rfl
@[simp] theorem State.setFld_shep (s : State) (f v) : (s.setFld f v).shep = s.shep := rfl
@[simp] theorem State.setFld_ledg (s : State) (f v) : (s.setFld f v).ledg = s.ledg := rfl
@[simp] theorem State.setFld_out (s : State) (f v) : (s.setFld f v).out = s.out := rfl
@[simp] theorem State.setFld_free (s : State) (f v) : (s.setFld f v).free = s.free := rfl
@[simp] theorem State.setFld_pending (s : State) (f v) : (s.setFld f v).pending = s.pending := rfl

/-! ### countFld -/

@[simp] theorem State.countFld_part (s : State) (f v) : (s.countFld f v).part = s.part := rfl
@[simp] theorem State.countFld_serial (s : State) (f v) : (s.countFld f v).serial = s.serial := rfl
@[simp] theorem State.countFld_straps (s : State) (f v) : (s.countFld f v).straps = s.straps := rfl
@[simp] theorem State.countFld_mem (s : State) (f v) : (s.countFld f v).mem = s.mem := rfl
@[simp] theorem State.countFld_time (s : State) (f v) : (s.countFld f v).time = s.time := rfl
@[simp] theorem State.countFld_spare (s : State) (f v) : (s.countFld f v).spare = s.spare := rfl
@[simp] theorem State.countFld_config (s : State) (f v) : (s.countFld f v).config = s.config := rfl
@[simp] theorem State.countFld_queues (s : State) (f v) : (s.countFld f v).queues = s.queues := rfl
@[simp] theorem State.countFld_parts (s : State) (f v) : (s.countFld f v).parts = s.parts := rfl
@[simp] theorem State.countFld_insts (s : State) (f v) : (s.countFld f v).insts = s.insts := rfl
@[simp] theorem State.countFld_comp (s : State) (f v) : (s.countFld f v).comp = s.comp := rfl
@[simp] theorem State.countFld_link (s : State) (f v) : (s.countFld f v).link = s.link := rfl
@[simp] theorem State.countFld_host (s : State) (f v) : (s.countFld f v).host = s.host := rfl
@[simp] theorem State.countFld_prom (s : State) (f v) : (s.countFld f v).prom = s.prom := rfl
@[simp] theorem State.countFld_shep (s : State) (f v) : (s.countFld f v).shep = s.shep := rfl
@[simp] theorem State.countFld_ledg (s : State) (f v) : (s.countFld f v).ledg = s.ledg := rfl
@[simp] theorem State.countFld_out (s : State) (f v) : (s.countFld f v).out = s.out := rfl
@[simp] theorem State.countFld_free (s : State) (f v) : (s.countFld f v).free = s.free := rfl
@[simp] theorem State.countFld_pending (s : State) (f v) : (s.countFld f v).pending = s.pending := rfl

/-! ### setPair -/

@[simp] theorem State.setPair_part (s : State) (lo hi v) : (s.setPair lo hi v).part = s.part := rfl
@[simp] theorem State.setPair_serial (s : State) (lo hi v) : (s.setPair lo hi v).serial = s.serial := rfl
@[simp] theorem State.setPair_straps (s : State) (lo hi v) : (s.setPair lo hi v).straps = s.straps := rfl
@[simp] theorem State.setPair_mem (s : State) (lo hi v) : (s.setPair lo hi v).mem = s.mem := rfl
@[simp] theorem State.setPair_time (s : State) (lo hi v) : (s.setPair lo hi v).time = s.time := rfl
@[simp] theorem State.setPair_spare (s : State) (lo hi v) : (s.setPair lo hi v).spare = s.spare := rfl
@[simp] theorem State.setPair_config (s : State) (lo hi v) : (s.setPair lo hi v).config = s.config := rfl
@[simp] theorem State.setPair_queues (s : State) (lo hi v) : (s.setPair lo hi v).queues = s.queues := rfl
@[simp] theorem State.setPair_parts (s : State) (lo hi v) : (s.setPair lo hi v).parts = s.parts := rfl
@[simp] theorem State.setPair_insts (s : State) (lo hi v) : (s.setPair lo hi v).insts = s.insts := rfl
@[simp] theorem State.setPair_comp (s : State) (lo hi v) : (s.setPair lo hi v).comp = s.comp := rfl
@[simp] theorem State.setPair_link (s : State) (lo hi v) : (s.setPair lo hi v).link = s.link := rfl
@[simp] theorem State.setPair_host (s : State) (lo hi v) : (s.setPair lo hi v).host = s.host := rfl
@[simp] theorem State.setPair_prom (s : State) (lo hi v) : (s.setPair lo hi v).prom = s.prom := rfl
@[simp] theorem State.setPair_shep (s : State) (lo hi v) : (s.setPair lo hi v).shep = s.shep := rfl
@[simp] theorem State.setPair_ledg (s : State) (lo hi v) : (s.setPair lo hi v).ledg = s.ledg := rfl
@[simp] theorem State.setPair_out (s : State) (lo hi v) : (s.setPair lo hi v).out = s.out := rfl
@[simp] theorem State.setPair_free (s : State) (lo hi v) : (s.setPair lo hi v).free = s.free := rfl
@[simp] theorem State.setPair_pending (s : State) (lo hi v) : (s.setPair lo hi v).pending = s.pending := rfl

/-! ### setQueue -/

@[simp] theorem State.setQueue_part (s : State) (q v) : (s.setQueue q v).part = s.part := rfl
@[simp] theorem State.setQueue_serial (s : State) (q v) : (s.setQueue q v).serial = s.serial := rfl
@[simp] theorem State.setQueue_straps (s : State) (q v) : (s.setQueue q v).straps = s.straps := rfl
@[simp] theorem State.setQueue_regs (s : State) (q v) : (s.setQueue q v).regs = s.regs := rfl
@[simp] theorem State.setQueue_mem (s : State) (q v) : (s.setQueue q v).mem = s.mem := rfl
@[simp] theorem State.setQueue_time (s : State) (q v) : (s.setQueue q v).time = s.time := rfl
@[simp] theorem State.setQueue_spare (s : State) (q v) : (s.setQueue q v).spare = s.spare := rfl
@[simp] theorem State.setQueue_config (s : State) (q v) : (s.setQueue q v).config = s.config := rfl
@[simp] theorem State.setQueue_parts (s : State) (q v) : (s.setQueue q v).parts = s.parts := rfl
@[simp] theorem State.setQueue_insts (s : State) (q v) : (s.setQueue q v).insts = s.insts := rfl
@[simp] theorem State.setQueue_comp (s : State) (q v) : (s.setQueue q v).comp = s.comp := rfl
@[simp] theorem State.setQueue_link (s : State) (q v) : (s.setQueue q v).link = s.link := rfl
@[simp] theorem State.setQueue_host (s : State) (q v) : (s.setQueue q v).host = s.host := rfl
@[simp] theorem State.setQueue_prom (s : State) (q v) : (s.setQueue q v).prom = s.prom := rfl
@[simp] theorem State.setQueue_shep (s : State) (q v) : (s.setQueue q v).shep = s.shep := rfl
@[simp] theorem State.setQueue_ledg (s : State) (q v) : (s.setQueue q v).ledg = s.ledg := rfl
@[simp] theorem State.setQueue_out (s : State) (q v) : (s.setQueue q v).out = s.out := rfl
@[simp] theorem State.setQueue_free (s : State) (q v) : (s.setQueue q v).free = s.free := rfl
@[simp] theorem State.setQueue_pending (s : State) (q v) : (s.setQueue q v).pending = s.pending := rfl

/-! ### setPartition -/

@[simp] theorem State.setPartition_part (s : State) (p v) : (s.setPartition p v).part = s.part := rfl
@[simp] theorem State.setPartition_serial (s : State) (p v) : (s.setPartition p v).serial = s.serial := rfl
@[simp] theorem State.setPartition_straps (s : State) (p v) : (s.setPartition p v).straps = s.straps := rfl
@[simp] theorem State.setPartition_regs (s : State) (p v) : (s.setPartition p v).regs = s.regs := rfl
@[simp] theorem State.setPartition_mem (s : State) (p v) : (s.setPartition p v).mem = s.mem := rfl
@[simp] theorem State.setPartition_time (s : State) (p v) : (s.setPartition p v).time = s.time := rfl
@[simp] theorem State.setPartition_spare (s : State) (p v) : (s.setPartition p v).spare = s.spare := rfl
@[simp] theorem State.setPartition_config (s : State) (p v) : (s.setPartition p v).config = s.config := rfl
@[simp] theorem State.setPartition_queues (s : State) (p v) : (s.setPartition p v).queues = s.queues := rfl
@[simp] theorem State.setPartition_insts (s : State) (p v) : (s.setPartition p v).insts = s.insts := rfl
@[simp] theorem State.setPartition_comp (s : State) (p v) : (s.setPartition p v).comp = s.comp := rfl
@[simp] theorem State.setPartition_link (s : State) (p v) : (s.setPartition p v).link = s.link := rfl
@[simp] theorem State.setPartition_host (s : State) (p v) : (s.setPartition p v).host = s.host := rfl
@[simp] theorem State.setPartition_prom (s : State) (p v) : (s.setPartition p v).prom = s.prom := rfl
@[simp] theorem State.setPartition_shep (s : State) (p v) : (s.setPartition p v).shep = s.shep := rfl
@[simp] theorem State.setPartition_ledg (s : State) (p v) : (s.setPartition p v).ledg = s.ledg := rfl
@[simp] theorem State.setPartition_out (s : State) (p v) : (s.setPartition p v).out = s.out := rfl
@[simp] theorem State.setPartition_free (s : State) (p v) : (s.setPartition p v).free = s.free := rfl
@[simp] theorem State.setPartition_pending (s : State) (p v) : (s.setPartition p v).pending = s.pending := rfl

/-! ### setCompany -/

@[simp] theorem State.setCompany_part (s : State) (c v) : (s.setCompany c v).part = s.part := rfl
@[simp] theorem State.setCompany_serial (s : State) (c v) : (s.setCompany c v).serial = s.serial := rfl
@[simp] theorem State.setCompany_straps (s : State) (c v) : (s.setCompany c v).straps = s.straps := rfl
@[simp] theorem State.setCompany_regs (s : State) (c v) : (s.setCompany c v).regs = s.regs := rfl
@[simp] theorem State.setCompany_mem (s : State) (c v) : (s.setCompany c v).mem = s.mem := rfl
@[simp] theorem State.setCompany_time (s : State) (c v) : (s.setCompany c v).time = s.time := rfl
@[simp] theorem State.setCompany_spare (s : State) (c v) : (s.setCompany c v).spare = s.spare := rfl
@[simp] theorem State.setCompany_config (s : State) (c v) : (s.setCompany c v).config = s.config := rfl
@[simp] theorem State.setCompany_queues (s : State) (c v) : (s.setCompany c v).queues = s.queues := rfl
@[simp] theorem State.setCompany_parts (s : State) (c v) : (s.setCompany c v).parts = s.parts := rfl
@[simp] theorem State.setCompany_insts (s : State) (c v) : (s.setCompany c v).insts = s.insts := rfl
@[simp] theorem State.setCompany_link (s : State) (c v) : (s.setCompany c v).link = s.link := rfl
@[simp] theorem State.setCompany_host (s : State) (c v) : (s.setCompany c v).host = s.host := rfl
@[simp] theorem State.setCompany_prom (s : State) (c v) : (s.setCompany c v).prom = s.prom := rfl
@[simp] theorem State.setCompany_shep (s : State) (c v) : (s.setCompany c v).shep = s.shep := rfl
@[simp] theorem State.setCompany_ledg (s : State) (c v) : (s.setCompany c v).ledg = s.ledg := rfl
@[simp] theorem State.setCompany_out (s : State) (c v) : (s.setCompany c v).out = s.out := rfl
@[simp] theorem State.setCompany_free (s : State) (c v) : (s.setCompany c v).free = s.free := rfl
@[simp] theorem State.setCompany_pending (s : State) (c v) : (s.setCompany c v).pending = s.pending := rfl

/-! ### setCast -/

@[simp] theorem State.setCast_part (s : State) (e v) : (s.setCast e v).part = s.part := rfl
@[simp] theorem State.setCast_serial (s : State) (e v) : (s.setCast e v).serial = s.serial := rfl
@[simp] theorem State.setCast_straps (s : State) (e v) : (s.setCast e v).straps = s.straps := rfl
@[simp] theorem State.setCast_regs (s : State) (e v) : (s.setCast e v).regs = s.regs := rfl
@[simp] theorem State.setCast_mem (s : State) (e v) : (s.setCast e v).mem = s.mem := rfl
@[simp] theorem State.setCast_time (s : State) (e v) : (s.setCast e v).time = s.time := rfl
@[simp] theorem State.setCast_spare (s : State) (e v) : (s.setCast e v).spare = s.spare := rfl
@[simp] theorem State.setCast_config (s : State) (e v) : (s.setCast e v).config = s.config := rfl
@[simp] theorem State.setCast_queues (s : State) (e v) : (s.setCast e v).queues = s.queues := rfl
@[simp] theorem State.setCast_parts (s : State) (e v) : (s.setCast e v).parts = s.parts := rfl
@[simp] theorem State.setCast_insts (s : State) (e v) : (s.setCast e v).insts = s.insts := rfl
@[simp] theorem State.setCast_link (s : State) (e v) : (s.setCast e v).link = s.link := rfl
@[simp] theorem State.setCast_host (s : State) (e v) : (s.setCast e v).host = s.host := rfl
@[simp] theorem State.setCast_prom (s : State) (e v) : (s.setCast e v).prom = s.prom := rfl
@[simp] theorem State.setCast_shep (s : State) (e v) : (s.setCast e v).shep = s.shep := rfl
@[simp] theorem State.setCast_ledg (s : State) (e v) : (s.setCast e v).ledg = s.ledg := rfl
@[simp] theorem State.setCast_out (s : State) (e v) : (s.setCast e v).out = s.out := rfl
@[simp] theorem State.setCast_free (s : State) (e v) : (s.setCast e v).free = s.free := rfl
@[simp] theorem State.setCast_pending (s : State) (e v) : (s.setCast e v).pending = s.pending := rfl

/-! ### setChainPort -/

@[simp] theorem State.setChainPort_part (s : State) (n v) : (s.setChainPort n v).part = s.part := rfl
@[simp] theorem State.setChainPort_serial (s : State) (n v) : (s.setChainPort n v).serial = s.serial := rfl
@[simp] theorem State.setChainPort_straps (s : State) (n v) : (s.setChainPort n v).straps = s.straps := rfl
@[simp] theorem State.setChainPort_regs (s : State) (n v) : (s.setChainPort n v).regs = s.regs := rfl
@[simp] theorem State.setChainPort_mem (s : State) (n v) : (s.setChainPort n v).mem = s.mem := rfl
@[simp] theorem State.setChainPort_time (s : State) (n v) : (s.setChainPort n v).time = s.time := rfl
@[simp] theorem State.setChainPort_spare (s : State) (n v) : (s.setChainPort n v).spare = s.spare := rfl
@[simp] theorem State.setChainPort_config (s : State) (n v) : (s.setChainPort n v).config = s.config := rfl
@[simp] theorem State.setChainPort_queues (s : State) (n v) : (s.setChainPort n v).queues = s.queues := rfl
@[simp] theorem State.setChainPort_parts (s : State) (n v) : (s.setChainPort n v).parts = s.parts := rfl
@[simp] theorem State.setChainPort_insts (s : State) (n v) : (s.setChainPort n v).insts = s.insts := rfl
@[simp] theorem State.setChainPort_link (s : State) (n v) : (s.setChainPort n v).link = s.link := rfl
@[simp] theorem State.setChainPort_host (s : State) (n v) : (s.setChainPort n v).host = s.host := rfl
@[simp] theorem State.setChainPort_prom (s : State) (n v) : (s.setChainPort n v).prom = s.prom := rfl
@[simp] theorem State.setChainPort_shep (s : State) (n v) : (s.setChainPort n v).shep = s.shep := rfl
@[simp] theorem State.setChainPort_ledg (s : State) (n v) : (s.setChainPort n v).ledg = s.ledg := rfl
@[simp] theorem State.setChainPort_out (s : State) (n v) : (s.setChainPort n v).out = s.out := rfl
@[simp] theorem State.setChainPort_free (s : State) (n v) : (s.setChainPort n v).free = s.free := rfl
@[simp] theorem State.setChainPort_pending (s : State) (n v) : (s.setChainPort n v).pending = s.pending := rfl

/-! ### setApron -/

@[simp] theorem State.setApron_part (s : State) (d v) : (s.setApron d v).part = s.part := rfl
@[simp] theorem State.setApron_serial (s : State) (d v) : (s.setApron d v).serial = s.serial := rfl
@[simp] theorem State.setApron_straps (s : State) (d v) : (s.setApron d v).straps = s.straps := rfl
@[simp] theorem State.setApron_regs (s : State) (d v) : (s.setApron d v).regs = s.regs := rfl
@[simp] theorem State.setApron_mem (s : State) (d v) : (s.setApron d v).mem = s.mem := rfl
@[simp] theorem State.setApron_time (s : State) (d v) : (s.setApron d v).time = s.time := rfl
@[simp] theorem State.setApron_spare (s : State) (d v) : (s.setApron d v).spare = s.spare := rfl
@[simp] theorem State.setApron_config (s : State) (d v) : (s.setApron d v).config = s.config := rfl
@[simp] theorem State.setApron_queues (s : State) (d v) : (s.setApron d v).queues = s.queues := rfl
@[simp] theorem State.setApron_parts (s : State) (d v) : (s.setApron d v).parts = s.parts := rfl
@[simp] theorem State.setApron_insts (s : State) (d v) : (s.setApron d v).insts = s.insts := rfl
@[simp] theorem State.setApron_link (s : State) (d v) : (s.setApron d v).link = s.link := rfl
@[simp] theorem State.setApron_host (s : State) (d v) : (s.setApron d v).host = s.host := rfl
@[simp] theorem State.setApron_prom (s : State) (d v) : (s.setApron d v).prom = s.prom := rfl
@[simp] theorem State.setApron_shep (s : State) (d v) : (s.setApron d v).shep = s.shep := rfl
@[simp] theorem State.setApron_ledg (s : State) (d v) : (s.setApron d v).ledg = s.ledg := rfl
@[simp] theorem State.setApron_out (s : State) (d v) : (s.setApron d v).out = s.out := rfl
@[simp] theorem State.setApron_free (s : State) (d v) : (s.setApron d v).free = s.free := rfl
@[simp] theorem State.setApron_pending (s : State) (d v) : (s.setApron d v).pending = s.pending := rfl

/-! ### setPort -/

@[simp] theorem State.setPort_part (s : State) (p v) : (s.setPort p v).part = s.part := rfl
@[simp] theorem State.setPort_serial (s : State) (p v) : (s.setPort p v).serial = s.serial := rfl
@[simp] theorem State.setPort_straps (s : State) (p v) : (s.setPort p v).straps = s.straps := rfl
@[simp] theorem State.setPort_regs (s : State) (p v) : (s.setPort p v).regs = s.regs := rfl
@[simp] theorem State.setPort_mem (s : State) (p v) : (s.setPort p v).mem = s.mem := rfl
@[simp] theorem State.setPort_time (s : State) (p v) : (s.setPort p v).time = s.time := rfl
@[simp] theorem State.setPort_spare (s : State) (p v) : (s.setPort p v).spare = s.spare := rfl
@[simp] theorem State.setPort_config (s : State) (p v) : (s.setPort p v).config = s.config := rfl
@[simp] theorem State.setPort_queues (s : State) (p v) : (s.setPort p v).queues = s.queues := rfl
@[simp] theorem State.setPort_parts (s : State) (p v) : (s.setPort p v).parts = s.parts := rfl
@[simp] theorem State.setPort_insts (s : State) (p v) : (s.setPort p v).insts = s.insts := rfl
@[simp] theorem State.setPort_comp (s : State) (p v) : (s.setPort p v).comp = s.comp := rfl
@[simp] theorem State.setPort_host (s : State) (p v) : (s.setPort p v).host = s.host := rfl
@[simp] theorem State.setPort_prom (s : State) (p v) : (s.setPort p v).prom = s.prom := rfl
@[simp] theorem State.setPort_shep (s : State) (p v) : (s.setPort p v).shep = s.shep := rfl
@[simp] theorem State.setPort_ledg (s : State) (p v) : (s.setPort p v).ledg = s.ledg := rfl
@[simp] theorem State.setPort_out (s : State) (p v) : (s.setPort p v).out = s.out := rfl
@[simp] theorem State.setPort_free (s : State) (p v) : (s.setPort p v).free = s.free := rfl
@[simp] theorem State.setPort_pending (s : State) (p v) : (s.setPort p v).pending = s.pending := rfl

/-! ### setPeerPair -/

@[simp] theorem State.setPeerPair_part (s : State) (n v) : (s.setPeerPair n v).part = s.part := rfl
@[simp] theorem State.setPeerPair_serial (s : State) (n v) : (s.setPeerPair n v).serial = s.serial := rfl
@[simp] theorem State.setPeerPair_straps (s : State) (n v) : (s.setPeerPair n v).straps = s.straps := rfl
@[simp] theorem State.setPeerPair_regs (s : State) (n v) : (s.setPeerPair n v).regs = s.regs := rfl
@[simp] theorem State.setPeerPair_mem (s : State) (n v) : (s.setPeerPair n v).mem = s.mem := rfl
@[simp] theorem State.setPeerPair_time (s : State) (n v) : (s.setPeerPair n v).time = s.time := rfl
@[simp] theorem State.setPeerPair_spare (s : State) (n v) : (s.setPeerPair n v).spare = s.spare := rfl
@[simp] theorem State.setPeerPair_config (s : State) (n v) : (s.setPeerPair n v).config = s.config := rfl
@[simp] theorem State.setPeerPair_queues (s : State) (n v) : (s.setPeerPair n v).queues = s.queues := rfl
@[simp] theorem State.setPeerPair_parts (s : State) (n v) : (s.setPeerPair n v).parts = s.parts := rfl
@[simp] theorem State.setPeerPair_insts (s : State) (n v) : (s.setPeerPair n v).insts = s.insts := rfl
@[simp] theorem State.setPeerPair_comp (s : State) (n v) : (s.setPeerPair n v).comp = s.comp := rfl
@[simp] theorem State.setPeerPair_host (s : State) (n v) : (s.setPeerPair n v).host = s.host := rfl
@[simp] theorem State.setPeerPair_prom (s : State) (n v) : (s.setPeerPair n v).prom = s.prom := rfl
@[simp] theorem State.setPeerPair_shep (s : State) (n v) : (s.setPeerPair n v).shep = s.shep := rfl
@[simp] theorem State.setPeerPair_ledg (s : State) (n v) : (s.setPeerPair n v).ledg = s.ledg := rfl
@[simp] theorem State.setPeerPair_out (s : State) (n v) : (s.setPeerPair n v).out = s.out := rfl
@[simp] theorem State.setPeerPair_free (s : State) (n v) : (s.setPeerPair n v).free = s.free := rfl
@[simp] theorem State.setPeerPair_pending (s : State) (n v) : (s.setPeerPair n v).pending = s.pending := rfl

/-! ### setBox -/

@[simp] theorem State.setBox_part (s : State) (b v) : (s.setBox b v).part = s.part := rfl
@[simp] theorem State.setBox_serial (s : State) (b v) : (s.setBox b v).serial = s.serial := rfl
@[simp] theorem State.setBox_straps (s : State) (b v) : (s.setBox b v).straps = s.straps := rfl
@[simp] theorem State.setBox_regs (s : State) (b v) : (s.setBox b v).regs = s.regs := rfl
@[simp] theorem State.setBox_mem (s : State) (b v) : (s.setBox b v).mem = s.mem := rfl
@[simp] theorem State.setBox_time (s : State) (b v) : (s.setBox b v).time = s.time := rfl
@[simp] theorem State.setBox_spare (s : State) (b v) : (s.setBox b v).spare = s.spare := rfl
@[simp] theorem State.setBox_config (s : State) (b v) : (s.setBox b v).config = s.config := rfl
@[simp] theorem State.setBox_queues (s : State) (b v) : (s.setBox b v).queues = s.queues := rfl
@[simp] theorem State.setBox_parts (s : State) (b v) : (s.setBox b v).parts = s.parts := rfl
@[simp] theorem State.setBox_insts (s : State) (b v) : (s.setBox b v).insts = s.insts := rfl
@[simp] theorem State.setBox_comp (s : State) (b v) : (s.setBox b v).comp = s.comp := rfl
@[simp] theorem State.setBox_link (s : State) (b v) : (s.setBox b v).link = s.link := rfl
@[simp] theorem State.setBox_host (s : State) (b v) : (s.setBox b v).host = s.host := rfl
@[simp] theorem State.setBox_shep (s : State) (b v) : (s.setBox b v).shep = s.shep := rfl
@[simp] theorem State.setBox_ledg (s : State) (b v) : (s.setBox b v).ledg = s.ledg := rfl
@[simp] theorem State.setBox_out (s : State) (b v) : (s.setBox b v).out = s.out := rfl
@[simp] theorem State.setBox_free (s : State) (b v) : (s.setBox b v).free = s.free := rfl
@[simp] theorem State.setBox_pending (s : State) (b v) : (s.setBox b v).pending = s.pending := rfl

/-! ### setGate -/

@[simp] theorem State.setGate_part (s : State) (p g v) : (s.setGate p g v).part = s.part := rfl
@[simp] theorem State.setGate_serial (s : State) (p g v) : (s.setGate p g v).serial = s.serial := rfl
@[simp] theorem State.setGate_straps (s : State) (p g v) : (s.setGate p g v).straps = s.straps := rfl
@[simp] theorem State.setGate_regs (s : State) (p g v) : (s.setGate p g v).regs = s.regs := rfl
@[simp] theorem State.setGate_mem (s : State) (p g v) : (s.setGate p g v).mem = s.mem := rfl
@[simp] theorem State.setGate_time (s : State) (p g v) : (s.setGate p g v).time = s.time := rfl
@[simp] theorem State.setGate_spare (s : State) (p g v) : (s.setGate p g v).spare = s.spare := rfl
@[simp] theorem State.setGate_config (s : State) (p g v) : (s.setGate p g v).config = s.config := rfl
@[simp] theorem State.setGate_queues (s : State) (p g v) : (s.setGate p g v).queues = s.queues := rfl
@[simp] theorem State.setGate_insts (s : State) (p g v) : (s.setGate p g v).insts = s.insts := rfl
@[simp] theorem State.setGate_comp (s : State) (p g v) : (s.setGate p g v).comp = s.comp := rfl
@[simp] theorem State.setGate_link (s : State) (p g v) : (s.setGate p g v).link = s.link := rfl
@[simp] theorem State.setGate_host (s : State) (p g v) : (s.setGate p g v).host = s.host := rfl
@[simp] theorem State.setGate_prom (s : State) (p g v) : (s.setGate p g v).prom = s.prom := rfl
@[simp] theorem State.setGate_shep (s : State) (p g v) : (s.setGate p g v).shep = s.shep := rfl
@[simp] theorem State.setGate_ledg (s : State) (p g v) : (s.setGate p g v).ledg = s.ledg := rfl
@[simp] theorem State.setGate_out (s : State) (p g v) : (s.setGate p g v).out = s.out := rfl
@[simp] theorem State.setGate_free (s : State) (p g v) : (s.setGate p g v).free = s.free := rfl
@[simp] theorem State.setGate_pending (s : State) (p g v) : (s.setGate p g v).pending = s.pending := rfl

/-! ### setFoldClock -/

@[simp] theorem State.setFoldClock_part (s : State) (f v) : (s.setFoldClock f v).part = s.part := rfl
@[simp] theorem State.setFoldClock_serial (s : State) (f v) : (s.setFoldClock f v).serial = s.serial := rfl
@[simp] theorem State.setFoldClock_straps (s : State) (f v) : (s.setFoldClock f v).straps = s.straps := rfl
@[simp] theorem State.setFoldClock_regs (s : State) (f v) : (s.setFoldClock f v).regs = s.regs := rfl
@[simp] theorem State.setFoldClock_mem (s : State) (f v) : (s.setFoldClock f v).mem = s.mem := rfl
@[simp] theorem State.setFoldClock_spare (s : State) (f v) : (s.setFoldClock f v).spare = s.spare := rfl
@[simp] theorem State.setFoldClock_config (s : State) (f v) : (s.setFoldClock f v).config = s.config := rfl
@[simp] theorem State.setFoldClock_queues (s : State) (f v) : (s.setFoldClock f v).queues = s.queues := rfl
@[simp] theorem State.setFoldClock_parts (s : State) (f v) : (s.setFoldClock f v).parts = s.parts := rfl
@[simp] theorem State.setFoldClock_insts (s : State) (f v) : (s.setFoldClock f v).insts = s.insts := rfl
@[simp] theorem State.setFoldClock_comp (s : State) (f v) : (s.setFoldClock f v).comp = s.comp := rfl
@[simp] theorem State.setFoldClock_link (s : State) (f v) : (s.setFoldClock f v).link = s.link := rfl
@[simp] theorem State.setFoldClock_host (s : State) (f v) : (s.setFoldClock f v).host = s.host := rfl
@[simp] theorem State.setFoldClock_prom (s : State) (f v) : (s.setFoldClock f v).prom = s.prom := rfl
@[simp] theorem State.setFoldClock_shep (s : State) (f v) : (s.setFoldClock f v).shep = s.shep := rfl
@[simp] theorem State.setFoldClock_ledg (s : State) (f v) : (s.setFoldClock f v).ledg = s.ledg := rfl
@[simp] theorem State.setFoldClock_out (s : State) (f v) : (s.setFoldClock f v).out = s.out := rfl
@[simp] theorem State.setFoldClock_free (s : State) (f v) : (s.setFoldClock f v).free = s.free := rfl
@[simp] theorem State.setFoldClock_pending (s : State) (f v) : (s.setFoldClock f v).pending = s.pending := rfl

/-! ### setInst -/

@[simp] theorem State.setInst_part (s : State) (v) : (s.setInst v).part = s.part := rfl
@[simp] theorem State.setInst_serial (s : State) (v) : (s.setInst v).serial = s.serial := rfl
@[simp] theorem State.setInst_straps (s : State) (v) : (s.setInst v).straps = s.straps := rfl
@[simp] theorem State.setInst_regs (s : State) (v) : (s.setInst v).regs = s.regs := rfl
@[simp] theorem State.setInst_mem (s : State) (v) : (s.setInst v).mem = s.mem := rfl
@[simp] theorem State.setInst_time (s : State) (v) : (s.setInst v).time = s.time := rfl
@[simp] theorem State.setInst_spare (s : State) (v) : (s.setInst v).spare = s.spare := rfl
@[simp] theorem State.setInst_config (s : State) (v) : (s.setInst v).config = s.config := rfl
@[simp] theorem State.setInst_queues (s : State) (v) : (s.setInst v).queues = s.queues := rfl
@[simp] theorem State.setInst_parts (s : State) (v) : (s.setInst v).parts = s.parts := rfl
@[simp] theorem State.setInst_comp (s : State) (v) : (s.setInst v).comp = s.comp := rfl
@[simp] theorem State.setInst_link (s : State) (v) : (s.setInst v).link = s.link := rfl
@[simp] theorem State.setInst_host (s : State) (v) : (s.setInst v).host = s.host := rfl
@[simp] theorem State.setInst_prom (s : State) (v) : (s.setInst v).prom = s.prom := rfl
@[simp] theorem State.setInst_shep (s : State) (v) : (s.setInst v).shep = s.shep := rfl
@[simp] theorem State.setInst_ledg (s : State) (v) : (s.setInst v).ledg = s.ledg := rfl
@[simp] theorem State.setInst_out (s : State) (v) : (s.setInst v).out = s.out := rfl
@[simp] theorem State.setInst_free (s : State) (v) : (s.setInst v).free = s.free := rfl
@[simp] theorem State.setInst_pending (s : State) (v) : (s.setInst v).pending = s.pending := rfl

/-! ### dropInst -/

@[simp] theorem State.dropInst_part (s : State) (q i) : (s.dropInst q i).part = s.part := rfl
@[simp] theorem State.dropInst_serial (s : State) (q i) : (s.dropInst q i).serial = s.serial := rfl
@[simp] theorem State.dropInst_straps (s : State) (q i) : (s.dropInst q i).straps = s.straps := rfl
@[simp] theorem State.dropInst_regs (s : State) (q i) : (s.dropInst q i).regs = s.regs := rfl
@[simp] theorem State.dropInst_mem (s : State) (q i) : (s.dropInst q i).mem = s.mem := rfl
@[simp] theorem State.dropInst_time (s : State) (q i) : (s.dropInst q i).time = s.time := rfl
@[simp] theorem State.dropInst_spare (s : State) (q i) : (s.dropInst q i).spare = s.spare := rfl
@[simp] theorem State.dropInst_config (s : State) (q i) : (s.dropInst q i).config = s.config := rfl
@[simp] theorem State.dropInst_queues (s : State) (q i) : (s.dropInst q i).queues = s.queues := rfl
@[simp] theorem State.dropInst_parts (s : State) (q i) : (s.dropInst q i).parts = s.parts := rfl
@[simp] theorem State.dropInst_comp (s : State) (q i) : (s.dropInst q i).comp = s.comp := rfl
@[simp] theorem State.dropInst_link (s : State) (q i) : (s.dropInst q i).link = s.link := rfl
@[simp] theorem State.dropInst_host (s : State) (q i) : (s.dropInst q i).host = s.host := rfl
@[simp] theorem State.dropInst_prom (s : State) (q i) : (s.dropInst q i).prom = s.prom := rfl
@[simp] theorem State.dropInst_shep (s : State) (q i) : (s.dropInst q i).shep = s.shep := rfl
@[simp] theorem State.dropInst_ledg (s : State) (q i) : (s.dropInst q i).ledg = s.ledg := rfl
@[simp] theorem State.dropInst_out (s : State) (q i) : (s.dropInst q i).out = s.out := rfl
@[simp] theorem State.dropInst_free (s : State) (q i) : (s.dropInst q i).free = s.free := rfl
@[simp] theorem State.dropInst_pending (s : State) (q i) : (s.dropInst q i).pending = s.pending := rfl

/-! ### setScene -/

@[simp] theorem State.setScene_part (s : State) (p v) : (s.setScene p v).part = s.part := rfl
@[simp] theorem State.setScene_serial (s : State) (p v) : (s.setScene p v).serial = s.serial := rfl
@[simp] theorem State.setScene_straps (s : State) (p v) : (s.setScene p v).straps = s.straps := rfl
@[simp] theorem State.setScene_regs (s : State) (p v) : (s.setScene p v).regs = s.regs := rfl
@[simp] theorem State.setScene_mem (s : State) (p v) : (s.setScene p v).mem = s.mem := rfl
@[simp] theorem State.setScene_time (s : State) (p v) : (s.setScene p v).time = s.time := rfl
@[simp] theorem State.setScene_spare (s : State) (p v) : (s.setScene p v).spare = s.spare := rfl
@[simp] theorem State.setScene_config (s : State) (p v) : (s.setScene p v).config = s.config := rfl
@[simp] theorem State.setScene_queues (s : State) (p v) : (s.setScene p v).queues = s.queues := rfl
@[simp] theorem State.setScene_insts (s : State) (p v) : (s.setScene p v).insts = s.insts := rfl
@[simp] theorem State.setScene_comp (s : State) (p v) : (s.setScene p v).comp = s.comp := rfl
@[simp] theorem State.setScene_link (s : State) (p v) : (s.setScene p v).link = s.link := rfl
@[simp] theorem State.setScene_host (s : State) (p v) : (s.setScene p v).host = s.host := rfl
@[simp] theorem State.setScene_prom (s : State) (p v) : (s.setScene p v).prom = s.prom := rfl
@[simp] theorem State.setScene_shep (s : State) (p v) : (s.setScene p v).shep = s.shep := rfl
@[simp] theorem State.setScene_ledg (s : State) (p v) : (s.setScene p v).ledg = s.ledg := rfl
@[simp] theorem State.setScene_out (s : State) (p v) : (s.setScene p v).out = s.out := rfl
@[simp] theorem State.setScene_free (s : State) (p v) : (s.setScene p v).free = s.free := rfl
@[simp] theorem State.setScene_pending (s : State) (p v) : (s.setScene p v).pending = s.pending := rfl

/-! ### Views that an update of another group leaves alone -/

@[simp] theorem State.setRegs_queue (s : State) (v) (x) : (s.setRegs v).queue x = s.queue x := rfl
@[simp] theorem State.setRegs_partition (s : State) (v) (x) : (s.setRegs v).partition x = s.partition x := rfl
@[simp] theorem State.setRegs_company (s : State) (v) (x) : (s.setRegs v).company x = s.company x := rfl
@[simp] theorem State.setRegs_port (s : State) (v) (x) : (s.setRegs v).port x = s.port x := rfl
@[simp] theorem State.setRegs_peerPair (s : State) (v) (x) : (s.setRegs v).peerPair x = s.peerPair x := rfl
@[simp] theorem State.setRegs_box (s : State) (v) (x) : (s.setRegs v).box x = s.box x := rfl
@[simp] theorem State.setMem_word (s : State) (v) (x) : (s.setMem v).word x = s.word x := rfl
@[simp] theorem State.setMem_fld (s : State) (v) (x) : (s.setMem v).fld x = s.fld x := rfl
@[simp] theorem State.setMem_flag (s : State) (v) (x) : (s.setMem v).flag x = s.flag x := rfl
@[simp] theorem State.setMem_pair (s : State) (v) (x y) : (s.setMem v).pair x y = s.pair x y := rfl
@[simp] theorem State.setMem_queue (s : State) (v) (x) : (s.setMem v).queue x = s.queue x := rfl
@[simp] theorem State.setMem_partition (s : State) (v) (x) : (s.setMem v).partition x = s.partition x := rfl
@[simp] theorem State.setMem_company (s : State) (v) (x) : (s.setMem v).company x = s.company x := rfl
@[simp] theorem State.setMem_port (s : State) (v) (x) : (s.setMem v).port x = s.port x := rfl
@[simp] theorem State.setMem_peerPair (s : State) (v) (x) : (s.setMem v).peerPair x = s.peerPair x := rfl
@[simp] theorem State.setMem_box (s : State) (v) (x) : (s.setMem v).box x = s.box x := rfl
@[simp] theorem State.setTime_word (s : State) (v) (x) : (s.setTime v).word x = s.word x := rfl
@[simp] theorem State.setTime_fld (s : State) (v) (x) : (s.setTime v).fld x = s.fld x := rfl
@[simp] theorem State.setTime_flag (s : State) (v) (x) : (s.setTime v).flag x = s.flag x := rfl
@[simp] theorem State.setTime_pair (s : State) (v) (x y) : (s.setTime v).pair x y = s.pair x y := rfl
@[simp] theorem State.setTime_queue (s : State) (v) (x) : (s.setTime v).queue x = s.queue x := rfl
@[simp] theorem State.setTime_partition (s : State) (v) (x) : (s.setTime v).partition x = s.partition x := rfl
@[simp] theorem State.setTime_company (s : State) (v) (x) : (s.setTime v).company x = s.company x := rfl
@[simp] theorem State.setTime_port (s : State) (v) (x) : (s.setTime v).port x = s.port x := rfl
@[simp] theorem State.setTime_peerPair (s : State) (v) (x) : (s.setTime v).peerPair x = s.peerPair x := rfl
@[simp] theorem State.setTime_box (s : State) (v) (x) : (s.setTime v).box x = s.box x := rfl
@[simp] theorem State.setSpare_word (s : State) (v) (x) : (s.setSpare v).word x = s.word x := rfl
@[simp] theorem State.setSpare_fld (s : State) (v) (x) : (s.setSpare v).fld x = s.fld x := rfl
@[simp] theorem State.setSpare_flag (s : State) (v) (x) : (s.setSpare v).flag x = s.flag x := rfl
@[simp] theorem State.setSpare_pair (s : State) (v) (x y) : (s.setSpare v).pair x y = s.pair x y := rfl
@[simp] theorem State.setSpare_queue (s : State) (v) (x) : (s.setSpare v).queue x = s.queue x := rfl
@[simp] theorem State.setSpare_partition (s : State) (v) (x) : (s.setSpare v).partition x = s.partition x := rfl
@[simp] theorem State.setSpare_company (s : State) (v) (x) : (s.setSpare v).company x = s.company x := rfl
@[simp] theorem State.setSpare_port (s : State) (v) (x) : (s.setSpare v).port x = s.port x := rfl
@[simp] theorem State.setSpare_peerPair (s : State) (v) (x) : (s.setSpare v).peerPair x = s.peerPair x := rfl
@[simp] theorem State.setSpare_box (s : State) (v) (x) : (s.setSpare v).box x = s.box x := rfl
@[simp] theorem State.setConfig_word (s : State) (v) (x) : (s.setConfig v).word x = s.word x := rfl
@[simp] theorem State.setConfig_fld (s : State) (v) (x) : (s.setConfig v).fld x = s.fld x := rfl
@[simp] theorem State.setConfig_flag (s : State) (v) (x) : (s.setConfig v).flag x = s.flag x := rfl
@[simp] theorem State.setConfig_pair (s : State) (v) (x y) : (s.setConfig v).pair x y = s.pair x y := rfl
@[simp] theorem State.setConfig_queue (s : State) (v) (x) : (s.setConfig v).queue x = s.queue x := rfl
@[simp] theorem State.setConfig_partition (s : State) (v) (x) : (s.setConfig v).partition x = s.partition x := rfl
@[simp] theorem State.setConfig_company (s : State) (v) (x) : (s.setConfig v).company x = s.company x := rfl
@[simp] theorem State.setConfig_port (s : State) (v) (x) : (s.setConfig v).port x = s.port x := rfl
@[simp] theorem State.setConfig_peerPair (s : State) (v) (x) : (s.setConfig v).peerPair x = s.peerPair x := rfl
@[simp] theorem State.setConfig_box (s : State) (v) (x) : (s.setConfig v).box x = s.box x := rfl
@[simp] theorem State.setQueues_word (s : State) (v) (x) : (s.setQueues v).word x = s.word x := rfl
@[simp] theorem State.setQueues_fld (s : State) (v) (x) : (s.setQueues v).fld x = s.fld x := rfl
@[simp] theorem State.setQueues_flag (s : State) (v) (x) : (s.setQueues v).flag x = s.flag x := rfl
@[simp] theorem State.setQueues_pair (s : State) (v) (x y) : (s.setQueues v).pair x y = s.pair x y := rfl
@[simp] theorem State.setQueues_partition (s : State) (v) (x) : (s.setQueues v).partition x = s.partition x := rfl
@[simp] theorem State.setQueues_company (s : State) (v) (x) : (s.setQueues v).company x = s.company x := rfl
@[simp] theorem State.setQueues_port (s : State) (v) (x) : (s.setQueues v).port x = s.port x := rfl
@[simp] theorem State.setQueues_peerPair (s : State) (v) (x) : (s.setQueues v).peerPair x = s.peerPair x := rfl
@[simp] theorem State.setQueues_box (s : State) (v) (x) : (s.setQueues v).box x = s.box x := rfl
@[simp] theorem State.setParts_word (s : State) (v) (x) : (s.setParts v).word x = s.word x := rfl
@[simp] theorem State.setParts_fld (s : State) (v) (x) : (s.setParts v).fld x = s.fld x := rfl
@[simp] theorem State.setParts_flag (s : State) (v) (x) : (s.setParts v).flag x = s.flag x := rfl
@[simp] theorem State.setParts_pair (s : State) (v) (x y) : (s.setParts v).pair x y = s.pair x y := rfl
@[simp] theorem State.setParts_queue (s : State) (v) (x) : (s.setParts v).queue x = s.queue x := rfl
@[simp] theorem State.setParts_company (s : State) (v) (x) : (s.setParts v).company x = s.company x := rfl
@[simp] theorem State.setParts_port (s : State) (v) (x) : (s.setParts v).port x = s.port x := rfl
@[simp] theorem State.setParts_peerPair (s : State) (v) (x) : (s.setParts v).peerPair x = s.peerPair x := rfl
@[simp] theorem State.setParts_box (s : State) (v) (x) : (s.setParts v).box x = s.box x := rfl
@[simp] theorem State.setInsts_word (s : State) (v) (x) : (s.setInsts v).word x = s.word x := rfl
@[simp] theorem State.setInsts_fld (s : State) (v) (x) : (s.setInsts v).fld x = s.fld x := rfl
@[simp] theorem State.setInsts_flag (s : State) (v) (x) : (s.setInsts v).flag x = s.flag x := rfl
@[simp] theorem State.setInsts_pair (s : State) (v) (x y) : (s.setInsts v).pair x y = s.pair x y := rfl
@[simp] theorem State.setInsts_queue (s : State) (v) (x) : (s.setInsts v).queue x = s.queue x := rfl
@[simp] theorem State.setInsts_partition (s : State) (v) (x) : (s.setInsts v).partition x = s.partition x := rfl
@[simp] theorem State.setInsts_company (s : State) (v) (x) : (s.setInsts v).company x = s.company x := rfl
@[simp] theorem State.setInsts_port (s : State) (v) (x) : (s.setInsts v).port x = s.port x := rfl
@[simp] theorem State.setInsts_peerPair (s : State) (v) (x) : (s.setInsts v).peerPair x = s.peerPair x := rfl
@[simp] theorem State.setInsts_box (s : State) (v) (x) : (s.setInsts v).box x = s.box x := rfl
@[simp] theorem State.setComp_word (s : State) (v) (x) : (s.setComp v).word x = s.word x := rfl
@[simp] theorem State.setComp_fld (s : State) (v) (x) : (s.setComp v).fld x = s.fld x := rfl
@[simp] theorem State.setComp_flag (s : State) (v) (x) : (s.setComp v).flag x = s.flag x := rfl
@[simp] theorem State.setComp_pair (s : State) (v) (x y) : (s.setComp v).pair x y = s.pair x y := rfl
@[simp] theorem State.setComp_queue (s : State) (v) (x) : (s.setComp v).queue x = s.queue x := rfl
@[simp] theorem State.setComp_partition (s : State) (v) (x) : (s.setComp v).partition x = s.partition x := rfl
@[simp] theorem State.setComp_port (s : State) (v) (x) : (s.setComp v).port x = s.port x := rfl
@[simp] theorem State.setComp_peerPair (s : State) (v) (x) : (s.setComp v).peerPair x = s.peerPair x := rfl
@[simp] theorem State.setComp_box (s : State) (v) (x) : (s.setComp v).box x = s.box x := rfl
@[simp] theorem State.setLink_word (s : State) (v) (x) : (s.setLink v).word x = s.word x := rfl
@[simp] theorem State.setLink_fld (s : State) (v) (x) : (s.setLink v).fld x = s.fld x := rfl
@[simp] theorem State.setLink_flag (s : State) (v) (x) : (s.setLink v).flag x = s.flag x := rfl
@[simp] theorem State.setLink_pair (s : State) (v) (x y) : (s.setLink v).pair x y = s.pair x y := rfl
@[simp] theorem State.setLink_queue (s : State) (v) (x) : (s.setLink v).queue x = s.queue x := rfl
@[simp] theorem State.setLink_partition (s : State) (v) (x) : (s.setLink v).partition x = s.partition x := rfl
@[simp] theorem State.setLink_company (s : State) (v) (x) : (s.setLink v).company x = s.company x := rfl
@[simp] theorem State.setLink_box (s : State) (v) (x) : (s.setLink v).box x = s.box x := rfl
@[simp] theorem State.setHost_word (s : State) (v) (x) : (s.setHost v).word x = s.word x := rfl
@[simp] theorem State.setHost_fld (s : State) (v) (x) : (s.setHost v).fld x = s.fld x := rfl
@[simp] theorem State.setHost_flag (s : State) (v) (x) : (s.setHost v).flag x = s.flag x := rfl
@[simp] theorem State.setHost_pair (s : State) (v) (x y) : (s.setHost v).pair x y = s.pair x y := rfl
@[simp] theorem State.setHost_queue (s : State) (v) (x) : (s.setHost v).queue x = s.queue x := rfl
@[simp] theorem State.setHost_partition (s : State) (v) (x) : (s.setHost v).partition x = s.partition x := rfl
@[simp] theorem State.setHost_company (s : State) (v) (x) : (s.setHost v).company x = s.company x := rfl
@[simp] theorem State.setHost_port (s : State) (v) (x) : (s.setHost v).port x = s.port x := rfl
@[simp] theorem State.setHost_peerPair (s : State) (v) (x) : (s.setHost v).peerPair x = s.peerPair x := rfl
@[simp] theorem State.setHost_box (s : State) (v) (x) : (s.setHost v).box x = s.box x := rfl
@[simp] theorem State.setProm_word (s : State) (v) (x) : (s.setProm v).word x = s.word x := rfl
@[simp] theorem State.setProm_fld (s : State) (v) (x) : (s.setProm v).fld x = s.fld x := rfl
@[simp] theorem State.setProm_flag (s : State) (v) (x) : (s.setProm v).flag x = s.flag x := rfl
@[simp] theorem State.setProm_pair (s : State) (v) (x y) : (s.setProm v).pair x y = s.pair x y := rfl
@[simp] theorem State.setProm_queue (s : State) (v) (x) : (s.setProm v).queue x = s.queue x := rfl
@[simp] theorem State.setProm_partition (s : State) (v) (x) : (s.setProm v).partition x = s.partition x := rfl
@[simp] theorem State.setProm_company (s : State) (v) (x) : (s.setProm v).company x = s.company x := rfl
@[simp] theorem State.setProm_port (s : State) (v) (x) : (s.setProm v).port x = s.port x := rfl
@[simp] theorem State.setProm_peerPair (s : State) (v) (x) : (s.setProm v).peerPair x = s.peerPair x := rfl
@[simp] theorem State.setShep_word (s : State) (v) (x) : (s.setShep v).word x = s.word x := rfl
@[simp] theorem State.setShep_fld (s : State) (v) (x) : (s.setShep v).fld x = s.fld x := rfl
@[simp] theorem State.setShep_flag (s : State) (v) (x) : (s.setShep v).flag x = s.flag x := rfl
@[simp] theorem State.setShep_pair (s : State) (v) (x y) : (s.setShep v).pair x y = s.pair x y := rfl
@[simp] theorem State.setShep_queue (s : State) (v) (x) : (s.setShep v).queue x = s.queue x := rfl
@[simp] theorem State.setShep_partition (s : State) (v) (x) : (s.setShep v).partition x = s.partition x := rfl
@[simp] theorem State.setShep_company (s : State) (v) (x) : (s.setShep v).company x = s.company x := rfl
@[simp] theorem State.setShep_port (s : State) (v) (x) : (s.setShep v).port x = s.port x := rfl
@[simp] theorem State.setShep_peerPair (s : State) (v) (x) : (s.setShep v).peerPair x = s.peerPair x := rfl
@[simp] theorem State.setShep_box (s : State) (v) (x) : (s.setShep v).box x = s.box x := rfl
@[simp] theorem State.setLedg_word (s : State) (v) (x) : (s.setLedg v).word x = s.word x := rfl
@[simp] theorem State.setLedg_fld (s : State) (v) (x) : (s.setLedg v).fld x = s.fld x := rfl
@[simp] theorem State.setLedg_flag (s : State) (v) (x) : (s.setLedg v).flag x = s.flag x := rfl
@[simp] theorem State.setLedg_pair (s : State) (v) (x y) : (s.setLedg v).pair x y = s.pair x y := rfl
@[simp] theorem State.setLedg_queue (s : State) (v) (x) : (s.setLedg v).queue x = s.queue x := rfl
@[simp] theorem State.setLedg_partition (s : State) (v) (x) : (s.setLedg v).partition x = s.partition x := rfl
@[simp] theorem State.setLedg_company (s : State) (v) (x) : (s.setLedg v).company x = s.company x := rfl
@[simp] theorem State.setLedg_port (s : State) (v) (x) : (s.setLedg v).port x = s.port x := rfl
@[simp] theorem State.setLedg_peerPair (s : State) (v) (x) : (s.setLedg v).peerPair x = s.peerPair x := rfl
@[simp] theorem State.setLedg_box (s : State) (v) (x) : (s.setLedg v).box x = s.box x := rfl
@[simp] theorem State.setFree_word (s : State) (v) (x) : (s.setFree v).word x = s.word x := rfl
@[simp] theorem State.setFree_fld (s : State) (v) (x) : (s.setFree v).fld x = s.fld x := rfl
@[simp] theorem State.setFree_flag (s : State) (v) (x) : (s.setFree v).flag x = s.flag x := rfl
@[simp] theorem State.setFree_pair (s : State) (v) (x y) : (s.setFree v).pair x y = s.pair x y := rfl
@[simp] theorem State.setFree_queue (s : State) (v) (x) : (s.setFree v).queue x = s.queue x := rfl
@[simp] theorem State.setFree_partition (s : State) (v) (x) : (s.setFree v).partition x = s.partition x := rfl
@[simp] theorem State.setFree_company (s : State) (v) (x) : (s.setFree v).company x = s.company x := rfl
@[simp] theorem State.setFree_port (s : State) (v) (x) : (s.setFree v).port x = s.port x := rfl
@[simp] theorem State.setFree_peerPair (s : State) (v) (x) : (s.setFree v).peerPair x = s.peerPair x := rfl
@[simp] theorem State.setFree_box (s : State) (v) (x) : (s.setFree v).box x = s.box x := rfl
@[simp] theorem State.setPending_word (s : State) (v) (x) : (s.setPending v).word x = s.word x := rfl
@[simp] theorem State.setPending_fld (s : State) (v) (x) : (s.setPending v).fld x = s.fld x := rfl
@[simp] theorem State.setPending_flag (s : State) (v) (x) : (s.setPending v).flag x = s.flag x := rfl
@[simp] theorem State.setPending_pair (s : State) (v) (x y) : (s.setPending v).pair x y = s.pair x y := rfl
@[simp] theorem State.setPending_queue (s : State) (v) (x) : (s.setPending v).queue x = s.queue x := rfl
@[simp] theorem State.setPending_partition (s : State) (v) (x) : (s.setPending v).partition x = s.partition x := rfl
@[simp] theorem State.setPending_company (s : State) (v) (x) : (s.setPending v).company x = s.company x := rfl
@[simp] theorem State.setPending_port (s : State) (v) (x) : (s.setPending v).port x = s.port x := rfl
@[simp] theorem State.setPending_peerPair (s : State) (v) (x) : (s.setPending v).peerPair x = s.peerPair x := rfl
@[simp] theorem State.setPending_box (s : State) (v) (x) : (s.setPending v).box x = s.box x := rfl
@[simp] theorem State.emit_word (s : State) (v) (x) : (s.emit v).word x = s.word x := rfl
@[simp] theorem State.emit_fld (s : State) (v) (x) : (s.emit v).fld x = s.fld x := rfl
@[simp] theorem State.emit_flag (s : State) (v) (x) : (s.emit v).flag x = s.flag x := rfl
@[simp] theorem State.emit_pair (s : State) (v) (x y) : (s.emit v).pair x y = s.pair x y := rfl
@[simp] theorem State.emit_queue (s : State) (v) (x) : (s.emit v).queue x = s.queue x := rfl
@[simp] theorem State.emit_partition (s : State) (v) (x) : (s.emit v).partition x = s.partition x := rfl
@[simp] theorem State.emit_company (s : State) (v) (x) : (s.emit v).company x = s.company x := rfl
@[simp] theorem State.emit_port (s : State) (v) (x) : (s.emit v).port x = s.port x := rfl
@[simp] theorem State.emit_peerPair (s : State) (v) (x) : (s.emit v).peerPair x = s.peerPair x := rfl
@[simp] theorem State.emit_box (s : State) (v) (x) : (s.emit v).box x = s.box x := rfl
@[simp] theorem State.setWord_queue (s : State) (r v) (x) : (s.setWord r v).queue x = s.queue x := rfl
@[simp] theorem State.setWord_partition (s : State) (r v) (x) : (s.setWord r v).partition x = s.partition x := rfl
@[simp] theorem State.setWord_company (s : State) (r v) (x) : (s.setWord r v).company x = s.company x := rfl
@[simp] theorem State.setWord_port (s : State) (r v) (x) : (s.setWord r v).port x = s.port x := rfl
@[simp] theorem State.setWord_peerPair (s : State) (r v) (x) : (s.setWord r v).peerPair x = s.peerPair x := rfl
@[simp] theorem State.setWord_box (s : State) (r v) (x) : (s.setWord r v).box x = s.box x := rfl
@[simp] theorem State.setFld_queue (s : State) (f v) (x) : (s.setFld f v).queue x = s.queue x := rfl
@[simp] theorem State.setFld_partition (s : State) (f v) (x) : (s.setFld f v).partition x = s.partition x := rfl
@[simp] theorem State.setFld_company (s : State) (f v) (x) : (s.setFld f v).company x = s.company x := rfl
@[simp] theorem State.setFld_port (s : State) (f v) (x) : (s.setFld f v).port x = s.port x := rfl
@[simp] theorem State.setFld_peerPair (s : State) (f v) (x) : (s.setFld f v).peerPair x = s.peerPair x := rfl
@[simp] theorem State.setFld_box (s : State) (f v) (x) : (s.setFld f v).box x = s.box x := rfl
@[simp] theorem State.countFld_queue (s : State) (f v) (x) : (s.countFld f v).queue x = s.queue x := rfl
@[simp] theorem State.countFld_partition (s : State) (f v) (x) : (s.countFld f v).partition x = s.partition x := rfl
@[simp] theorem State.countFld_company (s : State) (f v) (x) : (s.countFld f v).company x = s.company x := rfl
@[simp] theorem State.countFld_port (s : State) (f v) (x) : (s.countFld f v).port x = s.port x := rfl
@[simp] theorem State.countFld_peerPair (s : State) (f v) (x) : (s.countFld f v).peerPair x = s.peerPair x := rfl
@[simp] theorem State.countFld_box (s : State) (f v) (x) : (s.countFld f v).box x = s.box x := rfl
@[simp] theorem State.setPair_queue (s : State) (lo hi v) (x) : (s.setPair lo hi v).queue x = s.queue x := rfl
@[simp] theorem State.setPair_partition (s : State) (lo hi v) (x) : (s.setPair lo hi v).partition x = s.partition x := rfl
@[simp] theorem State.setPair_company (s : State) (lo hi v) (x) : (s.setPair lo hi v).company x = s.company x := rfl
@[simp] theorem State.setPair_port (s : State) (lo hi v) (x) : (s.setPair lo hi v).port x = s.port x := rfl
@[simp] theorem State.setPair_peerPair (s : State) (lo hi v) (x) : (s.setPair lo hi v).peerPair x = s.peerPair x := rfl
@[simp] theorem State.setPair_box (s : State) (lo hi v) (x) : (s.setPair lo hi v).box x = s.box x := rfl
@[simp] theorem State.setQueue_word (s : State) (q v) (x) : (s.setQueue q v).word x = s.word x := rfl
@[simp] theorem State.setQueue_fld (s : State) (q v) (x) : (s.setQueue q v).fld x = s.fld x := rfl
@[simp] theorem State.setQueue_flag (s : State) (q v) (x) : (s.setQueue q v).flag x = s.flag x := rfl
@[simp] theorem State.setQueue_pair (s : State) (q v) (x y) : (s.setQueue q v).pair x y = s.pair x y := rfl
@[simp] theorem State.setQueue_partition (s : State) (q v) (x) : (s.setQueue q v).partition x = s.partition x := rfl
@[simp] theorem State.setQueue_company (s : State) (q v) (x) : (s.setQueue q v).company x = s.company x := rfl
@[simp] theorem State.setQueue_port (s : State) (q v) (x) : (s.setQueue q v).port x = s.port x := rfl
@[simp] theorem State.setQueue_peerPair (s : State) (q v) (x) : (s.setQueue q v).peerPair x = s.peerPair x := rfl
@[simp] theorem State.setQueue_box (s : State) (q v) (x) : (s.setQueue q v).box x = s.box x := rfl
@[simp] theorem State.setPartition_word (s : State) (p v) (x) : (s.setPartition p v).word x = s.word x := rfl
@[simp] theorem State.setPartition_fld (s : State) (p v) (x) : (s.setPartition p v).fld x = s.fld x := rfl
@[simp] theorem State.setPartition_flag (s : State) (p v) (x) : (s.setPartition p v).flag x = s.flag x := rfl
@[simp] theorem State.setPartition_pair (s : State) (p v) (x y) : (s.setPartition p v).pair x y = s.pair x y := rfl
@[simp] theorem State.setPartition_queue (s : State) (p v) (x) : (s.setPartition p v).queue x = s.queue x := rfl
@[simp] theorem State.setPartition_company (s : State) (p v) (x) : (s.setPartition p v).company x = s.company x := rfl
@[simp] theorem State.setPartition_port (s : State) (p v) (x) : (s.setPartition p v).port x = s.port x := rfl
@[simp] theorem State.setPartition_peerPair (s : State) (p v) (x) : (s.setPartition p v).peerPair x = s.peerPair x := rfl
@[simp] theorem State.setPartition_box (s : State) (p v) (x) : (s.setPartition p v).box x = s.box x := rfl
@[simp] theorem State.setCompany_word (s : State) (c v) (x) : (s.setCompany c v).word x = s.word x := rfl
@[simp] theorem State.setCompany_fld (s : State) (c v) (x) : (s.setCompany c v).fld x = s.fld x := rfl
@[simp] theorem State.setCompany_flag (s : State) (c v) (x) : (s.setCompany c v).flag x = s.flag x := rfl
@[simp] theorem State.setCompany_pair (s : State) (c v) (x y) : (s.setCompany c v).pair x y = s.pair x y := rfl
@[simp] theorem State.setCompany_queue (s : State) (c v) (x) : (s.setCompany c v).queue x = s.queue x := rfl
@[simp] theorem State.setCompany_partition (s : State) (c v) (x) : (s.setCompany c v).partition x = s.partition x := rfl
@[simp] theorem State.setCompany_port (s : State) (c v) (x) : (s.setCompany c v).port x = s.port x := rfl
@[simp] theorem State.setCompany_peerPair (s : State) (c v) (x) : (s.setCompany c v).peerPair x = s.peerPair x := rfl
@[simp] theorem State.setCompany_box (s : State) (c v) (x) : (s.setCompany c v).box x = s.box x := rfl
@[simp] theorem State.setCast_word (s : State) (e v) (x) : (s.setCast e v).word x = s.word x := rfl
@[simp] theorem State.setCast_fld (s : State) (e v) (x) : (s.setCast e v).fld x = s.fld x := rfl
@[simp] theorem State.setCast_flag (s : State) (e v) (x) : (s.setCast e v).flag x = s.flag x := rfl
@[simp] theorem State.setCast_pair (s : State) (e v) (x y) : (s.setCast e v).pair x y = s.pair x y := rfl
@[simp] theorem State.setCast_queue (s : State) (e v) (x) : (s.setCast e v).queue x = s.queue x := rfl
@[simp] theorem State.setCast_partition (s : State) (e v) (x) : (s.setCast e v).partition x = s.partition x := rfl
@[simp] theorem State.setCast_port (s : State) (e v) (x) : (s.setCast e v).port x = s.port x := rfl
@[simp] theorem State.setCast_peerPair (s : State) (e v) (x) : (s.setCast e v).peerPair x = s.peerPair x := rfl
@[simp] theorem State.setCast_box (s : State) (e v) (x) : (s.setCast e v).box x = s.box x := rfl
@[simp] theorem State.setChainPort_word (s : State) (n v) (x) : (s.setChainPort n v).word x = s.word x := rfl
@[simp] theorem State.setChainPort_fld (s : State) (n v) (x) : (s.setChainPort n v).fld x = s.fld x := rfl
@[simp] theorem State.setChainPort_flag (s : State) (n v) (x) : (s.setChainPort n v).flag x = s.flag x := rfl
@[simp] theorem State.setChainPort_pair (s : State) (n v) (x y) : (s.setChainPort n v).pair x y = s.pair x y := rfl
@[simp] theorem State.setChainPort_queue (s : State) (n v) (x) : (s.setChainPort n v).queue x = s.queue x := rfl
@[simp] theorem State.setChainPort_partition (s : State) (n v) (x) : (s.setChainPort n v).partition x = s.partition x := rfl
@[simp] theorem State.setChainPort_port (s : State) (n v) (x) : (s.setChainPort n v).port x = s.port x := rfl
@[simp] theorem State.setChainPort_peerPair (s : State) (n v) (x) : (s.setChainPort n v).peerPair x = s.peerPair x := rfl
@[simp] theorem State.setChainPort_box (s : State) (n v) (x) : (s.setChainPort n v).box x = s.box x := rfl
@[simp] theorem State.setApron_word (s : State) (d v) (x) : (s.setApron d v).word x = s.word x := rfl
@[simp] theorem State.setApron_fld (s : State) (d v) (x) : (s.setApron d v).fld x = s.fld x := rfl
@[simp] theorem State.setApron_flag (s : State) (d v) (x) : (s.setApron d v).flag x = s.flag x := rfl
@[simp] theorem State.setApron_pair (s : State) (d v) (x y) : (s.setApron d v).pair x y = s.pair x y := rfl
@[simp] theorem State.setApron_queue (s : State) (d v) (x) : (s.setApron d v).queue x = s.queue x := rfl
@[simp] theorem State.setApron_partition (s : State) (d v) (x) : (s.setApron d v).partition x = s.partition x := rfl
@[simp] theorem State.setApron_port (s : State) (d v) (x) : (s.setApron d v).port x = s.port x := rfl
@[simp] theorem State.setApron_peerPair (s : State) (d v) (x) : (s.setApron d v).peerPair x = s.peerPair x := rfl
@[simp] theorem State.setApron_box (s : State) (d v) (x) : (s.setApron d v).box x = s.box x := rfl
@[simp] theorem State.setPort_word (s : State) (p v) (x) : (s.setPort p v).word x = s.word x := rfl
@[simp] theorem State.setPort_fld (s : State) (p v) (x) : (s.setPort p v).fld x = s.fld x := rfl
@[simp] theorem State.setPort_flag (s : State) (p v) (x) : (s.setPort p v).flag x = s.flag x := rfl
@[simp] theorem State.setPort_pair (s : State) (p v) (x y) : (s.setPort p v).pair x y = s.pair x y := rfl
@[simp] theorem State.setPort_queue (s : State) (p v) (x) : (s.setPort p v).queue x = s.queue x := rfl
@[simp] theorem State.setPort_partition (s : State) (p v) (x) : (s.setPort p v).partition x = s.partition x := rfl
@[simp] theorem State.setPort_company (s : State) (p v) (x) : (s.setPort p v).company x = s.company x := rfl
@[simp] theorem State.setPort_box (s : State) (p v) (x) : (s.setPort p v).box x = s.box x := rfl
@[simp] theorem State.setPeerPair_word (s : State) (n v) (x) : (s.setPeerPair n v).word x = s.word x := rfl
@[simp] theorem State.setPeerPair_fld (s : State) (n v) (x) : (s.setPeerPair n v).fld x = s.fld x := rfl
@[simp] theorem State.setPeerPair_flag (s : State) (n v) (x) : (s.setPeerPair n v).flag x = s.flag x := rfl
@[simp] theorem State.setPeerPair_pair (s : State) (n v) (x y) : (s.setPeerPair n v).pair x y = s.pair x y := rfl
@[simp] theorem State.setPeerPair_queue (s : State) (n v) (x) : (s.setPeerPair n v).queue x = s.queue x := rfl
@[simp] theorem State.setPeerPair_partition (s : State) (n v) (x) : (s.setPeerPair n v).partition x = s.partition x := rfl
@[simp] theorem State.setPeerPair_company (s : State) (n v) (x) : (s.setPeerPair n v).company x = s.company x := rfl
@[simp] theorem State.setPeerPair_box (s : State) (n v) (x) : (s.setPeerPair n v).box x = s.box x := rfl
@[simp] theorem State.setBox_word (s : State) (b v) (x) : (s.setBox b v).word x = s.word x := rfl
@[simp] theorem State.setBox_fld (s : State) (b v) (x) : (s.setBox b v).fld x = s.fld x := rfl
@[simp] theorem State.setBox_flag (s : State) (b v) (x) : (s.setBox b v).flag x = s.flag x := rfl
@[simp] theorem State.setBox_pair (s : State) (b v) (x y) : (s.setBox b v).pair x y = s.pair x y := rfl
@[simp] theorem State.setBox_queue (s : State) (b v) (x) : (s.setBox b v).queue x = s.queue x := rfl
@[simp] theorem State.setBox_partition (s : State) (b v) (x) : (s.setBox b v).partition x = s.partition x := rfl
@[simp] theorem State.setBox_company (s : State) (b v) (x) : (s.setBox b v).company x = s.company x := rfl
@[simp] theorem State.setBox_port (s : State) (b v) (x) : (s.setBox b v).port x = s.port x := rfl
@[simp] theorem State.setBox_peerPair (s : State) (b v) (x) : (s.setBox b v).peerPair x = s.peerPair x := rfl
@[simp] theorem State.setGate_word (s : State) (p g v) (x) : (s.setGate p g v).word x = s.word x := rfl
@[simp] theorem State.setGate_fld (s : State) (p g v) (x) : (s.setGate p g v).fld x = s.fld x := rfl
@[simp] theorem State.setGate_flag (s : State) (p g v) (x) : (s.setGate p g v).flag x = s.flag x := rfl
@[simp] theorem State.setGate_pair (s : State) (p g v) (x y) : (s.setGate p g v).pair x y = s.pair x y := rfl
@[simp] theorem State.setGate_queue (s : State) (p g v) (x) : (s.setGate p g v).queue x = s.queue x := rfl
@[simp] theorem State.setGate_company (s : State) (p g v) (x) : (s.setGate p g v).company x = s.company x := rfl
@[simp] theorem State.setGate_port (s : State) (p g v) (x) : (s.setGate p g v).port x = s.port x := rfl
@[simp] theorem State.setGate_peerPair (s : State) (p g v) (x) : (s.setGate p g v).peerPair x = s.peerPair x := rfl
@[simp] theorem State.setGate_box (s : State) (p g v) (x) : (s.setGate p g v).box x = s.box x := rfl
@[simp] theorem State.setFoldClock_word (s : State) (f v) (x) : (s.setFoldClock f v).word x = s.word x := rfl
@[simp] theorem State.setFoldClock_fld (s : State) (f v) (x) : (s.setFoldClock f v).fld x = s.fld x := rfl
@[simp] theorem State.setFoldClock_flag (s : State) (f v) (x) : (s.setFoldClock f v).flag x = s.flag x := rfl
@[simp] theorem State.setFoldClock_pair (s : State) (f v) (x y) : (s.setFoldClock f v).pair x y = s.pair x y := rfl
@[simp] theorem State.setFoldClock_queue (s : State) (f v) (x) : (s.setFoldClock f v).queue x = s.queue x := rfl
@[simp] theorem State.setFoldClock_partition (s : State) (f v) (x) : (s.setFoldClock f v).partition x = s.partition x := rfl
@[simp] theorem State.setFoldClock_company (s : State) (f v) (x) : (s.setFoldClock f v).company x = s.company x := rfl
@[simp] theorem State.setFoldClock_port (s : State) (f v) (x) : (s.setFoldClock f v).port x = s.port x := rfl
@[simp] theorem State.setFoldClock_peerPair (s : State) (f v) (x) : (s.setFoldClock f v).peerPair x = s.peerPair x := rfl
@[simp] theorem State.setFoldClock_box (s : State) (f v) (x) : (s.setFoldClock f v).box x = s.box x := rfl
@[simp] theorem State.setInst_word (s : State) (v) (x) : (s.setInst v).word x = s.word x := rfl
@[simp] theorem State.setInst_fld (s : State) (v) (x) : (s.setInst v).fld x = s.fld x := rfl
@[simp] theorem State.setInst_flag (s : State) (v) (x) : (s.setInst v).flag x = s.flag x := rfl
@[simp] theorem State.setInst_pair (s : State) (v) (x y) : (s.setInst v).pair x y = s.pair x y := rfl
@[simp] theorem State.setInst_queue (s : State) (v) (x) : (s.setInst v).queue x = s.queue x := rfl
@[simp] theorem State.setInst_partition (s : State) (v) (x) : (s.setInst v).partition x = s.partition x := rfl
@[simp] theorem State.setInst_company (s : State) (v) (x) : (s.setInst v).company x = s.company x := rfl
@[simp] theorem State.setInst_port (s : State) (v) (x) : (s.setInst v).port x = s.port x := rfl
@[simp] theorem State.setInst_peerPair (s : State) (v) (x) : (s.setInst v).peerPair x = s.peerPair x := rfl
@[simp] theorem State.setInst_box (s : State) (v) (x) : (s.setInst v).box x = s.box x := rfl
@[simp] theorem State.dropInst_word (s : State) (q i) (x) : (s.dropInst q i).word x = s.word x := rfl
@[simp] theorem State.dropInst_fld (s : State) (q i) (x) : (s.dropInst q i).fld x = s.fld x := rfl
@[simp] theorem State.dropInst_flag (s : State) (q i) (x) : (s.dropInst q i).flag x = s.flag x := rfl
@[simp] theorem State.dropInst_pair (s : State) (q i) (x y) : (s.dropInst q i).pair x y = s.pair x y := rfl
@[simp] theorem State.dropInst_queue (s : State) (q i) (x) : (s.dropInst q i).queue x = s.queue x := rfl
@[simp] theorem State.dropInst_partition (s : State) (q i) (x) : (s.dropInst q i).partition x = s.partition x := rfl
@[simp] theorem State.dropInst_company (s : State) (q i) (x) : (s.dropInst q i).company x = s.company x := rfl
@[simp] theorem State.dropInst_port (s : State) (q i) (x) : (s.dropInst q i).port x = s.port x := rfl
@[simp] theorem State.dropInst_peerPair (s : State) (q i) (x) : (s.dropInst q i).peerPair x = s.peerPair x := rfl
@[simp] theorem State.dropInst_box (s : State) (q i) (x) : (s.dropInst q i).box x = s.box x := rfl
@[simp] theorem State.setScene_word (s : State) (p v) (x) : (s.setScene p v).word x = s.word x := rfl
@[simp] theorem State.setScene_fld (s : State) (p v) (x) : (s.setScene p v).fld x = s.fld x := rfl
@[simp] theorem State.setScene_flag (s : State) (p v) (x) : (s.setScene p v).flag x = s.flag x := rfl
@[simp] theorem State.setScene_pair (s : State) (p v) (x y) : (s.setScene p v).pair x y = s.pair x y := rfl
@[simp] theorem State.setScene_queue (s : State) (p v) (x) : (s.setScene p v).queue x = s.queue x := rfl
@[simp] theorem State.setScene_company (s : State) (p v) (x) : (s.setScene p v).company x = s.company x := rfl
@[simp] theorem State.setScene_port (s : State) (p v) (x) : (s.setScene p v).port x = s.port x := rfl
@[simp] theorem State.setScene_peerPair (s : State) (p v) (x) : (s.setScene p v).peerPair x = s.peerPair x := rfl
@[simp] theorem State.setScene_box (s : State) (p v) (x) : (s.setScene p v).box x = s.box x := rfl

end Sys2Proof.Machine
end

