-- ==== Sys2Proof/Laws/Registers.lean ====
section
/-!
SUPPORT. Words and fields of the register file: what a field reads as after it, another field of its word, or another word has
been written.
-/

namespace Sys2Proof.Machine

/-- A field of a number after it has been replaced. -/
theorem bits_setBits_same (v lo len x : Nat) : bits (setBits v lo len x) lo len = x % 2 ^ len := by
  unfold setBits bits
  have hp : 0 < 2 ^ lo := Nat.two_pow_pos lo
  have hq : 0 < 2 ^ len := Nat.two_pow_pos len
  have hle : v / 2 ^ lo % 2 ^ len * 2 ^ lo ≤ v := by
    calc v / 2 ^ lo % 2 ^ len * 2 ^ lo ≤ v / 2 ^ lo * 2 ^ lo := Nat.mul_le_mul_right _ (Nat.mod_le _ _)
      _ ≤ v := Nat.div_mul_le_self _ _
  have h1 : (v - v / 2 ^ lo % 2 ^ len * 2 ^ lo + x % 2 ^ len * 2 ^ lo) / 2 ^ lo
      = (v - v / 2 ^ lo % 2 ^ len * 2 ^ lo) / 2 ^ lo + x % 2 ^ len := Nat.add_mul_div_right _ _ hp
  have h2 : (v - v / 2 ^ lo % 2 ^ len * 2 ^ lo) / 2 ^ lo = v / 2 ^ lo - v / 2 ^ lo % 2 ^ len := by
    rw [Nat.mul_comm, Nat.sub_mul_div]
  rw [h1, h2, Nat.add_mod]
  have h3 : (v / 2 ^ lo - v / 2 ^ lo % 2 ^ len) % 2 ^ len = 0 := by
    have := Nat.div_add_mod (v / 2 ^ lo) (2 ^ len)
    have h4 : v / 2 ^ lo - v / 2 ^ lo % 2 ^ len = 2 ^ len * (v / 2 ^ lo / 2 ^ len) := by omega
    rw [h4, Nat.mul_mod_right]
  rw [h3, Nat.zero_add, Nat.mod_mod, Nat.mod_mod]

/-- A field apart from the one replaced. -/
theorem bits_setBits_apart (v lo len x lo' len' : Nat) (h : lo + len ≤ lo' ∨ lo' + len' ≤ lo) :
    bits (setBits v lo len x) lo' len' = bits v lo' len' := by
  have hp : 0 < 2 ^ lo := Nat.two_pow_pos lo
  have hv : v = 2 ^ (lo + len) * (v / 2 ^ (lo + len)) + 2 ^ lo * (v / 2 ^ lo % 2 ^ len) + v % 2 ^ lo := by
    have h1 := Nat.div_add_mod v (2 ^ lo)
    have h2 := Nat.div_add_mod (v / 2 ^ lo) (2 ^ len)
    rw [Nat.div_div_eq_div_mul, ← Nat.pow_add] at h2
    calc v = 2 ^ lo * (v / 2 ^ lo) + v % 2 ^ lo := h1.symm
      _ = 2 ^ lo * (2 ^ len * (v / 2 ^ (lo + len)) + v / 2 ^ lo % 2 ^ len) + v % 2 ^ lo := by rw [h2]
      _ = _ := by rw [Nat.mul_add, ← Nat.mul_assoc, ← Nat.pow_add]
  have hs : setBits v lo len x = 2 ^ (lo + len) * (v / 2 ^ (lo + len)) + 2 ^ lo * (x % 2 ^ len) + v % 2 ^ lo := by
    unfold setBits bits
    have := Nat.mul_comm (v / 2 ^ lo % 2 ^ len) (2 ^ lo)
    have := Nat.mul_comm (x % 2 ^ len) (2 ^ lo)
    omega
  unfold bits
  rcases h with h | h
  · have e : ∀ y, y < 2 ^ len → (2 ^ (lo + len) * (v / 2 ^ (lo + len)) + 2 ^ lo * y + v % 2 ^ lo) / 2 ^ (lo + len) = v / 2 ^ (lo + len) := by
      intro y hy
      have h1 : 2 ^ lo * y + v % 2 ^ lo < 2 ^ (lo + len) := by
        have := Nat.mod_lt v hp
        calc 2 ^ lo * y + v % 2 ^ lo < 2 ^ lo * y + 2 ^ lo := by omega
          _ = 2 ^ lo * (y + 1) := by rw [Nat.mul_add, Nat.mul_one]
          _ ≤ 2 ^ lo * 2 ^ len := Nat.mul_le_mul_left _ hy
          _ = 2 ^ (lo + len) := (Nat.pow_add ..).symm
      rw [Nat.add_assoc, Nat.mul_add_div (Nat.two_pow_pos _), Nat.div_eq_of_lt h1, Nat.add_zero]
    have hl : lo' = lo + len + (lo' - (lo + len)) := by omega
    rw [hl, Nat.pow_add, ← Nat.div_div_eq_div_mul, ← Nat.div_div_eq_div_mul, hs, e _ (Nat.mod_lt _ (Nat.two_pow_pos _))]
  · have e : ∀ y z, (2 ^ (lo + len) * y + 2 ^ lo * z + v % 2 ^ lo) % 2 ^ (lo' + len') = v % 2 ^ lo % 2 ^ (lo' + len') := by
      intro y z
      have h1 : 2 ^ (lo + len) * y + 2 ^ lo * z = 2 ^ (lo' + len') * (2 ^ (lo - (lo' + len')) * (2 ^ len * y + z)) := by
        rw [← Nat.mul_assoc, ← Nat.pow_add, Nat.mul_add, ← Nat.mul_assoc, ← Nat.pow_add]
        congr 3 <;> omega
      rw [h1, Nat.mul_add_mod]
    have f : ∀ y, y / 2 ^ lo' % 2 ^ len' = y % 2 ^ (lo' + len') / 2 ^ lo' := by
      intro y
      rw [Nat.pow_add, Nat.mod_mul_right_div_self]
    rw [f, f v, hs, e]
    conv_rhs => rw [hv, e]

/-- A word just written reads as written. -/
theorem State.word_setWord_same (s : State) (r : Reg) (v : Word32) (h : s.regs.file.Pairwise fun x y => x.1 < y.1) :
    (s.setWord r v).word r = v := by
  unfold State.word State.setWord
  exact tblGet_tblSet_same _ _ _ _ h

/-- A word at another offset is not changed by a write. -/
theorem State.word_setWord_other (s : State) (r x : Reg) (v : Word32) (h : s.regs.file.Pairwise fun x y => x.1 < y.1)
    (ne : x.addr ≠ r.addr) : (s.setWord r v).word x = s.word x := by
  unfold State.word State.setWord
  have : ∀ (d e : Word32) (t : List (Nat × Word32)), t.Pairwise (fun x y => x.1 < y.1) →
      tblGet d (tblSet e t r.addr v) x.addr = tblGet d t x.addr := by
    intro d e t
    induction t with
    | nil =>
      intro _
      by_cases hv : v = e
      · simp [tblSet, hv]
      · simp [tblSet, tblGet, hv, Ne.symm ne]
    | cons c t ih =>
      obtain ⟨k, w⟩ := c
      intro hp
      rw [List.pairwise_cons] at hp
      unfold tblSet
      split
      · split
        · rfl
        · simp only [tblGet]; rw [if_neg (Ne.symm ne)]
      · split
        · next heq =>
          have hk : k ≠ x.addr := by rw [← heq]; exact Ne.symm ne
          split
          · simp only [tblGet]; rw [if_neg hk]
          · simp only [tblGet]; rw [if_neg (Ne.symm ne), if_neg hk]
        · simp only [tblGet]; split
          · rfl
          · exact ih hp.2
  exact this _ _ _ h

/-- A field just written reads as the part of the value that it holds. -/
theorem State.fld_setFld_same (s : State) (f : Fld) (v : Nat) (h : s.regs.file.Pairwise fun x y => x.1 < y.1)
    (hf : f.lo + f.len ≤ 32) : (s.setFld f v).fld f = v % 2 ^ f.len := by
  unfold State.fld State.setFld
  rw [State.word_setWord_same _ _ _ h]
  have hb : bits ((BitVec.ofNat 32 (setBits (s.word f.reg).toNat f.lo f.len v)).toNat) f.lo f.len
      = bits (setBits (s.word f.reg).toNat f.lo f.len v) f.lo f.len := by
    rw [BitVec.toNat_ofNat]
    unfold bits
    have h32 : (2 : Nat) ^ 32 = 2 ^ f.lo * 2 ^ (32 - f.lo) := by rw [← Nat.pow_add]; congr 1; omega
    rw [h32, Nat.mod_mul_right_div_self]
    exact Nat.mod_mod_of_dvd _ (Nat.pow_dvd_pow 2 (by omega))
  rw [hb, bits_setBits_same]

/-- Another field of the same word is not changed. -/
theorem State.fld_setFld_apart (s : State) (f g : Fld) (v : Nat) (h : s.regs.file.Pairwise fun x y => x.1 < y.1)
    (hr : g.reg = f.reg) (hg : g.lo + g.len ≤ 32) (ha : f.lo + f.len ≤ g.lo ∨ g.lo + g.len ≤ f.lo) : (s.setFld f v).fld g = s.fld g := by
  unfold State.fld State.setFld
  rw [hr, State.word_setWord_same _ _ _ h, BitVec.toNat_ofNat]
  have e : ∀ x : Nat, bits (x % 2 ^ 32) g.lo g.len = bits x g.lo g.len := by
    intro x
    unfold bits
    have h32 : (2 : Nat) ^ 32 = 2 ^ g.lo * 2 ^ (32 - g.lo) := by rw [← Nat.pow_add]; congr 1; omega
    rw [h32, Nat.mod_mul_right_div_self]
    exact Nat.mod_mod_of_dvd _ (Nat.pow_dvd_pow 2 (by omega))
  rw [e, bits_setBits_apart _ _ _ _ _ _ ha]

/-- A field of another word is not changed by a field's write. -/
theorem State.fld_setFld_other (s : State) (f g : Fld) (v : Nat) (h : s.regs.file.Pairwise fun x y => x.1 < y.1)
    (ne : g.reg.addr ≠ f.reg.addr) : (s.setFld f v).fld g = s.fld g := by
  unfold State.fld State.setFld
  rw [State.word_setWord_other _ _ _ _ h ne]

/-- A word at another offset is not changed by a field's write. -/
theorem State.word_setFld_other (s : State) (f : Fld) (r : Reg) (v : Nat) (h : s.regs.file.Pairwise fun x y => x.1 < y.1)
    (ne : r.addr ≠ f.reg.addr) : (s.setFld f v).word r = s.word r := State.word_setWord_other _ _ _ _ h ne

/-- Writing a field keeps the offsets of the file strictly rising. -/
theorem State.setFld_sorted (s : State) (f : Fld) (v : Nat) (h : s.regs.file.Pairwise fun x y => x.1 < y.1) :
    (s.setFld f v).regs.file.Pairwise fun x y => x.1 < y.1 := tblSet_pairwise _ _ _ _ h

end Sys2Proof.Machine
end

