-- ==== Sys2Proof/Laws/Tiers.lean ====
section
/-!
SUPPORT. What reading a tier answers after a write of it, and that a write of one tier leaves the others as they are.
-/

namespace Sys2Proof.Machine

/-- A run of bytes is the bytes one by one. -/
theorem Memory.readN_eq (m : List Host.Cell) (a n : Nat) : Memory.readN m a n = (List.range n).map fun i => Memory.read m (a + i) := by
  induction n generalizing a with
  | zero => rfl
  | succ n ih =>
    rw [Memory.readN, ih, List.range_succ_eq_map, List.map_cons, List.map_map]
    congr 1
    apply List.map_congr_left
    intro i _
    simp only [Function.comp]
    congr 1
    omega

/-- Reading after cells have been written in order: the last cell written there, else what stood there. -/
theorem Memory.read_foldl_write {α : Type} (l : List α) (key : α → Nat) (val : α → Byte) (m : List Host.Cell) (h : Memory.wf m) (k : Nat) :
    Memory.read (l.foldl (fun m c => Memory.write m (key c) (val c)) m) k =
      match l.reverse.find? (fun c => key c == k) with
      | some c => val c
      | none => Memory.read m k := by
  induction l generalizing m with
  | nil => rfl
  | cons x l ih =>
    rw [List.foldl_cons, ih _ (Memory.write_wf _ _ _ h), List.reverse_cons, List.find?_append]
    cases l.reverse.find? (fun c => key c == k) with
    | some c => rfl
    | none =>
      by_cases hx : key x = k
      · subst hx; simp [Memory.read_write_same _ _ _ h]
      · simp [hx, Memory.read_write_other _ _ _ _ h (Ne.symm hx)]

/-- Reading a byte that none of the cells written names. -/
theorem Memory.read_foldl_write_other {α : Type} (l : List α) (key : α → Nat) (val : α → Byte) (m : List Host.Cell) (h : Memory.wf m) (k : Nat)
    (hk : ∀ c ∈ l, key c ≠ k) : Memory.read (l.foldl (fun m c => Memory.write m (key c) (val c)) m) k = Memory.read m k := by
  rw [Memory.read_foldl_write _ _ _ _ h]
  rw [List.find?_eq_none.mpr]
  intro c hc
  simpa using hk c (List.mem_reverse.mp hc)

/-- What a replaced poison list leaves: every tier's memory. -/
@[simp] theorem State.tierMem_setPoison (s : State) (t u : Nat) (l : List Nat) : (s.setPoison t l).tierMem u = s.tierMem u := by
  unfold State.setPoison
  split <;> rfl

/-- A tier's memory replaced reads as replaced. -/
theorem State.tierMem_setTierMem_same (s : State) (t : Nat) (m : List Host.Cell) : (s.setTierMem t m).tierMem t = m := by
  unfold State.setTierMem State.tierMem
  split <;> simp_all

/-- Another tier's memory is not changed. The codes from 6 upward name HOST, as 4 does. -/
theorem State.tierMem_setTierMem_other (s : State) (t u : Nat) (m : List Host.Cell) (ht : t < 6) (hu : u < 6) (ne : u ≠ t) :
    (s.setTierMem t m).tierMem u = s.tierMem u := by
  unfold State.setTierMem State.tierMem
  split <;> split <;> simp_all <;> omega

/-- The cells of a run of bytes, one by one. -/
theorem mem_cellsOf (a : Nat) (bs : Bytes) (c : Nat × Byte) : c ∈ cellsOf a bs ↔ ∃ i < bs.length, c = (a + i, bs.getD i 0) := by
  simp [cellsOf, eq_comm]

/-- Mended pieces leave every tier's memory. -/
@[simp] theorem State.tierMem_mend (s : State) (t u : Nat) (ks : List Nat) : (s.mend t ks).tierMem u = s.tierMem u := by
  unfold State.mend
  dsimp only
  split
  · rw [← State.tierMem_setPoison s t u (stillBad (pieceBytes t) ks (s.poison t))]; unfold State.tierMem; split <;> rfl
  · simp

/-- The memory of the tier written. -/
theorem State.writeCells_tierMem (s : State) (t who : Nat) (cells : List (Nat × Byte)) :
    (s.writeCells t who cells).tierMem t = cells.foldl (fun m c => Memory.write m (tierKey t who c.1) c.2) (s.tierMem t) := by
  simp only [State.writeCells, State.tierMem_mend, State.tierMem_setTierMem_same]

/-- A byte outside the cells written reads as before. -/
theorem State.writeCells_read_other (s : State) (t who : Nat) (cells : List (Nat × Byte)) (h : Memory.wf (s.tierMem t)) (who' a : Nat)
    (hk : ∀ c ∈ cells, tierKey t who c.1 ≠ tierKey t who' a) : (s.writeCells t who cells).tierByte t who' a = s.tierByte t who' a := by
  unfold State.tierByte
  rw [State.writeCells_tierMem]
  exact Memory.read_foldl_write_other _ _ _ _ h _ hk

/-- Addresses of one holder have keys of their own. -/
theorem tierKey_inj (t who a b : Nat) (h : tierKey t who a = tierKey t who b) : a = b := by
  unfold tierKey at h
  split at h
  · omega
  · split at h <;> omega

/-- A run of bytes written reads back. -/
theorem State.writeTier_read_same (s : State) (t who a : Nat) (bs : Bytes) (h : Memory.wf (s.tierMem t)) (i : Nat) (hi : i < bs.length) :
    (s.writeTier t who a bs).tierByte t who (a + i) = bs.getD i 0 := by
  unfold State.tierByte State.writeTier
  rw [State.writeCells_tierMem, Memory.read_foldl_write _ (fun c : Nat × Byte => tierKey t who c.1) (fun c => c.2) _ h]
  have hm : (a + i, bs.getD i 0) ∈ (cellsOf a bs).reverse := List.mem_reverse.mpr ((mem_cellsOf _ _ _).mpr ⟨i, hi, rfl⟩)
  cases hf : (cellsOf a bs).reverse.find? (fun c => tierKey t who c.1 == tierKey t who (a + i)) with
  | none =>
    have := List.find?_eq_none.mp hf _ hm
    simp at this
  | some c =>
    have h1 := List.find?_some hf
    obtain ⟨j, -, rfl⟩ := (mem_cellsOf _ _ _).mp (List.mem_reverse.mp (List.mem_of_find?_eq_some hf))
    have : a + j = a + i := tierKey_inj _ _ _ _ (by simpa using h1)
    have : j = i := by omega
    subst this
    rfl

/-- A byte outside a run written reads as before. -/
theorem State.writeTier_read_other (s : State) (t who a : Nat) (bs : Bytes) (h : Memory.wf (s.tierMem t)) (b : Nat)
    (hb : b < a ∨ a + bs.length ≤ b) : (s.writeTier t who a bs).tierByte t who b = s.tierByte t who b := by
  unfold State.writeTier
  refine State.writeCells_read_other _ _ _ _ h _ _ fun c hc he => ?_
  obtain ⟨i, hi, rfl⟩ := (mem_cellsOf _ _ _).mp hc
  have := tierKey_inj _ _ _ _ he
  dsimp only at this
  omega

/-- The keys of a run are consecutive. -/
theorem tierKey_add (t who a i : Nat) : tierKey t who a + i = tierKey t who (a + i) := by
  unfold tierKey
  split
  · omega
  · split <;> omega

/-- The bytes of a tier, one by one. -/
theorem State.tierBytes_eq (s : State) (t who a n : Nat) : s.tierBytes t who a n = (List.range n).map fun i => s.tierByte t who (a + i) := by
  unfold State.tierBytes State.tierByte
  rw [Memory.readN_eq]
  simp only [tierKey_add]

/-- A run of bytes written reads back whole. -/
theorem State.writeTier_bytes_same (s : State) (t who a : Nat) (bs : Bytes) (h : Memory.wf (s.tierMem t)) :
    (s.writeTier t who a bs).tierBytes t who a bs.length = bs := by
  rw [State.tierBytes_eq]
  apply List.ext_getElem
  · simp
  · intro i h1 h2
    simp only [List.getElem_map, List.getElem_range]
    rw [State.writeTier_read_same _ _ _ _ _ h _ h2]
    simp [List.getD_eq_getElem?_getD, h2]

/-- An access in the shared cache leaves every tier's memory. -/
@[simp] theorem State.touch_tierMem (s : State) (hint : Nat) (w : Bool) (addrs : List Nat) (t : Nat) :
    (s.touch hint w addrs).tierMem t = s.tierMem t := by
  unfold State.touch
  split
  · unfold State.tierMem; split <;> rfl
  · rfl

end Sys2Proof.Machine
end

