-- ==== Sys2Proof/Tests/Slice0.lean ====
section
/-!
SUPPORT. Tests: for every statement with hypotheses a concrete state and operands that meet them (test_witness_…), an ill-formed
term that each check of Instr.wf refuses (test_wf_…), and a few values worked out by hand from the manual.
-/

open Sys2Proof Sys2Proof.Machine

/- One theorem at a time: the evaluations below take less memory so. -/
set_option Elab.async false

namespace Sys2Proof.Tests

/-- A device whose clocks run, its PCIe link serving, its stacked memory and cache enabled, its Prompter running. -/
def up : State :=
  let s := (State.reset.setFld F.hubBootPhase 4).setFld F.shpStatusState 1
  let s := (s.setFld F.hbcCtrlEn 1).setFld F.cacCtrlEn 1
  { s with host := { s.host with pcieUp := true }, prom := { s.prom with cores := .running } }

/-- Partition 0 of one fold, 1 GiB of stacked memory, queues 0 to 3, company 0 and two cast-table entries. -/
def demoBlock : PartBlock :=
  { dtab := 0x70000, folds := 1, queueCount := 4, vecBase := 1, vecCount := 4, memSize := 1, companyCount := 4, castCount := 2,
    inflightMax := 64, holdDefault := 1024, waitDefault := 1024 }

/-- A queue of 16 packets, of a kind: n packets rung. -/
def demoQueue (q kind n : Nat) : Queue :=
  { block := { ringBase := 0x100000 + 0x1000 * q, cplBase := 0x200000 + 0x1000 * q, kind := kind, contin := true }, tail := n }

/-- The running scene of partition 0: queues 1 to 3. -/
def demoScene : Scene :=
  { id := 0, ctrl := 0, running := true, begun := true, entries := [1, 2, 3] ++ List.replicate 13 65535, queues := [1, 2, 3],
    dtab := 0x80000, baseRaw := 0, acct := 0x3100, prio := 0, lsWindow := 3, holdBudget := 100, waitBudget := 100 }

/-- Company 0 of two members, of which this device is the first. -/
def demoCompany : CompanyEntry := { company := 0, size := 2, rank := 0, queue := 3, leaves := 2, slipAllow := 4, roster := 0x4000 }

/-- Partition 0 enabled with its four queues: 0 control, 1 access, 2 execute, 3 collective; nothing rung, no scene. -/
def enabled : State :=
  let s := (up.setFld (F.parCtrlEn 0) 1).setFld (F.parStatusState 0) 1
  let s := (((s.setFld (F.queQctrlEn 0) 1).setFld (F.queQctrlEn 1) 1).setFld (F.queQctrlEn 2) 1).setFld (F.queQctrlEn 3) 1
  { s with
    parts := [(0, { block := some demoBlock, clusters := List.range 64 })]
    queues := [(0, demoQueue 0 3 0), (1, demoQueue 1 1 0), (2, demoQueue 2 0 0), (3, demoQueue 3 2 0)] }

/-- The same with a running scene, under whose control queue 0 is, and a company. -/
def staged : State :=
  let s := enabled.setPartition 0 { enabled.partition 0 with scenes := [demoScene], nextScene := 1 }
  let s := s.setQueue 0 { s.queue 0 with openScene := some 0 }
  { s with comp := { s.comp with companies := [(0, demoCompany)] } }

def le (n v : Nat) : Bytes := natLE n v

/-- The cells of bytes from an address on; 0 is what an unlisted address reads as. -/
def cellsAt (a : Nat) (bs : Bytes) : List Host.Cell :=
  ((List.range bs.length).zip bs).filterMap fun x => if x.2 = 0 then none else some (a + x.1, x.2)

/-- The 64 bytes of a descriptor. -/
structure D where
  base : Nat
  cap : Nat := 0x10000
  shape : List Nat := [1, 1, 1, 1]
  st : List Nat := [64, 64, 64]
  fmt : Nat := 0x0E
  tier : Nat := 2
  kind : Nat := 0
  bexp : Nat := 0x8000
  layout : Nat := 0
  rank : Nat := 0
def D.bytes (d : D) : Bytes :=
  le 8 d.base ++ le 8 d.cap ++ d.shape.flatMap (le 4) ++ d.st.flatMap (le 8) ++ le 1 d.fmt ++ le 1 (d.tier + 16 * d.kind) ++
    le 2 d.bexp ++ le 1 d.layout ++ le 1 0 ++ le 2 d.rank

/-- The 16 bytes of a packet. -/
structure P where
  op : Nat
  md : Nat := 0
  cueq : Nat := 0
  ta : Nat := 0
  tb : Nat := 0
  tc : Nat := 0
  slots : List Nat := []
  imm : Nat := 0
def P.bytes (k : P) : Bytes :=
  le 16 (k.op + k.md * 2 ^ 8 + k.cueq * 2 ^ 16 + k.ta * 2 ^ 20 + k.tb * 2 ^ 24 + k.tc * 2 ^ 28 + k.slots.getD 0 0 * 2 ^ 32 +
    k.slots.getD 1 0 * 2 ^ 44 + k.slots.getD 2 0 * 2 ^ 56 + k.slots.getD 3 0 * 2 ^ 68 + k.imm * 2 ^ 80)

/-- s with packets rung on queue q, the descriptors given standing from entry 1 of the table, and more bytes of stacked
memory; all in increasing address order. -/
def rung (s : State) (q : Nat) (ks : List P) (ds : List D := []) (more : List (Nat × Bytes) := []) (table : Nat := 0x80000) : State :=
  let cells := more.flatMap (fun (x : Nat × Bytes) => cellsAt x.1 x.2) ++ cellsAt (table + 64) (ds.flatMap D.bytes) ++
    cellsAt (0x100000 + 0x1000 * q) (ks.flatMap P.bytes)
  let s := s.setMem { s.mem with stack := cells }
  s.setQueue q { s.queue q with tail := ks.length }

/-! What the head of queue q is, and that it passes -/
def qp (s : State) (q : Nat) : Nat := (s.partOf q).getD 0
def qk (s : State) (q : Nat) : Pkt := s.packetAt (qp s q) q (s.queue q).head
def qsc (s : State) (q : Nat) : Option Scene := if (qk s q).opcode = 0x01 then none else s.sceneOf (qp s q) q
def qread (s : State) (q : Nat) : State × Judged := headRead s q (qp s q) (qk s q) (qsc s q)
def qarea (s : State) (q : Nat) : Option (Nat × Nat) :=
  let m := qread s q
  let i0 := headInst s q (qp s q) (qk s q) (qsc s q)
  if (qk s q).area = 0 then none else m.1.placeArea i0 (m.1.windowOf i0) (qk s q).area (localTop m.2.i.operands)
def qi (s : State) (q : Nat) : Inst :=
  let m := qread s q
  let t := m.1.takeNumber m.2.i
  { t.2 with outs := t.2.realOuts, area := qarea s q }
def qu (s : State) (q : Nat) : State :=
  let m := qread s q
  ((m.1.takeNumber m.2.i).1.noteIssue (qi s q) 1).enter (qi s q)

def passing (s : State) (q op : Nat) : Bool :=
  let p := qp s q
  let k := qk s q
  let sc := qsc s q
  s.partOf q == some p && s.mayIssue p q && s.fetchEvent p q (s.queue q).head == 0 && k.opcode == op &&
    s.shareOk p ((sc.map (·.prio)).getD 0) && s.cueMet (s.baseCueOf p q sc) k &&
    decide (headVerdict s q p k sc = .passes) && !headHazard s q p k sc && (k.area == 0 || (qarea s q).isSome)

theorem passing_passes (s : State) (q op : Nat) (h : passing s q op = true) :
    Passes s q op (qu s q) (qi s q) (qp s q) (qk s q) (qsc s q) := by
  simp only [passing, Bool.and_eq_true, beq_iff_eq, decide_eq_true_eq, Bool.not_eq_true', Bool.or_eq_true] at h
  obtain ⟨⟨⟨⟨⟨⟨⟨⟨h1, h2⟩, h3⟩, h4⟩, h5⟩, h6⟩, h7⟩, h8⟩, h9⟩ := h
  refine ⟨⟨h1, h2, h3, rfl, h4, ?_, h5, h6⟩, h7, h8, ?_, rfl, rfl⟩
  · simp only [qsc, h4]
  · by_cases ha : (qk s q).area = 0
    · exact .inl ⟨by simp [qi, qarea, ha], ha⟩
    · refine .inr ⟨ha, ?_, ?_⟩
      · simp only [qi]; exact h9.resolve_left ha
      · simp [qi, qarea, ha, qread]

/-! ## The instruction rows -/

/-- A small FP32 tensor in place n. -/
def f4 (n : Nat) : D := { base := 0x20000 + 0x1000 * n, shape := [4, 1, 1, 1], fmt := 0x01 }
def w4 (n : Nat) : D := { f4 n with fmt := 0x09 }
def bf (n a b : Nat) : D := { base := 0x20000 + 0x1000 * n, shape := [a, b, 1, 1], st := [64, 64 * b, 64 * b], fmt := 0x02 }
def params (n : Nat) : D := { base := 0x20000 + 0x1000 * n, cap := 64, kind := 1 }
def place (n : Nat) : Nat := 0x20000 + 0x1000 * n

/-- The state whose queue q has a packet of the running scene at its head. -/
def headS (q : Nat) (k : P) (ds : List D := []) (more : List (Nat × Bytes) := []) : State := rung staged q [k] ds more

def beginBlock : Bytes :=
  le 8 0x80000 ++ le 8 0 ++ le 8 0x3100 ++ le 1 0 ++ le 1 3 ++ le 2 0 ++ le 4 0 ++ [1, 2, 3].flatMap (le 2) ++ List.replicate 26 0xFF
def sBegin : State := rung enabled 0 [{ op := 0x01, slots := [0, 1] }] [params 8] [(place 8, beginBlock)] 0x70000
def sNop := headS 2 { op := 0x00 }
def sEnd := headS 0 { op := 0x02 }
def sPreempt := headS 2 { op := 0x03, imm := 1 }
def sAcq := headS 2 { op := 0x05, imm := 3 }
def sRel := headS 2 { op := 0x06, imm := 3 }
def sHurdle := headS 2 { op := 0x07, imm := 0x201 }
def sStamp := headS 2 { op := 0x08, slots := [1] } [{ base := place 1, shape := [16, 1, 1, 1] }]
def sProp := headS 2 { op := 0x09, slots := [1], imm := 2 } [{ base := place 1, shape := [8, 1, 1, 1] }]
def sResume := headS 0 { op := 0x0A, imm := 1 }
def matP (op : Nat) (slots : List Nat) : P := { op := op, ta := 2, tb := 2, tc := 4, slots := slots }
def mC (n m : Nat) : D := { base := place 1, shape := [n, m, 1, 1], st := [64, 64 * m, 64 * m], fmt := 0x01 }
def sMma := headS 2 (matP 0x10 [1, 2, 3]) [mC 4 4, bf 2 16 4, bf 3 4 16]
def collParams (ix : List Nat) (cap := 0) : Bytes := le 2 0 ++ ix.flatMap (le 2) ++ le 1 0 ++ le 3 0 ++ le 4 cap ++ le 4 100 ++ le 2 4
def words (n k : Nat) : D := { base := place n, shape := [k, 1, 1, 1], fmt := 0x09 }
def sSend := headS 3 (matP 0x11 [1, 2, 3, 4]) [mC 4 4, bf 2 16 4, bf 3 4 16, params 4, words 5 1]
  [(place 4, collParams [5, 0, 0, 0, 0, 0, 0, 0, 0]), (place 5, le 4 1)]
def sRsum := headS 3 (matP 0x12 [1, 2, 3, 4]) [mC 4 4, bf 2 16 8, bf 3 4 16, params 4, mC 4 4 |> fun d => { d with base := place 6 }]
  [(place 4, collParams [0, 0, 5, 0, 0, 0, 0, 0, 0])]
def sGather := headS 3 (matP 0x13 [1, 2, 3, 4]) [mC 8 4, bf 2 16 4, bf 3 4 16, params 4, words 5 2, bf 6 8 16]
  [(place 4, collParams [0, 5, 6, 0, 0, 0, 0, 0, 0]), (place 5, le 4 0 ++ le 4 1)]
def sA2aMma := headS 3 (matP 0x14 [0, 2, 0, 4]) [mC 4 4, bf 2 16 4, bf 3 4 16, params 4, { words 5 1 with shape := [1, 4, 1, 1], st := [64, 256, 256] }, words 6 1]
  [(place 4, collParams [0, 0, 0, 0, 0, 5, 0, 6, 0] 4), (place 6, le 4 1)]
def sMmaA2a := headS 3 (matP 0x15 [1, 0, 0, 4])
  [mC 4 4, bf 2 4 4, { words 5 1 with base := place 3, shape := [1, 4, 1, 1], st := [64, 256, 256], fmt := 1 }, params 4,
   { words 5 1 with shape := [1, 4, 1, 1], st := [64, 256, 256] }, words 6 1]
  [(place 4, collParams [0, 0, 2, 0, 0, 5, 3, 6, 0] 4), (place 6, le 4 1)]
def sConv := headS 2 { op := 0x18, ta := 2, tb := 2, tc := 4, slots := [1, 2, 3] }
  [{ bf 1 32 1 with layout := 2 }, { bf 2 32 1 with layout := 2 }, bf 3 1 1]
/-- A tensor of ATTN in local store, from an offset. -/
def qD (base : Nat) (h : Nat := 1) (e : Nat := 0x8000) : D :=
  { base := base, shape := [64, 64, 1, h], st := [128, 8192, 8192], fmt := 0x02, tier := 0, bexp := e }
def attnParams (ix : List Nat) (bound : Nat) : Bytes :=
  ix.flatMap (le 2) ++ le 1 0 ++ le 1 1 ++ le 1 1 ++ le 1 0 ++ le 2 65535 ++ le 4 0x3F800000 ++ le 4 128 ++ le 4 bound ++ le 4 100 ++ le 2 4
def attnDs (e : Nat) : List D := [qD 0 1 e, qD 0x2000 1 e, qD 0x4000 2 e, params 4, words 5 2,
  { base := 0x8000, shape := [2, 64, 1, 1], st := [16, 1024, 1024], fmt := 0x01, tier := 0 }, { base := 0x500000, cap := 0x1000000 }]
def sFwd := headS 3 { op := 0x1C, cueq := 2, ta := 4, tb := 4, tc := 6, slots := [1, 2, 3, 4] } (attnDs 0x8000)
  [(place 4, attnParams [5, 6, 7, 0, 0, 0, 0, 0, 0] 100), (place 5, le 4 0 ++ le 4 1)]
def sBwd := headS 3 { op := 0x1D, cueq := 2, ta := 4, tb := 4, tc := 6, slots := [1, 2, 3, 4] }
  (attnDs 0 ++ [qD 0xA000 1 0, qD 0xC000 1 0, qD 0xE000 2 0])
  [(place 4, attnParams [5, 6, 7, 0, 0, 0, 8, 9, 10] 0), (place 5, le 4 0 ++ le 4 1)]
/-- An element-wise instruction, of inputs k. -/
def sVec (op k : Nat) (imm : Nat := 0) : State :=
  headS 2 { op := op, ta := 6, slots := (List.range (k + 1)).map (· + 1), imm := imm } ((List.range (k + 1)).map f4)
def sRed (op : Nat) : State := headS 2 { op := op, ta := 6, slots := [1, 2] } [{ f4 1 with shape := [1, 1, 1, 1] }, f4 2]
def sRope := headS 2 { op := 0x53, ta := 6, slots := [1, 2, 3], imm := 0x3F80 } [f4 1, f4 2, words 3 1]
def sMove := headS 1 { op := 0x60, slots := [1, 2] } [f4 1, f4 2] [(place 2, le 4 7)]
def sFill := headS 1 { op := 0x61, slots := [1], imm := 5 } [f4 1]
def sGath (op : Nat) : State := headS 1 { op := op, slots := [1, 2, 3] } [f4 1, f4 2, words 3 1]
def sPush := headS 1 { op := 0x64, ta := 2, tb := 2, slots := [0, 1] } [f4 1]
def sPop := headS 1 { op := 0x65, ta := 2, tb := 2, slots := [1] } [f4 1]
def sFetch (op : Nat) : State := headS 1 { op := op, slots := [0, 1] } [f4 1]
def entryBytes : Bytes := le 8 0x30000 ++ le 8 0x38000 ++ le 4 64
def sRunLoad := headS 1 { op := 0x68, slots := [0, 1], imm := 1 } [{ base := place 1, shape := [32, 1, 1, 1] }]
def sRunMark := headS 1 { op := 0x69, imm := 2 }
def sRunWait := headS 1 { op := 0x6A, imm := 2 }
def sAtom := headS 1 { op := 0x70, slots := [1, 2] } [w4 1, w4 2]
def sCas := headS 1 { op := 0x71, slots := [1, 2, 3, 4] } [w4 1, w4 2, w4 3, w4 4]
def optParams (eps : Nat) : Bytes := le 12 0 ++ le 4 eps ++ le 48 0
def sOpt (op n eps : Nat) : State := headS 2 { op := op, md := 5, ta := 6, slots := [1, 2, 3, 4] }
  [f4 1, f4 2, { f4 3 with shape := [n, 1, 1, 1] }, params 4] [(place 4, optParams eps)]
def sCastLoad := headS 3 { op := 0x90, ta := 4, tb := 4, tc := 6, slots := [0, 1] } [{ base := place 1, shape := [64, 1, 1, 1] }]
def sCastRead := headS 3 { op := 0x91, ta := 4, tb := 4, tc := 6, slots := [1] } [{ base := place 1, shape := [64, 1, 1, 1] }]
def decD (n h e : Nat) : D := { base := place n, shape := [64, 1, h, e], st := [128, 128, 128], fmt := 0x02 }
def sDecode := headS 3 { op := 0x92, ta := 4, tb := 4, tc := 6, slots := [1, 2, 3, 4] }
  [decD 1 1 2, decD 2 1 2, decD 3 1 4, params 4, { base := place 16, cap := 0x10000 }, words 6 2]
  [(place 4, le 2 5 ++ le 2 6 ++ le 1 4 ++ le 3 0 ++ le 4 0x3F800000 ++ le 4 1)]

/-- The head of queue q passes, and f holds of the state and the instruction in flight. -/
def goes (f : State → Inst → Bool) (s : State) (q op : Nat) : Bool := passing s q op && f (qu s q) (qi s q)

theorem goes_passes (f : State → Inst → Bool) (s : State) (q op : Nat) (h : goes f s q op = true) :
    Passes s q op (qu s q) (qi s q) (qp s q) (qk s q) (qsc s q) ∧ f (qu s q) (qi s q) = true := by
  simp only [goes, Bool.and_eq_true] at h
  exact ⟨passing_passes s q op h.1, h.2⟩

/-- The head of queue q may issue, with a verdict. -/
def heading (v : Verdict) (s : State) (q op : Nat) : Bool :=
  let p := qp s q
  let k := qk s q
  let sc := qsc s q
  s.partOf q == some p && s.mayIssue p q && s.fetchEvent p q (s.queue q).head == 0 && k.opcode == op &&
    s.shareOk p ((sc.map (·.prio)).getD 0) && s.cueMet (s.baseCueOf p q sc) k && decide (headVerdict s q p k sc = v)

theorem heading_head (v : Verdict) (s : State) (q op : Nat) (h : heading v s q op = true) :
    Head s q op (qp s q) (qk s q) (qsc s q) ∧ headVerdict s q (qp s q) (qk s q) (qsc s q) = v := by
  simp only [heading, Bool.and_eq_true, beq_iff_eq, decide_eq_true_eq] at h
  obtain ⟨⟨⟨⟨⟨⟨h1, h2⟩, h3⟩, h4⟩, h5⟩, h6⟩, h7⟩ := h
  exact ⟨⟨h1, h2, h3, rfl, h4, by simp only [qsc, h4], h5, h6⟩, h7⟩

/-- The canonical form, part by part, as it can be decided. -/
def canon (s : State) : Bool :=
  decide s.mem.wf && decide (s.regs.wf s.part) && decide (tblWf {} s.queues) && decide (partsWf s.parts) && decide s.comp.wf &&
    decide s.link.wf && decide s.prom.wf && decide s.time.wf && decide s.spare.wf && decide s.ledg.wf && decide s.shep.wf

theorem canon_canonical (s : State) (h : canon s = true) : s.canonical := by
  simp only [canon, Bool.and_eq_true, decide_eq_true_eq] at h
  obtain ⟨⟨⟨⟨⟨⟨⟨⟨⟨⟨a, b⟩, c⟩, d⟩, e⟩, f⟩, g⟩, h⟩, i⟩, j⟩, k⟩ := h
  exact ⟨a, b, c, d, e, f, g, h, i, j, k⟩

/-- A LOCAL operand without poison reads, whatever its size. -/
theorem srcEvent_local (s : State) (i : Inst) (d : Desc) (cls : List Nat) (h : d.tier = tLocal) (hp : s.mem.locPoison = []) :
    s.srcEvent i d cls = 0 := by
  have z : ∀ l : List Nat, (∀ x ∈ l, x = 0) → firstEvent l = 0 := by
    intro l hl
    have e : l.find? (· ≠ 0) = none := List.find?_eq_none.2 fun x hx => by simp [hl x hx]
    simp only [firstEvent, e, Option.getD_none]
  have r : ∀ who a n, s.readEvent d.tier who a n = 0 := by
    intro who a n
    simp [State.readEvent, h, State.rangeBad, State.poison, hp, tLocal, tHost, tStacked]
  refine z _ fun x hx => ?_
  simp only [List.mem_flatMap, List.mem_map] at hx
  obtain ⟨c, -, k, -, rfl⟩ := hx
  refine z _ fun y hy => ?_
  simp only [List.mem_map] at hy
  obtain ⟨a, -, rfl⟩ := hy
  exact r _ _ _

/-- The operands of a ring instruction read: those in LOCAL, without poison there, and the others by their bytes. -/
def ringReads (s : State) (i : Inst) : Bool :=
  s.mem.locPoison == [] && (([i.d 1, i.d 2, i.aux 0, i.aux 3, i.aux 4] ++ (if i.isBwd then [i.aux 1, i.aux 6, i.aux 7] else [])).flatMap
    Option.toList).all fun d => d.tier == tLocal || s.srcEvent i d [s.clusterAt i 0] == 0

theorem ringReads_event (s : State) (i : Inst) (h : ringReads s i = true) : s.ringReadEvent i = 0 := by
  simp only [ringReads, Bool.and_eq_true, beq_iff_eq, List.all_eq_true, Bool.or_eq_true] at h
  simp only [State.ringReadEvent, firstEvent]
  rw [List.find?_eq_none.2]
  · rfl
  · intro x hx
    simp only [List.mem_map] at hx
    obtain ⟨d, hd, rfl⟩ := hx
    rcases h.2 d hd with e | e
    · simp [srcEvent_local s i d _ e h.1]
    · simp [e]

/-! ## Witnesses: every issuing row has a head that passes, with what its statement assumes -/

/-- A computing instruction that reads and may write all its operands. -/
def works (u : State) (i : Inst) : Bool :=
  let w := opWork u i
  let v := u.setFree (u.free + w.draws)
  computes i.pkt && i.peerInputs.isEmpty && w.fail == 0 && (w.pieces.all fun x => v.pieceEvent i x == 0)

theorem test_binary_vectors_work : ([0x30, 0x31, 0x32, 0x34, 0x35, 0x50, 0x52].all fun op => goes works (sVec op 2) 2 op) = true := by
  decide +kernel
theorem test_vfma_works : goes works (sVec 0x33 3) 2 0x33 = true := by decide +kernel
theorem test_unary_vectors_work : ([0x36, 0x37, 0x40, 0x41, 0x42, 0x43, 0x44, 0x45, 0x46, 0x47, 0x48, 0x49, 0x4A, 0x51].all fun op =>
    goes works (sVec op 1) 2 op) = true := by decide +kernel
theorem test_row_reductions_work : ([0x38, 0x39, 0x3A].all fun op => goes works (sRed op) 2 op) = true := by decide +kernel
theorem test_rope_works : goes works sRope 2 0x53 = true := by decide +kernel
theorem test_mma_works : goes works sMma 2 0x10 = true := by decide +kernel
theorem test_conv_works : goes works sConv 2 0x18 = true := by decide +kernel
theorem test_move_and_fill_work : goes works sMove 1 0x60 = true ∧ goes works sFill 1 0x61 = true := by decide +kernel
theorem test_gather_and_scatter_work : ([0x62, 0x63].all fun op => goes works (sGath op) 1 op) = true := by decide +kernel
theorem test_atomics_work : goes works sAtom 1 0x70 = true ∧ goes works sCas 1 0x71 = true := by decide +kernel
theorem test_adamw_works : goes works (sOpt 0x80 8 0x33000000) 2 0x80 = true := by decide +kernel
theorem test_lion_and_sgdm_work : ([0x81, 0x82].all fun op => goes works (sOpt op 4 0) 2 op) = true := by decide +kernel
theorem test_cast_read_works : goes works sCastRead 3 0x91 = true := by decide +kernel

def sBeginBad : State := rung enabled 0 [{ op := 0x01, slots := [0, 1] }] [params 8] [] 0x70000
def sEndOutside : State := rung enabled 0 [{ op := 0x02 }]
def sPreemptOutside : State := rung enabled 0 [{ op := 0x03, imm := 1 }]
/-- The same queues in the scene, but in no FIFO pair. -/
def unpaired (s : State) : State := s.setScene 0 { demoScene with entries := [1, 65535, 2, 65535, 3] ++ List.replicate 11 65535 }
def sPushOutside : State := unpaired sPush
def sPopOutside : State := unpaired sPop
def sRunLoadOk : State := headS 1 { op := 0x68, slots := [0, 1], imm := 1 } [{ base := place 1, shape := [32, 1, 1, 1] }]
  [(place 1, le 8 0x30000 ++ le 8 0x38000 ++ le 4 64 ++ le 2 1 ++ le 1 1 ++ le 1 0x22)]
def sCastActive : State := headS 3 { op := 0x90, ta := 4, tb := 4, tc := 6, slots := [0, 1] } [{ base := place 1, shape := [64, 1, 1, 1] }] [(place 1, le 1 1)]

/-- A VADD whose second input is in the memory of rank 1; one of no elements; one of a reserved format. -/
def sPeer : State := headS 2 { op := 0x30, ta := 6, slots := [1, 2, 3] } [f4 1, { f4 2 with tier := 3, rank := 1 }, f4 3]
def sZero : State := headS 2 { op := 0x30, ta := 6, slots := [1, 2, 3] } ([1, 2, 3].map fun n => { f4 n with shape := [0, 1, 1, 1] })
def sBadFormat : State := headS 2 { op := 0x30, ta := 6, slots := [1, 2, 3] } [f4 1, { f4 2 with fmt := 0x0E }, f4 3]
/-- The first input poisoned. -/
def sPoison : State := let s := sVec 0x30 2; s.setMem { s.mem with stackPoison := [place 1 / 64] }

theorem test_witness_PassingInstructionIssues : goes (fun _ i => i.peerInputs.isEmpty) sNop 2 0x00 = true ∧
    goes (fun _ i => decide (i.peerInputs.length = 1) && i.peerInputs.all fun d => decide (0 < d.extent)) sPeer 2 0x30 = true ∧
    canon sNop = true := by decide +kernel
theorem test_witness_FailedCheckRetiresAtIssue : heading (.fails Ev.format) sBadFormat 2 0x30 = true ∧ heading .zero sZero 2 0x30 = true := by
  decide +kernel
theorem test_witness_ComputeRowsWrite : canon sMove = true ∧ goes (fun u i => works u i && ((opWork u i).pieces.all fun x => decide (x.d.tier ≤ 4)) &&
    ((opWork u i).reads.all fun x => x.1.hint != 2)) sMove 1 0x60 = true ∧
    goes (fun u i => computes i.pkt && i.peerInputs.isEmpty && (opWork u i).fail != 0) sPoison 2 0x30 = true := by decide +kernel

theorem test_witness_CommonRowsComplete_scenes : goes (fun u i => (i.dd 1).tier == tStacked &&
      u.readEvent (i.dd 1).tier ((i.dd 1).who (u.fnOf i) 0) (i.dd 1).base 64 == 0 &&
      u.blockOk i.part (u.paramBytes (i.dd 1) (u.fnOf i) 0 64)) sBegin 0 0x01 = true ∧
    goes (fun u i => (i.dd 1).tier == tStacked && u.readEvent (i.dd 1).tier ((i.dd 1).who (u.fnOf i) 0) (i.dd 1).base 64 == 0 &&
      !u.blockOk i.part (u.paramBytes (i.dd 1) (u.fnOf i) 0 64)) sBeginBad 0 0x01 = true ∧
    goes (fun _ i => i.scene.isSome) sEnd 0 0x02 = true ∧ goes (fun _ i => i.scene.isNone) sEndOutside 0 0x02 = true := by decide +kernel
theorem test_witness_CommonRowsComplete : goes (fun _ _ => true) sNop 2 0x00 = true ∧
    goes (fun u i => (i.scene.bind (u.scene? i.part)).isSome) sPreempt 2 0x03 = true ∧
    goes (fun _ i => i.scene.isNone) sPreemptOutside 0 0x03 = true ∧
    goes (fun u i => (u.resumeTarget i).any u.qHalted) (sResume.setFld (F.queQctrlHalted 2) 1) 0 0x0A = true ∧
    goes (fun u i => (u.resumeTarget i).any fun x => !u.qHalted x) sResume 0 0x0A = true := by decide +kernel
theorem test_witness_CommonRowsComplete_stamps : goes (fun u i => (i.dd 0).tier == tStacked && u.drawNat.2.pieceEvent i
      { d := i.dd 0, row := 0, cl := u.drawNat.2.clusterAt i 0, bs := zeros 16 } == 0) sStamp 2 0x08 = true ∧
    goes (fun u i => (i.dd 0).tier == tStacked && u.pieceEvent i
      { d := i.dd 0, row := 0, cl := u.clusterAt i 0, bs := natLE 8 (u.property i.pkt.imm) } == 0) sProp 2 0x09 = true := by decide +kernel

/-- Gate 3 of partition 0, and a hold of gate 4 in the scene, of the same rank. -/
def gated (s : State) (v : Gate) (held : List Hold := []) : State :=
  let s := s.setScene 0 { demoScene with held := held }
  (s.setGate 0 3 v).setGate 0 4 { rank := 5 }
theorem test_witness_GateOrderIsKept : canon (gated sAcq { count := 1, rank := 5 } [⟨4, 0⟩]) = true ∧ goes (fun u i =>
    (u.holds i).any fun h => decide ((u.gate i.part i.pkt.imm).rank ≤ (u.gate i.part h.gate).rank))
    (gated sAcq { count := 1, rank := 5 } [⟨4, 0⟩]) 2 0x05 = true := by decide +kernel
/-- Hurdle 1 with generations. -/
def hurdled (l : List HurdleGen) : State := sHurdle.setHurdle 0 1 l
theorem test_witness_GateAndHurdleRowsComplete_hurdles : goes (fun u i => u.hurdle i.part 1 == []) sHurdle 2 0x07 = true ∧
    goes (fun u i => u.hurdle i.part 1 == [⟨0, 2, [(1, 0)], []⟩]) (hurdled [⟨0, 2, [(1, 0)], []⟩]) 2 0x07 = true ∧
    goes (fun u i => u.hurdle i.part 1 == [⟨0, 3, [(1, 0)], []⟩]) (hurdled [⟨0, 3, [(1, 0)], []⟩]) 2 0x07 = true ∧
    goes (fun u i => u.hurdle i.part 1 == [⟨0, 2, [(1, 0), (3, 0)], []⟩]) (hurdled [⟨0, 2, [(1, 0), (3, 0)], []⟩]) 2 0x07 = true ∧
    (hurdled [⟨0, 2, [(1, 0), (3, 0)], []⟩]).genComplete ⟨0, 2, [(1, 0), (3, 0)], []⟩ = true ∧
    (hurdled [⟨0, 2, [(1, 0)], []⟩]).genComplete ⟨0, 2, [(1, 0)], []⟩ = false ∧ sHurdle.running = true := by decide +kernel
theorem test_witness_GateAndHurdleRowsComplete_gates :
    goes (fun u i => !u.gateOrderBad i i.pkt.imm && u.gate i.part i.pkt.imm == { count := 1, rank := 6 }) (gated sAcq { count := 1, rank := 6 } [⟨4, 0⟩])
      2 0x05 = true ∧
    goes (fun u i => !u.gateOrderBad i i.pkt.imm && u.gate i.part i.pkt.imm == {}) sAcq 2 0x05 = true ∧
    goes (fun u i => (u.instsOf i.queue).all (u.setHolds i []).visible) sRel 2 0x06 = true := by decide +kernel
/-- A head behind a PUSH whose units are still to be handed over. -/
def behind (s : State) (q : Nat) : State :=
  s.setInsts [{ queue := q, index := 15, part := 0, pkt := { opcode := 0x60 }, scene := some 0, acks := [(1, 0, 1)] }]
theorem test_witness_GateAndHurdleRowsComplete_waits :
    goes (fun u i => !(u.instsOf i.queue).all (u.setHolds i []).visible) (behind sRel 2) 2 0x06 = true ∧
    (let s := (gated sAcq { count := 1, rank := 5, waiters := [2] }).setInsts
        [{ queue := 2, index := 0, part := 0, pkt := { opcode := 0x05, imm := 3 }, scene := some 0, wait := .gate 3 }]
     s.running = true ∧ (s.gate 0 3).waiters = [2] ∧ 0 < (s.gate 0 3).count ∧
      ((s.instsOf 2).find? (fun i => i.wait == .gate 3)).isSome = true) := by decide +kernel

/-- The scene's FIFO pair of queues 1 and 2. -/
theorem test_witness_AccessAndCastRowsComplete_units :
    goes (fun u i => i.peerInputs.isEmpty && u.srcEvent i (i.dd 1) (u.clustersFor i i.handUnits.length) == 0 &&
      ((u.consume [(i.dd 1, i.handUnits)]).instPair i).isSome) sPush 1 0x64 = true ∧
    goes (fun u i => i.peerInputs.isEmpty && u.srcEvent i (i.dd 1) (u.clustersFor i i.handUnits.length) == 0 &&
      ((u.consume [(i.dd 1, i.handUnits)]).instPair i).isNone) sPushOutside 1 0x64 = true ∧
    goes (fun u i => i.peerInputs.isEmpty && (u.instPair i).isSome) sPop 1 0x65 = true ∧
    goes (fun u i => i.peerInputs.isEmpty && (u.instPair i).isNone) sPopOutside 1 0x65 = true := by decide +kernel
theorem test_witness_AccessAndCastRowsComplete_lines : goes (fun _ i => i.peerInputs.isEmpty) (sFetch 0x66) 1 0x66 = true ∧
    goes (fun _ i => i.peerInputs.isEmpty) (sFetch 0x67) 1 0x67 = true := by decide +kernel
/-- A COPY of layer 2 that waits. -/
def copyEntry : RunEntry := { src := 0, dst := 64, bytes := 64, layer := 2, copy := true, srcTier := 2, dstTier := 2, rank := 0, hint := 0 }
/-- RUN.LOAD's entries accepted. -/
def entriesOk (u : State) (i : Inst) : Bool :=
  let raw := (List.range (i.dd 1).rows).map fun r => u.rowBytesOf (i.dd 1) (u.fnOf i) (u.clusterAt i 0) ((i.dd 1).rowAt r)
  raw.all (u.entryOk i.part (u.windowOf i)) && layersOk (bits i.pkt.imm 15 1 == 1) (raw.map RunEntry.ofBytes)
theorem test_witness_AccessAndCastRowsComplete_runs :
    goes (fun u i => i.peerInputs.isEmpty && u.srcEvent i (i.dd 1) [u.clusterAt i 0] == 0 && entriesOk u i) sRunLoadOk 1 0x68 = true ∧
    goes (fun u i => i.peerInputs.isEmpty && u.srcEvent i (i.dd 1) [u.clusterAt i 0] == 0 && !entriesOk u i) sRunLoad 1 0x68 = true ∧
    goes (fun _ i => i.peerInputs.isEmpty) sRunMark 1 0x69 = true ∧
    goes (fun u i => i.peerInputs.isEmpty && ((u.startEntries i.part i.queue fun e => e.copy && e.layer == 2).queue i.queue).layerDone 2)
      sRunWait 1 0x6A = true ∧
    goes (fun u i => i.peerInputs.isEmpty && !((u.startEntries i.part i.queue fun e => e.copy && e.layer == 2).queue i.queue).layerDone 2)
      (sRunWait.setQueue 1 { sRunWait.queue 1 with runOrder := [copyEntry] }) 1 0x6A = true := by decide +kernel
/-- An entry of the cast table swapped out. -/
def swappedOut (s : State) : State := s.setCastOf 0 0 { state := castSwapped }
theorem test_witness_AccessAndCastRowsComplete_casts :
    (canon sCastLoad = true ∧ goes (fun u i => i.peerInputs.isEmpty && u.srcEvent i (i.dd 1) [u.clusterAt i 0] == 0 &&
      !loadRefused (u.castOf i.part (i.pkt.imm + 0)) (CastEntry.ofBytes (u.rowBytesOf (i.dd 1) (u.fnOf i) (u.clusterAt i 0) (0, 0, 0))) && (i.dd 1).n1 == 1) sCastLoad 3 0x90 = true) ∧
    goes (fun u i => i.peerInputs.isEmpty && u.srcEvent i (i.dd 1) [u.clusterAt i 0] == 0 &&
      loadRefused (u.castOf i.part (i.pkt.imm + 0)) (CastEntry.ofBytes (u.rowBytesOf (i.dd 1) (u.fnOf i) (u.clusterAt i 0) (0, 0, 0))) && (i.dd 1).n1 == 1) (swappedOut sCastActive)
      3 0x90 = true := by decide +kernel
theorem test_witness_AccessAndCastRowsComplete_decode :
    canon sDecode = true ∧ goes (fun u i => i.peerInputs.isEmpty &&
      firstEvent [u.srcEvent i (i.dd 1) [u.clusterAt i 0], u.srcEvent i (i.dd 2) [u.clusterAt i 0]] == 0) sDecode 3 0x92 = true ∧
    goes (fun u i => i.peerInputs.isEmpty &&
      firstEvent [u.srcEvent i (i.dd 1) [u.clusterAt i 0], u.srcEvent i (i.dd 2) [u.clusterAt i 0]] != 0)
      (sDecode.setMem { sDecode.mem with stackPoison := [place 2 / 64] }) 3 0x92 = true := by decide +kernel

theorem test_witness_ExchangeRowsComplete_collectives :
    ([(sSend, 0x11), (sRsum, 0x12), (sGather, 0x13), (sA2aMma, 0x14), (sMmaA2a, 0x15)].all fun x =>
      goes (fun u i => i.peerInputs.isEmpty && i.coll.isSome && (u.collEntry i).isSome) x.1 3 x.2) = true := by decide +kernel
theorem test_witness_ExchangeRowsComplete_forward :
    goes (fun u i => i.peerInputs.isEmpty && i.ring.isSome && (u.ringEntry i).isSome && ringReads u i) sFwd 3 0x1C = true := by decide +kernel
theorem test_witness_ExchangeRowsComplete_backward :
    goes (fun u i => i.peerInputs.isEmpty && i.ring.isSome && (u.ringEntry i).isSome && ringReads u i) sBwd 3 0x1D = true := by decide +kernel
theorem test_witness_ExchangeRowsComplete_poisoned :
    goes (fun u i => i.peerInputs.isEmpty && i.ring.isSome && (u.ringEntry i).isSome && u.ringReadEvent i != 0)
      (sFwd.setMem { sFwd.mem with locPoison := [0x200] }) 3 0x1C = true := by decide +kernel
theorem test_witness_ExchangeRowsComplete_leaf : treeParent 1 = some 0 ∧ treeChildren 1 2 = [] ∧
    ({ rank := 1, size := 2 } : Coll).readySent = false ∧ ({ rank := 1, size := 2 } : Coll).zeroHeld = false := by decide +kernel

/-! ## Witnesses: engines, chains, arithmetic -/

/-- An instruction of the running scene, in flight. -/
def flying (q op : Nat) (imm : Nat := 0) : Inst := { queue := q, index := 0, part := 0, pkt := { opcode := op, imm := imm }, scene := some 0 }
/-- The scene's device with one instruction in flight, at a cue. -/
def with1 (i : Inst) (cue : Nat := 0) : State := (staged.setInsts [i]).setTime { staged.time with cue := cue }
/-- Queue 1 with a running order. -/
def ordered (es : List RunEntry) : State := staged.setQueue 1 { staged.queue 1 with runOrder := es }

/-- The queue-1 half of the scene's pair of queues 1 and 2, with what its FIFOs hold, and instructions in flight. -/
def paired (f : PairFifos) (l : List Inst) : State := (staged.setInsts l).setScene 0 (demoScene.setFifo 0 0 f)
/-- Units begin on queue q for i, as UnitsBegin's hypotheses ask of the state. -/
def begins (s : State) (q : Nat) (i : Inst) : Bool :=
  canon s && s.running && ((s.instPair i).map fun x => (x.1.running, x.2)) == some (true, 0) &&
    ((s.instsOf q).filter fun i => decide (0 < i.unitsLeft)).head? == some i
def unitOp (q op imm : Nat) (d : Option Desc := none) : Inst :=
  { flying q op imm with wait := .units, unitsLeft := 1, descs := [d, some { tier := 2, base := 0x30000, cap := 0x1000 }] }
theorem test_witness_EngineRowsComplete_outbound :
    ([none, some ({ tier := 2, base := 0x20000, cap := 0x1000 } : Desc), some { tier := 3, rank := 1, cap := 0x1000 }].all fun d =>
      let i := unitOp 1 0x65 0 d
      let s := paired { f2 := [[1, 2]] } [i]
      begins s 1 i && (s.queue 1).block.kind == 1 && !i.inbound && i.d 0 == d &&
        ((demoScene.setFifo 0 0 { f2 := [[1, 2]] }).fifo 0 (0 % max 1 (s.clustersOf 0).length)).f2 == [[1, 2]]) = true := by decide +kernel
theorem test_witness_EngineRowsComplete_inbound :
    ([(0x64, 0), (0x64, 1), (0x64, 3), (0x60, 0)].all fun x =>
      let i := unitOp 1 x.1 x.2
      let s := paired {} [i]
      begins s 1 i && i.inbound && s.executePartner 1 == some 2 && (s.instsOf 2).isEmpty && bits i.pkt.imm 0 2 == x.2) = true ∧
    (let j := { flying 2 0x10 with claims := some 0, descs := [some { tier := 2, cap := 0x1000 }] }
     let s := paired {} [j]
     s.instPair j = some (demoScene.setFifo 0 0 {}, 0) ∧ s.executePartner 1 = some 2 ∧ s.instsOf 1 = [] ∧
       (s.instsOf 2).find? (fun j => j.claims.isSome && decide (j.claimed < j.handUnits.length)) = some j) := by decide +kernel
theorem test_witness_EngineRowsComplete_execute :
    (let i := unitOp 2 0x10 0
     let s := paired { f0 := [[1]], f1 := [[2]], f3 := [.token] } [i]
     begins s 2 i = true ∧ (s.queue 2).block.kind = 0 ∧ i.takeF3 [.token] = some []) ∧
    (let i := { unitOp 2 0x10 0 with claims := some 0 }
     let s := paired {} [i]
     begins s 2 i = true ∧ i.takeF3 [.claim 0, .claim 1] = some [.claim 1] ∧ i.takeF3 [] = none) := by decide +kernel
/-- The parameter block of an optimiser instruction with SEAL set. -/
def sealing : Bytes := zeros 0x32 ++ le 2 5 ++ le 1 1 ++ zeros 11
theorem test_witness_EngineRowsComplete :
    (let e := { copyEntry with status := .started }
     let s := ordered [e]
     s.running = true ∧ s.partOf 1 = some 0 ∧ (s.queue 1).runOrder[0]? = some e ∧ s.entryReady e 0 = true ∧
       ((s.instsOf 1).find? fun i => i.wait == .runWait 2) = none ∧ s.copyEvent 0 e 0 = 0 ∧ s.copyEvent 0 { e with bad := 0x1002 } 0 ≠ 0 ∧
       canon s = true) ∧
    (let e := { copyEntry with status := .started }
     let w := { flying 1 0x6A 2 with wait := .runWait 2 }
     let s := (ordered [e]).setInsts [w]
     (s.instsOf 1).find? (fun i => i.wait == .runWait 2) = some w ∧
       (((s.copyDone 0 e 0).1.setEntry 1 0 { e with status := .complete }).queue 1).layerDone 2 = true ∧
       ((((ordered [e, e]).copyDone 0 e 0).1.setEntry 1 0 { e with status := .complete }).queue 1).layerDone 2 = false) ∧
    (let s := staged.setQueue 1 { staged.queue 1 with areaWait := true }
     s.running = true ∧ s.partOf 1 = some 0 ∧ (s.queue 1).areaWait = true) ∧
    (let i := { flying 2 0x80 with wait := .sealAck, params := sealing }
     ((with1 i).instsOf 2).find? (with1 i).maySeal = some i ∧ isOpt i.pkt.opcode = true ∧ (OptBlock.ofBytes i.params).seals = true) ∧
    (let i := { flying 2 0x18 with wait := .apron, apronTiles := [(3, 1)] }
     let s := (with1 i).setApron 3 ⟨some (2, 0), []⟩
     (s.apron 3).current = some (2, 0) ∧ s.inst? 2 0 = some i ∧ 0 < i.tilesOn 3 ∧ canon s = true) := by decide +kernel
theorem test_witness_EngineRowsComplete_areaTried : goes (fun _ i => i.peerInputs.isEmpty) (sMove.setQueue 1 { sMove.queue 1 with areaWait := false })
    1 0x60 = true := by decide +kernel
theorem test_witness_EngineRowsComplete_ports :
    (let i := { flying 3 0x04 with wait := .chainPort 5 }
     (with1 i).insts.filter (fun i => decide (i.wait = .chainPort 5)) = [i] ∧ (with1 i).inst? 3 0 = some i) ∧
    (let u : PortUse := { port := 5, slot := 1, need := 64 }
     let i := { flying 3 0x04 with wait := .chainPort 5, portIn := [u] }
     let s := (with1 i).setChainPort 5 { fill := zeros 16 }
     s.portBroken i 5 = false ∧ u.got + (s.chainPort 5).fill.length < u.need) ∧
    (let i := { flying 3 0x04 with wait := .chainPort 5, portTo := some 5, portOut := zeros 16 }
     let s := with1 i
     i.portIn = [] ∧ i.stages[i.stageNo]? = none ∧ s.portBroken i 5 = false ∧ (s.chainPort 5).fill.length = 0) := by decide +kernel

/-- A CHAIN of two VADDs, the second of which adds to the first's result. -/
def sChain : State := rung staged 2 [{ op := 0x04, imm := 2 }, { op := 0x30, ta := 6, slots := [1, 2, 3] }, { op := 0x30, ta := 6, slots := [4, 1, 5] }]
  [f4 1, f4 2, f4 3, f4 4, f4 5]
/-- The head of queue q is a CHAIN of n stages that passes. -/
def chaining (s : State) (q n : Nat) : Bool :=
  let p := qp s q
  let k := qk s q
  let sc := qsc s q
  let idx (j : Nat) := ((s.queue q).head + j) % 2 ^ 32
  let ks := (List.range n).map fun j => s.packetAt p q (idx (j + 1))
  let base := s.baseCueOf p q sc
  let late := (k :: ks).any (s.cueLate base)
  let i := s.newInst p q (s.queue q).head k sc late
  let packets := (ks.zip (List.range n)).map fun x => s.newInst p q (idx (x.2 + 1)) x.1 sc late
  let table := s.dtabOf p sc 0x04
  let f := s.fetchAll table packets
  let m := f.1.loadAll table f.2.1
  let js := markEnds true m.2
  let l := js.map (·.i)
  let window := m.1.windowOf i
  let w := (l.map fun j => j.pkt.area).sum
  s.partOf q == some p && s.mayIssue p q && s.fetchEvent p q (s.queue q).head == 0 && k.opcode == 0x04 && k.imm == n &&
    s.shareOk p ((sc.map (·.prio)).getD 0) && s.cueMet base k && decide (n + 1 ≤ (s.queue q).backlog) && ks.all (s.cueMet base) &&
    (List.range n).all (fun j => s.fetchEvent p q (idx (j + 1)) == 0) && !f.2.2 &&
    decide (m.1.verdict (s.queue q).block.kind window (some { i with descs := k.slotMarks }) js = .passes) &&
    !js.any (·.poison) && !m.1.hazard (m.1.chainInst i l) (js.flatMap fun j => j.i.tableReads table) && (chainPeers l).isEmpty && w != 0 &&
    (m.1.placeArea i window w (localTop (l.flatMap Inst.operands))).isSome
theorem test_witness_ChainRowsComplete_issues : chaining sChain 2 2 = true := by decide +kernel
/-- A CHAIN in flight whose stages are of opcodes. -/
def chained (ops : List Nat) (c : Option Coll) : Inst :=
  { flying 3 0x04 with stages := ops.map fun op => { pkt := { opcode := op }, descs := [], coll := c } }
theorem test_witness_ChainRowsComplete_stages :
    ((chained [0x30] none).portIn = [] ∧ ((chained [0x30] none).stages[0]?).map (fun t => isColl t.pkt.opcode) = some false ∧
      (chained [] none).stages[0]? = none ∧ (chained [] none).portTo = none) ∧
    (let c : Coll := {}
     let i := chained [0x11] (some c)
     (i.stages[0]?).map (fun t => (isColl t.pkt.opcode, t.coll)) = some (true, some c) ∧
       (staged.collEntry (i.stageInst 0)).isSome = true) := by decide +kernel

theorem test_witness_SoftmaxSpecialRows : floatFmt 0x01 = some fp32 ∧ ([FVal.inf true].all fun x => x == .inf true) = true ∧
    ([FVal.nan].any FVal.isNaN) = true ∧ ([FVal.one].all FVal.isFinite) = true := by decide +kernel
theorem test_witness_SkippedPairsAreMasked : pairSkipped true false [0, 7] [0] [8, 15] [0] = true ∧ pairSkipped true false [0, 8] [0] [8, 15] [0] = false ∧
    unmasked true true 8 3 8 3 = true ∧ unmasked true true 7 3 8 3 = false ∧ unmasked false true 8 0xFFFFFFFF 8 0xFFFFFFFF = false := by
  decide +kernel
/-- An MMA whose C lies over the last row of its A. -/
def sOverlap : State := headS 2 (matP 0x10 [1, 2, 3]) [{ mC 4 4 with base := place 2 + 192 }, bf 2 16 4, bf 3 4 16]
theorem test_witness_MmaOverlapIsRefused :
    (let m := qread sOverlap 2
     let c := m.2.i.dd 0
     let d := m.2.i.dd 1
     heading (.fails Ev.desc) sOverlap 2 0x10 = true ∧ m.2.i.pkt.opcode = 0x10 ∧ (m.2.i.d 0).isSome = true ∧ (m.2.i.d 1).isSome = true ∧
       (m.2.i.d 2).isSome = true ∧ formatKnown c.format = true ∧ formatKnown d.format = true ∧ c.tier = d.tier ∧ c.base < d.base + d.extent ∧
       d.base < c.base + c.extent ∧ 0 < c.extent ∧ 0 < d.extent ∧ c.tier ≠ tPeer ∧
       (sOverlap.fetchDescs 2 (sOverlap.dtabOf 0 (qsc sOverlap 2) 0x10) [1, 2, 3, 0]).2.2 = false ∧
       headHazard sOverlap 2 0 (qk sOverlap 2) (qsc sOverlap 2) = false ∧ m.2.poison = false ∧
       m.1.judge (sOverlap.queue 2).block.kind m.2 2 = 0) := by decide +kernel
/-- The last bit of R112: two halves of a tie, and a term too large. -/
theorem test_witness_AnchoredTermsInAnyOrder : toUnits 0 false 1 (-1) = 0 ∧ toUnits 0 false 3 (-1) = 2 ∧ toUnits 0 true 3 (-1) = -2 ∧
    [FVal.fin false 1 0, .fin true 1 3].Perm [.fin true 1 3, .fin false 1 0] ∧
    2 ^ (32 - 1) - 1 < (toUnits (0 - anchF 32) false 1 31).natAbs := by
  refine ⟨?_, ?_, ?_, List.Perm.swap _ _ _, ?_⟩ <;> decide +kernel
theorem test_witness_ReservedBitsStayZero : (∀ f ∈ Reg.fields .hbcCtrl, 2 < f.lo ∨ f.lo + f.len ≤ 2) ∧ (3 : Nat).testBit 2 = false := by
  decide +kernel

/-! ## Witnesses: retirement, scenes, budgets -/

theorem test_witness_RetirementRowsComplete :
    (let i := flying 2 0x30
     (with1 i).running = true ∧ (with1 i).oldest 2 = some i ∧ (with1 i).canRetire i = true ∧ i.plain = true ∧
       i.stages = [] ∧ i.chainIrq = false ∧ ((with1 i).partition 0).res = none ∧ canon (with1 i) = true) ∧
    (let i := flying 2 0x00 1
     (with1 i).oldest 2 = some i ∧ (with1 i).canRetire i = true ∧ i.event = 0 ∧
       (((with1 i).retire i 0 i.count).scene? 0 0).isSome = true ∧ i.scene.isSome = true) ∧
    (let i := { flying 2 0x30 with acks := [(1, 0, 1)] }
     (with1 i).oldest 2 = some i ∧ (with1 i).canRetire i = false) := by decide +kernel
/-- 4 bytes that an instruction holds to its retirement (R77). -/
def holding (q op : Nat) : Inst :=
  { flying q op with held := [{ d := { tier := 2, base := 0x20000, cap := 64, format := 1 }, row := 0, cl := 0, bs := [1, 2, 3, 4] }] }
theorem test_witness_RetirementRowsComplete_held :
    (let i := holding 2 0x10
     (with1 i).running = true ∧ (with1 i).oldest 2 = some i ∧ i.held ≠ [] ∧ i.failedOn = [] ∧ i.wait = .none ∧ i.plain = true) ∧
    (let i := { flying 2 0x30 with immediate := true, event := 5 }
     ((with1 i).setInst i).canRetire i = true ∧ i.plain = true ∧ i.stages = [] ∧ i.coll = none ∧ i.ring = none) := by decide +kernel
theorem test_witness_SceneRowsComplete_begins :
    (let i := { flying 0 0x01 with scene := none, wait := .sceneLimit, params := beginBlock }
     let s := enabled.setInsts [i]
     s.running = true ∧ s.oldest 0 = some i ∧ i.pkt.opcode = 0x01 ∧ s.mayOpen i = true ∧ s.blockOk 0 i.params = true ∧ canon s = true ∧
       i.boundary = false ∧ (s.partition 0).scenes = []) ∧
    (let i := { flying 0 0x01 1 with scene := none, wait := .boundary, params := beginBlock }
     let s := enabled.setInsts [i]
     i.boundary = true ∧ s.oldest 0 = some i ∧ s.mayOpen i = true ∧ s.blockOk 0 i.params = true) ∧
    (let i := { flying 0 0x01 with scene := none, wait := .sceneLimit, params := beginBlock }
     let s := (staged.setInsts [i])
     s.oldest 0 = some i ∧ s.mayOpen i = true ∧ s.blockOk 0 i.params = false) := by decide +kernel
/-- A ready scene of a priority. -/
def ready (id prio : Nat) : Scene := { demoScene with id := id, prio := prio, running := false, begun := false, queues := [], entries := List.replicate 16 65535 }
theorem test_witness_SceneRowsComplete_runs :
    (let i := { flying 0 0x02 with wait := .sceneEnd }
     let s := (with1 i).setScene 0 { demoScene with marked := [1, 2, 3] }
     s.oldest 0 = some i ∧ (i.scene.bind (s.scene? 0)).isSome = true ∧ s.mayEnd i { demoScene with marked := [1, 2, 3] } = true ∧
       (with1 i).mayEnd i demoScene = false ∧ canon s = true) ∧
    (let s := enabled.setPartition 0 { enabled.partition 0 with scenes := [ready 1 2, ready 2 1, ready 3 1] }
     s.running = true ∧ s.fld (F.parStatusState 0) = 1 ∧ s.fld (F.parRstatusPhase 0) = 0 ∧ s.runningScene 0 = none ∧
       nextScene (s.partition 0).scenes = some (ready 2 1) ∧ s.insts = [] ∧ canon s = true) ∧
    enabled.runningScene 0 = none ∧ nextScene (enabled.partition 0).scenes = none := by decide +kernel
/-- An instruction that waits from cue 0 on, at cue 100, the scene's budget. -/
def waits (i : Inst) : Bool :=
  let s := with1 i 100
  s.running && (s.instsOf i.queue).find? (fun i => s.bounded i && decide (i.waitCue + s.budgetOf i ≤ s.time.cue)) == some i
theorem test_witness_BudgetRowsComplete_waits :
    ([{ flying 2 0x05 3 with wait := .gate 3 }, { flying 2 0x07 with wait := .hurdle 1 }, { flying 3 0x04 with wait := .chainPort 0 },
      { flying 1 0x6A with wait := .runWait 2 }, { flying 0 0x01 with wait := .sceneLimit }, { flying 0 0x01 with wait := .boundary },
      { flying 0 0x02 with wait := .sceneEnd }].all waits) = true ∧
    (let s := with1 { flying 2 0x05 3 with wait := .gate 3 } 99
     (s.instsOf 2).find? (fun i => s.bounded i && decide (i.waitCue + s.budgetOf i ≤ s.time.cue)) = none) := by decide +kernel
/-- The running scene asked to leave at cue 0 by a ready one of higher priority; its hold budget is 100. -/
def asked (held : List Hold) : State :=
  let s := with1 (flying 2 0x30) 100
  s.setPartition 0 { s.partition 0 with scenes := [{ demoScene with prio := 1, request := some 0, held := held }, ready 1 0] }
theorem test_witness_BudgetRowsComplete_holds :
    ([[], [⟨3, 0⟩]].all fun held =>
      let s := asked held
      match s.runningScene 0 with
      | none => false
      | some sc => s.running && sc.request == some 0 && s.requested 0 sc && !sc.holdSpent && decide (0 + s.holdBudget 0 sc ≤ s.time.cue) &&
          s.heldBack 0 sc == !held.isEmpty) = true := by decide +kernel

theorem test_witness_SceneRowsComplete_points :
    ((∀ p < 16, enabled.runningScene p = none) ∧ (∀ p < 16, enabled.prologueOver p = false) ∧ (∀ i ∈ enabled.insts, i.coll = none)) ∧
    (let sc := { demoScene with points := [(0, 1), (1, 1), (2, 1), (3, 1)] }
     let s := staged.setScene 0 sc
     s.runningScene 0 = some sc ∧ s.legalPoint sc = true ∧ s.requested 0 sc = false) ∧
    (let sc := { demoScene with prio := 1, points := [(0, 1), (1, 1), (2, 1), (3, 1)] }
     let s := staged.setPartition 0 { staged.partition 0 with scenes := [sc, ready 1 0] }
     s.runningScene 0 = some sc ∧ s.legalPoint sc = true ∧ s.requested 0 sc = true ∧ s.heldBack 0 sc = false ∧ s.scene? 0 0 = some sc ∧
       canon s = true) ∧
    (let sc := { demoScene with prio := 1, held := [⟨3, 0⟩], holdSpent := true }
     let s := staged.setPartition 0 { staged.partition 0 with scenes := [sc, ready 1 0] }
     s.runningScene 0 = some sc ∧ s.requested 0 sc = true ∧ s.heldBack 0 sc = true) ∧
    (let s := with1 (flying 2 0x30)
     s.legalPoint demoScene = false ∧ s.requested 0 demoScene = false) := by decide +kernel
theorem test_witness_BudgetRowsComplete_generations :
    (let g : HurdleGen := ⟨0, 3, [(2, 0)], [2]⟩
     let i := { flying 2 0x07 with wait := .hurdle 1 }
     let s := (with1 i).setHurdle 0 1 [g]
     canon s = true ∧ tblWf [] (s.partition 0).hurdles ∧ (s.hurdle 0 1).find? (·.waiters.contains 2) = some g ∧
       (s.instsOf 2).find? (fun i => i.wait == .hurdle 1) = some i) ∧
    (let i := { flying 2 0x05 3 with wait := .gate 3 }
     canon (with1 i 100) = true ∧ i.pkt.opcode = 0x05) := by decide +kernel

/-! ## Witnesses: messages of collectives and rings -/

def collHdr (seq : Nat) (absent : Nat := 65535) : CollHeader :=
  { bookDigest := 0, collSeq := BitVec.ofNat 64 seq, company := 0, srcRank := 1, opcode := 0x11, dstRank := 0, node := 65535, reason := 0,
    paramDigest := 7, epoch := 0, count := 0, payloadLen := 0, absentRank := BitVec.ofNat 16 absent, slot := 0, unit := 0, sendCue := 5 }
def demoColl : Coll := { company := 0, seq := 4, opcode := 0x11, size := 2, roster := [{}, { node := 1 }], budget := 10, slipAllow := 4, paramDigest := 7 }
def inColl (c : Coll) (cue : Nat := 0) : State := with1 { flying 3 0x11 with wait := .exchange, coll := some c } cue
theorem test_witness_CollectiveRowsComplete :
    (inColl demoColl).running = true ∧ ((inColl demoColl).collFor 0 (collHdr 4)).isSome = true ∧
    (let s := staged.setComp { staged.comp with relays := [{ part := 0, company := 0, seq := 4, rank := 0, size := 2, opcode := 0x11,
                                                             roster := [], epoch := 0, paramDigest := 7, event := 0 }] }
     s.collFor 0 (collHdr 4) = none ∧ (s.comp.relays.find? fun r => r.names 0 (collHdr 4)).isSome = true) ∧
    (staged.collFor 0 (collHdr 0) = none ∧ staged.comp.relays.find? (fun r => r.names 0 (collHdr 0)) = none ∧
      (staged.companyOf 0 0).map (·.2.collSeq) = some 0) ∧
    ((collHdr 4).bookDigest.toNat = staged.digest ∧ (collHdr 4).opcode.toNat = demoColl.opcode ∧
      (collHdr 4).paramDigest.toNat ≠ { demoColl with paramDigest := 8 }.paramDigest ∧ ({ collHdr 4 with bookDigest := 9 }).bookDigest.toNat ≠ staged.digest) ∧
    (let c := { demoColl with go := true, sources := [1], goCue := 0 }
     let s := inColl c 41
     s.collOn 3 = some ({ flying 3 0x11 with wait := .exchange, coll := some c }, c) ∧ c.waitFrom 1 = some 0 ∧
       c.slipAllow * c.budget < s.time.cue - 0) := by decide +kernel
theorem test_witness_CollectiveRowsComplete_headers :
    (let s := inColl demoColl
     (s.collFor 0 (collHdr 4)).isSome = true ∧ collAgrees (collHdr 4) s demoColl = true ∧ treeChildren 0 2 = [1] ∧ demoColl.readyFrom = [] ∧
       demoColl.readySent = false ∧ demoColl.doneFrom = [] ∧ demoColl.opcode ≠ 0x12 ∧ treeParent 0 = none) ∧
    ((∃ k ∈ treeChildren 0 3, k ∉ demoColl.readyFrom ∧ k ≠ 1) ∧ collAgrees (collHdr 4) staged { demoColl with size := 3 } = true) ∧
    (let h := { collHdr 4 with srcRank := 0, dstRank := 1 }
     let c := { demoColl with rank := 1 }
     collAgrees h staged c = true ∧ treeParent c.rank = some 0 ∧ 0 ∉ treeChildren c.rank c.size ∧ c.go = false) ∧
    (let h := { collHdr 4 with opcode := 0x12 }
     collAgrees h staged { demoColl with opcode := 0x12 } = true) := by decide +kernel
theorem test_witness_CollectiveRowsComplete_moves :
    (let c := { demoColl with go := true, sources := [1], counts := [] }
     c.toSend = [] ∧ c.allGot = false) ∧
    (let c := { demoColl with go := true, computed := true, doneFrom := [1] }
     c.allGot = true ∧ (inColl c).mayDone { flying 3 0x11 with wait := .exchange, coll := some c } (c.countWaits 0 false false) = true ∧
       ({ c with doneFrom := [] } : Coll).doneFrom = [] ∧ (inColl c).mayDone { flying 3 0x11 with acks := [(1, 0, 1)] } (c.countWaits 0 false false) = false) ∧
    (let u : CollUnit := { dst := 1, bytes := [1], count := 1, unit := 0 }
     let c := { demoColl with toSend := [u], credits := [(1, 1)] }
     0 < rankGet c.credits u.dst) := by decide +kernel
def ringHdr (seq : Nat) (digest : Nat := 0) : RingHeader :=
  { bookDigest := BitVec.ofNat 64 digest, collSeq := BitVec.ofNat 64 seq, company := 0, srcRank := 1, sweep := 0, step := 0, owner := 0, reason := 0,
    ringDigest := 7, epoch := 0, tokens := 64, payloadLen := 0, absentRank := 65535, slot := 0, sendCue := 5 }
def demoRing : Ring := { company := 0, seq := 4, ranks := [0, 1], roster := [{}, { node := 1 }], t := 64, boundBudget := 10, stepBudget := 10, slipAllow := 4, ringDigest := 7 }
def inRing (r : Ring) (cue : Nat := 0) : State := with1 { flying 3 0x1C with wait := .ring, ring := some r } cue
theorem test_witness_RingRowsComplete_messages :
    (inRing demoRing).running = true ∧ ((inRing demoRing).ringFor 0 (ringHdr 4)).isSome = true ∧ staged.ringFor 0 (ringHdr 0) = none ∧
    (staged.companyOf 0 0).isSome = true ∧ (ringHdr 4).bookDigest.toNat = staged.digest ∧ (ringHdr 4 1).bookDigest.toNat ≠ staged.digest ∧
    (ringHdr 4).ringDigest.toNat ≠ { demoRing with ringDigest := 8 }.ringDigest ∧ (ringHdr 4).tokens.toNat = demoRing.t := by decide +kernel
theorem test_witness_RingRowsComplete_headers :
    (let s := inRing demoRing
     (s.ringFor 0 (ringHdr 4)).isSome = true ∧ ringAgrees (ringHdr 4) s demoRing = true ∧ (ringHdr 4).sweep.toNat ≤ 2 ∧ (ringHdr 4).slot.toNat ≤ 1 ∧
       demoRing.slots = [] ∧ demoRing.allDone = false) ∧
    ({ demoRing with ranks := [0], doneFrom := [] } : Ring).allDone = true ∧
    (({ demoRing with finished := true, doneFrom := [1] } : Ring).allDone = true ∧ demoRing.toSend.length = 0 ∧ demoRing.preemptPoint = 65535 ∧
      demoRing.finished = false) := by decide +kernel
/-- Step 1 of the bound sweep, with its block in a slot. -/
def atStep1 (inStep : Bool) : Ring := { demoRing with step := 1, inStep := inStep, slots := [(0, { block := { owner := 1 }, sweep := 0, step := 1 })] }
theorem test_witness_RingRowsComplete_steps :
    (let r := atStep1 false
     let s := inRing r 10
     s.ringOn 3 = some ({ flying 3 0x1C with wait := .ring, ring := some r }, r) ∧ r.scheduled ≤ s.time.cue ∧
       s.instRuns { flying 3 0x1C with wait := .ring, ring := some r } = true ∧ r.inStep = false ∧ r.finished = false ∧
       r.stepBlock.isSome = true ∧ r.step ≠ 0 ∧ r.preemptPoint = 65535 ∧ (inRing r 9).time.cue < r.scheduled) ∧
    (let r := { demoRing with inStep := true }
     (inRing r).instRuns { flying 3 0x1C with wait := .ring, ring := some r } = true ∧ r.inStep = true ∧ r.stepBlock.isSome = true ∧
       r.preemptPoint = 65535 ∧ r.step + 1 < r.n ∧ demoRing.inStep = false) ∧
    (let r := { demoRing with step := 1 }
     r.waitFrom (false != r.bwd) = some 10 ∧ (inRing r 51).instRuns { flying 3 0x1C with wait := .ring, ring := some r } = true ∧
       r.allowance < (inRing r 51).time.cue - max 10 r.heardPrev) ∧
    (let r := { demoRing with toSend := [(0, 0, {})], credits := [] }
     r.waitFrom (true != r.bwd) = some 0 ∧ r.allowance < (inRing r 41).time.cue - max 0 r.heardNext) := by decide +kernel

/-! ## Witnesses: locks, partitions, queues, registers -/

/-- Partition 0's lock held by the Prompter, with what is staged. -/
def locked (st : Staging := {}) (cue : Nat := 0) : State :=
  let a := (enabled.agentCode 0 .prompter).getD 0
  let s := (enabled.setFld (F.parLockOwner 0) a).setFld (F.parLockHeld 0) 1
  (s.setPartition 0 { s.partition 0 with staging := st }).setTime { s.time with cue := cue }
theorem test_witness_LockRowsComplete :
    (enabled.running = true ∧ enabled.host.pcieUp = true ∧ (0 : Nat) ∉ enabled.host.d3hot ∧ (enabled.agentCode 0 .prompter).isSome = true ∧
      (enabled.agentCode 0 (.fn 0)).isSome = true ∧ enabled.flag (F.parCtrlEn 0) = true ∧ enabled.flag (F.parLockHeld 0) = false) ∧
    (locked.flag (F.parLockHeld 0) = true ∧ locked.agentCode 0 .prompter = some (locked.fld (F.parLockOwner 0)) ∧
      locked.flag (F.parCtrlEn 0) = true ∧ (locked.partition 0).staging = { shares := none, prio := none }) ∧
    ((locked { prio := some 0x8421E400 }).partition 0).staging = { shares := none, prio := some 0x8421E400 } ∧
    locked.ownsLock 0 (.fn 0) = false ∧
    (locked {} 100000).flag (F.parLockHeld 0) = true ∧ ((locked {} 100000).partition 0).lockCue + 100000 ≤ (locked {} 100000).time.cue := by
  decide +kernel

/-- A partition block at 0x1000 that passes the checks, and the registers that lead to it. -/
def blockBytes : Bytes :=
  le 8 0x10000 ++ le 4 1 ++ le 4 0 ++ le 2 16 ++ le 2 1 ++ le 2 16 ++ le 2 0 ++ le 2 0 ++ le 2 1 ++ le 2 0 ++ le 2 4 ++ le 2 0 ++ le 2 8 ++
    le 2 0 ++ le 2 64 ++ le 4 0xFFFFFFFF ++ le 2 1024 ++ le 2 0 ++ le 4 0 ++ le 12 0
def blocked (b : Bytes) : State :=
  let s := (up.setFld F.cacCtrlDirectWays 8).setWord (.parPblkLo 0) 0x1000
  s.setMem { s.mem with stack := cellsAt 0x1000 b }
theorem test_witness_PartitionRowsComplete_passes : (blocked blockBytes).host.pcieUp = true ∧ (blocked blockBytes).flag (F.parCtrlEn 0) = false ∧
    (blocked blockBytes).fld (F.parStatusState 0) = 0 ∧ (blocked blockBytes).enableCause 0 = 0 := by decide +kernel
theorem test_witness_PartitionRowsComplete_fails : (blocked []).flag (F.parCtrlEn 0) = false ∧ (blocked []).fld (F.parStatusState 0) = 0 ∧
    (blocked []).enableCause 0 ≠ 0 := by decide +kernel
theorem test_witness_PartitionRowsComplete :
    (let s := enabled.setFld (F.parStatusState 0) 0
     s.flag (F.parCtrlEn 0) = true ∧ s.fld (F.parStatusState 0) = 0) ∧
    (enabled.host.pcieUp = true ∧ enabled.flag (F.parCtrlEn 0) = true ∧ enabled.fld (F.parStatusState 0) ≠ 2) ∧
    (enabled.setFld (F.parStatusState 0) 2).fld (F.parStatusState 0) = 2 ∧ (0 : Nat) ∉ enabled.host.d3hot ∧ canon enabled = true ∧
    (∀ p < 16, (enabled.block p).queueFirst + (enabled.block p).queueCount ≤ 8192) ∧ enabled.live 0 = true := by decide +kernel
theorem test_witness_ResetLeaves : canon staged = true ∧ (staged.block 0).foldList.contains (65 / 66) = true ∧
    (staged.block 0).foldList.contains (66 / 66) = false ∧ 786431 < localBytes := by decide +kernel

/-- A queue table of the queue of entry 0, in the memory of the device's partition 0. -/
def queued (b : Bytes) : State :=
  let s := (enabled.setFld (F.queQctrlEn 0) 0).setWord (.parPblkLo 0) 0
  let s := s.setMem { s.mem with stack := cellsAt 0x2000 b }
  s.setWord (.queQtabLo 0) 0x2000
theorem test_witness_QueueRowsComplete :
    (enabled.host.pcieUp = true ∧ (0 : Nat) ∉ enabled.host.d3hot ∧ rangeAt (enabled.fnRanges 0) 3 = some 3 ∧ enabled.partOf 3 = some 0 ∧
      enabled.qOn 3 = true) ∧
    (let s := queued (le 8 0x100000 ++ le 8 0x110000 ++ le 1 4 ++ le 1 3)
     s.host.pcieUp = true ∧ s.qOn 0 = false ∧ s.partOf 0 = some 0 ∧ (s.queueEntry 0 0).isSome = true) ∧
    ((queued []).qOn 0 = false ∧ (queued []).partOf 0 = some 0 ∧ (queued []).queueEntry 0 0 = none) := by decide +kernel

theorem test_witness_FieldsAfterAWrite :
    (∃ f ∈ Reg.hbcCtrl.fields, f.access = .rw) ∧ (∃ f ∈ (Reg.parPblkLo 0).fields, f.access = .rwl) ∧
    (∃ f ∈ (Reg.parStatus 0).fields, f.access = .w1c) ∧ (∃ f ∈ (Reg.parStatus 0).fields, f.access = .ro) ∧
    (∃ f ∈ Reg.shpTlimits.fields, f.access = .sho) := by decide +kernel
theorem test_witness_RegisterWriteCompletes :
    (let r := Reg.oxlPortCfg 0
     up.canAccess (.fn 0) = true ∧ up.placeAt (.fn 0) r.addr = .reg none r.addr r ∧ r.onlyHolds = true) ∧
    (let s := enabled.setFld F.oxlCtrlEn 1
     s.lockedBy (.oxlPortCfg 0) = true) ∧
    (up.canAccess .prompter = true ∧ up.placeAt (.fn 0) 0x3FFFFF0 = .unsupported ∧ 2 % 4 ≠ 0) ∧
    (up.shep.dark = false ∧ up.placeAt .sideband 0x20400 = .buffer 0 ∧ up.placeAt .sideband (Reg.pmtMbxCtrl 17).addr = .reg none (Reg.pmtMbxCtrl 17).addr
      (.pmtMbxCtrl 17) ∧ up.placeAt .sideband Reg.cueCountLo.addr = .reg none Reg.cueCountLo.addr .cueCountLo) := by decide +kernel
/-- The configuration image's length counts every covered register. -/
theorem test_covered_registers : coveredRegs.length = coveredCount := by
  have h : ∀ (n : Nat) (f : Nat → List Reg) (l : List Nat), (∀ x, (f x).length = n) → (l.flatMap f).length = l.length * n := by
    intro n f l hf
    induction l with
    | nil => simp
    | cons a t ih => simp [hf, Nat.succ_mul, ih, Nat.add_comm]
  unfold coveredRegs coveredCount
  simp only [List.length_append, List.length_map, List.length_range]
  rw [h 1030, h 2]
  · simp only [List.length_cons, List.length_nil, List.length_range]
  · intro x; rfl
  · intro x; simp only [List.length_append, List.length_map, List.length_range, List.length_cons, List.length_nil]
theorem test_witness_LowReadLatchesHighHalf : canon up = true ∧ up.canAccess (.fn 0) = true ∧
    up.placeAt (.fn 0) Reg.cueCountLo.addr = .reg none Reg.cueCountLo.addr .cueCountLo ∧ Reg.cueCountLo.latched = some .cueCountHi ∧
    up.placeAt (.fn 0) Reg.cueCountHi.addr = .reg none Reg.cueCountHi.addr .cueCountHi ∧
    requesterNo .prompter ≠ requesterNo (.fn 0) := by decide +kernel
theorem test_witness_SnapRowsComplete : canon up = true ∧ up.host.pcieUp = true ∧ up.running = true ∧
    (up.setFld F.hubSnapPending 1).flag F.hubSnapPending = true ∧ (∃ r ∈ snapRegs, r.addr < 0x800000) := by decide +kernel

/-! ## Witnesses: the book, resets, memory, sparing -/

def withCrc (ref : Option Nat) (second : Bool := false) : State :=
  let s := up.setFld F.crcCtrlEn 1
  s.setConfig { s.config with crcRef := ref, crcSecond := second }
/-- A book of one system section, with no ranges and no ports, at 0x1000. -/
def bookBytes : Bytes := le 4 0x424F4F4B ++ le 2 1 ++ le 2 0 ++ le 4 128 ++ le 4 64 ++ le 4 64 ++ le 108 0
def booked : State := let s := up.setWord .hubBookAddrLo 0x1000; s.setMem { s.mem with stack := cellsAt 0x1000 bookBytes }
theorem test_witness_BookRowsComplete_commits : enabled.flag (F.parCtrlEn 0) = true ∧ enabled.host.pcieUp = true ∧
    enabled.flag F.hubBookCtrlBusy = false ∧ enabled.bookCause ≠ 0 ∧ booked.flag F.hubBookCtrlBusy = false ∧ booked.bookCause = 0 ∧
    (let k : Book := ⟨bookBytes⟩
     (up.setConfig { up.config with pending := some k }).config.pending = some k) := by decide +kernel
theorem test_witness_BookRowsComplete_checks : up.flag F.crcCtrlEn = false ∧ (withCrc none).flag F.crcCtrlEn = true ∧
    (withCrc none).running = true ∧ (withCrc none).host.pcieUp = true ∧ (withCrc none).config.crcRef = none ∧
    (withCrc none).fld F.crcStatusState ≠ 3 ∧ ((withCrc none).countFld F.crcStatusPasses 1).fld F.crcStatusState ≠ 3 ∧
    (withCrc (some 1)).config.crcRef = some 1 ∧ (withCrc (some 1)).config.crcSecond = false ∧ (withCrc (some 1) true).config.crcSecond = true := by
  decide +kernel
theorem test_witness_EnableAndResetRowsComplete : up.flag F.pciEvtCtrlEn = false ∧ (State.reset.setHost { pcieUp := true }).flag F.cacCtrlEn = false ∧
    up.flag F.oxlCtrlEn = false ∧ up.running = true ∧ 3 ≤ up.phase ∧
    (let s := up.setShep { up.shep with savesEnabled := true }
     s.running = true ∧ s.shep.savesEnabled = true ∧ s.ledg.held = false) ∧ up.shep.savesEnabled = false ∧ up.shep.dark = false ∧ canon up = true := by decide +kernel
/-- Function 0's window 0 at partition 0's memory. -/
theorem test_witness_BarRowsComplete : canon enabled = true ∧ enabled.host.pcieUp = true ∧ (enabled.bar4At 0 16 4) = some 16 ∧
    enabled.bar4At 0 (2 ^ 40) 4 = none ∧ enabled.rangeBad tStacked 0 16 4 = false ∧
    (enabled.setMem { enabled.mem with stackPoison := [0] }).rangeBad tStacked 0 16 4 = true := by decide +kernel
def restarting : State := staged.setSpare { staged.spare with restarts := [⟨63, 64, 2, 0⟩] }
theorem test_witness_ResidueRowsComplete :
    (let i := flying 2 0x10
     let s := with1 i
     s.inst? 2 0 = some i ∧ i.pkt.onApron = false ∧ checkedOp i.pkt.opcode = true ∧ 63 ∈ s.clustersOf 0 ∧ (∀ r ∈ s.spare.restarts, r.failed ≠ 63) ∧ 63 ∉ i.failedOn ∧
       (s.declareFailed 63).2.1 = some 64) ∧
    (let i := { flying 2 0x10 with failedOn := [63] }
     let s := (with1 i).setSpare { (with1 i).spare with failed := [64, 65] }
     s.inst? 2 0 = some i ∧ 63 ∈ i.failedOn ∧ (s.declareFailed 63).2.1 = none) ∧
    (let i := { flying 2 0x18 with pkt := { opcode := 0x18, md := 0x50 } }
     (with1 i).inst? 2 0 = some i ∧ i.pkt.onApron = true) ∧
    restarting.spare.restarts.find? (·.failed == 63) = some ⟨63, 64, 2, 0⟩ := by decide +kernel
theorem test_witness_UnderstudyHoldsTheLocalStore : canon restarting = true ∧
    restarting.spare.restarts.find? (·.failed == 63) = some ⟨63, 64, 2, 0⟩ ∧ (64 : Nat) ≠ 63 := by decide +kernel
theorem test_witness_RepairAndScrubRowsComplete_rows :
    (7 : Nat) ∉ up.spare.failed ∧ tblGet 0 up.spare.rowsUsed 7 < 48 ∧ up.ledg.shadow.rowRepl.length < 8192 ∧ canon up = true ∧
    (let s := up.setMem { up.mem with rowBit := [(7 * 1536 + 2, 9)] }
     tblGet 0 s.mem.rowBit (7 * 1536 + 2) ≠ 0 ∧ tblGet 0 s.mem.rowBit (7 * 1536 + 2) ≠ 3 + 1 ∧ tblGet 0 s.mem.rowBit (7 * 1536 + 2) = 8 + 1 ∧
       tblGet 0 s.mem.rowBit (7 * 1536 + 3) = 0) ∧
    (let s := up.setSpare { up.spare with rowsUsed := [(7, 48)] }
     48 ≤ tblGet 0 s.spare.rowsUsed 7 ∧ 7 ∉ s.spare.failing) ∧
    (let s := up.setSpare { up.spare with rowsUsed := [(7, 47)] }
     tblGet 0 s.spare.rowsUsed 7 < 48) ∧
    (let s := enabled.setSpare { enabled.spare with failing := [63] }
     63 ∈ s.spare.failing ∧ (∀ p ∈ s.foldOwners 0, s.runningScene p = none) ∧ (s.declareFailed 63).2.1 = some 64) ∧
    (let s := enabled.setSpare { enabled.spare with failing := [63], failed := [64, 65] }
     (∀ p ∈ s.foldOwners 0, s.runningScene p = none) ∧ (s.declareFailed 63).2.1 = none ∧ (s.declareFailed 63).2.2 = true) := by
  decide +kernel
theorem test_witness_RepairAndScrubRowsComplete_scrubs :
    (let s := (up.setFld F.hbcCtrlScrubEn 1).setFld F.cacCtrlScrubEn 1
     let s := s.setFld F.cacCtrlDirectWays 2
     s.flag F.hbcCtrlEn = true ∧ s.flag F.hbcCtrlScrubEn = true ∧ 0 < s.capacity ∧ s.flag F.cacCtrlEn = true ∧ s.flag F.cacCtrlScrubEn = true ∧
       1 < s.directWays ∧ 0 < s.directBytes ∧ s.directWays ≤ 2 ∧ (∀ l ∈ s.mem.lines, l.line = 0 → l.dirty = false)) ∧
    (let limit := up.fld F.hbcLimitsCorrRate
     (up.countFld (F.hbcChstatCorr 5) 1).fld (F.hbcChstatCorr 5) < limit ∧
       limit ≤ ((up.setFld (F.hbcChstatCorr 5) limit).countFld (F.hbcChstatCorr 5) 1).fld (F.hbcChstatCorr 5)) ∧
    (let s := up.setMem { up.mem with lines := [⟨3, true, false⟩] }
     ∃ l ∈ s.mem.lines, l.line = 192 / 64 ∧ l.dirty = true) ∧ canon up = true ∧
    (let s := up.setMem { up.mem with wayCorr := [(19, up.fld F.cacLimitsWayCorr)] }
     1 * 18 + 1 ∉ s.mem.waysOut ∧ s.fld F.cacLimitsWayCorr ≤ tblGet 0 s.mem.wayCorr (1 * 18 + 1)) ∧
    (up.setFld (F.hbcChstatState 5) 0).fld (F.hbcChstatState 5) = 0 := by decide +kernel
theorem test_witness_RehearsalAndDrainRowsComplete :
    (let s := up.setFld F.hbcCtrlEn 0
     canon s = true ∧ s.host.pcieUp = true ∧ s.flag F.hbcCtrlEn = false ∧ s.fld F.hubBootPhase ≠ 3 ∧ s.flag F.hbcRehStatusBusy = false) ∧
    (let s := up.setFld F.hbcRehStatusBusy 1
     canon s = true ∧ up.flag F.hbcCtrlEn = true ∧ s.flag F.hbcRehStatusBusy = true ∧ s.flag F.hbcRehCtrlRepair = false ∧
       canon (s.setFld F.hbcRehCtrlRepair 1) = true ∧ (s.setFld F.hbcRehCtrlRepair 1).flag F.hbcRehCtrlRepair = true ∧ s.spare.mappedOut.length < s.maxMapped) ∧
    ((up.setFld (F.hbcChstatState 5) 0).fld (F.hbcChstatState 5) = 0 ∧ up.spare.drain = none ∧ up.spare.mappedOut.length < up.maxMapped ∧
      up.maxMapped ≤ (up.setSpare { up.spare with mappedOut := List.range 8 }).spare.mappedOut.length) ∧
    (let s := (up.setSpare { up.spare with drain := some { chan := 3 } }).setMem { up.mem with stackPoison := [15] }
     s.spare.drain = some { chan := 3 } ∧ s.spare.mappedOut.length + 1 + ([] : List Nat).length < s.maxMapped ∧
       15 ∈ s.mem.stackPoison ∧ 15 / 4 % 384 = 3 ∧ 64 * 15 < s.capacity) := by decide +kernel

/-! ## Witnesses: the link -/

/-- Port 0 ACTIVE, in a state of its own. -/
def linked (v : Port := {}) (state : Nat := 5) : State :=
  let s := (up.setFld F.oxlCtrlEn 1).setFld (F.oxlPortCfgEnable 0) 1
  (s.setFld (F.oxlPortStatState 0) state).setPort 0 v
theorem crcBit_lt (c : Nat) (h : c < 2 ^ 32) : crcBit 0x82F63B78 c < 2 ^ 32 := by
  unfold crcBit
  split
  · exact Nat.xor_lt_two_pow (by omega) (by norm_num)
  · omega
theorem crc32c_lt (bs : Bytes) : crc32c bs < 2 ^ 32 := by
  have h : ∀ (l : Bytes) (c : Nat), c < 2 ^ 32 → l.foldl (fun c b =>
      let c := Nat.xor c b.toNat
      crcBit 0x82F63B78 (crcBit 0x82F63B78 (crcBit 0x82F63B78 (crcBit 0x82F63B78 (crcBit 0x82F63B78 (crcBit 0x82F63B78
        (crcBit 0x82F63B78 (crcBit 0x82F63B78 c)))))))) c < 2 ^ 32 := by
    intro l
    induction l with
    | nil => exact fun c h => h
    | cons b t ih =>
      intro c hc
      refine ih _ ?_
      repeat apply crcBit_lt
      exact Nat.xor_lt_two_pow hc (b.isLt.trans (by norm_num))
  exact Nat.xor_lt_two_pow (by norm_num) (h bs _ (by norm_num))
/-- A frame made with its CRC is good; with another CRC it is bad. -/
theorem test_frames_keep_their_crc (header : Nat) (payload : Bytes) : badCrc (mkFrame header payload) = false ∧
    badCrc { mkFrame header payload with crc := (mkFrame header payload).crc + 1 } = true := by
  have h := crc32c_lt (frameBytes (BitVec.ofNat 32 header) payload)
  constructor
  · simpa [badCrc, mkFrame] using h
  · simp only [badCrc, mkFrame, bne_iff_ne, ne_eq]
    rw [BitVec.toNat_add, BitVec.toNat_ofNat, Nat.mod_eq_of_lt h, show BitVec.toNat (1 : Word32) = 1 from rfl]
    omega
theorem test_witness_PacketFramesRoundTrip :
    ([3, 240].all fun n =>
      let k : Packet := ⟨routeOf (3 * 2 ^ 96), List.replicate n 7⟩
      decide (k.body.length + 16 ≤ 256 * frameCount k)) = true := by decide +kernel
theorem test_witness_FrameRowsComplete_frames :
    (let h := (mkFrame 0 (zeros 256)).header
     linked.running = true ∧ linked.active 0 = true ∧ linked.framed 0 = true ∧ bits h.toNat 15 2 = 0 ∧ bits h.toNat 29 1 = 0 ∧
       bits h.toNat 0 12 = (linked.port 0).rxNext ∧ bits h.toNat 0 12 ≠ ((linked { rxNext := 4095 }).port 0).rxNext) ∧
    (let h := (mkFrame (2 * 2 ^ 15) (zeros 256)).header
     bits h.toNat 15 2 = 2 ∧ bits h.toNat 29 1 = 0 ∧ bits h.toNat 0 12 = (linked.port 0).rxNext) ∧
    (let h := (mkFrame (2 ^ 15 + 2 ^ 29) (zeros 256)).header
     bits h.toNat 15 2 = 1 ∧ bits h.toNat 29 1 = 1) := by decide +kernel
theorem test_witness_FrameRowsComplete_replays :
    (let s := linked { replay := [⟨7, ⟨7, [], 0⟩, none⟩, ⟨8, ⟨8, [], 0⟩, none⟩] }
     s.framed 0 = true ∧ (s.port 0).replay.findIdx? (·.fseq == 8) = some 1) ∧ (linked {} 6).portState 0 = 6 ∧ canon (linked {} 6) = true := by decide +kernel
theorem test_witness_TrainingRowsComplete :
    ([1, 2, 3, 4, 5, 6, 7].all fun n => (linked {} n).running && (linked {} n).portState 0 == n) = true ∧
    (chooseSpare 511 ((linked {} 3).fld (F.oxlPortStatSparedLane 0))).isSome = true ∧ chooseSpare 0b001111111 15 = none ∧
    (chooseSpare 0b011111111 15).isSome = true ∧
    (let s := (linked {} 4).setFld F.oxlNodeNode 3
     canon s = true ∧ s.flag (F.oxlPortCfgCheck 0) = false ∧ s.node ≠ 65535) ∧
    (let s := (linked {} 4).setFld (F.oxlPortCfgCheck 0) 1
     canon s = true ∧ s.flag (F.oxlPortCfgCheck 0) = true ∧ 9 ≠ s.fld (F.oxlPortCfgPeerNode 0)) ∧
    (let s := linked.setPair .hubBookDigestLo .hubBookDigestHi 5
     canon s = true ∧ s.portState 0 = 5 ∧ s.digest ≠ 0 ∧ 6 ≠ s.digest) ∧
    (linked.active 0 = true ∧ linked.flag (F.oxlPortStatUnderstudy 0) = false ∧ (linked.port 0).swap = none ∧
      bits (linked.port 0).lanes 8 1 = 1 ∧ bits ((linked { lanes := 255 }).port 0).lanes 8 1 = 0) ∧
    (let s := (linked.setFld (F.oxlPortStatUnderstudy 0) 1).setFld (F.oxlPortStatSparedLane 0) 2
     s.flag (F.oxlPortStatUnderstudy 0) = true ∧ 3 ≠ s.fld (F.oxlPortStatSparedLane 0)) ∧
    ((linked { swap := some 3 }).port 0).swap = some 3 := by decide +kernel
def toNode (n : Nat) : Packet :=
  let r : RouteHeader := ⟨BitVec.ofNat 16 n, 0, 0, 0, true, 2, false, false, 1, 1, 5, 0⟩
  ⟨r, []⟩
theorem test_witness_LinkActs : canon linked = true ∧ (linked.port 0).replay.length < 2048 ∧ (∀ p < 16, (linked.port p).queue = []) ∧
    linked.link.waiting = [] ∧ ((linked.setLink { linked.link with waiting := [⟨none, toNode 9, false⟩] }).link.waiting = [⟨none, toNode 9, false⟩]) := by
  decide +kernel
/-- A device of node 3 whose packets to node 9 leave by port 0. -/
def routed (v : Port := {}) : State := ((linked v).setFld F.oxlNodeNode 3).setFld (F.oxlRtPrimary 9) 1
theorem test_witness_PacketRowsComplete : up.running = true ∧ (toNode 65535).route.dst.toNat = up.node ∧ (toNode 65535).route.kind ≠ 0 ∧
    (toNode 4096).route.dst.toNat ≠ up.node ∧ 4096 ≤ (toNode 4096).route.dst.toNat ∧ linked.flag F.oxlCtrlEn = true ∧
    canon routed = true ∧ (let k := { toNode 9 with route := { (toNode 9).route with
        vc := ownChannel (toNode 9).route, hops := BitVec.ofNat 8 (routed.fld F.oxlCtrlHopsInit) } }
      routed.hop none k = .to 0 k ∧ routed.canSend 0 true k = true) ∧
    (let k := { toNode 3 with route := { (toNode 3).route with kind := 0, msgLast := true, msgIdx := 0 } }
     k.route.dst.toNat = routed.node ∧ routed.flag F.oxlCtrlEn = true ∧ routed.link.assembly = [] ∧
       (routed.acceptSeq k.route.src.toNat k.route.pseq.toNat).isSome = true) := by decide +kernel
/-- A packet to node 9 that waits while its escape port has credits. -/
def escaping : State :=
  let s := (routed.setFld (F.oxlRteEscValid 9) 1).setFld (F.oxlRteEscPort 9) 0
  s.setLink { s.link with waiting := [{ origin := none, packet := toNode 9 }] }
theorem test_witness_PacketRowsComplete_escapes : canon escaping = true ∧ (toNode 9).route.dst.toNat ≠ escaping.node ∧
    escaping.flag (F.oxlRteEscValid 9) = true ∧
    (let e := onEscape (toNode 9)
     escaping.canSend 0 true { e with route := { e.route with cls := e.route.cls || escaping.flag (F.oxlPortCfgDateline 0) } } = true) := by
  decide +kernel
/-- Every credit of the shares of a packet taken. -/
def spent : Port := { credits := [⟨2, 1, (List.range 128).map fun k => (k, 100000)⟩] }
theorem test_witness_PacketRowsComplete_waits : (routed spent).hop none (toNode 9) = .to 0 (toNode 9) ∧ (routed spent).active 0 = true ∧
    (routed spent).freeCredits 0 true (toNode 9) < creditNeed (toNode 9) ∧
    (let s := routed.setLink { routed.link with waiting := [{ origin := none, packet := toNode 9 }] }
     (s.link.waiting.find? fun x => x.origin == none && samePacket x.packet (toNode 9) && decide (2 ≤ x.packet.route.vc.toNat)).isSome = true) := by
  decide +kernel
theorem test_witness_BestPortHasMostCredits : routed.bestPort 1 true (toNode 9) = some 0 ∧ routed.bestPort 2 true (toNode 9) = none := by decide +kernel
theorem test_witness_PacketAcceptedOnce : canon up = true ∧ (up.acceptSeq 3 0).isSome = true ∧ (up.acceptSeq 3 5).isSome = true ∧
    (up.peerPair 3).ahead = [] := by decide +kernel

/-! ## Witnesses: accesses between devices, the cue -/

theorem test_witness_PeerRowsComplete_served : enabled.running = true ∧ (enabled.acceptSeq 1 0).isSome = true ∧
    ((enabled.acceptSeq 1 0).map fun t => (t.peerAllows 0 64 4, t.readOnly tStacked 64 4)) = some (true, false) ∧
    ((enabled.acceptSeq 1 0).map fun t =>
      let u := t.emit (.e2eAck 1 (t.peerPair 1).accepted .done)
      (u.peerAllows 0 64 4, u.rangeBad tStacked 0 64 4, u.peerAllows 0 (2 ^ 30 - 2) 4, u.peerAllows 0 (2 ^ 30 - 4) 4)) =
      some (true, false, false, true) ∧
    ((enabled.acceptSeq 1 0).map fun t => (t.acceptSeq 1 0).isNone) = some true := by decide +kernel
theorem test_witness_PeerRowsComplete_asked :
    (let r : PeerRead := ⟨5, 1, 0, 1, 64, 4⟩
     let i := { flying 2 0x30 with wait := .peer, reads := [r] }
     let s := with1 i 10000
     s.running = true ∧ s.readerOf 1 5 = some (i, r) ∧ s.inst? 2 0 = some i ∧ i.reads ≠ [] ∧
       i.issueCue + 1000 * (if s.fld F.oxlCtrlPeerTimeout = 0 then 10 else s.fld F.oxlCtrlPeerTimeout) ≤ s.time.cue) := by decide +kernel
theorem test_witness_PeerRowsComplete_entries :
    (let r : PeerRead := ⟨5, 1, 0, 1, 64, 4⟩
     let e := { copyEntry with status := .started, reads := [r] }
     (ordered [e]).running = true ∧ (ordered [e]).readerOf 1 5 = none ∧ (ordered [e]).entryReader 1 5 = some (1, 0, e, r) ∧ e.dstTier ≠ tPeer) ∧
    canon staged = true := by decide +kernel
theorem test_witness_PeerWriteLandsWhere : canon enabled = true ∧ ((enabled.acceptSeq 1 0).map fun t => (t.peerAllows 0 64 4, t.readOnly tStacked 64 4)) =
    some (true, false) := by decide +kernel
theorem test_witness_CueRowsComplete : up.fromPin = false ∧
    (let s := (up.setFld F.oxlCueStatMode 3).setFld F.oxlCueCfgExt 1
     s.fromPin = true) ∧ up.time.cue < 2 ^ 64 - 1 := by decide +kernel
/-- A device that is not root, whose parent is port 0, in a cue mode. -/
def follows (mode : Nat) (silence : Nat := 0) (backup backupRoot : Nat := 0) : State :=
  let s := ((linked.setFld F.oxlCueCfgRoot 0).setFld F.oxlCueCfgParentEn 1).setFld F.oxlCueCfgParent 0
  let s := ((s.setFld F.oxlCueCfgBackupEn backup).setFld F.oxlCueCfgBackupRoot backupRoot).setFld F.oxlCueStatMode mode
  s.setTime { s.time with silence := silence, cue := 9 }
def beaconHdr (d : Nat) : CollHeader := { collHdr 0 with bookDigest := BitVec.ofNat 64 d }
theorem test_witness_CueLinkRowsComplete_beacons : linked.running = true ∧ linked.active 0 = true ∧ (beaconHdr 1).bookDigest.toNat ≠ linked.digest ∧
    (beaconHdr 0).bookDigest.toNat = linked.digest ∧ linked.time.cue % 2 ^ 20 = 0 ∧ linked.framed 0 = true ∧
    ((linked { probed := true }).port 0).probed = true ∧ (linked { probed := true }).cueSource 0 = false := by decide +kernel
theorem test_witness_CueLinkRowsComplete_reports :
    (let s := follows 0
     s.running = true ∧ s.active 0 = true ∧ s.isRoot = false ∧ s.cueSource 0 = true ∧ s.fld F.oxlCueStatMode = 0 ∧
       (∀ k < 16, s.flag (F.parCtrlEn k) = false)) ∧
    (let s := (follows 0).setFld (F.parCtrlEn 0) 1
     s.isRoot = false ∧ s.cueSource 0 = true ∧ (∃ k < 16, s.flag (F.parCtrlEn k) = true) ∧ 8 < s.time.cue) ∧
    (follows 1).fld F.oxlCueStatMode ≠ 0 ∧
    (let s := follows 1 16 1
     s.running = true ∧ s.fld F.oxlCueStatMode = 1 ∧ 16 ≤ s.time.silence ∧ s.flag F.oxlCueStatOnBackup = false ∧ s.flag F.oxlCueCfgBackupEn = true) ∧
    (let s := follows 1 16 0 1
     s.flag F.oxlCueCfgBackupEn = false ∧ s.flag F.oxlCueCfgBackupRoot = true) ∧
    (let s := follows 1 16
     s.flag F.oxlCueCfgBackupEn = false ∧ s.flag F.oxlCueCfgBackupRoot = false ∧ s.flag F.oxlCueCfgParentEn = true ∧
       s.active (s.fld F.oxlCueCfgParent) = true) := by decide +kernel

/-! ## Witnesses: the Prompter -/

/-- A mailbox with a command outstanding, and claimed or not. -/
def boxed (b : Nat) (claimed op : Nat) (cue : Nat := 0) : State :=
  let s := (up.setFld (F.pmtMbxStatOutstanding b) 1).setFld (F.pmtMbxStatClaimed b) claimed
  (s.setBox b { s.box b with command := op }).setTime { s.time with cue := cue }
theorem test_witness_MailboxRowsComplete : up.running = true ∧ up.host.pcieUp = true ∧ up.boxFn (boxNo .global) ∉ up.host.d3hot ∧
    (boxed 16 0 0).flag (F.pmtMbxStatOutstanding 16) = true ∧ up.flag (F.pmtMbxStatOutstanding 16) = false ∧ up.prom.cores = .running ∧
    (up.setProm { up.prom with cores := .held }).prom.cores = .held ∧ (up.setProm { up.prom with cores := .booting }).prom.cores = .booting ∧
    boxNo .global = 16 ∧ boxNo .sideband = 17 ∧
    (let s := boxed 16 0 0 10000
     s.flag (F.pmtMbxStatOutstanding 16) = true ∧ s.flag (F.pmtMbxStatClaimed 16) = false ∧ (s.box 16).goCue + 10000 ≤ s.time.cue) := by
  decide +kernel
theorem test_witness_ResponsesAct : canon (boxed 16 0 0) = true ∧ (boxed 16 0 0).flag (F.pmtMbxStatOutstanding 16) = true := by decide +kernel
theorem test_witness_ServiceRowsComplete_rows :
    ((List.range 8).all fun k =>
      let s := boxed 16 1 (k + 1)
      s.running && decide (s.prom.cores = .running) && s.flag (F.pmtMbxStatClaimed 16) && (s.box 16).command == k + 1 && mailboxAllows (k + 1) 16) = true ∧
    (boxed 3 1 7).flag (F.pmtMbxStatClaimed 3) = true ∧ mailboxAllows 7 3 = false ∧ mailboxOp 99 = false ∧ ((boxed 16 1 99).box 16).command = 99 ∧
    (let s := (boxed 16 0 0).setMem { up.mem with host := [(0, 7)] }
     s.flag (F.pmtMbxStatClaimed 16) = false ∧ s.nextBox = some 16 ∧ s.prom.repairs = [] ∧ s.boxOp 16 = 7 ∧ canon s = true) := by decide +kernel

/-- Arguments 0 and 1 of the global mailbox. -/
def argued (a0 a1 : Nat) : State := up.setMem { up.mem with host := cellsAt 8 (le 8 a0 ++ le 8 a1) }
theorem test_witness_ServiceRowsComplete_arguments :
    ¬((argued 4096 1001).arg0 16 % 4096 = 0 ∧ 1 ≤ (argued 4096 1001).arg1 16 ∧ (argued 4096 1001).arg1 16 ≤ 1000) ∧
    (canon (argued 4096 1000) = true ∧ (argued 4096 1000).arg0 16 % 4096 = 0 ∧ (argued 4096 1000).arg1 16 = 1000) ∧
    ((argued 0 0).arg0 16 < 16 ∧ (argued 0 0).flag (F.parCtrlEn 0) = false ∧ (sharesOk 0xFFFFFFFF && prioOk 0xFFFFFFFF) = false ∧
      (sharesOk (up.word (.parShares 0)) && prioOk (up.word (.parPrio 0))) = true) ∧
    (let s := (argued 0 0).setFld (F.parCtrlEn 0) 1
     let s := s.setFld (F.parLockHeld 0) 1
     s.arg0 16 < 16 ∧ s.flag (F.parCtrlEn 0) = true ∧ s.flag (F.parLockHeld 0) = true) ∧
    (let s := (argued 0 0).setFld (F.parCtrlEn 0) 1
     canon s = true ∧ s.flag (F.parCtrlEn 0) = true ∧ s.flag (F.parLockHeld 0) = false ∧
       sharesOk ((Reg.parShares 0).held (s.word (.parShares 0)).toNat) = true ∧ prioOk ((Reg.parPrio 0).held 0xFFFFFFFF) = false ∧
       prioOk ((Reg.parPrio 0).held (s.word (.parPrio 0)).toNat) = true) ∧
    ((argued 3 0).arg0 16 < 32 ∧ (argued 3 0).bufLen 16 ≤ 16776960 ∧ (argued 3 0).bufAt 16 % 64 = 0 ∧ 384 ≤ (argued 384 0).arg0 16) := by
  decide +kernel
theorem test_witness_PrompterRowsComplete :
    (let s := up.setBox 16 { up.box 16 with telemPeriod := 5 }
     canon s = true ∧ s.running = true ∧ s.prom.cores = .running ∧ (s.box (boxNo .global)).telemPeriod ≠ 0) ∧
    (let s := up.setTime { up.time with cue := 1000 * up.fld F.shpWdogTimeout }
     s.prom.lastKick + 1000 * s.fld F.shpWdogTimeout ≤ s.time.cue) ∧
    (let s := (up.setProm { up.prom with cores := .reset, resets := [1] }).setTime { up.time with cue := 5001 }
     s.prom.cores = .reset ∧ s.prom.resets.getLastD 0 + 5000 ≤ s.time.cue) ∧
    (let s := up.setProm { up.prom with cores := .booting, images := [(1, { valid := true, seq := 3 })] }
     s.prom.cores = .booting ∧ s.bestImage = some 1) ∧
    (up.setProm { up.prom with cores := .booting, images := [] }).bestImage = none ∧
    (let s := up.setProm { up.prom with cores := .restarting, resident := true }
     s.running = true ∧ s.prom.cores = .restarting ∧ s.prom.resident = true ∧ canon s = true) ∧
    (let s := up.setProm { up.prom with repairs := [.port 3] }
     s.prom.repairs = [.port 3]) ∧ (0x35A : Nat) % 256 = 0x5A ∧ (0x35B : Nat) % 256 ≠ 0x5A := by decide +kernel

/-! ## Witnesses: the Shepherd, start-up, resilience -/

theorem test_witness_TemperatureRowsComplete :
    (let t := up.setFld (F.shpTempSensorA 3) (max 0 (min 1023 (4 * (up.fld F.shpTlimitsTrip : Int)))).toNat
     4 * t.fld F.shpTlimitsTrip ≤ (4 * (up.fld F.shpTlimitsTrip : Int)).toNat ∧ (4 * (up.fld F.shpTlimitsTrip : Int) - 1).toNat < 4 * t.fld F.shpTlimitsTrip ∧
       t.shep.restarting = false ∧ (t.setShep { t.shep with restarting := true }).shep.restarting = true) ∧ up.running = true ∧
    (up.shep.dark = false ∧ canon up = true ∧ 0 < up.fld F.shpTlimitsTrip ∧ 4 * up.fld F.shpTlimitsTrip ≤ 600 ∧ (600 : Int) < 601 ∧
      (up.noteSample 6).oddOneOut 3 = false ∧ (up.noteSample 6).targetOf 3 < (up.noteSample 6).alarmOf 3 ∧
      (up.noteSample 6).foldTemp 3 < (up.noteSample 6).targetOf 3) ∧
    (let t := (up.setFld (F.shpTempSensorA 3) 599).noteSample 6
     t.alarmOf 3 ≤ t.foldTemp 3 ∧ t.flag (F.shpTempAlarm 3) = false ∧ 90 < t.foldClock 3) ∧
    Nat.lor (tblGet 0 up.shep.heatFailed 32) 1 ≠ tblGet 0 up.shep.heatFailed 32 ∧
    (up.setShep { up.shep with dark := true }).shep.dark = true ∧
    (let s := up.setFld (F.shpTempSensorA 3) 25
     s.flag (F.shpTempDisagree 3) = false ∧ 24 < s.fld (F.shpTempSensorA 3) - s.fld (F.shpTempSensorB 3) ∧
       ¬24 < (up.setFld (F.shpTempSensorA 3) 24).fld (F.shpTempSensorA 3) - up.fld (F.shpTempSensorB 3)) := by decide +kernel
theorem test_witness_ThermalTripStopsTheDevice : canon up = true ∧ up.running = true ∧ up.shep.dark = false ∧
    4 * up.fld F.shpTlimitsTrip ≤ (4 * (up.fld F.shpTlimitsTrip : Int)).toNat := by decide +kernel
def stopping (e : Stop) : State := up.setShep { up.shep with stop := e }
theorem test_witness_SensorRowsComplete :
    (let s := up.setTime { up.time with diesStopped := [2] }
     (∀ d ∈ railDies (.vcore 2), d ∈ s.time.diesStopped) ∧ 2 ∈ s.time.diesStopped ∧ s.running = true ∧ railLimit (.vcore 2) < 900001) ∧
    (stopping .saved).running = false ∧
    (let x : FlowSample := ⟨0, true⟩
     let t := (up.setFld F.shpCoolantFlowA (min 4095 x.flowA)).setFld F.shpCoolantFlowB (b2n x.flowBClosed)
     t.shep.flowCapped = false ∧ t.shep.meterFailed = false ∧ x.flowA = 0 ∧ x.flowBClosed = true) ∧
    (let x : FlowSample := ⟨0, false⟩
     let t := (up.setFld F.shpCoolantFlowA (min 4095 x.flowA)).setFld F.shpCoolantFlowB (b2n x.flowBClosed)
     t.flowOf x < t.fld F.shpFlimitsAlarm ∧ t.flowOf x < t.fld F.shpFlimitsTrip ∧ x.flowA = 0 ∧ x.flowBClosed = false) ∧
    ((9999 : Nat) < 10000 ∧ (10000 : Nat) ≤ 2000000 ∧ 2000000 < (2000001 : Nat) ∧ up.flag (openFld .a) = false) := by decide +kernel
def demoWrite : LedgerWrite := ⟨3, { magic := 0x4C470001, length := 258048 }⟩
theorem test_witness_ShepherdRowsComplete :
    (canon up = true ∧ up.running = true ∧ (1079 : Nat) < 1080 ∧ 3 ≤ up.fld F.hubBootPhase ∧ up.shep.stop ≠ .saving ∧ up.shep.pins.por = false) ∧
    (stopping (.orderly 0x7001 3)).shep.stop = .orderly 0x7001 3 ∧ (899 : Nat) < savedThreshold (.vcore 2) ∧ savedThreshold (.vcore 2) ≤ 900 ∧
    (let s := up.setShep { up.shep with savesEnabled := true }
     canon s = true ∧ s.running = true ∧ s.shep.stop = .running ∧ s.shep.savesEnabled = true ∧ s.ledg.held = false) ∧
    (let s := (stopping .saving).setLedg { up.ledg with write := some demoWrite }
     s.shep.stop = .saving ∧ s.ledg.write = some demoWrite ∧ s.shep.pins.por = false) ∧
    (let s := up.setLedg { up.ledg with write := some demoWrite }
     s.running = true ∧ s.ledg.write = some demoWrite ∧ s.ledg.again = false) ∧
    (240000000 ≤ bankEnergy ⟨1200, 1000⟩ ∨ bankEnergy ⟨1200, 1000⟩ < 240000000) := by decide +kernel
theorem test_witness_RecordCommitsItsSlot : canon up = true ∧ demoWrite.record.magic = 0x4C470001 ∧ demoWrite.record.length = 258048 := by
  decide +kernel
/-- A device at a phase of its start-up. -/
def atPhase (n : Nat) : State := State.reset.setFld F.hubBootPhase n
theorem test_witness_BringUpRowsComplete_ledger :
    ((atPhase 0).running = true ∧ (atPhase 0).phase = 0 ∧ (atPhase 1).phase = 1 ∧ (atPhase 1).shep.savesEnabled = false ∧
      bestSlot (atPhase 1).ledg.slots = none) ∧
    (let s := (atPhase 1).setShep { State.reset.shep with savesEnabled := true }
     s.holdCharged = false ∧ (s.setFld F.shpHoldVhold 4095).holdCharged = true) := by decide +kernel
/-- The state whose slot 3 holds a committed record. -/
def recorded : State := (atPhase 1).commitRecord demoWrite
theorem test_witness_BringUpRowsComplete_rails :
    (let s := (atPhase 2).setShep { State.reset.shep with rails := { inRange := 3, waiting := true } }
     s.phase = 2 ∧ s.shep.rails.waiting = true ∧ s.shep.rails.inRange = 3) ∧
    (let s := (atPhase 2).setShep { State.reset.shep with rails := { inRange := 3 } }
     s.shep.rails.waiting = false ∧ 0 < s.shep.rails.inRange ∧ s.shep.rails.inRange < 4) ∧
    (let s := (atPhase 2).setShep { State.reset.shep with rails := { tries := 1 } }
     s.shep.rails.inRange = 0 ∧ s.shep.rails.tries = 1 ∧ s.shep.pins.healthy = false) ∧
    (canon (atPhase 3) = true ∧ (atPhase 3).phase = 3 ∧ (atPhase 3).spare.mappedOut = [] ∧ (atPhase 3).spare.failed = []) ∧
    (let s := (atPhase 3).setSpare { (atPhase 3).spare with mappedOut := List.range 9 }
     canon s = true ∧ s.maxMapped < s.spare.mappedOut.length) := by decide +kernel

/-- Partition 0 with a resilience block and a phase of its job; this device is node 0, rank 0 of the company. -/
def jobbed (phase : Nat) (r : Replay := {}) (cue : Nat := 0) : State :=
  let s := ((staged.setFld (F.parRstatusPhase 0) phase).setFld F.oxlNodeNode 0).setTime { staged.time with cue := cue }
  let s := s.setMem { s.mem with stack := cellsAt 0x4008 (le 2 1) }
  let b : ResBlock := { stepQueue := 0, prologueQueue := 1, settle := 512 }
  s.setPartition 0 { s.partition 0 with res := some b, replay := r }
theorem test_witness_ResilienceRowsComplete_rounds :
    (jobbed 0).running = true ∧ ((jobbed 0).partition 0).res.isSome = true ∧
    (let r : Replay := { absents := [(1, 0)] }
     (jobbed 1 r 768).fld (F.parRstatusPhase 0) = 1 ∧ r.absents ≠ [] ∧
       (((jobbed 1 r 768).partition 0).res.any fun b => decide (r.settleEnd b + 256 ≤ 768)) = true ∧
       (((jobbed 1 r 767).partition 0).res.any fun b => decide (767 < r.settleEnd b + 256)) = true) ∧
    (let r : Replay := { decided := 10 }
     (jobbed 2 r 74).fld (F.parRstatusPhase 0) = 2 ∧ r.copying = none ∧ r.decided + 64 ≤ (jobbed 2 r 74).time.cue) ∧
    ([{ bad := true }, { chosen := true }, { chosen := false }].all fun (c : WingsCopy) =>
      decide (((jobbed 2 { copying := some c }).partition 0).replay.copying = some c)) = true := by decide +kernel
/-- The same with a replay record of one slot, and a succession list of n entries, the first of node x. -/
def succeeding (phase : Nat) (r : Replay) (standby : Bool) (n x : Nat) : State :=
  let s := jobbed phase r 768
  let s := s.setMem { s.mem with stack := s.mem.stack ++ cellsAt 0x5000 (le 2 x) }
  let b : ResBlock := { stepQueue := 0, prologueQueue := 1, settle := 512, rrec := 0x6000, succ := 0x5000, succCount := n, wingsStride := 1, standby := standby }
  s.setPartition 0 { s.partition 0 with res := some b }
theorem test_witness_ResilienceRowsComplete_decisions :
    ([(false, 1, 7), (false, 0, 0), (true, 1, 7), (true, 1, 0)].all fun (x : Bool × Nat × Nat) =>
      let r : Replay := { absents := [(1, 0)], seq := 1 }
      let s := succeeding 1 r x.1 x.2.1 x.2.2
      let b := ((s.partition 0).res).getD {}
      canon s && s.running && s.fld (F.parRstatusPhase 0) == 1 && decide ((s.block 0).queueFirst + (s.block 0).queueCount ≤ 8192) &&
        decide (r.settleEnd b + 256 ≤ s.time.cue) && s.target 0 b r.leastCue == some (0, 0) && r.absentSet b == [1] &&
        ((succeed [1] [1] ((s.successionOf b).drop r.used) 0).map fun m => m.1.map (·.1.node)) == (if x.2.1 = 0 then none else some [x.2.2])) = true ∧
    (let s := succeeding 1 { absents := [(1, 0)] } false 1 7
     s.target 0 {} 0 = none) := by decide +kernel
theorem test_witness_ResilienceRowsComplete_wings :
    (let s := succeeding 2 { decided := 10 } false 1 7
     let b := ((s.partition 0).res).getD {}
     canon s = true ∧ (s.wingsPartner 0 b).isSome = true ∧ b.noWings = false) ∧
    ((jobbed 2).wingsPartner 0 { wingsCompany := 9 } = none) := by decide +kernel
theorem test_witness_FaultPathActs : 0 ∈ (jobbed 0).jobPartitions ∧ (jobbed 0).fld (F.parStatusState 0) ≠ 2 ∧ canon (jobbed 0) = true ∧
    (∀ p ∈ (jobbed 5).jobPartitions, (jobbed 5).fld (F.parRstatusPhase p) = 5) ∧ (jobbed 0).qOn 2 = true ∧ (2 : Nat) ≠ 1 ∧
    ((jobbed 0).block 0).queueFirst + ((jobbed 0).block 0).queueCount ≤ 8192 := by decide +kernel
theorem test_witness_ResilienceRowsComplete_resume :
    (let t := (jobbed 4 { hold := true, epoch := 5 } 5).settle
     let v := t.partition 0
     v.replay.hold = true ∧ t.fld (F.parRstatusPhase 0) = 4 ∧ v.replay.epoch ≤ t.time.cue ∧
       (∀ x ∈ t.jobOf 0, t.fld (F.parRstatusPhase x) = 0 ∨ 4 ≤ t.fld (F.parRstatusPhase x))) := by decide +kernel
theorem test_witness_ResilienceRowsComplete_absences :
    (let s := jobbed 0
     (s.companyOf 0 0).isSome = true ∧ (s.jobEntry 0).isSome = true ∧ s.flag (F.parCtrlEn 0) = true ∧
       ((s.rosterAt 0x4000 2)[1]?).map (·.node) = some 1 ∧ ((s.rosterAt 0x4000 2)[0]?).map (·.node) = some 0 ∧ (s.jobEntry 0).map (·.rank) = some 0 ∧
       (s.partition 0).replay.meant 1 5 = 1 ∧ (s.partition 0).replay.meant 0 5 = 0 ∧ (s.partition 0).replay.repeats 1 5 = false ∧
       (s.partition 0).replay.repeats 0 5 = false ∧ s.node = 0 ∧ canon s = true ∧ s.fld (F.parRstatusPhase 0) ≠ 5 ∧
       (∀ z ∈ (s.partition 0).replay.absents, z.1 ≠ 1)) ∧
    (jobbed 5).fld (F.parRstatusPhase 0) = 5 := by decide +kernel

/-- A record that stands committed in slot 3, with SEQ 6. -/
def sealed : LedgerSlot := LedgerSlot.seal { seq := 6, magic := 0x4C470001, length := 258048 }
theorem test_sealed_record_is_committed : sealed.committed = true := by
  have h : sealed.crc = sealed.crcLo := rfl
  simp [LedgerSlot.committed, h]
  simp [sealed, LedgerSlot.seal]
theorem test_witness_BringUpRowsComplete_recovery : canon (atPhase 1) = true ∧
    bestSlot ((atPhase 1).setLedg { (atPhase 1).ledg with slots := [(3, sealed)] }).ledg.slots = some (3, sealed) := by
  refine ⟨by decide +kernel, ?_⟩
  simp [bestSlot, State.setLedg, test_sealed_record_is_committed]

/-- A frame with a payload of the right size. -/
def goodFrame : Frame := { header := 0, payload := List.replicate 256 0, crc := 0 }
def noFields : LinkFields := { nak := none, credits := [], laneSwap := none, probe := none, identity := none, cue := none }
def plainRoute : RouteHeader :=
  { dst := 0, src := 0, pseq := 0, msgIdx := 0, msgLast := true, vc := 0, esc := false, cls := false, kind := 0,
    frames := 0, hops := 0, part := 0 }
def someRecord (port : Byte) : IdRecord := { bookDigest := 0, node := 0, port := port, stepping := 1, turnaround := 0, probe := 0 }
def collOf (n : Nat) : CollHeader :=
  { bookDigest := 0, collSeq := 0, company := 0, srcRank := 0, opcode := 0, dstRank := 0, node := 0, reason := 0,
    paramDigest := 0, epoch := 0, count := 0, payloadLen := BitVec.ofNat 32 n, absentRank := 0, slot := 0, unit := 0, sendCue := 0 }
def ringOf (n : Nat) : RingHeader :=
  { bookDigest := 0, collSeq := 0, company := 0, srcRank := 0, sweep := 0, step := 0, owner := 0, reason := 0,
    ringDigest := 0, epoch := 0, tokens := 0, payloadLen := BitVec.ofNat 32 n, absentRank := 0, slot := 0, sendCue := 0 }
def outcomeOf (repaired bad : List ChanNo) : RehOutcome :=
  { failSectors := 0, firstChan := 0, firstPseudo := false, firstBank := 0, firstRow := 0,
    repairedLanes := repaired, repairedRows := [], unrepairable := bad, traffic := 0 }

/-! ## Well-formed commands: each check refuses an ill-formed term -/

theorem test_wf_frame : (Instr.dataFrame 0 goodFrame).wf = true ∧
    (Instr.dataFrame 0 { goodFrame with payload := List.replicate 255 0 }).wf = false ∧
    (Instr.idleFrame 0 { goodFrame with payload := [] }).wf = false := by decide +kernel
theorem test_wf_link_fields : (Instr.linkFrame 0 goodFrame noFields).wf = true ∧
    (Instr.linkFrame 0 goodFrame { noFields with laneSwap := some 8 }).wf = false ∧
    (Instr.linkFrame 0 goodFrame { noFields with identity := some (someRecord 16) }).wf = false ∧
    (Instr.linkFrame 0 goodFrame { noFields with cue := some { count := 0, elapsed := 0, depth := 32, arrival := 0 } }).wf = false := by
  decide +kernel
theorem test_wf_records : (Instr.identityRecord 0 (someRecord 15)).wf = true ∧ (Instr.identityRecord 0 (someRecord 16)).wf = false ∧
    (Instr.cueReport 0 { count := 0, elapsed := 0, depth := 31, arrival := 0 }).wf = true ∧
    (Instr.cueReport 0 { count := 0, elapsed := 0, depth := 32, arrival := 0 }).wf = false := by decide
theorem test_wf_packet : (Instr.packetRoute .own { route := plainRoute, body := List.replicate 240 0 }).wf = true ∧
    (Instr.packetRoute .own { route := plainRoute, body := List.replicate 241 0 }).wf = false ∧
    (Instr.escWaitExpiry .own { route := plainRoute, body := List.replicate 241 0 }).wf = false := by decide +kernel
theorem test_wf_message_lengths : (Instr.collData 3 (collOf 2) [1, 2]).wf = true ∧ (Instr.collData 3 (collOf 2) [1]).wf = false ∧
    (Instr.collOpen 3 (collOf 0) [1]).wf = false ∧ (Instr.collGo 3 (collOf 1)).wf = false ∧ (Instr.ringData 3 (ringOf 2) [1]).wf = false ∧
    (Instr.ringCredit 3 (ringOf 1)).wf = false ∧ (Instr.beacon 3 (collOf 1)).wf = false := by decide
theorem test_wf_places : (Instr.doorbell 0 8191 0).wf = true ∧ (Instr.doorbell 0 8192 0).wf = false ∧
    (Instr.registerWrite (.fn 0) (2 ^ 25) 0).wf = false ∧ (Instr.loReadLatch (.fn 0) (2 ^ 25)).wf = false ∧
    (Instr.scrubSector 0 32 .clean).wf = false ∧ (Instr.cacheScrub 0 0 32 .clean).wf = false := by decide
theorem test_wf_sizes : (Instr.bar4Write 0 0 []).wf = false ∧ (Instr.bar4Read 0 0 4096).wf = true ∧ (Instr.bar4Read 0 0 4097).wf = false ∧
    (Instr.linkCreditReturn 0 0 4097).wf = false ∧ (Instr.laneSwapCommand 0 8).wf = false := by decide
theorem test_wf_peer : (Instr.peerWrite 1 0 0 ⟨0, 0⟩ []).wf = false ∧ (Instr.peerReadRequest 1 0 0 ⟨0, 0⟩ 16368).wf = true ∧
    (Instr.peerReadRequest 1 0 0 ⟨0, 0⟩ 16369).wf = false ∧ (Instr.peerReadResponse 1 0 .done []).wf = false ∧
    (Instr.peerReadResponse 1 0 .poisoned [1]).wf = false := by decide
theorem test_wf_outcomes : (Instr.rehearsalDone (outcomeOf [1] [2])).wf = true ∧
    (Instr.rehearsalDone { outcomeOf [] [] with repairedRows := [3, 3] }).wf = false ∧ (Instr.rehearsalDone (outcomeOf [1, 1] [])).wf = false ∧
    (Instr.rehearsalDone (outcomeOf [] [2, 2])).wf = false ∧ (Instr.bringupDone ⟨[5, 5], []⟩).wf = false ∧
    (Instr.bringupDone ⟨[], [7, 7]⟩).wf = false ∧ (Instr.bringupDone ⟨[5], [7]⟩).wf = true := by decide

/-! ## Values that the manual's own examples give -/

/-- Stochastic rounding of 0x3F80_6000 to BF16: up when the draw is 0xA000_0000 or more (the example after R120). -/
theorem test_stochastic_rounding_example : encodeF bf16 .sr 0xA0000000 (ofF32 0x3F806000) = 0x3F81 ∧
    encodeF bf16 .sr 0x9FFFFFFF (ofF32 0x3F806000) = 0x3F80 := by decide +kernel
/-- The address 0x0000_0002_0000_0000 lies on die 1 (the example after R194). -/
theorem test_slice_example : sliceOf (0x200000000 / 64) = 1 := by decide +kernel
/-- Weights 20 and 12 at a port reserve 32 and 19 credits (the example after R323). -/
theorem test_port_reserves_example : reservedCredits 104 20 32 = 32 ∧ reservedCredits 104 12 32 = 19 := by decide +kernel
/-- Records 0 to 3 and 32 stand in bank n mod 2 at place ⌊n / 2⌋ mod 16 (R299). -/
theorem test_ledger_slots : [0, 1, 2, 3, 32].map slotOf = [0, 16, 1, 17, 0] := by decide +kernel
/-- 2^24, 1 and −2^24 added in FP32 one after another give 0 (the example after R110). -/
theorem test_fp32_order_example :
    let x := roundF32 (FVal.sum .rne [ofF32 0x4B800000, ofF32 0x3F800000])
    toF32 (FVal.sum .rne [x, ofF32 0xCB800000]) = 0 := by decide +kernel

/-! ## The queue -/

theorem test_witness_StepRunsFrontCommand : (State.reset.setPending [.cueTick, .beaconSend]).pending = .cueTick :: [.beaconSend] := rfl
theorem test_witness_EveryStepAnswers : State.reset.pending = [] := rfl
theorem test_witness_EveryStepKeepsCanonicalForm : up.canonical ∧ (∃ t, step (up.setPending [.cueTick]) = .next t) ∧
    ∃ t, exec .cueTick up = .next t := ⟨canon_canonical up (by decide +kernel), ⟨_, rfl⟩, ⟨_, rfl⟩⟩

end Sys2Proof.Tests
end

section
/-!
Proofs about the register conventions (R5, R6, R360): a write of a register as the replacement of its fields one after
another, and what each access code makes of a field.
-/

namespace Sys2Proof.Machine

/-! ## Registers laid out in fields (R5, R6, R360) -/

/-- A word with each field of a list replaced in turn, g giving the values. -/
def writeFields (fs : List FieldSpec) (g : FieldSpec → Nat) (word : Nat) : Nat :=
  fs.foldl (fun acc f => setBits acc f.lo f.len (g f)) word

@[simp] theorem writeFields_nil (g : FieldSpec → Nat) (word : Nat) : writeFields [] g word = word := rfl

@[simp] theorem writeFields_cons (f : FieldSpec) (fs : List FieldSpec) (g : FieldSpec → Nat) (word : Nat) :
    writeFields (f :: fs) g word = writeFields fs g (setBits word f.lo f.len (g f)) := rfl

theorem Reg.after_eq_writeFields (r : Reg) (sub old v : Nat) (locked : Bool) :
    r.after sub old v locked =
      writeFields r.fields (fun f => f.after sub (bits old f.lo f.len) (bits v f.lo f.len) locked) old := rfl

/-- The fields of a register stand in rising order and apart. -/
theorem Reg.fields_pairwise (r : Reg) : r.fields.Pairwise fun f g => f.lo + f.len ≤ g.lo := by
  cases r <;> (simp only [Reg.fields]; decide)

theorem Reg.reset_lt_of_mem_fields (r : Reg) : ∀ f ∈ r.fields, f.reset < 2 ^ f.len := by
  cases r <;> (simp only [Reg.fields]; decide)

@[simp] theorem bits_mod_two_pow_len (v lo len : Nat) : bits v lo len % 2 ^ len = bits v lo len := Nat.mod_mod _ _

/-- A bit outside the field replaced keeps its value. -/
theorem testBit_setBits_apart (v lo len x b : Nat) (h : b < lo ∨ lo + len ≤ b) :
    (setBits v lo len x).testBit b = v.testBit b := by
  have hb : bits (setBits v lo len x) b 1 = bits v b 1 := bits_setBits_apart v lo len x b 1 (by omega)
  simpa [bits, Nat.testBit_eq_decide_div_mod_eq] using congrArg (fun n => decide (n = 1)) hb

theorem testBit_writeFields_apart (fs : List FieldSpec) (g : FieldSpec → Nat) (word b : Nat)
    (h : ∀ f ∈ fs, b < f.lo ∨ f.lo + f.len ≤ b) : (writeFields fs g word).testBit b = word.testBit b := by
  induction fs generalizing word with
  | nil => rfl
  | cons f fs ih =>
    obtain ⟨hf, hfs⟩ := List.forall_mem_cons.mp h
    rw [writeFields_cons, ih _ hfs, testBit_setBits_apart _ _ _ _ _ hf]

theorem bits_writeFields_apart (fs : List FieldSpec) (g : FieldSpec → Nat) (word lo len : Nat)
    (h : ∀ f ∈ fs, lo + len ≤ f.lo) : bits (writeFields fs g word) lo len = bits word lo len := by
  induction fs generalizing word with
  | nil => rfl
  | cons f fs ih =>
    obtain ⟨hf, hfs⟩ := List.forall_mem_cons.mp h
    rw [writeFields_cons, ih _ hfs, bits_setBits_apart _ _ _ _ _ _ (.inr hf)]

theorem bits_writeFields_of_mem {fs : List FieldSpec} (hp : fs.Pairwise fun f g => f.lo + f.len ≤ g.lo)
    (g : FieldSpec → Nat) (word : Nat) {f : FieldSpec} (hf : f ∈ fs) :
    bits (writeFields fs g word) f.lo f.len = g f % 2 ^ f.len := by
  induction fs generalizing word with
  | nil => exact absurd hf List.not_mem_nil
  | cons e fs ih =>
    obtain ⟨he, hfs⟩ := List.pairwise_cons.mp hp
    rw [writeFields_cons]
    rcases List.mem_cons.mp hf with rfl | hf
    · rw [bits_writeFields_apart _ _ _ _ _ he, bits_setBits_same]
    · exact ih hfs _ hf

theorem setBits_of_bits_eq_zero {v lo len x : Nat} (hv : bits v lo len = 0) (hx : x < 2 ^ len) :
    setBits v lo len x = v + x * 2 ^ lo := by
  rw [setBits, hv, Nat.mod_eq_of_lt hx, Nat.zero_mul, Nat.sub_zero]

/-- Adding the reset values up, field by field, writes them into the fields: each finds its place still 0. -/
theorem foldl_add_reset_eq_writeFields {fs : List FieldSpec} (hp : fs.Pairwise fun f g => f.lo + f.len ≤ g.lo)
    (hr : ∀ f ∈ fs, f.reset < 2 ^ f.len) (acc : Nat) (h0 : ∀ f ∈ fs, bits acc f.lo f.len = 0) :
    fs.foldl (fun acc f => acc + f.reset * 2 ^ f.lo) acc = writeFields fs FieldSpec.reset acc := by
  induction fs generalizing acc with
  | nil => rfl
  | cons e fs ih =>
    obtain ⟨he, hfs⟩ := List.pairwise_cons.mp hp
    obtain ⟨hre, hrs⟩ := List.forall_mem_cons.mp hr
    obtain ⟨h0e, h0s⟩ := List.forall_mem_cons.mp h0
    rw [List.foldl_cons, writeFields_cons, ← setBits_of_bits_eq_zero h0e hre]
    refine ih hfs hrs _ fun f hf => ?_
    rw [bits_setBits_apart _ _ _ _ _ _ (.inl (he f hf)), h0s f hf]

theorem Reg.resetWord_eq_writeFields (r : Reg) : r.resetWord = BitVec.ofNat 32 (writeFields r.fields FieldSpec.reset 0) := by
  rw [Reg.resetWord, foldl_add_reset_eq_writeFields r.fields_pairwise r.reset_lt_of_mem_fields 0 fun f _ => by simp [bits]]

/-- Settles O19: at reset and at a write the word is written field by field, and what lies in no field keeps its bit. -/
theorem reservedBitsStayZero : Obligations.ReservedBitsStayZero := by
  intro r b hb
  constructor
  · rw [Reg.resetWord_eq_writeFields, BitVec.toNat_ofNat, Nat.testBit_mod_two_pow, testBit_writeFields_apart _ _ _ _ hb,
      Nat.zero_testBit, Bool.and_false]
  · intro sub old v locked h
    rw [Reg.after_eq_writeFields, testBit_writeFields_apart _ _ _ _ hb, h]

/-! ## A field after a write (R5, R360, R362) -/

theorem Reg.bits_after (r : Reg) {f : FieldSpec} (hf : f ∈ r.fields) (sub old v : Nat) (locked : Bool) :
    bits (r.after sub old v locked) f.lo f.len = f.after sub (bits old f.lo f.len) (bits v f.lo f.len) locked % 2 ^ f.len := by
  rw [Reg.after_eq_writeFields, bits_writeFields_of_mem r.fields_pairwise _ _ hf]

theorem rwAfter_value (o x : Nat) : rwAfter 0 o x = x := rfl

theorem testBit_rwAfter_set (o x k : Nat) : (rwAfter 4 o x).testBit k = (o.testBit k || x.testBit k) := Nat.testBit_or o x k

theorem testBit_rwAfter_invert (o x k : Nat) : (rwAfter 12 o x).testBit k = (o.testBit k ^^ x.testBit k) := Nat.testBit_xor o x k

theorem testBit_rwAfter_clear (o x k : Nat) : (rwAfter 8 o x).testBit k = (o.testBit k && !x.testBit k) := by
  calc (rwAfter 8 o x).testBit k = (o.testBit k && (o ^^^ x).testBit k) := Nat.testBit_and o (o ^^^ x) k
    _ = (o.testBit k && !x.testBit k) := by rw [Nat.testBit_xor]; cases o.testBit k <;> simp

theorem FieldSpec.after_of_writable {f : FieldSpec} {locked : Bool} (h : f.access = .rw ∨ f.access = .rwl ∧ locked = false)
    (sub old v : Nat) : f.after sub old v locked = rwAfter sub old v := by
  rcases h with h | ⟨h, rfl⟩ <;> simp [FieldSpec.after, h]

theorem FieldSpec.after_of_locked {f : FieldSpec} (h : f.access = .rwl) (sub old v : Nat) : f.after sub old v true = old := by
  simp [FieldSpec.after, h]

theorem FieldSpec.after_of_w1c {f : FieldSpec} (h : f.access = .w1c) (sub old v : Nat) (locked : Bool) :
    f.after sub old v locked = if sub = 0 ∧ v ≠ 0 then 0 else old := by
  simp only [FieldSpec.after, h]

theorem FieldSpec.after_of_readOnly {f : FieldSpec} (h : f.access = .ro ∨ f.access = .sho) (sub old v : Nat) (locked : Bool) :
    f.after sub old v locked = old := by
  rcases h with h | h <;> simp [FieldSpec.after, h]

/-- Settles O29: a field of the word written reads as what its access code makes of it, cut off at its width. -/
theorem fieldsAfterAWrite : Obligations.FieldsAfterAWrite := by
  intro r f sub old v locked hf hs _ _
  simp only [Reg.bits_after r hf]
  refine ⟨fun ha k hk => ?_, fun ha hl => ?_, fun ha => ?_, fun ha => ?_⟩
  · rw [FieldSpec.after_of_writable ha, Nat.testBit_mod_two_pow, decide_eq_true hk, Bool.true_and]
    simp only [List.mem_cons, List.not_mem_nil, or_false] at hs
    rcases hs with rfl | rfl | rfl | rfl
    · exact congrArg (Nat.testBit · k) (rwAfter_value _ _)
    · exact testBit_rwAfter_set _ _ k
    · exact testBit_rwAfter_clear _ _ k
    · exact testBit_rwAfter_invert _ _ k
  · rw [hl, FieldSpec.after_of_locked ha, bits_mod_two_pow_len]
  · rw [FieldSpec.after_of_w1c ha]
    split
    · exact Nat.zero_mod _
    · exact bits_mod_two_pow_len _ _ _
  · rw [FieldSpec.after_of_readOnly ha, bits_mod_two_pow_len]

end Sys2Proof.Machine
end

section
/-!
Proofs about numbers as bytes and bit fields, and the headers that travel over the links read back from theirs (R4, R141, R161, R317).
-/

namespace Sys2Proof.Machine

/-! ## Bytes and fields of a number (R4) -/

@[simp] theorem natLE_length (n v : Nat) : (natLE n v).length = n := by
  induction n generalizing v with
  | zero => rfl
  | succ n ih => rw [natLE, List.length_cons, ih]

@[simp] theorem zeros_length (n : Nat) : (zeros n).length = n := List.length_replicate

theorem leNat_natLE (n v : Nat) : leNat (natLE n v) = v % 256 ^ n := by
  induction n generalizing v with
  | zero => rw [Nat.pow_zero, Nat.mod_one]; rfl
  | succ n ih => rw [natLE, leNat, ih, BitVec.toNat_ofNat, Nat.pow_succ' (m := 256), Nat.mod_mul]

theorem field_append_of_length_le (a b : Bytes) (off len : Nat) (h : a.length ≤ off) :
    field (a ++ b) off len = field b (off - a.length) len := by
  rw [field, slice, List.drop_append, List.drop_eq_nil_of_le h, List.nil_append]; rfl

theorem field_natLE_append_of_le (n v : Nat) (b : Bytes) {off : Nat} (len : Nat) (h : n ≤ off) :
    field (natLE n v ++ b) off len = field b (off - n) len := by
  rw [field_append_of_length_le _ _ _ _ (by rwa [natLE_length]), natLE_length]

theorem field_zeros_append_of_le (n : Nat) (b : Bytes) {off : Nat} (len : Nat) (h : n ≤ off) :
    field (zeros n ++ b) off len = field b (off - n) len := by
  rw [field_append_of_length_le _ _ _ _ (by rwa [zeros_length]), zeros_length]

theorem field_natLE_append_same (n v : Nat) (b : Bytes) : field (natLE n v ++ b) 0 n = v % 256 ^ n := by
  rw [field, slice, List.drop_zero, List.take_left' (natLE_length n v), leNat_natLE]

theorem ofNat_field_natLE_append_same (n : Nat) {w : Nat} (x : BitVec w) (b : Bytes) (hw : w ≤ 8 * n) :
    BitVec.ofNat w (field (natLE n x.toNat ++ b) 0 n) = x := by
  have hx : x.toNat < 256 ^ n :=
    calc x.toNat < 2 ^ w := x.isLt
      _ ≤ 2 ^ (8 * n) := Nat.pow_le_pow_right (by decide) hw
      _ = 256 ^ n := Nat.pow_mul 2 8 n
  rw [field_natLE_append_same, Nat.mod_eq_of_lt hx, BitVec.ofNat_toNat, BitVec.setWidth_eq]

/-! ## Ring and collective headers (R141, R161) -/

theorem ringBytes_length (h : RingHeader) (type : Nat) : (ringBytes h type).length = 64 := by
  simp [ringBytes]

theorem collBytes_length (h : CollHeader) (type : Nat) : (collBytes h type).length = 64 := by
  simp [collBytes]

theorem headerType_ringBytes (h : RingHeader) {type : Nat} (ht : type < 256) (payload : Bytes) :
    headerType (ringBytes h type ++ payload) = type := by
  simp [headerType, ringBytes, field_natLE_append_of_le, field_natLE_append_same, Nat.mod_eq_of_lt ht]

theorem headerType_collBytes (h : CollHeader) {type : Nat} (ht : type < 256) (payload : Bytes) :
    headerType (collBytes h type ++ payload) = type := by
  simp [headerType, collBytes, field_natLE_append_of_le, field_natLE_append_same, Nat.mod_eq_of_lt ht]

theorem ringHeaderOf_ringBytes (h : RingHeader) (type : Nat) (payload : Bytes) :
    ringHeaderOf (ringBytes h type ++ payload) = h := by
  simp [ringHeaderOf, ringBytes, field_natLE_append_of_le, field_zeros_append_of_le, ofNat_field_natLE_append_same]

theorem collHeaderOf_collBytes (h : CollHeader) (type : Nat) (payload : Bytes) :
    collHeaderOf (collBytes h type ++ payload) = h := by
  simp [collHeaderOf, collBytes, field_natLE_append_of_le, ofNat_field_natLE_append_same]

/-! ## Route headers (R317) -/

theorem b2n_eq_toNat_ofBool (b : Bool) : b2n b = (BitVec.ofBool b).toNat := by
  cases b <;> rfl

theorem toNat_ofBool_beq_one (b : Bool) : ((BitVec.ofBool b).toNat == 1) = b := by
  cases b <;> rfl

/-- The number whose lowest w bits are x, with rest in the bits above. -/
def packLow {w : Nat} (x : BitVec w) (rest : Nat) : Nat := x.toNat + 2 ^ w * rest

theorem bits_packLow_same {w : Nat} (x : BitVec w) (rest : Nat) : bits (packLow x rest) 0 w = x.toNat := by
  rw [bits, packLow, Nat.pow_zero, Nat.div_one, Nat.add_mul_mod_self_left, Nat.mod_eq_of_lt x.isLt]

theorem bits_packLow_of_le {w : Nat} (x : BitVec w) (rest : Nat) {lo : Nat} (len : Nat) (h : w ≤ lo) :
    bits (packLow x rest) lo len = bits rest (lo - w) len := by
  obtain ⟨k, rfl⟩ := Nat.exists_eq_add_of_le h
  rw [bits, packLow, Nat.pow_add, ← Nat.div_div_eq_div_mul, Nat.add_mul_div_left _ _ (Nat.two_pow_pos w),
    Nat.div_eq_of_lt x.isLt, Nat.zero_add, Nat.add_sub_cancel_left, bits]

theorem ofNat_packLow {w : Nat} (x : BitVec w) (rest : Nat) : BitVec.ofNat w (packLow x rest) = x := by
  rw [packLow, ← BitVec.toNat_inj, BitVec.toNat_ofNat, Nat.add_mul_mod_self_left, Nat.mod_eq_of_lt x.isLt]

/-- The 128 bits of a route header, each field above those before it. -/
theorem routeNat_eq_packLow (h : RouteHeader) : routeNat h =
    (packLow h.dst <| packLow h.src <| packLow h.pseq <| packLow h.msgIdx <| packLow (.ofBool h.msgLast) <| packLow h.vc <|
      packLow (.ofBool h.esc) <| packLow (.ofBool h.cls) <| packLow h.kind <| packLow h.frames <| packLow h.hops <|
      packLow h.part 0) := by
  simp only [routeNat, packLow, b2n_eq_toNat_ofBool]
  ring

theorem routeOf_routeNat (h : RouteHeader) : routeOf (routeNat h) = h := by
  simp [routeOf, routeNat_eq_packLow, ofNat_packLow, bits_packLow_of_le, bits_packLow_same, toNat_ofBool_beq_one,
    -BitVec.toNat_ofBool]

/-- Settles O40: the fields of each header stand one after another, and each is read where those before it end. -/
theorem routeHeaderRoundTrip : Obligations.RouteHeaderRoundTrip :=
  ⟨routeOf_routeNat,
    fun h type payload ht => ⟨ringHeaderOf_ringBytes h type payload, headerType_ringBytes h ht payload, ringBytes_length h type⟩,
    fun h type payload ht => ⟨collHeaderOf_collBytes h type payload, headerType_collBytes h ht payload, collBytes_length h type⟩⟩

end Sys2Proof.Machine
end

section
/-!
Proofs about issue (R19, R66 to R68): what becomes of the instruction at the head of a queue, by its hazards and its verdict, and how
one that fails a check retires.
-/

namespace Sys2Proof.Machine

/-! ## The rows that issue an instruction -/

theorem exec_of_mem_issueRows {row : Nat × (QueueNo → Instr)} (h : row ∈ issueRows) (q : QueueNo) (s : State) :
    exec (row.2 q) s = .next (s.issue q row.1) := by
  have rows : issueRows.Forall fun row => exec (row.2 q) s = .next (s.issue q row.1) := by
    simp only [issueRows, List.cons_append, List.nil_append, List.forall_cons, List.Forall]
    and_intros <;> rfl
  exact List.forall_iff_forall_mem.mp rows row h

theorem opcode_ne_chain_of_mem_issueRows {row : Nat × (QueueNo → Instr)} (h : row ∈ issueRows) : row.1 ≠ 0x04 :=
  (by decide : ∀ op ∈ issueRows.map Prod.fst, op ≠ 0x04) row.1 (List.mem_map_of_mem h)

@[simp] theorem Pkt.stageCount_of_ne_chain {k : Pkt} (h : k.opcode ≠ 0x04) : k.stageCount = 0 :=
  if_neg fun hk => h hk.1

/-! ## One packet fetched and read (R60, R67) -/

theorem State.fetchAll_singleton (s : State) (table : Nat) (i : Inst) :
    s.fetchAll table [i] =
      let f := s.fetchDescs i.queue table [i.pkt.s0, i.pkt.s1, i.pkt.s2, i.pkt.s3]
      (f.1, [{ i with descs := f.2.1 }], f.2.2) := by
  simp [State.fetchAll]

theorem State.loadAll_singleton (s : State) (table : Nat) (i : Inst) :
    s.loadAll table [i] = ((s.loadParams i table).1, [(s.loadParams i table).2]) := rfl

theorem markEnds_false_singleton (j : Judged) :
    markEnds false [j] = [{ j with chain := false, first := false, last := false }] := rfl

theorem State.loadParams_pkt (s : State) (i : Inst) (table : Nat) : (s.loadParams i table).2.i.pkt = i.pkt := by
  unfold State.loadParams
  dsimp only
  repeat' split
  all_goals rfl

/-! ## The head's turn (R66) -/

/-- The read of a descriptor that the head's slots or its parameter block name meets poison. -/
def headPoison (s : State) (q p : Nat) (k : Pkt) (sc : Option Scene) : Bool :=
  (s.fetchDescs q (s.dtabOf p sc k.opcode) [k.s0, k.s1, k.s2, k.s3]).2.2 || (headRead s q p k sc).2.poison

/-- What becomes of the head of queue q: it waits at a hazard, retires at issue, or goes in flight. -/
def headTurn (s : State) (q p : Nat) (k : Pkt) (sc : Option Scene) : State :=
  let m := headRead s q p k sc
  let i := headInst s q p k sc
  if headHazard s q p k sc = true then s
  else match headVerdict s q p k sc with
    | .fails e => m.1.retireAtIssue i [m.2.i] e
    | .zero => m.1.retireAtIssue i [m.2.i] 0
    | .passes => m.1.issuePass s i [m.2.i] (m.1.windowOf i)

section

variable {s : State} {q op p : Nat} {k : Pkt} {sc : Option Scene}

theorem headRead_pkt : (headRead s q p k sc).2.i.pkt = k := State.loadParams_pkt _ _ _

theorem headVerdict_of_poison (h : headPoison s q p k sc = true) : headVerdict s q p k sc = .fails Ev.eccUncorr := if_pos h

theorem headVerdict_of_not_poison (h : ¬headPoison s q p k sc = true) :
    headVerdict s q p k sc =
      (headRead s q p k sc).1.verdict (s.queue q).block.kind ((headRead s q p k sc).1.windowOf (headInst s q p k sc)) none
        [(headRead s q p k sc).2] :=
  if_neg h

theorem headTurn_of_hazard (h : headHazard s q p k sc = true) : headTurn s q p k sc = s := if_pos h

theorem headTurn_of_fails (h : headHazard s q p k sc = false) {e : Nat} (hv : headVerdict s q p k sc = .fails e) :
    headTurn s q p k sc = (headRead s q p k sc).1.retireAtIssue (headInst s q p k sc) [(headRead s q p k sc).2.i] e := by
  simp [headTurn, h, hv]

theorem headTurn_of_zero (h : headHazard s q p k sc = false) (hv : headVerdict s q p k sc = .zero) :
    headTurn s q p k sc = (headRead s q p k sc).1.retireAtIssue (headInst s q p k sc) [(headRead s q p k sc).2.i] 0 := by
  simp [headTurn, h, hv]

theorem Head.backlog_pos (h : Head s q op p k sc) : 0 < (s.queue q).backlog := by
  have hmay := h.may
  simp only [State.mayIssue, Bool.and_eq_true, bne_iff_ne] at hmay
  omega

/-- The head's turn, for every opcode but CHAIN's: its packets are the head alone, and every guard of the issue lets it through. -/
theorem State.issue_of_head (h : Head s q op p k sc) (hop : op ≠ 0x04) : s.issue q op = (headTurn s q p k sc).settle := by
  have hback := h.backlog_pos
  obtain ⟨hpart, hmay, hfetch, hpkt, rfl, hsc, hshare, hcue⟩ := h
  simp only [State.issue, hpart, hpkt, ← hsc, Pkt.stageCount_of_ne_chain hop, if_neg hop, if_true, List.range_zero, List.map_nil,
    List.map_cons, List.any_cons, List.any_nil, Bool.or_false, State.fetchAll_singleton, State.loadAll_singleton, bne_self_eq_false,
    markEnds_false_singleton, List.headD_cons, List.flatMap_cons, List.flatMap_nil, List.append_nil]
  refine (if_neg ?may).trans <| (if_neg ?fetched).trans <| (if_neg ?meant).trans <| (if_neg ?ready).trans <| (if_neg ?stages).trans <|
    congrArg State.settle <| ite_congr rfl (fun _ => rfl) fun _ => ?turn
  case may => simp [hmay]
  case fetched => simp [hfetch]
  case meant => simp [hback.ne']
  case ready => simp [hshare, hcue]
  case stages => simp [firstEvent]
  case turn =>
    by_cases hp : headPoison s q p k sc = true
    · rw [headVerdict_of_poison hp]
      exact if_pos hp
    · rw [headVerdict_of_not_poison hp]
      exact if_neg hp

end

/-! ## Retirement at issue (R22, R68) -/

theorem State.endAtIssue_of_plain (s : State) {i : Inst} (hc : isColl i.pkt.opcode = false) (hr : isRing i.pkt.opcode = false)
    (event : Nat) : s.endAtIssue i event = s := by
  simp [State.endAtIssue, hc, hr]

theorem State.retireAtIssue_of_plain (s : State) {i j : Inst} (hi : i.pkt.opcode ≠ 0x04) (hs : i.stages = []) (hn : i.count = 0)
    (hc : isColl j.pkt.opcode = false) (hr : isRing j.pkt.opcode = false) (event : Nat) :
    let i' := { i with event := event, immediate := true }
    s.retireAtIssue i [j] event = ((s.noteIssue i' 1).enter i').place i' := by
  simp [State.retireAtIssue, State.over, s.endAtIssue_of_plain hc hr, hi, hs, hn, Inst.span]

/-- Settles O6: the head's turn is a wait at a hazard and otherwise its verdict's, and an instruction that sends nothing as it ends leaves
its queue's head past it and itself in flight with its event alone. -/
theorem failedCheckRetiresAtIssue : Obligations.FailedCheckRetiresAtIssue := by
  intro row hrow s q p k sc h
  have hexec : exec (row.2 q) s = .next (headTurn s q p k sc).settle := by
    rw [exec_of_mem_issueRows hrow, State.issue_of_head h (opcode_ne_chain_of_mem_issueRows hrow)]
  refine ⟨fun hz => ?hazard, fun hz e hv => ?fails, fun hz hv => ?zero, fun t e hc hr hk => ?plain⟩
  case hazard => rw [hexec, headTurn_of_hazard hz]
  case fails => rw [hexec, headTurn_of_fails hz hv]
  case zero => rw [hexec, headTurn_of_zero hz hv]
  case plain =>
    rw [← headRead_pkt (s := s) (q := q) (p := p) (k := k) (sc := sc)] at hc hr
    exact t.retireAtIssue_of_plain hk rfl rfl hc hr e

end Sys2Proof.Machine
end

section
/-!
Proofs about the overlap rule of the matrix product (R82): what the byte ranges' overlap makes of its checks at order 4, and of its verdict.
-/

namespace Sys2Proof.Machine

theorem Desc.meets_of_overlap {c d : Desc} (ht : c.tier = d.tier) (hr : c.tier = tPeer → c.rank = d.rank)
    (h : c.base < d.base + d.extent ∧ d.base < c.base + c.extent ∧ 0 < c.extent ∧ 0 < d.extent) : c.meets d = true := by
  have hrank : (c.tier != tPeer || c.rank == d.rank) = true := by
    by_cases hp : c.tier = tPeer
    · simp [hr hp]
    · simp [hp]
  rw [Desc.meets, hrank, overlaps, decide_eq_true h]
  simp [ht]

theorem mmaShapesOk_of_meets {k : Pkt} {a b c d : Desc} {bias : Option Desc} (hd : some d ∈ [some a, some b, bias])
    (hkc : formatKnown c.format = true) (hkd : formatKnown d.format = true) (hm : c.meets d = true) :
    mmaShapesOk k a b c bias = false := by
  refine Bool.and_eq_false_imp.mpr fun _ => List.all_eq_false.mpr ⟨some d, hd, ?_⟩
  simp [hkc, hkd, hm]

theorem Inst.dd_of_d {i : Inst} {n : Nat} {d : Desc} (h : i.d n = some d) : i.dd n = d := by
  rw [Inst.dd, h, Option.getD_some]

theorem Inst.some_dd {i : Inst} {n : Nat} (h : (i.d n).isSome = true) : some (i.dd n) = i.d n := by
  obtain ⟨d, hd⟩ := Option.isSome_iff_exists.mp h
  rw [Inst.dd_of_d hd, hd]

theorem mmaCheck_four_of_meets {i : Inst} {c d : Desc} (hc : i.d 0 = some c) (ha : (i.d 1).isSome = true) (hb : (i.d 2).isSome = true)
    (hd : i.d 1 = some d ∨ i.d 2 = some d ∨ i.d 3 = some d) (hkc : formatKnown c.format = true) (hkd : formatKnown d.format = true)
    (hm : c.meets d = true) : mmaCheck i 4 = Ev.desc := by
  have hmem : some d ∈ [some (i.dd 1), some (i.dd 2), i.d 3] := by
    rw [Inst.some_dd ha, Inst.some_dd hb]
    simpa [eq_comm] using hd
  rw [← Inst.dd_of_d hc] at hkc hm
  exact if_neg (by rw [mmaShapesOk_of_meets hmem hkc hkd hm]; exact Bool.false_ne_true)

theorem State.judge_one_mma (s : State) (kind : Nat) {j : Judged} (hop : j.i.pkt.opcode = 0x10) : s.judge kind j 1 = 0 := by
  simp only [State.judge, hop]
  rfl

theorem State.judge_four_mma (s : State) (kind : Nat) {j : Judged} (hop : j.i.pkt.opcode = 0x10) (h : mmaCheck j.i 4 = Ev.desc) :
    s.judge kind j 4 = Ev.desc := by
  have hown : s.opCheck j.i 4 = Ev.desc := by simp [State.opCheck, hop, h]
  have hparam : j.i.paramSlot = none := by rw [Inst.paramSlot, hop]; rfl
  have hinfo : opInfo 0x10 = some ⟨[0], .matrix, 0xFF, 3, need3 .required .required .required .optional, [0], []⟩ := rfl
  simp only [State.judge, hop, hown, hinfo, hparam]
  simp

theorem State.verdict_of_order_four {s : State} {kind window : Nat} {j : Judged} (h1 : s.judge kind j 1 = 0) (h2 : s.judge kind j 2 = 0)
    (h4 : s.judge kind j 4 = Ev.desc) : s.verdict kind window none [j] = .fails Ev.desc := by
  simp [State.verdict, firstEvent, h1, h2, h4, Ev.desc]

/-- Settles O18: the overlap fails the shape rules of order 4, and with the orders before it passed that is the verdict. -/
theorem mmaOverlapIsRefused : Obligations.MmaOverlapIsRefused := by
  intro s kind j c d hop hc hd ha hb hkc hkd ht hr hlo hhi hec hed
  have h4 : s.judge kind j 4 = Ev.desc :=
    s.judge_four_mma kind hop (mmaCheck_four_of_meets hc ha hb hd hkc hkd (Desc.meets_of_overlap ht hr ⟨hlo, hhi, hec, hed⟩))
  refine ⟨h4, fun z q p k sc hhead hfree hfetch hpoison hread hkind h2 => ?_⟩
  have hclean : ¬headPoison z q p k sc = true := by simp [headPoison, hfetch, hread, hpoison]
  have hv : headVerdict z q p k sc = .fails Ev.desc := by
    rw [headVerdict_of_not_poison hclean, hread, ← hkind]
    exact State.verdict_of_order_four (s.judge_one_mma kind hop) h2 h4
  have hexec : exec (.mma q) z = .next (z.issue q 0x10) := rfl
  rw [hexec, State.issue_of_head hhead (by decide), headTurn_of_fails hfree hv, hread]

end Sys2Proof.Machine
end

section
/-!
Proofs about SOFTMAX's special rows (R89, R90).
-/

namespace Sys2Proof.Machine

theorem softOut_of_floatFmt {fmt : Nat} {f : FFmt} (h : floatFmt fmt = some f) (mode : Round) (r : SoftRow) :
    softOut fmt mode r = codeBytes fmt (r.terms.map fun p => if r.zero then 0 else encodeF f mode 0 (ofF32 (divF fp32 .rne p r.l))) := by
  rw [softOut, h]

theorem softRow_of_special {xs : List FVal} (h : ∃ x ∈ xs, x.isNaN = true ∨ x = .inf false) (v imm : Nat) (anch : Bool) :
    softRow v imm anch xs = ⟨xs.map fun _ => .nan, .nan, .nan, false, false⟩ := by
  obtain ⟨x, hx, h⟩ := h
  have hany : xs.any (fun x => x.isNaN || x == .inf false) = true := List.any_eq_true.mpr ⟨x, hx, by simpa using h⟩
  simp [softRow, hany, Function.comp_def]

theorem softRow_of_minusInf {xs : List FVal} (h : ∀ x ∈ xs, x = .inf true) (v imm : Nat) (anch : Bool) :
    softRow v imm anch xs = ⟨xs.map fun _ => .zero, .inf true, .zero, true, false⟩ := by
  have hany : xs.any (fun x => x.isNaN || x == .inf false) = false := List.any_eq_false.mpr fun x hx => by rw [h x hx]; decide
  have hall : xs.all (fun x => x == .inf true) = true := List.all_eq_true.mpr fun x hx => by rw [h x hx]; decide
  simp [softRow, hany, hall, Function.comp_def]

theorem softRow_of_single {x : FVal} (h : x.isFinite = true) (v imm : Nat) (anch : Bool) :
    (softRow v imm anch [x]).terms = [.one] ∧ (softRow v imm anch [x]).l = .one ∧ (softRow v imm anch [x]).zero = false := by
  cases x with
  | nan => exact absurd h Bool.false_ne_true
  | inf neg => exact absurd h Bool.false_ne_true
  | fin neg m e => exact ⟨rfl, rfl, rfl⟩

theorem ofF32_divF_nan : ofF32 (divF fp32 .rne .nan .nan) = .nan := by decide

theorem mem_of_floatFmt {fmt : Nat} {f : FFmt} (h : floatFmt fmt = some f) :
    f ∈ [fp32, bf16, fp16, fp8e4m3, fp8e5m2, mx6e3m2, mx6e2m3, mx4e2m1] := by
  unfold floatFmt at h
  split at h <;> cases h <;> decide

theorem encodeF_one_div_one {fmt : Nat} {f : FFmt} (h : floatFmt fmt = some f) (mode : Round) :
    encodeF f mode 0 (ofF32 (divF fp32 .rne .one .one)) = encodeF f mode 0 .one := by
  have hfin : ∀ g ∈ [fp32, bf16, fp16, fp8e4m3, fp8e5m2, mx6e3m2, mx6e2m3, mx4e2m1],
      ∀ m ∈ [Round.rne, .rtz, .rup, .rdn, .sr, .rneSat, .srSat],
        encodeF g m 0 (ofF32 (divF fp32 .rne .one .one)) = encodeF g m 0 .one := by decide
  exact hfin f (mem_of_floatFmt h) mode (by cases mode <;> decide)

/-- Settles O17: each special row has a form of its own, and 1 / 1, which FP32 holds as 2^23 × 2^(-23), encodes as 1 does. -/
theorem softmaxSpecialRows : Obligations.SoftmaxSpecialRows := by
  intro v imm fmt f mode anch xs hf _
  refine ⟨fun _ h => ?minusInf, fun h => ?nan, fun x hx h => ?single⟩
  case minusInf =>
    simp [softOut_of_floatFmt hf, softRow_of_minusInf h]
  case nan =>
    simp [softOut_of_floatFmt hf, softRow_of_special h, ofF32_divF_nan]
  case single =>
    obtain ⟨hterms, hl, hzero⟩ := softRow_of_single h v imm anch
    rw [hx, softOut_of_floatFmt hf, hterms, hl, hzero]
    simp [encodeF_one_div_one hf]

end Sys2Proof.Machine
end

section
/-!
Proofs about the understudy's restart (R84, R255): the copy of a local store, and the take-over of a logical index.
-/

namespace Sys2Proof.Machine

/-! ## Filtered memories -/

theorem tblGet_filter {α : Type} (d : α) (t : List (Nat × α)) (keep : Nat → Bool) (k : Nat) :
    tblGet d (t.filter fun c => keep c.1) k = if keep k then tblGet d t k else d := by
  induction t with
  | nil => simp [tblGet]
  | cons c t ih =>
    obtain ⟨a, v⟩ := c
    by_cases ha : a = k
    · subst ha
      cases hk : keep a <;> simp [tblGet, hk, ih]
    · cases hk : keep a <;> simp [tblGet, hk, ha, ih]

theorem Memory.read_filter (m : List Host.Cell) (keep : Nat → Bool) (k : Nat) :
    Memory.read (m.filter fun c => keep c.1) k = if keep k then Memory.read m k else 0 :=
  tblGet_filter _ _ _ _

theorem Memory.filter_wf {m : List Host.Cell} (h : Memory.wf m) (f : Host.Cell → Bool) : Memory.wf (m.filter f) := tblWf_filter _ _ _ h

theorem tblGet_of_mem {α : Type} (d : α) {t : List (Nat × α)} (h : t.Pairwise fun x y => x.1 < y.1) {c : Nat × α} (hc : c ∈ t) :
    tblGet d t c.1 = c.2 := by
  induction t with
  | nil => exact absurd hc List.not_mem_nil
  | cons e t ih =>
    obtain ⟨he, ht⟩ := List.pairwise_cons.mp h
    rcases List.mem_cons.mp hc with rfl | hc
    · exact if_pos rfl
    · exact (if_neg (he c hc).ne).trans (ih ht hc)

theorem Memory.read_of_mem {m : List Host.Cell} (h : Memory.wf m) {c : Host.Cell} (hc : c ∈ m) : Memory.read m c.1 = c.2 :=
  tblGet_of_mem _ h.1 hc

theorem Memory.read_eq_zero {m : List Host.Cell} {k : Nat} (h : ∀ c ∈ m, c.1 ≠ k) : Memory.read m k = 0 := by
  rcases tblGet_mem unwrittenByte m k with hk | hk
  · exact hk
  · exact absurd rfl (h _ hk)

/-! ## A local store copied (R255) -/

theorem State.copyLocal_tierMem_local (s : State) (src dst : Nat) :
    (s.copyLocal src dst).tierMem tLocal =
      (s.mem.loc.filter fun c => c.1 / localBytes == src).foldl (fun m c => Memory.write m (dst * localBytes + c.1 % localBytes) c.2)
        (s.mem.loc.filter fun c => !(c.1 / localBytes == dst)) := rfl

theorem tierKey_local (cl a : Nat) : tierKey tLocal cl a = cl * localBytes + a := rfl

theorem local_key_div {cl a : Nat} (ha : a < localBytes) : (cl * localBytes + a) / localBytes = cl := by
  simp only [localBytes] at *; omega

theorem local_key_mod {cl a : Nat} (ha : a < localBytes) : (cl * localBytes + a) % localBytes = a := by
  simp only [localBytes] at *; omega

theorem eq_local_key {k cl a : Nat} (hdiv : k / localBytes = cl) (hmod : k % localBytes = a) : k = cl * localBytes + a := by
  rw [← hdiv, ← hmod, Nat.mul_comm]
  exact (Nat.div_add_mod k localBytes).symm

theorem State.copyLocal_read_dst {s : State} (h : Memory.wf s.mem.loc) (src dst : Nat) {a : Nat} (ha : a < localBytes) :
    (s.copyLocal src dst).tierByte tLocal dst a = s.tierByte tLocal src a := by
  rw [State.tierByte, tierKey_local, State.copyLocal_tierMem_local,
    Memory.read_foldl_write _ (fun c : Host.Cell => dst * localBytes + c.1 % localBytes) _ _ (Memory.filter_wf h _)]
  split
  next c hc =>
    obtain ⟨hmem, hsrc⟩ := List.mem_filter.mp (List.mem_reverse.mp (List.mem_of_find?_eq_some hc))
    have hmod : c.1 % localBytes = a := by simpa using List.find?_some hc
    rw [← Memory.read_of_mem h hmem, eq_local_key (by simpa using hsrc) hmod]
    rfl
  next hnone =>
    have habsent : ∀ c ∈ s.mem.loc, c.1 ≠ src * localBytes + a := fun c hc hkey =>
      List.find?_eq_none.mp hnone c
        (List.mem_reverse.mpr (List.mem_filter.mpr ⟨hc, by simp [hkey, local_key_div ha]⟩)) (by simp [hkey, local_key_mod ha])
    rw [Memory.read_filter _ (fun k => !(k / localBytes == dst)), local_key_div ha, if_neg (by simp)]
    exact (Memory.read_eq_zero habsent).symm

theorem State.copyLocal_read_other {s : State} (h : Memory.wf s.mem.loc) (src : Nat) {dst cl a : Nat} (hcl : cl ≠ dst) (ha : a < localBytes) :
    (s.copyLocal src dst).tierByte tLocal cl a = s.tierByte tLocal cl a := by
  have hne : ∀ k : Nat, dst * localBytes + k % localBytes ≠ cl * localBytes + a := fun k hk => hcl <| by
    rw [← local_key_div (cl := cl) ha, ← hk, local_key_div (Nat.mod_lt k (by decide))]
  rw [State.tierByte, tierKey_local, State.copyLocal_tierMem_local,
    Memory.read_foldl_write_other _ (fun c : Host.Cell => dst * localBytes + c.1 % localBytes) _ _ (Memory.filter_wf h _) _
      fun c _ => hne c.1,
    Memory.read_filter _ (fun k => !(k / localBytes == dst)), local_key_div ha, if_pos (by simpa using hcl)]
  rfl

theorem State.copyLocal_tierMem (s : State) (src dst : Nat) {tier : Nat} (ht : tier ≠ tLocal) :
    (s.copyLocal src dst).tierMem tier = s.tierMem tier := by
  unfold State.tierMem
  split
  case h_1 => exact absurd rfl ht
  all_goals rfl

/-! ## The take-over (R79, R255) -/

theorem State.partition_setPartition_same {s : State} (h : s.canonical) (p : Nat) (v : Partition) : (s.setPartition p v).partition p = v :=
  tblGet_tblSet_same _ _ _ _ h.parts.1.1

theorem State.partition_setPartition_other {s : State} (h : s.canonical) {p x : Nat} (v : Partition) (hx : x ≠ p) :
    (s.setPartition p v).partition x = s.partition x :=
  tblGet_tblSet_other _ _ _ _ _ h.parts.1.1 hx

/-- What every step of a fold leaves as it is, the whole fold leaves. -/
theorem State.view_over {α β : Type} {f : State → α → State} (view : State → β) (h : ∀ s x, view (f s x) = view s) (s : State) (l : List α) :
    view (s.over l f) = view s := by
  induction l generalizing s with
  | nil => rfl
  | cons x l ih => exact (ih (f s x)).trans (h s x)

/-- A change of every partition of a list, each by its own contents alone. -/
theorem State.partition_over_setPartition {g : Partition → Partition} (hg : ∀ v, (g v).gates = v.gates) {s : State} (h : s.canonical)
    {l : List Nat} (hl : l.Nodup) (x : Nat) :
    (s.over l fun s p => s.setPartition p (g (s.partition p))).partition x = if x ∈ l then g (s.partition x) else s.partition x := by
  induction l generalizing s with
  | nil => rfl
  | cons p l ih =>
    obtain ⟨hp, hl⟩ := List.nodup_cons.mp hl
    have hcan : (s.setPartition p (g (s.partition p))).canonical :=
      ((Keeps.refl s).setPartition p _ fun _ c => by rw [hg]; exact State.gates_wf c p).canonical h
    refine (ih hcan hl).trans ?_
    by_cases hx : x = p
    · subst hx
      simp [hp, State.partition_setPartition_same h]
    · simp [hx, State.partition_setPartition_other h _ hx]

theorem State.foldOwners_nodup (s : State) (f : Nat) : (s.foldOwners f).Nodup := List.nodup_range.filter _

theorem State.takeOver_clusters {s : State} (h : s.canonical) (c u : Nat) {p : Nat} (hp : p ∈ s.foldOwners (c / 66)) :
    ((s.takeOver c u).partition p).clusters = (s.partition p).clusters.map fun x => if x = c then u else x := by
  rw [State.takeOver, State.partition_over_setPartition
    (g := fun v => { v with clusters := v.clusters.map fun x => if x = c then u else x }) (fun _ => rfl) h (s.foldOwners_nodup _), if_pos hp]

@[simp] theorem State.takeOver_mem (s : State) (c u : Nat) : (s.takeOver c u).mem = s.mem := by
  refine State.view_over State.mem (fun t p => ?_) s _
  rfl

theorem State.takeOver_tierByte (s : State) (c u tier who a : Nat) : (s.takeOver c u).tierByte tier who a = s.tierByte tier who a := by
  simp only [State.tierByte, State.tierMem, State.takeOver_mem]

/-! ## The restart -/

theorem State.restartDone_of_find {s : State} {c : Nat} {r : Restart} (h : s.spare.restarts.find? (·.failed == c) = some r) :
    s.restartDone c =
      let t := (s.copyLocal c r.understudy).takeOver c r.understudy
      t.setSpare { t.spare with restarts := t.spare.restarts.filter (·.failed != c) } := by
  rw [State.restartDone, h]

/-- Settles O37: the copy and the take-over, one after the other; each leaves the other's part of the state. -/
theorem understudyHoldsTheLocalStore : Obligations.UnderstudyHoldsTheLocalStore := by
  intro s c r hs hr _
  have hloc : Memory.wf s.mem.loc := hs.mem.1
  have hcopy : (s.copyLocal c.val r.understudy).canonical := (State.copyLocal_keeps _ _ (Keeps.refl s)).canonical hs
  have hexec : exec (.understudyRestart c) s = .next (s.restartDone c.val) := rfl
  refine ⟨_, by rw [hexec, State.restartDone_of_find hr], fun a ha => ?same, fun cl a hcl ha => ?otherCluster, fun tier who a ht => ?otherTier,
    fun p hp => ?index, fun x hx => ?ended⟩
  case same => exact (State.takeOver_tierByte _ _ _ _ _ _).trans (State.copyLocal_read_dst hloc _ _ ha)
  case otherCluster => exact (State.takeOver_tierByte _ _ _ _ _ _).trans (State.copyLocal_read_other hloc _ hcl ha)
  case otherTier =>
    have hne : tier ≠ tLocal := fun h => by subst h; exact absurd ht (by decide)
    refine (State.takeOver_tierByte _ _ _ _ _ _).trans ?_
    rw [State.tierByte, State.tierByte, State.copyLocal_tierMem _ _ _ hne]
  case index => exact State.takeOver_clusters hcopy _ _ hp
  case ended => simpa using (List.mem_filter.mp hx).2

end Sys2Proof.Machine
end

section
/-!
Proofs about K-steps, failed clusters and sparing actions (R83 to R85, R253, R255, R256, R301).
-/

namespace Sys2Proof.Machine

/-! ## K-steps (R83 to R85, R97) -/

section

variable {s : State} {q index c : Nat} {i : Inst}

theorem State.kStep_onApron (hi : s.inst? q index = some i) (ha : i.pkt.onApron = true) (ok : Bool) :
    s.kStep q index c ok = s.setInst { i with failedOn := if ok then [] else [c] } := by
  simp [State.kStep, hi, ha]

/-- A step that is checked on cluster c, of an instruction in flight there: what it does by its check and the mark. -/
theorem State.kStep_checked (hi : s.inst? q index = some i) (ha : i.pkt.onApron = false) (hop : checkedOp i.pkt.opcode = true)
    (hc : c ∈ s.clustersOf i.part) (hr : ∀ r ∈ s.spare.restarts, r.failed ≠ c) (ok : Bool) :
    s.kStep q index c ok =
      if ok then s.setInst { i with failedOn := i.failedOn.filter (· != c) }
      else if i.failedOn.contains c then s.failTwice { i with failedOn := i.failedOn.filter (· != c) } c
      else s.setInst { i with failedOn := i.failedOn ++ [c] } := by
  have hidle : s.spare.restarts.any (·.failed == c) = false := List.any_eq_false.mpr fun r h => by simpa using hr r h
  simp [State.kStep, hi, ha, hop, hc, hidle]

theorem State.failTwice_of_understudy {u : Nat} (h : (s.declareFailed c).2.1 = some u) :
    s.failTwice i c =
      let d := s.declareFailed c
      d.1.setSpare { d.1.spare with restarts := d.1.spare.restarts ++ [⟨c, u, i.queue, i.index⟩] } := by
  simp [State.failTwice, h]

theorem State.failTwice_of_none (h : (s.declareFailed c).2.1 = none) :
    s.failTwice i c = ((s.declareFailed c).1.endEarly i Ev.residue).deplete (c / 66) := by
  simp [State.failTwice, h]

theorem State.mayRetire_of_failedOn (h : i.failedOn ≠ []) : s.mayRetire i = false := by
  simp [State.mayRetire, h]

theorem State.mayRetire_of_restart {r : Restart} (hr : r ∈ s.spare.restarts) (hq : r.queue = i.queue) (hx : r.index = i.index) :
    s.mayRetire i = false := by
  have h : s.restarting i = true := List.any_eq_true.mpr ⟨r, hr, by simp [hq, hx]⟩
  simp [State.mayRetire, h]

end

/-! ## Sparing actions (R253, R301, R336) -/

theorem State.beginRecord_shadow (s : State) (kind : Nat) : (s.beginRecord kind).ledg.shadow = s.imageNow := by
  unfold State.beginRecord
  dsimp only
  repeat' split
  all_goals rfl

/-- With records allowed, a write in progress goes on, and another record waits for it. -/
theorem State.beginRecord_of_some {s : State} (hh : s.ledg.held = false) (hs : s.shep.savesEnabled = true) (hr : s.running = true)
    {w : LedgerWrite} (hw : s.ledg.write = some w) (kind : Nat) :
    s.beginRecord kind = s.setLedg { s.ledg with shadow := s.imageNow, again := true } := by
  have hgo : ¬(s.ledg.held = true ∨ s.shep.savesEnabled = false ∨ s.running = false) := by simp [hh, hs, hr]
  exact (if_neg hgo).trans (if_pos (Option.isSome_of_eq_some hw))

/-- With records allowed and none being written, a record of the next number begins in its slot. -/
theorem State.beginRecord_of_none {s : State} (hh : s.ledg.held = false) (hs : s.shep.savesEnabled = true) (hr : s.running = true)
    (hw : s.ledg.write = none) (kind : Nat) :
    s.beginRecord kind =
      let w : LedgerWrite := ⟨slotOf (s.ledgerSeq + 1), s.recordOf (s.ledgerSeq + 1) kind s.imageNow⟩
      (s.setLedg { s.ledg with shadow := s.imageNow, write := some w }).setFld F.ldgStatusBusy 1 := by
  have hgo : ¬(s.ledg.held = true ∨ s.shep.savesEnabled = false ∨ s.running = false) := by simp [hh, hs, hr]
  have hidle : ¬s.ledg.write.isSome = true := by simp [hw]
  exact (if_neg hgo).trans (if_neg hidle)

theorem State.noteHistory_getLast (s : State) (code unit : Nat) :
    (s.noteHistory code unit).ledg.shadow.history.getLast? = some ⟨s.time.cue, code, unit, s.drawNat.1⟩ := by
  simp [State.noteHistory, List.getLast?_reverse]
  rfl

@[simp] theorem State.queueRepair_ledg (s : State) (u : RepairUnit) : (s.queueRepair u).ledg = s.ledg := by
  unfold State.queueRepair
  split <;> rfl

theorem State.mem_queueRepair (s : State) (u : RepairUnit) : u ∈ (s.queueRepair u).prom.repairs := by
  unfold State.queueRepair
  split
  · assumption
  · exact List.mem_append_right _ (List.mem_singleton_self u)

/-- A sparing action of a unit is a record begun after an entry in the history, and a request for repair work. -/
theorem State.spared_ledg (s : State) (u : RepairUnit) :
    (s.spared u).ledg = ((s.drawNat.2.noteHistory (s.drawNat.1 % 65536) u.number).beginRecord 2).ledg :=
  State.queueRepair_ledg _ u

theorem State.spared_history (s : State) (u : RepairUnit) :
    (s.spared u).ledg.shadow.history.getLast? = some ⟨s.time.cue, s.drawNat.1 % 65536, u.number, s.drawNat.2.drawNat.1⟩ := by
  rw [State.spared_ledg, State.beginRecord_shadow]
  exact State.noteHistory_getLast _ _ _

section

variable {s : State} (hh : s.ledg.held = false) (hs : s.shep.savesEnabled = true) (hr : s.running = true) (u : RepairUnit)

include hh hs hr

theorem State.spared_write_of_some {w : LedgerWrite} (hw : s.ledg.write = some w) :
    (s.spared u).ledg.write = some w ∧ (s.spared u).ledg.again = true := by
  rw [State.spared_ledg, State.beginRecord_of_some (s := s.drawNat.2.noteHistory _ _) hh hs hr hw]
  exact ⟨hw, rfl⟩

theorem State.spared_write_of_none (hw : s.ledg.write = none) :
    ∃ w, (s.spared u).ledg.write = some w ∧ w.record.kind = 2 ∧ w.record.seq = s.ledgerSeq + 1 ∧ w.slot = slotOf (s.ledgerSeq + 1) := by
  rw [State.spared_ledg, State.beginRecord_of_none (s := s.drawNat.2.noteHistory _ _) hh hs hr hw]
  exact ⟨_, rfl, rfl, rfl, rfl⟩

end

theorem State.spared_sparedBy (s : State) (u : RepairUnit) : SparedBy s (s.spared u) u := by
  refine ⟨⟨_, _, s.spared_history u⟩, State.mem_queueRepair _ u, fun hh hs hr => ?_⟩
  split
  next w hw => exact State.spared_write_of_some hh hs hr u hw
  next hw => exact State.spared_write_of_none hh hs hr u hw

/-- What a record's beginning may change: the ledger and the register file. -/
theorem State.beginRecord_eq (s : State) (kind : Nat) : ∃ l r, s.beginRecord kind = (s.setLedg l).setRegs r := by
  unfold State.beginRecord
  dsimp only
  split
  · exact ⟨{ s.ledg with shadow := s.imageNow }, s.regs, rfl⟩
  · split
    · exact ⟨{ s.ledg with shadow := s.imageNow, again := true }, s.regs, rfl⟩
    · exact ⟨_, _, rfl⟩

theorem State.queueRepair_eq (s : State) (u : RepairUnit) : ∃ v, s.queueRepair u = s.setProm v := by
  unfold State.queueRepair
  split
  · exact ⟨s.prom, rfl⟩
  · exact ⟨_, rfl⟩

theorem State.recordSparing_eq (s : State) (unit : Nat) : ∃ f l r, s.recordSparing unit = ((s.setFree f).setLedg l).setRegs r := by
  obtain ⟨l, r, h⟩ := State.beginRecord_eq (s.drawNat.2.noteHistory (s.drawNat.1 % 65536) unit) 2
  exact ⟨_, l, r, h⟩

/-- What a sparing action may change: the draws, the ledger, the register file and the Prompter's requests. -/
theorem State.spared_eq (s : State) (u : RepairUnit) : ∃ f l r v, s.spared u = (((s.setFree f).setLedg l).setRegs r).setProm v := by
  obtain ⟨f, l, r, h⟩ := State.recordSparing_eq s u.number
  obtain ⟨v, hv⟩ := State.queueRepair_eq (s.recordSparing u.number) u
  exact ⟨f, l, r, v, by rw [State.spared, hv, h]⟩

@[simp] theorem State.spared_spare (s : State) (u : RepairUnit) : (s.spared u).spare = s.spare := by
  obtain ⟨_, _, _, _, h⟩ := s.spared_eq u
  rw [h]; rfl

@[simp] theorem State.spared_insts (s : State) (u : RepairUnit) : (s.spared u).insts = s.insts := by
  obtain ⟨_, _, _, _, h⟩ := s.spared_eq u
  rw [h]; rfl

/-! ## A cluster declared failed (R84, R255 to R257) -/

/-- Fields of registers written one after another. -/
def State.setFlds (s : State) (l : List (Fld × Nat)) : State := s.over l fun s x => s.setFld x.1 x.2

theorem State.setFlds_eq_setRegs (s : State) (l : List (Fld × Nat)) : ∃ v, s.setFlds l = s.setRegs v := by
  induction l generalizing s with
  | nil => exact ⟨s.regs, rfl⟩
  | cons x l ih =>
    obtain ⟨v, hv⟩ := ih (s.setFld x.1 x.2)
    exact ⟨v, hv⟩

theorem State.word_setFlds_other {s : State} (h : s.regs.file.Pairwise fun x y => x.1 < y.1) {l : List (Fld × Nat)} {r : Reg}
    (hr : ∀ x ∈ l, r.addr ≠ x.1.reg.addr) : (s.setFlds l).word r = s.word r := by
  induction l generalizing s with
  | nil => rfl
  | cons x l ih =>
    obtain ⟨hx, hl⟩ := List.forall_mem_cons.mp hr
    exact (ih (State.setFld_sorted _ _ _ h) hl).trans (State.word_setFld_other _ _ _ _ h hx)

/-- What a cluster's failure writes: fields of its fold's FLD.STATUS. -/
def State.foldStatusWrites (s : State) (f idx : Nat) (depleted : Bool) : List (Fld × Nat) :=
  (if s.fld (F.fldStatusFailedA f) = 127 then [(F.fldStatusFailedA f, idx)]
    else if s.fld (F.fldStatusFailedB f) = 127 then [(F.fldStatusFailedB f, idx)] else []) ++
  (F.fldStatusLeft f, (understudiesLeft s.spare.failed f).length) :: if depleted then [(F.fldStatusDepleted f, 1)] else []

theorem State.foldStatus_eq_setFlds (s : State) (f idx : Nat) (depleted : Bool) :
    s.foldStatus f idx depleted = s.setFlds (s.foldStatusWrites f idx depleted) := by
  unfold State.foldStatus State.foldStatusWrites
  split_ifs <;> rfl

theorem State.reg_of_mem_foldStatusWrites {s : State} {f idx : Nat} {depleted : Bool} {x : Fld × Nat}
    (h : x ∈ s.foldStatusWrites f idx depleted) : x.1.reg = .fldStatus f := by
  have hall : ∀ x ∈ s.foldStatusWrites f idx depleted, x.1.reg = .fldStatus f := by
    unfold State.foldStatusWrites
    split_ifs <;> simp [F.fldStatusFailedA, F.fldStatusFailedB, F.fldStatusLeft, F.fldStatusDepleted]
  exact hall x h

theorem State.foldStatus_eq_setRegs (s : State) (f idx : Nat) (depleted : Bool) : ∃ v, s.foldStatus f idx depleted = s.setRegs v := by
  rw [State.foldStatus_eq_setFlds]
  exact s.setFlds_eq_setRegs _

theorem State.foldStatus_ledgerSeq {s : State} (h : s.regs.file.Pairwise fun x y => x.1 < y.1) (f idx : Nat) (depleted : Bool) :
    (s.foldStatus f idx depleted).ledgerSeq = s.ledgerSeq := by
  have haddr : ∀ x ∈ s.foldStatusWrites f idx depleted, Reg.ldgSeqLo.addr ≠ x.1.reg.addr ∧ Reg.ldgSeqHi.addr ≠ x.1.reg.addr := by
    intro x hx
    rw [State.reg_of_mem_foldStatusWrites hx]
    simp only [Reg.addr]
    omega
  rw [State.foldStatus_eq_setFlds, State.ledgerSeq, State.pair, State.word_setFlds_other h fun x hx => (haddr x hx).1,
    State.word_setFlds_other h fun x hx => (haddr x hx).2]
  rfl

section

variable (s : State) (c : Nat)

/-- The fold of a failed cluster, which was in use with no understudy left, is depleted. -/
def State.lostBy : Bool :=
  (foldClusters s.spare.failed (c / 66)).contains c && ((understudiesLeft s.spare.failed (c / 66)).filter (· != c)).isEmpty

/-- The lists of clusters after a failure. -/
def State.spareAfter : SpareState :=
  { s.spare with failed := s.spare.failed ++ [c], failing := s.spare.failing.filter (· != c)
                 lost := if s.lostBy c then s.spare.lost ++ [c] else s.spare.lost }

theorem State.markFailed_fst : (s.markFailed c).1 = (s.setSpare (s.spareAfter c)).foldStatus (c / 66) (c % 66) (s.lostBy c) := rfl

theorem State.markFailed_eq : ∃ v, (s.markFailed c).1 = (s.setSpare (s.spareAfter c)).setRegs v := by
  rw [State.markFailed_fst]
  exact State.foldStatus_eq_setRegs _ _ _ _

@[simp] theorem State.markFailed_spare : (s.markFailed c).1.spare = s.spareAfter c := by
  obtain ⟨v, h⟩ := s.markFailed_eq c
  rw [h]; rfl

@[simp] theorem State.markFailed_insts : (s.markFailed c).1.insts = s.insts := by
  obtain ⟨v, h⟩ := s.markFailed_eq c
  rw [h]; rfl

theorem State.markFailed_ledgerSeq (h : s.canonical) : (s.markFailed c).1.ledgerSeq = s.ledgerSeq := by
  rw [State.markFailed_fst, State.foldStatus_ledgerSeq (s := s.setSpare (s.spareAfter c)) h.regs.1.1]
  rfl

end

/-- What a sparing action does is told of the state before a failure as of the state after it. -/
theorem SparedBy.of_markFailed {s t : State} (h : s.canonical) (c : Nat) {u : RepairUnit} (ht : SparedBy (s.markFailed c).1 t u) :
    SparedBy s t u := by
  have hseq := s.markFailed_ledgerSeq c h
  obtain ⟨v, hv⟩ := s.markFailed_eq c
  obtain ⟨hhist, hrep, hrec⟩ := ht
  rw [hseq] at hrec
  rw [hv] at hhist hrec
  exact ⟨hhist, hrep, hrec⟩

theorem declareFailedActs : DeclareFailedActs := by
  intro s c
  have hspare : (s.declareFailed c.val).1.spare = s.spareAfter c.val := by simp [State.declareFailed]
  refine ⟨by rw [hspare]; rfl, by rw [hspare]; rfl, by rw [hspare]; rfl, rfl, rfl, fun hlost => ?lost, by simp [State.declareFailed],
    fun h => SparedBy.of_markFailed h _ (State.spared_sparedBy _ _)⟩
  case lost =>
    have hl : s.lostBy c.val = true := hlost
    simp [hspare, State.spareAfter, hl]

end Sys2Proof.Machine
end

section
/-!
Proofs about the depletion of a fold (R245, R246, R256, R258): what a reset, a withdrawal and their parts leave of a partition.
-/

namespace Sys2Proof.Machine

/-! ## Operations that change no register, no partition and no instruction in flight -/

/-- The registers, the partitions and the instructions in flight. -/
def State.tables (s : State) : RegState × List (Nat × Partition) × List Inst := (s.regs, s.parts, s.insts)

@[simp] theorem State.tables_setMem (s : State) (v : MemState) : (s.setMem v).tables = s.tables := rfl
@[simp] theorem State.tables_setComp (s : State) (v : CompanyState) : (s.setComp v).tables = s.tables := rfl
@[simp] theorem State.tables_setLink (s : State) (v : LinkState) : (s.setLink v).tables = s.tables := rfl
@[simp] theorem State.tables_setHost (s : State) (v : HostState) : (s.setHost v).tables = s.tables := rfl
@[simp] theorem State.tables_setLedg (s : State) (v : LedgState) : (s.setLedg v).tables = s.tables := rfl
@[simp] theorem State.tables_setFree (s : State) (v : Nat) : (s.setFree v).tables = s.tables := rfl
@[simp] theorem State.tables_setQueue (s : State) (q : Nat) (v : Queue) : (s.setQueue q v).tables = s.tables := rfl
@[simp] theorem State.tables_setPeerPair (s : State) (n : Nat) (v : Pair) : (s.setPeerPair n v).tables = s.tables := rfl
@[simp] theorem State.tables_setChainPort (s : State) (n : Nat) (v : ChainPort) : (s.setChainPort n v).tables = s.tables := rfl
@[simp] theorem State.tables_emit (s : State) (o : Out) : (s.emit o).tables = s.tables := rfl

theorem State.tables_over {α : Type} {f : State → α → State} (h : ∀ s x, (f s x).tables = s.tables) (s : State) (l : List α) :
    (s.over l f).tables = s.tables := State.view_over State.tables h s l

theorem State.tables_when {f : State → State} (h : ∀ s, (f s).tables = s.tables) (s : State) (c : Prop) [Decidable c] :
    (s.when c f).tables = s.tables := by
  unfold State.when
  split
  · exact h s
  · rfl

@[simp] theorem State.tables_sendPackets (s : State) (node part k : Nat) (mk : Nat → Out) : (s.sendPackets node part k mk).tables = s.tables := by
  unfold State.sendPackets
  dsimp only
  split <;> simp

@[simp] theorem State.tables_sendCollTo (s : State) (t : Party) (e : RosterEntry) (dst type : Nat) (payload : Bytes) (count unit reason absent node slot : Nat)
    (cue : Option Nat) (level : Nat) :
    (s.sendCollTo t e dst type payload count unit reason absent node slot cue level).tables = s.tables := by
  simp [State.sendCollTo]

@[simp] theorem State.tables_sendCollAll (s : State) (t : Party) (ranks : List Nat) (type reason absent : Nat) (cue : Option Nat) :
    (s.sendCollAll t ranks type reason absent cue).tables = s.tables :=
  State.tables_over (fun _ _ => by simp [State.sendColl]) _ _

@[simp] theorem State.tables_sendRingBoth (s : State) (p : Nat) (r : Ring) (type reason absent : Nat) :
    (s.sendRingBoth p r type reason absent).tables = s.tables :=
  State.tables_over (fun _ _ => by simp [State.sendRing]) _ _

@[simp] theorem State.tables_poisonColl (s : State) (p : Nat) (c : Coll) (reason : Nat) : (s.poisonColl p c reason).tables = s.tables :=
  State.tables_sendCollAll _ _ _ _ _ _ _

@[simp] theorem State.tables_addRelay (s : State) (r : Relay) : (s.addRelay r).tables = s.tables := rfl

@[simp] theorem State.tables_poisonInst (s : State) (i : Inst) (reason : Nat) : (s.poisonInst i reason).tables = s.tables := by
  unfold State.poisonInst
  split
  · split <;> simp
  · split
    · split <;> simp
    · rfl

@[simp] theorem State.tables_leaveLater (s : State) (i : Inst) (reason : Nat) : (s.leaveLater i reason).tables = s.tables :=
  State.tables_over (fun _ _ => by simp) _ _

@[simp] theorem State.tables_setTierMem (s : State) (tier : Nat) (m : List Host.Cell) : (s.setTierMem tier m).tables = s.tables := by
  unfold State.setTierMem
  split <;> rfl

@[simp] theorem State.tables_undefine (s : State) (tier who a n : Nat) : (s.undefine tier who a n).tables = s.tables :=
  State.tables_setTierMem _ _ _

@[simp] theorem State.tables_loseOuts (s : State) (i : Inst) : (s.loseOuts i).tables = s.tables := by
  refine State.tables_over (fun t e => ?_) _ _
  unfold State.undefineExtent
  split
  · exact State.tables_over (fun _ _ => State.tables_undefine _ _ _ _ _) _ _
  · split <;> simp

@[simp] theorem State.tables_setPoison (s : State) (tier : Nat) (l : List Nat) : (s.setPoison tier l).tables = s.tables := by
  unfold State.setPoison
  split <;> rfl

@[simp] theorem State.tables_mend (s : State) (tier : Nat) (keys : List Nat) : (s.mend tier keys).tables = s.tables := by
  unfold State.mend
  dsimp only
  split <;> simp

@[simp] theorem State.tables_writeTier (s : State) (tier who a : Nat) (bs : Bytes) : (s.writeTier tier who a bs).tables = s.tables := by
  simp [State.writeTier, State.writeCells]

@[simp] theorem State.tables_breakPorts (s : State) (p : Nat) : (s.breakPorts p).tables = s.tables :=
  State.tables_over (fun _ _ => by simp) _ _

@[simp] theorem State.tables_zeroLocal (s : State) (folds : List Nat) : (s.zeroLocal folds).tables = s.tables := rfl

@[simp] theorem State.tables_zeroClaims (s : State) (b : PartBlock) : (s.zeroClaims b).tables = s.tables := rfl

@[simp] theorem State.tables_dropPackets (s : State) (p : Nat) : (s.dropPackets p).tables = s.tables :=
  (State.tables_over (fun _ _ => by simp) _ _).trans (State.tables_setLink s _)

@[simp] theorem State.tables_sendAbsent (s : State) (p rank : Nat) : (s.sendAbsent p rank).tables = s.tables := by
  unfold State.sendAbsent
  split
  · rfl
  · exact State.tables_when (fun _ => by simp) _ _

/-! ## What is left of a partition -/

/-- From a to s partition p keeps its control and status words and its mark, and no instruction has come in flight. -/
structure LeavesPart (p : Nat) (a s : State) : Prop where
  keeps : Keeps a s
  ctrl : a.canonical → s.word (.parCtrl p) = a.word (.parCtrl p)
  status : a.canonical → s.word (.parStatus p) = a.word (.parStatus p)
  depleted : a.canonical → (s.partition p).depleted = (a.partition p).depleted
  insts : s.insts ⊆ a.insts

namespace LeavesPart

variable {p : Nat} {a s t : State}

theorem refl (p : Nat) (s : State) : LeavesPart p s s := ⟨Keeps.refl s, fun _ => rfl, fun _ => rfl, fun _ => rfl, List.Subset.refl _⟩

theorem trans (h : LeavesPart p a s) (k : LeavesPart p s t) : LeavesPart p a t :=
  ⟨h.keeps.trans k.keeps, fun c => (k.ctrl (h.keeps.canonical c)).trans (h.ctrl c), fun c => (k.status (h.keeps.canonical c)).trans (h.status c),
    fun c => (k.depleted (h.keeps.canonical c)).trans (h.depleted c), List.Subset.trans k.insts h.insts⟩

theorem of_tables (hk : Keeps a s) (h : s.tables = a.tables) : LeavesPart p a s := by
  obtain ⟨hregs, hparts, hinsts⟩ : s.regs = a.regs ∧ s.parts = a.parts ∧ s.insts = a.insts := by simpa [State.tables] using h
  have hword : ∀ r, s.word r = a.word r := fun r => by rw [State.word, State.word, hregs, hk.part]
  exact ⟨hk, fun _ => hword _, fun _ => hword _, fun _ => by rw [State.partition, State.partition, hparts], by rw [hinsts]; exact List.Subset.refl _⟩

theorem over_list {α : Type} {f : State → α → State} (h : ∀ s x, LeavesPart p s (f s x)) (s : State) (l : List α) : LeavesPart p s (s.over l f) := by
  induction l generalizing s with
  | nil => exact refl p s
  | cons x l ih => exact (h s x).trans (ih (f s x))

theorem when {f : State → State} (h : ∀ s, LeavesPart p s (f s)) (s : State) (c : Prop) [Decidable c] : LeavesPart p s (s.when c f) := by
  unfold State.when
  split
  · exact h s
  · exact refl p s

theorem setPartition {q : Nat} {v : Partition} (hk : Keeps s (s.setPartition q v)) (hv : v.depleted = (s.partition q).depleted) :
    LeavesPart p s (s.setPartition q v) := by
  refine ⟨hk, fun _ => rfl, fun _ => rfl, fun hc => ?_, List.Subset.refl _⟩
  by_cases h : p = q
  · rw [h, State.partition_setPartition_same hc, hv]
  · rw [State.partition_setPartition_other hc _ h]

theorem setFld (x : Fld) (v : Nat) (hctrl : (Reg.parCtrl p).addr ≠ x.reg.addr) (hstatus : (Reg.parStatus p).addr ≠ x.reg.addr) :
    LeavesPart p s (s.setFld x v) :=
  ⟨State.setFld_keeps _ _ (Keeps.refl s), fun h => State.word_setFld_other _ _ _ _ h.regs.1.1 hctrl,
    fun h => State.word_setFld_other _ _ _ _ h.regs.1.1 hstatus, fun _ => rfl, List.Subset.refl _⟩

end LeavesPart

/-! ## The parts of a reset (R245, R246) -/

section

variable (p : Nat) (s : State)

theorem State.setGate_leaves (q g : Nat) (v : Gate) : LeavesPart p s (s.setGate q g v) :=
  LeavesPart.setPartition (State.setGate_keeps _ _ _ (Keeps.refl s)) rfl

theorem State.releaseGate_leaves (q g : Nat) : LeavesPart p s (s.releaseGate q g) := State.setGate_leaves p s q g _

theorem State.tagWord_leaves (q g : Nat) : LeavesPart p s (s.tagWord q g) := by
  refine LeavesPart.of_tables (State.tagWord_keeps _ _ (Keeps.refl s)) ?_
  unfold State.tagWord
  dsimp only
  split <;> simp

theorem State.breakHold_leaves (q : Nat) (h : Hold) : LeavesPart p s (s.breakHold q h) :=
  (State.setGate_leaves p s q h.gate _).trans (State.tagWord_leaves p _ q h.gate)

theorem State.breakHolds_leaves (q : Nat) (hs : List Hold) : LeavesPart p s (s.breakHolds q hs) :=
  LeavesPart.over_list (fun t h => State.breakHold_leaves p t q h) s hs

theorem State.dropWaiters_leaves (q : Nat) : LeavesPart p s (s.dropWaiters q) :=
  LeavesPart.setPartition (State.dropWaiters_keeps _ (Keeps.refl s)) rfl

theorem State.abandonInst_leaves (i : Inst) : LeavesPart p s (s.abandonInst i) := by
  have hpoison : LeavesPart p s ((s.poisonInst i 0).leaveLater i 0) :=
    .of_tables (State.leaveLater_keeps _ _ (State.poisonInst_keeps _ _ (Keeps.refl s))) (by simp)
  refine hpoison.trans ((LeavesPart.when (fun t => State.releaseGate_leaves p t i.part i.pkt.imm) _ (i.wait = .visible)).trans ?_)
  refine .trans ?_ (.of_tables (State.loseOuts_keeps _ (Keeps.refl _)) (State.tables_loseOuts _ _))
  split
  · split
    · exact .refl _ _
    · exact .of_tables (State.addRelay_keeps _ (Keeps.refl _)) (State.tables_addRelay _ _)
  · exact .refl _ _

theorem State.resetQueue_leaves (hp : p < 16) (q : Nat) : LeavesPart p s (s.resetQueue q) := by
  have hen : LeavesPart p s (s.setFld (F.queQctrlEn q) 0) :=
    .setFld _ _ (by simp only [F.queQctrlEn, Reg.addr]; omega) (by simp only [F.queQctrlEn, Reg.addr]; omega)
  exact hen.trans (.of_tables (State.setQueue_keeps _ _ (Keeps.refl _)) rfl)

theorem State.setInsts_filter_leaves (f : Inst → Bool) : LeavesPart p s (s.setInsts (s.insts.filter f)) :=
  ⟨Keeps.setInsts _ (Keeps.refl s), fun _ => rfl, fun _ => rfl, fun _ => rfl, List.filter_subset_self _⟩

/-- A reset of partition q is what leaves partition p as it was and q without instructions, and then q's STATE. -/
theorem State.resetWork_eq (hp : p < 16) (q : Nat) (disables : Bool) :
    ∃ t, LeavesPart p s t ∧ (∀ i ∈ t.insts, i.part ≠ q) ∧ s.resetWork q disables = t.setFld (F.parStatusState q) 2 := by
  refine ⟨_, ?leaves, fun i hi => ?insts, rfl⟩
  case insts => simpa using (List.mem_filter.mp hi).2
  case leaves =>
    refine .trans ?_ (.of_tables (State.zeroClaims_keeps _ (Keeps.refl _)) (State.tables_zeroClaims _ _))
    refine .trans ?_ (.of_tables (State.zeroLocal_keeps _ (Keeps.refl _)) (State.tables_zeroLocal _ _))
    refine .trans ?_ (.setPartition (State.setPartition_keeps _ _ (Keeps.refl _) fun _ c => State.gates_wf c _) rfl)
    refine .trans ?_ (State.setInsts_filter_leaves p _ _)
    refine .trans ?_ (LeavesPart.over_list (fun t x => State.resetQueue_leaves p t hp x) _ _)
    refine .trans ?_ (State.breakHolds_leaves p _ _ _)
    refine .trans ?_ (State.dropWaiters_leaves p _ _)
    refine .trans ?_ (.of_tables (State.breakPorts_keeps _ (Keeps.refl _)) (State.tables_breakPorts _ _))
    exact LeavesPart.over_list (fun t i => State.abandonInst_leaves p t i) _ _

theorem State.dropPackets_leaves (q : Nat) : LeavesPart p s (s.dropPackets q) :=
  .of_tables (State.dropPackets_keeps q (Keeps.refl s)) (State.tables_dropPackets s q)

theorem State.sendAbsent_leaves (q rank : Nat) : LeavesPart p s (s.sendAbsent q rank) :=
  .of_tables (State.sendAbsent_keeps q rank (Keeps.refl s)) (State.tables_sendAbsent s q rank)

/-! ## Events and records (R253, R301, R335) -/

theorem State.eventLost_leaves : LeavesPart p s s.eventLost :=
  .setFld _ _ (by simp only [F.pciEvtStatLost, Reg.addr]; omega) (by simp only [F.pciEvtStatLost, Reg.addr]; omega)

theorem State.eventWrite_leaves (code unit detail cue : Nat) : LeavesPart p s (s.eventWrite code unit detail cue) := by
  have htail : ∀ t v, LeavesPart p t (t.setFld F.pciEvtStatTail v) := fun t v =>
    .setFld _ _ (by simp only [F.pciEvtStatTail, Reg.addr]; omega) (by simp only [F.pciEvtStatTail, Reg.addr]; omega)
  have hhost : ∀ fn a bs, LeavesPart p s (s.writeHost fn a bs) := fun fn a bs =>
    .of_tables (State.writeHost_keeps _ _ _ (Keeps.refl s)) rfl
  unfold State.eventWrite
  dsimp only
  split
  · exact State.eventLost_leaves p s
  · split
    · exact ((hhost _ _ _).trans (htail _ _)).trans (.of_tables (Keeps.setHost _ (Keeps.refl _)) (State.tables_setHost _ _))
    · exact (hhost _ _ _).trans (htail _ _)

theorem State.raiseGlobal_leaves (code unit : Nat) : LeavesPart p s (s.raiseGlobal code unit) := by
  have hnote : LeavesPart p s (s.drawNat.2.hubEvent ⟨s.time.cue, code, unit, s.drawNat.1 % 2 ^ 32⟩) :=
    .of_tables (State.hubEvent_keeps _ (State.drawNat_keeps (Keeps.refl s))) rfl
  have hsend : ∀ t : State, LeavesPart p t ((t.msix 0 0).emit .inband) := fun t =>
    .of_tables (Keeps.emit _ (State.msix_keeps _ _ (Keeps.refl t))) (State.tables_when (fun _ => State.tables_emit _ _) t _)
  refine .trans ?_ (hsend _)
  refine hnote.trans ?_
  split
  · exact State.eventWrite_leaves p _ _ _ _ _
  · split
    · exact State.eventLost_leaves p _
    · split
      · exact .of_tables (Keeps.setHost _ (Keeps.refl _)) (State.tables_setHost _ _)
      · exact State.eventLost_leaves p _

theorem State.setLedg_leaves {v : LedgState} (h : v.slots = s.ledg.slots) : LeavesPart p s (s.setLedg v) :=
  .of_tables (Keeps.setLedg v (Keeps.refl s) fun k => by rw [LedgState.wf, h]; exact k) (State.tables_setLedg s v)

theorem State.beginRecord_leaves (kind : Nat) : LeavesPart p s (s.beginRecord kind) := by
  have hshadow : LeavesPart p s (s.setLedg { s.ledg with shadow := s.imageNow }) := State.setLedg_leaves p s rfl
  unfold State.beginRecord
  dsimp only
  split
  · exact hshadow
  · split
    · exact hshadow.trans (State.setLedg_leaves p _ rfl)
    · refine .trans ?_ (.setFld F.ldgStatusBusy 1 (by simp only [F.ldgStatusBusy, Reg.addr]; omega)
        (by simp only [F.ldgStatusBusy, Reg.addr]; omega))
      exact hshadow.trans (State.setLedg_leaves p _ rfl)

theorem State.recordSparing_leaves (unit : Nat) : LeavesPart p s (s.recordSparing unit) := by
  have hdraw : ∀ t : State, LeavesPart p t t.drawNat.2 := fun t =>
    .of_tables (State.drawNat_keeps (Keeps.refl t)) (State.tables_setFree _ _)
  have hnote : ∀ (t : State) (code : Nat), LeavesPart p t (t.noteHistory code unit) := fun t code =>
    (hdraw t).trans (State.setLedg_leaves p _ rfl)
  exact ((hdraw s).trans (hnote _ _)).trans (State.beginRecord_leaves p _ 2)

end

/-! ## A marked partition (R256) -/

/-- Partition p is enabled and marked as depleted, and when it is RESETTING it has no instruction in flight. -/
structure Marked (p : Nat) (s : State) : Prop where
  canonical : s.canonical
  enabled : s.flag (F.parCtrlEn p) = true
  depleted : (s.partition p).depleted = true
  clean : s.fld (F.parStatusState p) = 2 → ∀ i ∈ s.insts, i.part ≠ p

section

variable {p : Nat} {s t : State}

theorem LeavesPart.state (h : LeavesPart p s t) (hc : s.canonical) : t.fld (F.parStatusState p) = s.fld (F.parStatusState p) :=
  congrArg (fun w : Word32 => bits w.toNat 0 2) (h.status hc)

theorem LeavesPart.flag (h : LeavesPart p s t) (hc : s.canonical) : t.flag (F.parCtrlEn p) = s.flag (F.parCtrlEn p) :=
  congrArg (fun w : Word32 => bits w.toNat 0 1 == 1) (h.ctrl hc)

theorem Marked.leaves (hm : Marked p s) (h : LeavesPart p s t) : Marked p t where
  canonical := h.keeps.canonical hm.canonical
  enabled := (h.flag hm.canonical).trans hm.enabled
  depleted := (h.depleted hm.canonical).trans hm.depleted
  clean hstate i hi := hm.clean ((h.state hm.canonical).symm.trans hstate) i (h.insts hi)

/-- What partition p is after a reset of q: itself reset, or left as it was. -/
theorem Marked.resetWork (hm : Marked p s) (hp : p < 16) (q : Nat) (disables : Bool) :
    Marked p (s.resetWork q disables) ∧
      (q = p ∨ s.fld (F.parStatusState p) = 2 → (s.resetWork q disables).fld (F.parStatusState p) = 2) := by
  obtain ⟨t, ht, hinsts, hreset⟩ := State.resetWork_eq p s hp q disables
  have hmt := hm.leaves ht
  have hsorted := hmt.canonical.regs.1.1
  rw [hreset]
  by_cases hq : q = p
  · subst hq
    have hstate : (t.setFld (F.parStatusState q) 2).fld (F.parStatusState q) = 2 :=
      State.fld_setFld_same _ _ _ hsorted (by simp [F.parStatusState])
    have hctrl : (Reg.parCtrl q).addr ≠ (Reg.parStatus q).addr := by simp only [Reg.addr]; omega
    refine ⟨⟨(State.setFld_keeps _ _ (Keeps.refl t)).canonical hmt.canonical, ?_, hmt.depleted, fun _ => hinsts⟩, fun _ => hstate⟩
    rw [State.flag, State.fld_setFld_other _ _ _ _ hsorted hctrl]
    exact hmt.enabled
  · have hleaves : LeavesPart p t (t.setFld (F.parStatusState q) 2) :=
      .setFld _ _ (by simp only [F.parStatusState, Reg.addr]; omega) (by simp only [F.parStatusState, Reg.addr]; omega)
    refine ⟨hmt.leaves hleaves, fun h => ?_⟩
    rw [hleaves.state hmt.canonical, ht.state hm.canonical]
    exact h.resolve_left hq

theorem Marked.resetPartition (hm : Marked p s) (hp : p < 16) (q : Nat) (disables : Bool) :
    Marked p (s.resetPartition q disables) ∧
      (q = p ∨ s.fld (F.parStatusState p) = 2 → (s.resetPartition q disables).fld (F.parStatusState p) = 2) := by
  have hdrop := State.dropPackets_leaves p s q
  have h := (hm.leaves hdrop).resetWork hp q disables
  rwa [hdrop.state hm.canonical] at h

/-- A reset's trigger resets partition p when it is p's, and leaves it reset. -/
theorem Marked.triggerReset (hm : Marked p s) (hp : p < 16) (q : Nat) :
    Marked p (s.triggerReset q) ∧ (q = p ∨ s.fld (F.parStatusState p) = 2 → (s.triggerReset q).fld (F.parStatusState p) = 2) := by
  unfold State.triggerReset
  split
  next => exact hm.resetPartition hp q false
  next h =>
    refine ⟨hm, ?_⟩
    rintro (rfl | h2)
    · by_contra hne
      exact h ⟨hm.enabled, hne⟩
    · exact h2

theorem Marked.triggerResets (hm : Marked p s) (hp : p < 16) (l : List Nat) :
    Marked p (s.over l fun s q => s.triggerReset q) ∧
      (p ∈ l ∨ s.fld (F.parStatusState p) = 2 → (s.over l fun s q => s.triggerReset q).fld (F.parStatusState p) = 2) := by
  induction l generalizing s with
  | nil => exact ⟨hm, fun h => h.resolve_left List.not_mem_nil⟩
  | cons q l ih =>
    obtain ⟨hq, hstate⟩ := hm.triggerReset hp q
    obtain ⟨hl, hrest⟩ := ih hq
    refine ⟨hl, fun h => hrest ?_⟩
    rcases h with h | h
    · rcases List.mem_cons.mp h with rfl | h
      · exact .inr (hstate (.inl rfl))
      · exact .inl h
    · exact .inr (hstate (.inr h))

theorem Marked.withdrawPart (hm : Marked p s) (hp : p < 16) (q : Nat) : Marked p (s.withdrawPart q) := by
  have hphase : ∀ t : State, LeavesPart p t (t.setFld (F.parRstatusPhase q) 7) := fun t =>
    .setFld _ _ (by simp only [F.parRstatusPhase, Reg.addr]; omega) (by simp only [F.parRstatusPhase, Reg.addr]; omega)
  have hreset : ∀ (t : State) (c : Prop) [Decidable c], Marked p t → Marked p (t.when c (·.resetWork q false)) := by
    intro t c _ ht
    unfold State.when
    split
    · exact (ht.resetWork hp q false).1
    · exact ht
  unfold State.withdrawPart
  dsimp only
  refine (hreset _ _ ?_).leaves (hphase _)
  have hdrop := hm.leaves (LeavesPart.when (fun t => State.dropPackets_leaves p t q) s
    ((s.flag (F.parCtrlEn q) && s.fld (F.parStatusState q) != 2) = true))
  split
  · exact hdrop.leaves (State.sendAbsent_leaves p _ _ _)
  · exact hdrop

theorem Marked.over {f : State → Nat → State} (hf : ∀ s q, Marked p s → Marked p (f s q)) (hm : Marked p s) (l : List Nat) :
    Marked p (s.over l f) := by
  induction l generalizing s with
  | nil => exact hm
  | cons q l ih => exact ih (hf s q hm)

theorem Marked.withdraw (hm : Marked p s) (hp : p < 16) : Marked p s.withdraw := by
  unfold State.withdraw
  dsimp only
  split
  · exact hm
  · exact ((Marked.over (fun t q ht => ht.withdrawPart hp q) hm _).leaves (State.recordSparing_leaves p _ _)).leaves
      (State.raiseGlobal_leaves p _ _ _)

end

/-- The partitions of a list marked as depleted. -/
def State.markDepleted (s : State) (l : List Nat) : State := s.over l fun s q => s.setPartition q { s.partition q with depleted := true }

theorem State.markDepleted_marked {s : State} (hs : s.canonical) {l : List Nat} (hl : l.Nodup) {p : Nat} (hp : p ∈ l)
    (hen : s.flag (F.parCtrlEn p) = true) (hstate : s.fld (F.parStatusState p) ≠ 2) : Marked p (s.markDepleted l) where
  canonical := ((Keeps.refl s).over fun t q h =>
    State.setPartition_keeps q { t.partition q with depleted := true } h fun _ c => State.gates_wf c q).canonical hs
  enabled := (State.view_over (fun t => t.flag (F.parCtrlEn p)) (fun _ _ => State.setPartition_flag _ _ _ _) s l).trans hen
  depleted := by
    rw [State.markDepleted, State.partition_over_setPartition (g := fun v => { v with depleted := true }) (fun _ => rfl) hs hl, if_pos hp]
  clean h := absurd ((State.view_over (fun t => t.fld (F.parStatusState p)) (fun _ _ => State.setPartition_fld _ _ _ _) s l).symm.trans h) hstate

theorem State.deplete_eq (s : State) (f : Nat) :
    s.deplete f = (s.markDepleted (s.foldOwners f)).withdraw.over (s.foldOwners f) fun s q => s.triggerReset q := rfl

theorem depleteActs : DepleteActs := by
  intro s f p hs hp hen hstate
  have hp16 : p < 16 := List.mem_range.mp (List.mem_filter.mp hp).1
  have hmarked := State.markDepleted_marked hs (s.foldOwners_nodup f) hp hen hstate
  obtain ⟨hend, hreset⟩ := (hmarked.withdraw hp16).triggerResets hp16 (s.foldOwners f)
  rw [← State.deplete_eq] at hend hreset
  have h2 := hreset (.inl hp)
  exact ⟨h2, hend.clean h2, hend.depleted⟩

/-! ## The statement -/

/-- Settles O36: the rows of a K-step and of a restart, what declaring a failure and depleting a fold do, and what holds a retirement back. -/
theorem residueRowsComplete : Obligations.ResidueRowsComplete := by
  refine ⟨fun s q index c i hi ha hop hc hr => ⟨?pass, fun hfresh => ?first, fun u hmark hu => ?understudy, fun hmark hnone => ?depleted⟩,
    fun s q index c ok i hi ha => ?apron, declareFailedActs, depleteActs, fun s i h => ?retire, fun s c r hr => ?restart⟩
  case pass => exact congrArg Host.Outcome.next ((State.kStep_checked hi ha hop hc hr true).trans (if_pos rfl))
  case first =>
    refine congrArg Host.Outcome.next ((State.kStep_checked hi ha hop hc hr false).trans ?_)
    simp [hfresh]
  case understudy =>
    refine congrArg Host.Outcome.next ((State.kStep_checked hi ha hop hc hr false).trans ?_)
    simp [hmark, State.failTwice_of_understudy hu]
  case depleted =>
    refine congrArg Host.Outcome.next ((State.kStep_checked hi ha hop hc hr false).trans ?_)
    simp [hmark, State.failTwice_of_none hnone]
  case apron => exact congrArg Host.Outcome.next (State.kStep_onApron hi ha ok)
  case retire =>
    rcases h with h | ⟨r, hr, hq, hx⟩
    · exact State.mayRetire_of_failedOn h
    · exact State.mayRetire_of_restart hr hq hx
  case restart => exact congrArg Host.Outcome.next (State.restartDone_of_find hr)

end Sys2Proof.Machine
end

section
/-!
Proofs about the issue of an instruction that passes its checks (R22, R66): what it is as it goes in flight, and that its effect begins.
-/

namespace Sys2Proof.Machine

/-! ## The instruction that issues -/

theorem State.loadParams_i (s : State) (i : Inst) (table : Nat) :
    ∃ a b, (s.loadParams i table).2.i = { i with params := a, auxDescs := b } := by
  unfold State.loadParams
  dsimp only
  repeat' split
  all_goals exact ⟨_, _, rfl⟩

theorem State.takeNumber_i (s : State) (i : Inst) : ∃ c r, (s.takeNumber i).2 = { i with coll := c, ring := r } := by
  unfold State.takeNumber
  repeat' split
  all_goals exact ⟨_, _, rfl⟩

section

variable {s u : State} {q op p : Nat} {i : Inst} {k : Pkt} {sc : Option Scene}

theorem headRead_i (s : State) (q p : Nat) (k : Pkt) (sc : Option Scene) :
    ∃ d a b, (headRead s q p k sc).2.i = { headInst s q p k sc with descs := d, params := a, auxDescs := b } := by
  obtain ⟨a, b, h⟩ := State.loadParams_i (s.fetchDescs q (s.dtabOf p sc k.opcode) [k.s0, k.s1, k.s2, k.s3]).1
    { headInst s q p k sc with descs := (s.fetchDescs q (s.dtabOf p sc k.opcode) [k.s0, k.s1, k.s2, k.s3]).2.1 } (s.dtabOf p sc k.opcode)
  exact ⟨_, a, b, h⟩

theorem headRead_keeps (s : State) (q p : Nat) (k : Pkt) (sc : Option Scene) : Keeps s (headRead s q p k sc).1 :=
  State.loadParams_keeps _ _ (State.fetchDescs_keeps _ _ _ (Keeps.refl s))

/-- As it goes in flight an instruction is the head's packet with its operands read, a number taken, and its outputs and area. -/
theorem Passes.inst_eq (h : Passes s q op u i p k sc) : ∃ d a b c r o w, i =
    { headInst s q p k sc with descs := d, params := a, auxDescs := b, coll := c, ring := r, outs := o, area := w } := by
  obtain ⟨d, a, b, hread⟩ := headRead_i s q p k sc
  obtain ⟨c, r, htake⟩ := State.takeNumber_i (headRead s q p k sc).1 (headRead s q p k sc).2.i
  have hi := h.inst
  dsimp only at hi
  rw [htake, hread] at hi
  exact ⟨d, a, b, c, r, _, _, hi⟩

theorem Passes.pkt (h : Passes s q op u i p k sc) : i.pkt = k := by
  obtain ⟨_, _, _, _, _, _, _, rfl⟩ := h.inst_eq
  rfl

theorem Passes.queue (h : Passes s q op u i p k sc) : i.queue = q := by
  obtain ⟨_, _, _, _, _, _, _, rfl⟩ := h.inst_eq
  rfl

theorem Passes.stages (h : Passes s q op u i p k sc) : i.stages = [] := by
  obtain ⟨_, _, _, _, _, _, _, rfl⟩ := h.inst_eq
  rfl

theorem Passes.wait (h : Passes s q op u i p k sc) : { i with wait := .none } = i := by
  obtain ⟨_, _, _, _, _, _, _, rfl⟩ := h.inst_eq
  rfl

theorem Passes.keeps (h : Passes s q op u i p k sc) : Keeps s u := by
  rw [h.state]
  exact State.enter_keeps _ (State.noteIssue_keeps _ _ (State.takeNumber_keeps _ (headRead_keeps s q p k sc)))

/-- The place of a passing instruction's area is found, or none is needed. -/
theorem Passes.placed_area (h : Passes s q op u i p k sc) :
    (if k.area = 0 then some none
      else ((headRead s q p k sc).1.placeArea (headInst s q p k sc) ((headRead s q p k sc).1.windowOf (headInst s q p k sc)) k.area
        (localTop (headRead s q p k sc).2.i.operands)).map some) = some i.area := by
  rcases h.area with ⟨hnone, hzero⟩ | ⟨hpos, hsome, hplace⟩
  · rw [if_pos hzero, hnone]
  · obtain ⟨w, hw⟩ := Option.isSome_iff_exists.mp hsome
    rw [if_neg hpos, hplace, hw]
    rfl

theorem chainPeers_singleton (j : Inst) : chainPeers [j] = j.peerInputs := by
  simp [chainPeers]

theorem Passes.peerInputs (h : Passes s q op u i p k sc) : i.peerInputs = ((headRead s q p k sc).2.i).peerInputs := by
  obtain ⟨c, r, htake⟩ := State.takeNumber_i (headRead s q p k sc).1 (headRead s q p k sc).2.i
  rw [h.inst, htake]
  rfl

/-- An instruction that passes and reads nothing of its peers begins its effect. -/
theorem Passes.issuePass (h : Passes s q op u i p k sc) (hop : op ≠ 0x04) (hpeer : i.peerInputs = []) :
    (headRead s q p k sc).1.issuePass s (headInst s q p k sc) [(headRead s q p k sc).2.i]
      ((headRead s q p k sc).1.windowOf (headInst s q p k sc)) = u.launch i := by
  have hpkt : (headRead s q p k sc).2.i.pkt = k := headRead_pkt
  have harea := h.placed_area
  have hcode : ¬(headInst s q p k sc).pkt.opcode = 0x04 := fun hk => hop (h.head.code.symm.trans hk)
  rw [h.peerInputs] at hpeer
  have hinst := h.inst
  have hspan : i.span = 1 := by rw [Inst.span, h.stages]; rfl
  simp only [State.issuePass, List.map_cons, List.map_nil, List.sum_cons, List.sum_nil, Nat.add_zero, List.flatMap_cons, List.flatMap_nil,
    List.append_nil, hpkt, harea, List.foldl_cons, List.foldl_nil, List.nil_append, hcode, if_false, List.headD_cons, chainPeers_singleton,
    hpeer, if_true]
  dsimp only at hinst
  rw [← hinst, hspan, ← h.state]

theorem exec_of_passes {row : Nat × (QueueNo → Instr)} (hrow : row ∈ issueRows) {q : QueueNo} (h : Passes s q row.1 u i p k sc)
    (hpeer : i.peerInputs = []) : exec (row.2 q) s = .next (u.launch i).settle := by
  have hop := opcode_ne_chain_of_mem_issueRows hrow
  rw [exec_of_mem_issueRows hrow, State.issue_of_head h.head hop]
  simp only [headTurn, h.free, h.verdict, h.issuePass hop hpeer]
  rfl

end

end Sys2Proof.Machine
end

section
/-!
Proofs about the computing instructions (R72 to R98, R202 to R206, R220 to R225): from their issue to the end of their work.
-/

namespace Sys2Proof.Machine

/-! ## Their opcodes -/

theorem opcode_of_computes {k : Pkt} (h : computes k = true) :
    k.opcode = 0x10 ∨ (k.opcode = 0x18 ∧ k.convMode ≠ 5) ∨ (0x30 ≤ k.opcode ∧ k.opcode ≤ 0x53) ∨ (0x80 ≤ k.opcode ∧ k.opcode ≤ 0x82) ∨
      k.opcode = 0x60 ∨ k.opcode ∈ [0x61, 0x62, 0x63, 0x70, 0x71, 0x91] := by
  simp only [computes, isVector, isOpt, Bool.or_eq_true, Bool.and_eq_true, beq_iff_eq, bne_iff_ne, decide_eq_true_eq,
    List.contains_iff_mem, List.mem_cons] at h
  simp only [List.mem_cons]
  tauto

theorem not_coll_of_computes {k : Pkt} (h : computes k = true) : isColl k.opcode = false := by
  have hop := opcode_of_computes h
  simp only [List.mem_cons, List.not_mem_nil, or_false] at hop
  simp only [isColl, decide_eq_false_iff_not]
  omega

theorem not_ring_of_computes {k : Pkt} (h : computes k = true) : isRing k.opcode = false := by
  have hop := opcode_of_computes h
  simp only [List.mem_cons, List.not_mem_nil, or_false] at hop
  simp only [isRing, Bool.or_eq_false_iff, beq_eq_false_iff_ne]
  omega

/-! ## What an instruction waits for after its work -/

/-- j is the instruction i but for what it waits for: the same packet of the same place, with the same event, count, held pieces and
acknowledgements. -/
structure SameResult (i j : Inst) : Prop where
  queue : j.queue = i.queue
  index : j.index = i.index
  pkt : j.pkt = i.pkt
  event : j.event = i.event
  count : j.count = i.count
  held : j.held = i.held
  acks : j.acks = i.acks

theorem SameResult.refl (i : Inst) : SameResult i i := ⟨rfl, rfl, rfl, rfl, rfl, rfl, rfl⟩

theorem SameResult.trans {i j k : Inst} (h : SameResult i j) (h' : SameResult j k) : SameResult i k :=
  ⟨h'.queue.trans h.queue, h'.index.trans h.index, h'.pkt.trans h.pkt, h'.event.trans h.event, h'.count.trans h.count,
    h'.held.trans h.held, h'.acks.trans h.acks⟩

theorem State.offerUnits_sameResult (s : State) (i : Inst) : SameResult i (s.offerUnits i) := by
  unfold State.offerUnits
  split
  · exact ⟨rfl, rfl, rfl, rfl, rfl, rfl, rfl⟩
  · exact .refl i

theorem State.awaitSeal_sameResult (s : State) (i : Inst) : SameResult i (s.awaitSeal i) := by
  unfold State.awaitSeal
  split
  · exact ⟨rfl, rfl, rfl, rfl, rfl, rfl, rfl⟩
  · exact .refl i

theorem State.awaitToken_sameResult (s : State) (i : Inst) : SameResult i (s.awaitToken i) := by
  unfold State.awaitToken
  split
  · exact ⟨rfl, rfl, rfl, rfl, rfl, rfl, rfl⟩
  · exact .refl i

/-! ## The effect at issue -/

/-- The opcodes whose effect at issue has a body of its own. -/
def ownBody : List Nat :=
  [0x00, 0x01, 0x02, 0x03, 0x05, 0x06, 0x07, 0x08, 0x09, 0x0A, 0x18, 0x60, 0x64, 0x65, 0x66, 0x67, 0x68, 0x69, 0x6A, 0x90, 0x92]

theorem opBody_of_not_own (s : State) {i : Inst} (h : i.pkt.opcode ∉ ownBody) :
    opBody s i =
      let m := s.finish i (opWork s i)
      let j := if i.pkt.opcode < 0x60 ∨ isOpt i.pkt.opcode then m.1.offerUnits m.2 else m.2
      (m.1, if isOpt i.pkt.opcode then m.1.awaitSeal j else j) := by
  unfold opBody
  split
  case h_22 => rfl
  all_goals next hop => exact absurd (hop ▸ by decide) h

theorem opBody_conv (s : State) {i : Inst} (h : i.pkt.opcode = 0x18) (hm : i.pkt.convMode ≠ 5) : opBody s i = s.finish i (opWork s i) := by
  have hbody : opBody s i = convBody s i := by rw [opBody, h]; rfl
  rw [hbody, convBody, if_neg fun hc => hm hc.1]

theorem opBody_move (s : State) {i : Inst} (h : i.pkt.opcode = 0x60) :
    opBody s i = ((s.finish i (opWork s i)).1, (s.finish i (opWork s i)).1.awaitToken (s.finish i (opWork s i)).2) := by
  rw [opBody, h]; rfl

/-- A computing instruction finishes its work at issue; what it then waits for is all that is left. -/
theorem opBody_of_computes (s : State) {i : Inst} (h : computes i.pkt = true) :
    ∃ j, SameResult (s.finish i (opWork s i)).2 j ∧ opBody s i = ((s.finish i (opWork s i)).1, j) := by
  have hop := opcode_of_computes h
  by_cases hconv : i.pkt.opcode = 0x18
  · have hm : i.pkt.convMode ≠ 5 := by
      simp only [hconv, List.mem_cons, List.not_mem_nil, or_false] at hop
      omega
    exact ⟨_, .refl _, opBody_conv s hconv hm⟩
  by_cases hmove : i.pkt.opcode = 0x60
  · exact ⟨_, State.awaitToken_sameResult _ _, opBody_move s hmove⟩
  have hown : i.pkt.opcode ∉ ownBody := by
    simp only [List.mem_cons, List.not_mem_nil, or_false] at hop
    simp only [ownBody, List.mem_cons, List.not_mem_nil, or_false]
    omega
  refine ⟨_, ?_, opBody_of_not_own s hown⟩
  split_ifs
  · exact (State.offerUnits_sameResult _ _).trans (State.awaitSeal_sameResult _ _)
  · exact State.awaitSeal_sameResult _ _
  · exact State.offerUnits_sameResult _ _
  · exact .refl _

theorem State.claimTiles_i (s : State) (i : Inst) : ∃ c, (s.claimTiles i).2 = { i with claims := c } := by
  unfold State.claimTiles
  split
  · exact ⟨_, rfl⟩
  · exact ⟨i.claims, rfl⟩

/-- The effect of a computing instruction as it begins: its claims, its work, and its place in flight. -/
theorem State.launch_of_computes {u : State} {i : Inst} (hc : computes i.pkt = true) (hs : i.stages = []) (hw : { i with wait := .none } = i) :
    let c := u.claimTiles i
    let m := c.1.finish c.2 (opWork c.1 c.2)
    ∃ j, SameResult m.2 j ∧ u.launch i = (m.1.place j).apronStart := by
  obtain ⟨cl, hcl⟩ := u.claimTiles_i i
  have hpkt : (u.claimTiles i).2.pkt = i.pkt := by rw [hcl]
  have hstages : (u.claimTiles i).2.stages = [] := by rw [hcl]; exact hs
  obtain ⟨j, hj, hbody⟩ := opBody_of_computes (u.claimTiles i).1 (i := (u.claimTiles i).2) (by rw [hpkt]; exact hc)
  refine ⟨j, hj, ?_⟩
  simp only [State.launch, hw, hstages, hpkt, not_coll_of_computes hc, not_ring_of_computes hc, hbody]
  simp

/-- A computing instruction that passes is placed in flight as its work has left it. -/
theorem exec_of_computes {row : Nat × (QueueNo → Instr)} (hrow : row ∈ issueRows) {s u : State} {q : QueueNo} {i : Inst} {p : Nat} {k : Pkt}
    {sc : Option Scene} (h : Passes s q row.1 u i p k sc) (hc : computes k = true) (hpeer : i.peerInputs = []) :
    let c := u.claimTiles i
    let m := c.1.finish c.2 (opWork c.1 c.2)
    ∃ j, SameResult m.2 j ∧ exec (row.2 q) s = .next (placed (m.1, j)) := by
  rw [← h.pkt] at hc
  obtain ⟨j, hj, hlaunch⟩ := State.launch_of_computes (u := u) hc h.stages h.wait
  exact ⟨j, hj, by rw [exec_of_passes hrow h hpeer, hlaunch]; rfl⟩

end Sys2Proof.Machine
end

section
/-!
Proofs about a computation's result (R72 to R98, R202 to R206, R220 to R225): the bytes that its pieces leave in the tiers' memories.
-/

namespace Sys2Proof.Machine

/-! ## Folds that carry a state and a list -/

theorem foldl_fst_view {α β γ : Type} {f : State × β → α → State × β} (view : State → γ) (h : ∀ acc x, view (f acc x).1 = view acc.1)
    (acc : State × β) (l : List α) : view (l.foldl f acc).1 = view acc.1 := by
  induction l generalizing acc with
  | nil => rfl
  | cons x l ih => exact (ih (f acc x)).trans (h acc x)

/-! ## What a piece sent or written leaves -/

theorem State.sendPackets_mem (s : State) (node part k : Nat) (mk : Nat → Out) : (s.sendPackets node part k mk).mem = s.mem := by
  unfold State.sendPackets
  dsimp only
  split <;> rfl

theorem State.sendPeer_mem (s : State) (p rank addr : Nat) (bs : Bytes) : (s.sendPeer p rank addr bs).1.mem = s.mem :=
  foldl_fst_view State.mem (fun acc _ => State.sendPackets_mem acc.1 _ _ _ _) (s, []) _

theorem State.tables_sendPeer (s : State) (p rank addr : Nat) (bs : Bytes) : (s.sendPeer p rank addr bs).1.tables = s.tables :=
  foldl_fst_view State.tables (fun acc _ => State.tables_sendPackets acc.1 _ _ _ _) (s, []) _

theorem State.tierMem_of_mem {s t : State} (h : t.mem = s.mem) (tier : Nat) : t.tierMem tier = s.tierMem tier := by
  unfold State.tierMem
  rw [h]

theorem State.staleDescriptors_mem (s : State) (p : Nat) (addrs : List Nat) : (s.staleDescriptors p addrs).mem = s.mem := by
  unfold State.staleDescriptors
  split <;> rfl

@[simp] theorem State.tables_staleDescriptors (s : State) (p : Nat) (addrs : List Nat) : (s.staleDescriptors p addrs).tables = s.tables := by
  unfold State.staleDescriptors
  split <;> rfl

@[simp] theorem State.tables_touch (s : State) (hint : Nat) (write : Bool) (addrs : List Nat) : (s.touch hint write addrs).tables = s.tables := by
  unfold State.touch
  split <;> rfl

@[simp] theorem State.tables_writePart (s : State) (p tier who hint : Nat) (cells : List (Nat × Byte)) :
    (s.writePart p tier who hint cells).tables = s.tables := by
  simp only [State.writePart, State.writeCells]
  split <;> simp

theorem State.writePart_tierMem (s : State) (p tier who hint : Nat) (cells : List (Nat × Byte)) (u : Nat) :
    (s.writePart p tier who hint cells).tierMem u = (s.writeCells tier who cells).tierMem u := by
  simp only [State.writePart]
  split
  · rw [State.tierMem_of_mem (State.staleDescriptors_mem _ _ _), State.touch_tierMem]
  · rfl

theorem State.writeCells_tierMem_other (s : State) {tier u : Nat} (who : Nat) (cells : List (Nat × Byte)) (ht : tier < 6) (hu : u < 6)
    (hne : u ≠ tier) : (s.writeCells tier who cells).tierMem u = s.tierMem u := by
  simp only [State.writeCells, State.tierMem_mend, State.tierMem_setTierMem_other _ _ _ _ ht hu hne]

theorem State.fnOf_of_tables {s t : State} (h : t.tables = s.tables) (i : Inst) : t.fnOf i = s.fnOf i := by
  have hparts : t.parts = s.parts := congrArg (fun x => x.2.1) h
  rw [State.fnOf, State.fnOf, State.block, State.block, State.partition, State.partition, hparts]

theorem State.writePiece_view_of_peer {γ : Type} (view : State → γ) (h : ∀ s p rank addr bs, view (State.sendPeer s p rank addr bs).1 = view s)
    (s : State) (i : Inst) {x : Piece} (hx : x.d.tier = tPeer) : view (s.writePiece i x).1 = view s := by
  rw [State.writePiece, if_pos hx]
  refine foldl_fst_view view (fun acc r => ?_) (s, []) (runsOf x.cells)
  exact h acc.1 i.part x.d.rank r.1 r.2

theorem State.writePiece_of_own (s : State) (i : Inst) {x : Piece} (hx : x.d.tier ≠ tPeer) :
    (s.writePiece i x).1 = s.writePart i.part x.d.tier (x.d.who (s.fnOf i) x.cl) x.d.hint x.cells := by
  rw [State.writePiece, if_neg hx]

theorem State.tables_writePiece (s : State) (i : Inst) (x : Piece) : (s.writePiece i x).1.tables = s.tables := by
  by_cases hx : x.d.tier = tPeer
  · exact State.writePiece_view_of_peer _ State.tables_sendPeer s i hx
  · rw [State.writePiece_of_own s i hx, State.tables_writePart]

/-! ## Cells of several tiers, written in order -/

/-- A tier's memory with the bytes that cells (tier, key, byte) name in it written in order. -/
def writeCellsOf (tier : Nat) (m : List Host.Cell) (cs : List (Nat × Nat × Byte)) : List Host.Cell :=
  (cs.filter fun c => c.1 == tier).foldl (fun m c => Memory.write m c.2.1 c.2.2) m

theorem writeCellsOf_append (tier : Nat) (m : List Host.Cell) (cs ds : List (Nat × Nat × Byte)) :
    writeCellsOf tier m (cs ++ ds) = writeCellsOf tier (writeCellsOf tier m cs) ds := by
  simp [writeCellsOf]

/-- The last byte written under a key of a tier, or d where none was. -/
def lastByte (tier key : Nat) (cs : List (Nat × Nat × Byte)) (d : Byte) : Byte :=
  ((cs.reverse.find? fun c => c.1 == tier && c.2.1 == key).map fun c => c.2.2).getD d

theorem read_writeCellsOf {m : List Host.Cell} (h : Memory.wf m) (tier key : Nat) (cs : List (Nat × Nat × Byte)) :
    Memory.read (writeCellsOf tier m cs) key = lastByte tier key cs (Memory.read m key) := by
  rw [writeCellsOf, Memory.read_foldl_write _ (fun c : Nat × Nat × Byte => c.2.1) (fun c => c.2.2) _ h, ← List.filter_reverse, List.find?_filter]
  simp only [Bool.decide_and, Bool.decide_eq_true, lastByte]
  cases cs.reverse.find? fun c => c.1 == tier && c.2.1 == key <;> rfl

theorem pieceCells_cons (s : State) (i : Inst) (x : Piece) (xs : List Piece) : pieceCells s i (x :: xs) = pieceCells s i [x] ++ pieceCells s i xs := by
  by_cases hx : x.d.tier = tPeer <;> simp [pieceCells, hx]

theorem pieceCells_of_fnOf {s t : State} {i : Inst} (h : t.fnOf i = s.fnOf i) (xs : List Piece) : pieceCells t i xs = pieceCells s i xs := by
  simp only [pieceCells, h]

theorem State.writePiece_tierMem (s : State) (i : Inst) {x : Piece} {tier : Nat} (hx : x.d.tier < 6) (ht : tier < 6) :
    (s.writePiece i x).1.tierMem tier = writeCellsOf tier (s.tierMem tier) (pieceCells s i [x]) := by
  by_cases hown : x.d.tier = tPeer
  · rw [State.tierMem_of_mem (State.writePiece_view_of_peer _ State.sendPeer_mem s i hown)]
    simp [pieceCells, hown, writeCellsOf]
  · rw [State.writePiece_of_own s i hown, State.writePart_tierMem]
    by_cases htier : tier = x.d.tier
    · subst htier
      simp [State.writeCells_tierMem, pieceCells, hown, writeCellsOf, List.filter_map, List.foldl_map, Function.comp_def]
    · rw [State.writeCells_tierMem_other _ _ _ hx ht htier]
      simp [pieceCells, hown, writeCellsOf, List.filter_map, Function.comp_def, beq_eq_false_iff_ne.mpr (Ne.symm htier)]

/-- Pieces written leave each tier's memory with the bytes they name in it. -/
theorem State.writePieces_tierMem (s : State) (i : Inst) {xs : List Piece} {tier : Nat} (hxs : ∀ x ∈ xs, x.d.tier < 6) (ht : tier < 6) :
    (s.writePieces i xs).1.tierMem tier = writeCellsOf tier (s.tierMem tier) (pieceCells s i xs) := by
  refine (State.view_over (State.tierMem · tier) (fun t k => State.tierMem_mend t k tier _) _ _).trans ?_
  generalize ([] : List (Nat × Nat × Nat)) = acks
  induction xs generalizing s acks with
  | nil => rfl
  | cons x xs ih =>
    have hfn := State.fnOf_of_tables (State.tables_writePiece s i x) i
    rw [List.foldl_cons, ih _ (fun y hy => hxs y (List.mem_cons_of_mem _ hy)), pieceCells_of_fnOf hfn,
      State.writePiece_tierMem s i (hxs x List.mem_cons_self) ht, pieceCells_cons s i x xs, writeCellsOf_append]

/-! ## What reading leaves -/

theorem State.tables_discardLines (s : State) (ls : List Nat) : (s.discardLines ls).tables = s.tables :=
  State.tables_over (fun t l => State.tables_undefine t tStacked 0 (64 * l) 64) _ _

theorem State.tables_consume (s : State) (rs : List (Desc × List (List Nat))) : (s.consume rs).tables = s.tables := by
  refine State.tables_over (fun t r => ?_) s rs
  split
  · unfold State.readThrough
    split
    · exact (State.tables_discardLines _ _).trans (State.tables_touch _ _ _ _)
    · exact State.tables_touch _ _ _ _
  · rfl

/-- Operands read without LAST_USE leave every tier's memory. -/
theorem State.consume_tierMem (s : State) {rs : List (Desc × List (List Nat))} (h : ∀ x ∈ rs, x.1.hint ≠ 2) (tier : Nat) :
    (s.consume rs).tierMem tier = s.tierMem tier := by
  unfold State.consume State.over
  induction rs generalizing s with
  | nil => rfl
  | cons r rs ih =>
    refine (ih _ fun x hx => h x (List.mem_cons_of_mem _ hx)).trans ?_
    dsimp only
    split
    · rw [State.readThrough, if_neg fun hc => h r List.mem_cons_self hc.1, State.touch_tierMem]
    · rfl

/-! ## The end of the work -/

theorem firstEvent_eq_zero {l : List Nat} (h : ∀ x ∈ l, x = 0) : firstEvent l = 0 := by
  rw [firstEvent, List.find?_eq_none.mpr fun x hx => by simp [h x hx]]
  rfl

section

variable (s : State) (i : Inst) (w : Work)

/-- The state in which a work's pieces are judged: what it drew of the free values is used. -/
def State.drawn : State := s.setFree (s.free + w.draws)

/-- The event that keeps a work from taking effect, or 0. -/
def State.workEvent : Nat := if w.fail ≠ 0 then w.fail else firstEvent (w.pieces.map ((s.drawn w).pieceEvent i))

variable {s i w}

theorem State.finish_of_event (h : s.workEvent i w ≠ 0) :
    s.finish i w = (((s.drawn w).consume w.reads).loseOuts i, { i with event := s.workEvent i w, count := 0 }) :=
  if_pos h

theorem State.finish_of_partials (h : s.workEvent i w = 0) (hp : w.partials = true) :
    s.finish i w = (((s.drawn w).consume w.reads).loseOuts i, { i with event := w.event, count := w.count, held := w.pieces }) :=
  (if_neg (not_not_intro h)).trans (if_pos hp)

theorem State.finish_of_whole (h : s.workEvent i w = 0) (hp : w.partials = false) :
    s.finish i w = ((((s.drawn w).consume w.reads).writePieces i w.pieces).1,
      { i with event := w.event, count := w.count, acks := i.acks ++ (((s.drawn w).consume w.reads).writePieces i w.pieces).2 }) :=
  (if_neg (not_not_intro h)).trans (if_neg (by simp [hp]))

theorem State.workEvent_eq_zero (hf : w.fail = 0) (h : ∀ x ∈ w.pieces, (s.drawn w).pieceEvent i x = 0) : s.workEvent i w = 0 := by
  rw [State.workEvent, if_neg (not_not_intro hf)]
  exact firstEvent_eq_zero (by simpa using h)

end

/-- A byte of a tier after pieces are written: the last byte written there, or what it held before. -/
theorem State.writePieces_tierByte {s : State} (h : s.canonical) (i : Inst) {xs : List Piece} {tier : Nat} (hxs : ∀ x ∈ xs, x.d.tier ≤ 4)
    (ht : tier ≤ 4) (who a : Nat) : (s.writePieces i xs).1.tierByte tier who a =
      lastByte tier (tierKey tier who a) (pieceCells s i xs) (s.tierByte tier who a) := by
  rw [State.tierByte, State.writePieces_tierMem s i (fun x hx => by have := hxs x hx; omega) (by omega),
    read_writeCellsOf (State.tierMem_wf h tier)]
  rfl

/-! ## The obligation -/

/-- Settles O7: the rows of the computing instructions are the case split of `State.finish` on the work's event and its partial sums, and the
bytes are those of `State.writePieces_tierByte`. -/
theorem computeRowsWrite : Obligations.ComputeRowsWrite := by
  unfold Obligations.ComputeRowsWrite
  intro row hrow s u₀ q i₀ p k sc h hc hpeer c u i w v r t
  obtain ⟨j, hj, hexec⟩ : ∃ j, SameResult (u.finish i w).2 j ∧ exec (row.2 q) s = .next (placed ((u.finish i w).1, j)) :=
    exec_of_computes hrow h hc hpeer
  have hpkt : i.pkt = k := by
    obtain ⟨cl, hcl⟩ := u₀.claimTiles_i i₀
    exact (congrArg Inst.pkt hcl).trans h.pkt
  have hkeeps : Keeps s r := State.consume_keeps _ (Keeps.setFree _ (State.claimTiles_keeps _ h.keeps))
  have hfn : r.fnOf i = u.fnOf i := State.fnOf_of_tables ((State.tables_consume v w.reads).trans (State.tables_setFree u _)) i
  refine ⟨fun hf he hp => ?_, fun hf he hp => ⟨?_, fun hs tier who a hxs ht => ?_, fun hr tier who a => ?_⟩, fun e he hev => ?_⟩
  · rw [State.finish_of_partials (State.workEvent_eq_zero hf he) hp] at hj hexec
    exact ⟨j, hexec, hj.queue, hj.index, hj.pkt.trans hpkt, hj.event, hj.count, hj.held⟩
  · rw [State.finish_of_whole (State.workEvent_eq_zero hf he) hp] at hj hexec
    exact ⟨j, hexec, hj.queue, hj.index, hj.pkt.trans hpkt, hj.event, hj.count, hj.acks⟩
  · refine (State.writePieces_tierByte (hkeeps.canonical hs) i hxs ht who a).trans ?_
    rw [pieceCells_of_fnOf hfn, lastByte]
    cases (pieceCells u i w.pieces).reverse.find? fun c => c.1 == tier && c.2.1 == tierKey tier who a <;> rfl
  · exact congrArg (Memory.read · (tierKey tier who a)) (State.consume_tierMem v hr tier)
  · have hevent : u.workEvent i w = e := hev
    rw [State.finish_of_event (by rwa [hevent]), hevent] at hj hexec
    exact ⟨j, hexec, hj.queue, hj.index, hj.pkt.trans hpkt, hj.event, hj.count⟩

end Sys2Proof.Machine
end

section
/-!
Proofs about anchored accumulators (R112): a term rounded to the resolution, and terms added exactly in any order.
-/

namespace Sys2Proof.Machine

/-! ## A quotient rounded to nearest, ties to even (R104) -/

theorem roundsUp_rne_iff (draw : Nat) (neg : Bool) (n r d : Nat) :
    roundsUp .rne draw neg n r d false = true ↔ d < 2 * r ∨ 2 * r = d ∧ n % 2 = 1 := by
  simp [roundsUp]

/-- Rounding up moves the quotient by 1 when the remainder is at least half of d, and a tie leaves it only when it is even. -/
theorem rne_quotient_nearest (draw : Nat) (neg : Bool) (m : Nat) {d n : Nat} (hd : 0 < d)
    (hn : n = m / d + b2n (roundsUp .rne draw neg (m / d) (m % d) d false)) :
    2 * (n * d) ≤ 2 * m + d ∧ 2 * m ≤ 2 * (n * d) + d ∧ (2 * (n * d) = 2 * m + d ∨ 2 * m = 2 * (n * d) + d → n % 2 = 0) := by
  have hm : m / d * d + m % d = m := Nat.div_add_mod' m d
  have hr : m % d < d := Nat.mod_lt m hd
  have hup := roundsUp_rne_iff draw neg (m / d) (m % d) d
  cases h : roundsUp .rne draw neg (m / d) (m % d) d false with
  | true =>
    obtain rfl : n = m / d + 1 := by rw [hn, h]; rfl
    have hhalf := hup.mp h
    have hsucc : (m / d + 1) * d = m / d * d + d := Nat.succ_mul _ _
    omega
  | false =>
    obtain rfl : n = m / d := by rw [hn, h]; rfl
    have hhalf := mt hup.mpr (Bool.not_eq_true _ ▸ h)
    omega

/-! ## One term converted (R112) -/

theorem toUnits_true_nonpos (u : Int) (m : Nat) (e : Int) : toUnits u true m e ≤ 0 :=
  Int.neg_nonpos_of_nonneg (Int.natCast_nonneg _)

theorem toUnits_false_nonneg (u : Int) (m : Nat) (e : Int) : 0 ≤ toUnits u false m e := Int.natCast_nonneg _

theorem natAbs_toUnits (u : Int) (neg : Bool) (m : Nat) (e : Int) :
    (toUnits u neg m e).natAbs = if u ≤ e then m * 2 ^ (e - u).toNat else m / 2 ^ (u - e).toNat +
      b2n (roundsUp .rne 0 neg (m / 2 ^ (u - e).toNat) (m % 2 ^ (u - e).toNat) (2 ^ (u - e).toNat) false) := by
  cases neg
  · exact Int.natAbs_natCast _
  · exact (Int.natAbs_neg _).trans (Int.natAbs_natCast _)

/-! ## Two registers combined -/

theorem Anch.merge_empty (a : Anch) : a.merge {} = a := by
  simp [Anch.merge]

theorem Anch.merge_assoc (a b c : Anch) : (a.merge b).merge c = a.merge (b.merge c) := by
  simp [Anch.merge, Int.add_assoc, Bool.or_assoc]

theorem Anch.merge_comm (a b : Anch) : a.merge b = b.merge a := by
  simp [Anch.merge, Int.add_comm, Bool.or_comm]

theorem Anch.merge_right_comm (a b c : Anch) : (a.merge b).merge c = (a.merge c).merge b := by
  rw [Anch.merge_assoc, Anch.merge_comm b c, ← Anch.merge_assoc]

/-! ## One term added -/

section

variable {w : Nat} {anchor : Int} {neg : Bool} {m : Nat} {e : Int}

theorem Anch.addTerm_of_large (h : 2 ^ (w - 1) - 1 < (toUnits (anchor - anchF w) neg m e).natAbs) (a : Anch) :
    a.addTerm w anchor (.fin neg m e) = { a with ovf := true } :=
  if_pos h

theorem Anch.addTerm_of_in_range (h : (toUnits (anchor - anchF w) neg m e).natAbs ≤ 2 ^ (w - 1) - 1) (a : Anch) :
    a.addTerm w anchor (.fin neg m e) = { a with sum := a.sum + toUnits (anchor - anchF w) neg m e } :=
  if_neg (not_lt.mpr h)

end

section

variable (w : Nat) (anchor : Int)

/-- A term acts on a register as the register that holds it alone. -/
theorem Anch.addTerm_eq_merge (a : Anch) (t : FVal) : a.addTerm w anchor t = a.merge (({} : Anch).addTerm w anchor t) := by
  cases t with
  | nan => simp [Anch.addTerm, Anch.merge]
  | inf neg => cases neg <;> simp [Anch.addTerm, Anch.merge]
  | fin neg m e =>
    rcases lt_or_ge (2 ^ (w - 1) - 1) (toUnits (anchor - anchF w) neg m e).natAbs with h | h
    · simp [Anch.addTerm_of_large h, Anch.merge]
    · simp [Anch.addTerm_of_in_range h, Anch.merge]

theorem Anch.natAbs_sum_addTerm_empty_le (t : FVal) : (({} : Anch).addTerm w anchor t).sum.natAbs ≤ 2 ^ (w - 1) - 1 := by
  cases t with
  | nan => exact Nat.zero_le _
  | inf neg => cases neg <;> exact Nat.zero_le _
  | fin neg m e =>
    rcases lt_or_ge (2 ^ (w - 1) - 1) (toUnits (anchor - anchF w) neg m e).natAbs with h | h
    · rw [Anch.addTerm_of_large h]
      exact Nat.zero_le _
    · rw [Anch.addTerm_of_in_range h, Int.zero_add]
      exact h

/-! ## Many terms added -/

theorem Anch.addTerms_cons (a : Anch) (t : FVal) (ts : List FVal) :
    a.addTerms w anchor (t :: ts) = (a.addTerm w anchor t).addTerms w anchor ts := rfl

theorem Anch.addTerms_append (a : Anch) (xs ys : List FVal) :
    a.addTerms w anchor (xs ++ ys) = (a.addTerms w anchor xs).addTerms w anchor ys :=
  List.foldl_append

theorem Anch.addTerms_eq_merge (a : Anch) (ts : List FVal) : a.addTerms w anchor ts = a.merge (({} : Anch).addTerms w anchor ts) := by
  induction ts generalizing a with
  | nil => exact a.merge_empty.symm
  | cons t ts ih =>
    rw [Anch.addTerms_cons, ih, Anch.addTerms_cons, ih (({} : Anch).addTerm w anchor t), ← Anch.merge_assoc, ← Anch.addTerm_eq_merge]

theorem Anch.addTerm_right_comm (a : Anch) (x y : FVal) :
    (a.addTerm w anchor x).addTerm w anchor y = (a.addTerm w anchor y).addTerm w anchor x := by
  rw [Anch.addTerm_eq_merge w anchor _ y, Anch.addTerm_eq_merge w anchor a x, Anch.merge_right_comm, ← Anch.addTerm_eq_merge,
    ← Anch.addTerm_eq_merge]

theorem Anch.addTerms_perm (a : Anch) {xs ys : List FVal} (h : xs.Perm ys) : a.addTerms w anchor xs = a.addTerms w anchor ys :=
  h.foldl_eq' (fun x _ y _ b => Anch.addTerm_right_comm w anchor b x y) a

theorem Anch.natAbs_sum_addTerms_empty_le (ts : List FVal) :
    (({} : Anch).addTerms w anchor ts).sum.natAbs ≤ ts.length * (2 ^ (w - 1) - 1) := by
  induction ts with
  | nil => exact Nat.zero_le _
  | cons t ts ih =>
    rw [Anch.addTerms_cons, Anch.addTerms_eq_merge, List.length_cons, Nat.succ_mul, Nat.add_comm]
    exact (Int.natAbs_add_le _ _).trans (Nat.add_le_add (Anch.natAbs_sum_addTerm_empty_le w anchor t) ih)

/-- 2^32 magnitudes below 2^(w-1) add up to less than 2^(w+31). -/
theorem Anch.natAbs_sum_addTerms_empty_lt (hw : 1 ≤ w) {ts : List FVal} (hts : ts.length ≤ 2 ^ 32) :
    (({} : Anch).addTerms w anchor ts).sum.natAbs < 2 ^ (w + 31) :=
  calc (({} : Anch).addTerms w anchor ts).sum.natAbs
    _ ≤ ts.length * (2 ^ (w - 1) - 1) := Anch.natAbs_sum_addTerms_empty_le w anchor ts
    _ ≤ 2 ^ 32 * (2 ^ (w - 1) - 1) := Nat.mul_le_mul_right _ hts
    _ < 2 ^ 32 * 2 ^ (w - 1) := Nat.mul_lt_mul_of_pos_left (Nat.sub_one_lt (Nat.two_pow_pos _).ne') (Nat.two_pow_pos 32)
    _ = 2 ^ (w + 31) := by rw [← Nat.pow_add]; congr 1; omega

end

/-! ## The statement -/

/-- Settles O15: adding terms is merging the registers that hold each alone, and merging is associative and commutative. -/
theorem anchoredTermsInAnyOrder : Obligations.AnchoredTermsInAnyOrder := by
  unfold Obligations.AnchoredTermsInAnyOrder
  refine ⟨fun u neg m e => ?conversion, fun w anchor a neg m e => ?oneTerm, fun w anchor a xs ys h => a.addTerms_perm w anchor h,
    fun w anchor xs ys => ?shared, fun w anchor a ts => ?sticky, fun w anchor ts hw hts => ?bound⟩
  case conversion =>
    refine ⟨?_, ?_, fun h => (natAbs_toUnits u neg m e).trans (if_pos h),
      fun h => rne_quotient_nearest 0 neg m (Nat.two_pow_pos _) ((natAbs_toUnits u neg m e).trans (if_neg (not_le.mpr h)))⟩
    · rintro rfl
      exact toUnits_true_nonpos u m e
    · rintro rfl
      exact toUnits_false_nonneg u m e
  case oneTerm =>
    exact ⟨fun h => Anch.addTerm_of_large h a, fun h => Anch.addTerm_of_in_range h a, rfl, rfl, rfl⟩
  case shared =>
    rw [Anch.addTerms_append, ← Anch.addTerms_eq_merge]
  case sticky =>
    dsimp only
    rw [Anch.addTerms_eq_merge]
    exact ⟨Bool.or_inl, Bool.or_inl, Bool.or_inl, Bool.or_inl⟩
  case bound =>
    have h := Anch.natAbs_sum_addTerms_empty_lt w anchor hw hts
    have hcast : ((2 ^ (w + 31) : Nat) : Int) = 2 ^ (w + 31) := by push_cast; rfl
    omega

end Sys2Proof.Machine
end

section
/-!
Proofs about the mask of attention (R131, R132): the conditions of an unmasked pair, and the pairs of tiles that hold none.
-/

namespace Sys2Proof.Machine

/-! ## Least and greatest of a list -/

theorem spanOf_fst_le_of_mem {l : List Nat} {x : Nat} (h : x ∈ l) : (spanOf l).1 ≤ x := by
  simp only [spanOf, List.foldl_min]
  exact (min_le_right _ _).trans (List.min?_getD_le_of_mem h)

theorem le_spanOf_snd_of_mem {l : List Nat} {x : Nat} (h : x ∈ l) : x ≤ (spanOf l).2 := by
  simp only [spanOf, List.foldl_max]
  exact (List.le_max?_getD_of_mem h).trans (le_max_right _ _)

/-! ## The two conditions (R131) -/

theorem unmasked_iff (causal segment : Bool) (i a j c : Nat) :
    unmasked causal segment i a j c = true ↔ (causal = false ∨ j ≤ i) ∧ (segment = false ∨ (a = c ∧ a ≠ padSegment)) := by
  simp [unmasked]

theorem unmasked_of_later_key {i j : Nat} (h : i < j) (segment : Bool) (a c : Nat) : unmasked true segment i a j c = false := by
  simp [unmasked, h]

theorem unmasked_of_other_segment {a c : Nat} (h : a = c → a = padSegment) (causal : Bool) (i j : Nat) :
    unmasked causal true i a j c = false := by
  simpa [unmasked] using fun _ => h

/-! ## The pairs of tiles skipped (R132) -/

theorem pairSkipped_iff (causal segment : Bool) (qp qs kp ks : List Nat) : pairSkipped causal segment qp qs kp ks = true ↔
    (causal = true ∧ (spanOf qp).2 < (spanOf kp).1) ∨
      (segment = true ∧ ((spanOf qs).2 < (spanOf ks).1 ∨ (spanOf ks).2 < (spanOf qs).1 ∨ (spanOf qs).1 = padSegment ∨
        (spanOf ks).1 = padSegment)) := by
  simp [pairSkipped, or_assoc]

/-- A segment of 32 bits in a list whose least is the padding segment is that segment. -/
theorem eq_padSegment_of_mem {l : List Nat} (h : (spanOf l).1 = padSegment) {x : Nat} (hx : x ∈ l) (hlt : x < 2 ^ 32) : x = padSegment := by
  have hle := spanOf_fst_le_of_mem hx
  rw [h] at hle
  exact le_antisymm (Nat.le_pred_of_lt hlt) hle

/-- Settles O16: the tiles' positions stand apart, or their segments do, or all of one tile's are the padding segment. -/
theorem skippedPairsAreMasked : Obligations.SkippedPairsAreMasked := by
  refine ⟨unmasked_iff, fun causal segment qp qs kp ks hskip i hi a ha j hj c hc halt hclt => ?_⟩
  rcases (pairSkipped_iff causal segment qp qs kp ks).mp hskip with ⟨rfl, hapart⟩ | ⟨rfl, hseg⟩
  · have hlater : i < j := ((le_spanOf_snd_of_mem hi).trans_lt hapart).trans_le (spanOf_fst_le_of_mem hj)
    exact unmasked_of_later_key hlater segment a c
  · refine unmasked_of_other_segment (fun heq => ?_) causal i j
    subst heq
    rcases hseg with hbelow | habove | hquery | hkey
    · exact absurd (le_spanOf_snd_of_mem ha) (hbelow.trans_le (spanOf_fst_le_of_mem hc)).not_ge
    · exact absurd (le_spanOf_snd_of_mem hc) (habove.trans_le (spanOf_fst_le_of_mem ha)).not_ge
    · exact eq_padSegment_of_mem hquery ha halt
    · exact eq_padSegment_of_mem hkey hc hclt

end Sys2Proof.Machine
end

section
/-!
Proofs about fused collectives and ring instructions at their issue (R126, R133, R158, R162): how each opens its exchange.
-/

namespace Sys2Proof.Machine

/-! ## What an instruction of an exchange claims (R51, R80) -/

/-- A ring instruction's packet claims no tiles. -/
theorem State.claimTiles_of_ring (s : State) {i : Inst} (hr : isRing i.pkt.opcode = true) (hs : i.stages = []) : s.claimTiles i = (s, i) := by
  have hop : i.pkt.opcode = 0x1C ∨ i.pkt.opcode = 0x1D := by simpa [isRing] using hr
  have hdyn : i.pkt.dynamic = false := by rcases hop with h | h <;> simp [Pkt.dynamic, h]
  simp [State.claimTiles, hdyn, hs]

theorem State.collEntry_claimTiles (s : State) (i : Inst) : (s.claimTiles i).1.collEntry (s.claimTiles i).2 = s.collEntry i := by
  unfold State.claimTiles
  split <;> rfl

theorem State.claimTiles_part (s : State) (i : Inst) : (s.claimTiles i).2.part = i.part := by
  obtain ⟨cl, hcl⟩ := s.claimTiles_i i
  rw [hcl]

/-! ## The effect at issue -/

theorem not_coll_of_ring {op : Nat} (h : isRing op = true) : isColl op = false := by
  have hop : op = 0x1C ∨ op = 0x1D := by simpa [isRing] using h
  rcases hop with rfl | rfl <;> rfl

section

variable {s u : State} {q op p : Nat} {i : Inst} {k : Pkt} {sc : Option Scene} {e : Nat × CompanyEntry}

/-- A fused collective that passes opens its exchange. -/
theorem Passes.launch_coll (h : Passes s q op u i p k sc) (hk : isColl k.opcode = true) {c : Coll} (hc : i.coll = some c)
    (he : u.collEntry i = some e) :
    u.launch i = (u.claimTiles i).1.startColl (u.claimTiles i).2 ((u.claimTiles i).1.collHead (u.claimTiles i).2 e c.seq) := by
  obtain ⟨cl, hcl⟩ := u.claimTiles_i i
  have hpkt : (u.claimTiles i).2.pkt = k := by rw [hcl]; exact h.pkt
  have hstages : (u.claimTiles i).2.stages = [] := by rw [hcl]; exact h.stages
  have hcoll : (u.claimTiles i).2.coll = some c := by rw [hcl]; exact hc
  have hentry : (u.claimTiles i).1.collEntry (u.claimTiles i).2 = some e := (u.collEntry_claimTiles i).trans he
  simp [State.launch, h.wait, hstages, hpkt, hk, hcoll, hentry]

/-- A ring instruction that passes starts its ring. -/
theorem Passes.launch_ring (h : Passes s q op u i p k sc) (hk : isRing k.opcode = true) {r : Ring} (hr : i.ring = some r)
    (he : u.ringEntry i = some e) : u.launch i = u.startRing i e r.seq := by
  have hop : isRing i.pkt.opcode = true := by rw [h.pkt]; exact hk
  simp only [State.launch, h.wait, u.claimTiles_of_ring hop h.stages]
  simp [h.stages, not_coll_of_ring hop, hop, hr, he]

end

/-! ## The start of a ring (R126, R133) -/

theorem State.startRing_of_readEvent {s : State} {i : Inst} (h : s.ringReadEvent i ≠ 0) (e : Nat × CompanyEntry) (seq : Nat) :
    s.startRing i e seq = s.failRing i (s.ringHead i e seq) (s.ringReadEvent i) := if_pos h

theorem State.startRing_of_reads {s : State} {i : Inst} (h : s.ringReadEvent i = 0) (e : Nat × CompanyEntry) (seq : Nat) :
    let x := s.ringOf i e (s.ringHead i e seq)
    let x := { x with dRow := if i.isBwd then s.localPhase i x.rows.length else [] }
    let t := match i.aux 2 with
      | some d => s.undefineExtent (s.fnOf i) [] d.toExtent
      | none => s
    s.startRing i e seq = (t.setInst { i with ring := some x, wait := .ring }).releaseRing i.part x.company seq := if_neg (not_not_intro h)

/-! ## READY of a leaf of the closing tree (R162) -/

/-- A leaf that has not reported sends READY to its parent, with the sums of its edges. -/
theorem State.tryReady_of_leaf (s : State) (i : Inst) {c : Coll} {r : Nat} (hparent : treeParent c.rank = some r)
    (hleaf : treeChildren c.rank c.size = []) (hsent : c.readySent = false) (hzero : c.zeroHeld = false) :
    s.tryReady i c =
      (s.sendColl (c.party i.part) r hReady [] ((c.sendSum + c.edges.1) % 2 ^ 32) ((c.recvSum + c.edges.2) % 2 ^ 32)).setInst
        { i with coll := some { c with readySent := true, readyCue := s.time.cue } } := by
  simp [State.tryReady, hparent, hleaf, hsent, hzero]

/-- Settles O14: the effect that begins at issue is the exchange's start, of a collective or of a ring. -/
theorem exchangeRowsComplete : Obligations.ExchangeRowsComplete := by
  refine ⟨fun row hrow s u q i p k sc e h hpeer => ⟨fun c hk hc he => ?coll, fun r hk hr he => ⟨fun hread => ?starts, fun hread => ?fails⟩⟩,
    fun s i c r hparent hleaf hsent hzero => s.tryReady_of_leaf i hparent hleaf hsent hzero⟩
  case coll =>
    intro z d j
    rw [exec_of_passes hrow h hpeer, h.launch_coll hk hc he, ← u.claimTiles_part i]
    rfl
  case starts =>
    rw [exec_of_passes hrow h hpeer, h.launch_ring hk hr he]
    exact congrArg (fun t : State => Host.Outcome.next t.settle) (State.startRing_of_reads hread e r.seq)
  case fails =>
    rw [exec_of_passes hrow h hpeer, h.launch_ring hk hr he, State.startRing_of_readEvent hread]

end Sys2Proof.Machine
end

section
/-!
Proofs about a step (R183, R359): what every command keeps, and with it every step.
-/

namespace Sys2Proof.Machine

/-! ## The step function -/

theorem step_of_empty {s : State} (h : s.pending = []) : step s = .next s := by
  unfold step
  rw [h]

theorem step_of_front {s : State} {c : Instr} {rest : List Instr} (h : s.pending = c :: rest) : step s = exec c s.takeFront := by
  unfold step
  rw [h]

theorem State.takeFront_canonical {s : State} (h : s.canonical) : s.takeFront.canonical :=
  State.canonical_same h rfl rfl rfl rfl rfl rfl rfl rfl rfl rfl rfl rfl

/-! ## What every command keeps -/

/-- One arm for each command, as the command switch has. -/
theorem exec_keeps (c : Instr) {s t : State} (hexec : exec c s = .next t) : Keeps s t :=
  match c with
  | .nop q => execNop_keeps q hexec
  | .sceneBegin q => execSceneBegin_keeps q hexec
  | .sceneBeginRetire q => execSceneBeginRetire_keeps q hexec
  | .sceneEnd q => execSceneEnd_keeps q hexec
  | .sceneEndRetire q => execSceneEndRetire_keeps q hexec
  | .sceneRun p => execSceneRun_keeps p hexec
  | .preemptOk q => execPreemptOk_keeps q hexec
  | .chain q => execChain_keeps q hexec
  | .chainPortCredit port => execChainPortCredit_keeps port hexec
  | .gateAcq q => execGateAcq_keeps q hexec
  | .gateAcqGrant p g => execGateAcqGrant_keeps p g hexec
  | .gateRel q => execGateRel_keeps q hexec
  | .hurdle q => execHurdle_keeps q hexec
  | .hurdleGenerationComplete p h => execHurdleGenerationComplete_keeps p h hexec
  | .cueStamp q => execCueStamp_keeps q hexec
  | .propRead q => execPropRead_keeps q hexec
  | .queueResume q => execQueueResume_keeps q hexec
  | .mma q => execMma_keeps q hexec
  | .mmaSend q => execMmaSend_keeps q hexec
  | .mmaRsum q => execMmaRsum_keeps q hexec
  | .gatherMma q => execGatherMma_keeps q hexec
  | .a2aMma q => execA2aMma_keeps q hexec
  | .mmaA2a q => execMmaA2a_keeps q hexec
  | .conv q => execConv_keeps q hexec
  | .apronTileEnd die => execApronTileEnd_keeps die hexec
  | .attnFwd q => execAttnFwd_keeps q hexec
  | .attnBwd q => execAttnBwd_keeps q hexec
  | .ringStepBegin q => execRingStepBegin_keeps q hexec
  | .ringStepEnd q => execRingStepEnd_keeps q hexec
  | .ringData p hdr payload => execRingData_keeps p hdr payload hexec
  | .ringCredit p hdr => execRingCredit_keeps p hdr hexec
  | .ringDone p hdr => execRingDone_keeps p hdr hexec
  | .ringPoison p hdr => execRingPoison_keeps p hdr hexec
  | .ringAbsent p hdr => execRingAbsent_keeps p hdr hexec
  | .ringZero p hdr => execRingZero_keeps p hdr hexec
  | .ringSlipExpiry q fromNext => execRingSlipExpiry_keeps q fromNext hexec
  | .collReady p hdr => execCollReady_keeps p hdr hexec
  | .collGo p hdr => execCollGo_keeps p hdr hexec
  | .collOpen p hdr payload => execCollOpen_keeps p hdr payload hexec
  | .collCredit p hdr => execCollCredit_keeps p hdr hexec
  | .collData p hdr payload => execCollData_keeps p hdr payload hexec
  | .collDone p hdr => execCollDone_keeps p hdr hexec
  | .collClose p hdr => execCollClose_keeps p hdr hexec
  | .collPoison p hdr => execCollPoison_keeps p hdr hexec
  | .collZero p hdr => execCollZero_keeps p hdr hexec
  | .collAbsent p hdr => execCollAbsent_keeps p hdr hexec
  | .collSlipExpiry q rank => execCollSlipExpiry_keeps q rank hexec
  | .beacon port hdr => execBeacon_keeps port hdr hexec
  | .beaconSend => execBeaconSend_keeps hexec
  | .vadd q => execVadd_keeps q hexec
  | .vsub q => execVsub_keeps q hexec
  | .vmul q => execVmul_keeps q hexec
  | .vfma q => execVfma_keeps q hexec
  | .vmax q => execVmax_keeps q hexec
  | .vmin q => execVmin_keeps q hexec
  | .vcvt q => execVcvt_keeps q hexec
  | .vscale q => execVscale_keeps q hexec
  | .vrsum q => execVrsum_keeps q hexec
  | .vrmax q => execVrmax_keeps q hexec
  | .vrsqsum q => execVrsqsum_keeps q hexec
  | .exp q => execExp_keeps q hexec
  | .exp2 q => execExp2_keeps q hexec
  | .log q => execLog_keeps q hexec
  | .rcp q => execRcp_keeps q hexec
  | .rsqrt q => execRsqrt_keeps q hexec
  | .tanh q => execTanh_keeps q hexec
  | .sigmoid q => execSigmoid_keeps q hexec
  | .silu q => execSilu_keeps q hexec
  | .gelu q => execGelu_keeps q hexec
  | .sin q => execSin_keeps q hexec
  | .cos q => execCos_keeps q hexec
  | .gluAct q => execGluAct_keeps q hexec
  | .softmax q => execSoftmax_keeps q hexec
  | .rmsnorm q => execRmsnorm_keeps q hexec
  | .rope q => execRope_keeps q hexec
  | .kStepDone q index cluster ok => execKStepDone_keeps q index cluster ok hexec
  | .understudyRestart failed => execUnderstudyRestart_keeps failed hexec
  | .move q => execMove_keeps q hexec
  | .fill q => execFill_keeps q hexec
  | .gather q => execGather_keeps q hexec
  | .scatter q => execScatter_keeps q hexec
  | .push q => execPush_keeps q hexec
  | .pop q => execPop_keeps q hexec
  | .fifoUnitBegin q => execFifoUnitBegin_keeps q hexec
  | .workAreaPlace q => execWorkAreaPlace_keeps q hexec
  | .prefetch q => execPrefetch_keeps q hexec
  | .clean q => execClean_keeps q hexec
  | .runLoad q => execRunLoad_keeps q hexec
  | .runMark q => execRunMark_keeps q hexec
  | .runWait q => execRunWait_keeps q hexec
  | .runEntryDone q entry event => execRunEntryDone_keeps q entry event hexec
  | .atom q => execAtom_keeps q hexec
  | .atomCas q => execAtomCas_keeps q hexec
  | .optAdamw q => execOptAdamw_keeps q hexec
  | .optLion q => execOptLion_keeps q hexec
  | .optSgdm q => execOptSgdm_keeps q hexec
  | .sealWrite q => execSealWrite_keeps q hexec
  | .castLoad q => execCastLoad_keeps q hexec
  | .castRead q => execCastRead_keeps q hexec
  | .decodeAttn q => execDecodeAttn_keeps q hexec
  | .instructionRetire q => execInstructionRetire_keeps q hexec
  | .waitBudgetExpiry q => execWaitBudgetExpiry_keeps q hexec
  | .holdBudgetExpiry p => execHoldBudgetExpiry_keeps p hexec
  | .cueTick => execCueTick_keeps hexec
  | .cueInEdge => execCueInEdge_keeps hexec
  | .doorbell fn number value => execDoorbell_keeps fn number value hexec
  | .queueEnable q => execQueueEnable_keeps q hexec
  | .queueDisable q => execQueueDisable_keeps q hexec
  | .qctrlResume q => execQctrlResume_keeps q hexec
  | .parEnable p => execParEnable_keeps p hexec
  | .parEnableDone p => execParEnableDone_keeps p hexec
  | .parDisable p => execParDisable_keeps p hexec
  | .parReset p => execParReset_keeps p hexec
  | .parResetDone p => execParResetDone_keeps p hexec
  | .parLockAcq p agent => execParLockAcq_keeps p agent hexec
  | .parLockCommit p agent => execParLockCommit_keeps p agent hexec
  | .parLockAbort p agent => execParLockAbort_keeps p agent hexec
  | .lockLeaseExpiry p => execLockLeaseExpiry_keeps p hexec
  | .functionLevelReset fn => execFunctionLevelReset_keeps fn hexec
  | .d3hotEntry fn => execD3hotEntry_keeps fn hexec
  | .hotReset => execHotReset_keeps hexec
  | .perstNAssert => execPerstNAssert_keeps hexec
  | .perstNRise => execPerstNRise_keeps hexec
  | .porNAssert => execPorNAssert_keeps hexec
  | .coldStart straps => execColdStart_keeps straps hexec
  | .trstNAssert => execTrstNAssert_keeps hexec
  | .bar4Write fn offset data => execBar4Write_keeps fn offset data hexec
  | .bar4Read fn offset len => execBar4Read_keeps fn offset len hexec
  | .registerWrite who offset value => execRegisterWrite_keeps who offset value hexec
  | .loReadLatch who offset => execLoReadLatch_keeps who offset hexec
  | .snapGo => execSnapGo_keeps hexec
  | .tapSnap => execTapSnap_keeps hexec
  | .snapCapture => execSnapCapture_keeps hexec
  | .bookCommit => execBookCommit_keeps hexec
  | .bookCommitDone => execBookCommitDone_keeps hexec
  | .crcEnable => execCrcEnable_keeps hexec
  | .crcCommit => execCrcCommit_keeps hexec
  | .crcPassEnd => execCrcPassEnd_keeps hexec
  | .evtRingEnable => execEvtRingEnable_keeps hexec
  | .hbcEnable => execHbcEnable_keeps hexec
  | .cacEnable => execCacEnable_keeps hexec
  | .oxlEnable => execOxlEnable_keeps hexec
  | .pattern => execPattern_keeps hexec
  | .march => execMarch_keeps hexec
  | .traffic => execTraffic_keeps hexec
  | .rehearsalDone outcome => execRehearsalDone_keeps outcome hexec
  | .scrubSector chan addr outcome => execScrubSector_keeps chan addr outcome hexec
  | .cacheScrub slice way addr outcome => execCacheScrub_keeps slice way addr outcome hexec
  | .corrHourRollover => execCorrHourRollover_keeps hexec
  | .lsRowReplace cluster fault => execLsRowReplace_keeps cluster fault hexec
  | .clusterDeclaredFailed cluster => execClusterDeclaredFailed_keeps cluster hexec
  | .cacheWayReplace slice way => execCacheWayReplace_keeps slice way hexec
  | .hbmLaneRepair chan kind => execHbmLaneRepair_keeps chan kind hexec
  | .channelDrainStart chan => execChannelDrainStart_keeps chan hexec
  | .channelDrainDone => execChannelDrainDone_keeps hexec
  | .dataFrame port frame => execDataFrame_keeps port frame hexec
  | .linkFrame port frame fields => execLinkFrame_keeps port frame fields hexec
  | .idleFrame port frame => execIdleFrame_keeps port frame hexec
  | .frameAck port fseq => execFrameAck_keeps port fseq hexec
  | .frameNak port fseq => execFrameNak_keeps port fseq hexec
  | .frameReplayTimeout port fseq => execFrameReplayTimeout_keeps port fseq hexec
  | .linkCreditReturn port vc frames => execLinkCreditReturn_keeps port vc frames hexec
  | .laneSwapCommand port lane => execLaneSwapCommand_keeps port lane hexec
  | .laneSwapDone port => execLaneSwapDone_keeps port hexec
  | .laneFault port lane => execLaneFault_keeps port lane hexec
  | .rttProbe port probe => execRttProbe_keeps port probe hexec
  | .delayRemeasure => execDelayRemeasure_keeps hexec
  | .identityRecord port record => execIdentityRecord_keeps port record hexec
  | .cueReport port report => execCueReport_keeps port report hexec
  | .parentSilent => execParentSilent_keeps hexec
  | .portDetectPoll port signal => execPortDetectPoll_keeps port signal hexec
  | .equaliseDone port => execEqualiseDone_keeps port hexec
  | .equaliseTimeout port => execEqualiseTimeout_keeps port hexec
  | .laneCheckDone port good => execLaneCheckDone_keeps port good hexec
  | .lossOfLock port => execLossOfLock_keeps port hexec
  | .retrainDone port => execRetrainDone_keeps port hexec
  | .retrainTimeout port => execRetrainTimeout_keeps port hexec
  | .downTimer port => execDownTimer_keeps port hexec
  | .packetRoute origin packet => execPacketRoute_keeps origin packet hexec
  | .escWaitExpiry origin packet => execEscWaitExpiry_keeps origin packet hexec
  | .peerWrite src pseq part access data => execPeerWrite_keeps src pseq part access data hexec
  | .peerReadRequest src pseq part access len => execPeerReadRequest_keeps src pseq part access len hexec
  | .peerReadResponse src tag status data => execPeerReadResponse_keeps src tag status data hexec
  | .e2eAck src pseq status => execE2eAck_keeps src pseq status hexec
  | .peerTimeout q index => execPeerTimeout_keeps q index hexec
  | .mailboxGo box => execMailboxGo_keeps box hexec
  | .mailboxTimeout box => execMailboxTimeout_keeps box hexec
  | .ident box => execIdent_keeps box hexec
  | .telemCfg box => execTelemCfg_keeps box hexec
  | .ledgerRead box => execLedgerRead_keeps box hexec
  | .sharesSet box => execSharesSet_keeps box hexec
  | .channelReport box => execChannelReport_keeps box hexec
  | .portMargin box => execPortMargin_keeps box hexec
  | .imageWrite box => execImageWrite_keeps box hexec
  | .prompterLog box => execPrompterLog_keeps box hexec
  | .telemWrite box sampledAll => execTelemWrite_keeps box sampledAll hexec
  | .telemStale => execTelemStale_keeps hexec
  | .pmtKick who value => execPmtKick_keeps who value hexec
  | .watchdogExpiry => execWatchdogExpiry_keeps hexec
  | .prompterResetRelease => execPrompterResetRelease_keeps hexec
  | .prompterBootDone => execPrompterBootDone_keeps hexec
  | .tempSampleA place reading => execTempSampleA_keeps place reading hexec
  | .tempSampleB place reading => execTempSampleB_keeps place reading hexec
  | .sensorDisagree fold => execSensorDisagree_keeps fold hexec
  | .currentWarn reading => execCurrentWarn_keeps reading hexec
  | .currentLimit reading => execCurrentLimit_keeps reading hexec
  | .currentRestart die => execCurrentRestart_keeps die hexec
  | .currentSustained reading => execCurrentSustained_keeps reading hexec
  | .comparatorTest rail pass => execComparatorTest_keeps rail pass hexec
  | .flowAlarm sample => execFlowAlarm_keeps sample hexec
  | .flowTrip sample => execFlowTrip_keeps sample hexec
  | .flowZero sample => execFlowZero_keeps sample hexec
  | .flowMeterFail sample => execFlowMeterFail_keeps sample hexec
  | .leakSample cable ohms => execLeakSample_keeps cable ohms hexec
  | .bankTest sample => execBankTest_keeps sample hexec
  | .vholdLow sample => execVholdLow_keeps sample hexec
  | .lockstepMismatch => execLockstepMismatch_keeps hexec
  | .shepherdRestartDone => execShepherdRestartDone_keeps hexec
  | .vshpLoss => execVshpLoss_keeps hexec
  | .loopSettingRequest request => execLoopSettingRequest_keeps request hexec
  | .orderlyStopWithdrawn => execOrderlyStopWithdrawn_keeps hexec
  | .pwrfailNAssert => execPwrfailNAssert_keeps hexec
  | .railUndervoltage reading => execRailUndervoltage_keeps reading hexec
  | .curtainSaveDone => execCurtainSaveDone_keeps hexec
  | .vholdCollapse => execVholdCollapse_keeps hexec
  | .ledgerRecordDone => execLedgerRecordDone_keeps hexec
  | .shepherdSelfTestDone => execShepherdSelfTestDone_keeps hexec
  | .ledgerRecoveryDone => execLedgerRecoveryDone_keeps hexec
  | .railsEntry => execRailsEntry_keeps hexec
  | .vholdWaitTimeout => execVholdWaitTimeout_keeps hexec
  | .railGroupInRange => execRailGroupInRange_keeps hexec
  | .railGroupNextEnable => execRailGroupNextEnable_keeps hexec
  | .railGroupTimeout => execRailGroupTimeout_keeps hexec
  | .railRetry => execRailRetry_keeps hexec
  | .bringupDone outcome => execBringupDone_keeps outcome hexec
  | .absentReceived p absent => execAbsentReceived_keeps p absent hexec
  | .decisionCue p => execDecisionCue_keeps p hexec
  | .wingsCopyStart p => execWingsCopyStart_keeps p hexec
  | .wingsCopyDone p => execWingsCopyDone_keeps p hexec
  | .replayResume p => execReplayResume_keeps p hexec
  | .oxlDisable => execOxlDisable_keeps hexec
  | .hbcDisable => execHbcDisable_keeps hexec
  | .crcDisable => execCrcDisable_keeps hexec
  | .repairWork => execRepairWork_keeps hexec

/-- Settles O4: what a command keeps from the state with the queue's rest, a step keeps; an idle step changes nothing. -/
theorem everyStepKeepsCanonicalForm : Obligations.EveryStepKeepsCanonicalForm := by
  refine ⟨fun s t hs hstep => ?step, fun c s t hs hexec => (exec_keeps c hexec).canonical hs⟩
  case step =>
    cases hpending : s.pending with
    | nil =>
      obtain rfl : s = t := by simpa [step_of_empty hpending] using hstep
      exact ⟨hs, List.prefix_refl _, rfl, rfl⟩
    | cons c rest =>
      rw [step_of_front hpending] at hstep
      obtain ⟨hpart, hserial, _, hout, hcanonical⟩ := exec_keeps c hstep
      exact ⟨hcanonical (State.takeFront_canonical hs), hout, hpart, hserial⟩

end Sys2Proof.Machine
end

section
/-!
Proofs about the upkeep of rows, sectors, ways and stacks (R185, R186, R192, R193, R197, R214, R253, R255, R256): the replacement of a
row, a failure that waited, the scrubs, the hour's counts and the lines of a way.
-/

namespace Sys2Proof.Machine

/-! ## Rows of a local store (R185, R186) -/

theorem State.addPoison_eq_setMem (s : State) (tier k : Nat) : ∃ v, s.addPoison tier k = s.setMem v := by
  unfold State.addPoison State.setPoison
  split
  · exact ⟨s.mem, rfl⟩
  · split <;> exact ⟨_, rfl⟩

@[simp] theorem State.addPoison_spare (s : State) (tier k : Nat) : (s.addPoison tier k).spare = s.spare := by
  obtain ⟨_, h⟩ := s.addPoison_eq_setMem tier k
  rw [h, State.setMem_spare]

@[simp] theorem State.addPoison_ledg (s : State) (tier k : Nat) : (s.addPoison tier k).ledg = s.ledg := by
  obtain ⟨_, h⟩ := s.addPoison_eq_setMem tier k
  rw [h, State.setMem_ledg]

@[simp] theorem State.spared_mem (s : State) (u : RepairUnit) : (s.spared u).mem = s.mem := by
  obtain ⟨_, _, _, _, h⟩ := s.spared_eq u
  rw [h]; rfl

section

variable {s : State} {c row : Nat}

/-- A row of a cluster in service goes to a spare row while both the spares and the ledger's area have room. -/
theorem State.replaceRow_of_room (hf : c ∉ s.spare.failed) (hused : tblGet 0 s.spare.rowsUsed c < 48)
    (hroom : s.ledg.shadow.rowRepl.length < 8192) :
    s.replaceRow c row =
      let used := tblGet 0 s.spare.rowsUsed c
      let m := s.ledg.shadow
      ((s.setSpare { s.spare with rowsUsed := tblSet 0 s.spare.rowsUsed c (used + 1) }).setLedg
        { s.ledg with shadow := { m with rowRepl := m.rowRepl ++ [⟨c, used, row⟩] } }).spared (.cluster c) := by
  simp [State.replaceRow, hf, hused, hroom]

/-- With no room left, its cluster waits to be declared failed. -/
theorem State.replaceRow_of_full (hf : c ∉ s.spare.failed)
    (hfull : 48 ≤ tblGet 0 s.spare.rowsUsed c ∨ 8192 ≤ s.ledg.shadow.rowRepl.length) (hw : c ∉ s.spare.failing) :
    s.replaceRow c row = s.setSpare { s.spare with failing := s.spare.failing ++ [c] } := by
  have hno : ¬(tblGet 0 s.spare.rowsUsed c < 48 ∧ s.ledg.shadow.rowRepl.length < 8192) := by omega
  simp only [State.replaceRow, if_neg hno]
  simp [hf, hw]

theorem State.rowShows_uncorrectable (x : Fin 32) :
    s.rowShows c row (.uncorrectable x) =
      let t := s.addPoison tLocal ((c * localBytes + 512 * row) / 16 + x.val)
      (t.setMem { t.mem with rowBit := tblSet 0 t.mem.rowBit (c * 1536 + row) 0 }).replaceRow c row := rfl

/-- A corrected error of a row, with the count of its cluster raised: by the earlier error that the row showed, if any. -/
theorem State.rowShows_corrected (b : Fin 4096) :
    s.rowShows c row (.corrected b) =
      let k := c * 1536 + row
      let counted := s.setMem { s.mem with locCorr := tblSet 0 s.mem.locCorr c (tblGet 0 s.mem.locCorr c + 1) }
      if tblGet 0 s.mem.rowBit k = 0 then counted.setMem { counted.mem with rowBit := tblSet 0 counted.mem.rowBit k (b.val + 1) }
      else if tblGet 0 s.mem.rowBit k = b.val + 1 then counted
      else (counted.setMem { counted.mem with rowBit := tblSet 0 counted.mem.rowBit k 0 }).replaceRow c row := rfl

end

/-! ## A cluster that waited to be declared failed (R186, R255, R256) -/

theorem State.declareOut_of_waiting {s : State} {c : Nat} (hc : c ∈ s.spare.failing)
    (hidle : ∀ p ∈ s.foldOwners (c / 66), s.runningScene p = none) :
    s.declareOut c =
      let d := s.declareFailed c
      match d.2.1 with
      | some u => (d.1.takeOver c u).undefine tLocal u 0 localBytes
      | none => if d.2.2 then d.1.deplete (c / 66) else d.1 := by
  refine if_pos (Bool.and_eq_true_iff.mpr ⟨List.contains_iff_mem.mpr hc, List.all_eq_true.mpr fun p hp => ?_⟩)
  rw [hidle p hp]
  rfl

/-! ## Scrubs (R192, R197, R214) -/

section

variable {s : State}

theorem State.scrub_of_enabled {a : Nat} (hen : s.flag F.hbcCtrlEn = true) (hscrub : s.flag F.hbcCtrlScrubEn = true) (ha : a < s.capacity)
    (c : Nat) (o : ScrubOutcome) :
    s.scrub c a o = match o with
      | .clean => s
      | .corrected => s.corrected c
      | .uncorrectable =>
        let d := s.drawNat
        let t := ((d.2.addPoison tStacked (a / 64)).setFld F.hbcRehFailChannel c).setFld F.hbcRehFailPseudo (d.1 % 2)
        ((t.setFld F.hbcRehFailBank (d.1 / 2 % 64)).setFld F.hbcRehFailRow (d.1 / 128 % 65536)).raiseGlobal Ev.scrubUncorr c := by
  have hgo : ¬(s.flag F.hbcCtrlEn = false ∨ s.flag F.hbcCtrlScrubEn = false ∨ s.capacity ≤ a) := by simp [hen, hscrub, ha]
  refine (if_neg hgo).trans ?_
  cases o <;> rfl

/-- A channel's count of corrected errors stands in a register of its own, apart from the limit. -/
theorem State.corrRate_countFld (h : s.canonical) (c : Nat) :
    (s.countFld (F.hbcChstatCorr c) 1).fld F.hbcLimitsCorrRate = s.fld F.hbcLimitsCorrRate :=
  State.fld_setFld_other _ _ _ _ h.regs.1.1 (by simp only [F.hbcLimitsCorrRate, F.hbcChstatCorr, Reg.addr]; omega)

theorem State.corrected_eq (h : s.canonical) (c : Nat) :
    s.corrected c =
      let n := s.countFld (F.hbcChstatCorr c) 1
      if s.fld F.hbcLimitsCorrRate ≤ n.fld (F.hbcChstatCorr c) then n.beyondRepair c else n := by
  rw [← State.corrRate_countFld h c]
  rfl

theorem State.scrubLine_of_enabled (hen : s.flag F.cacCtrlEn = true) (hscrub : s.flag F.cacCtrlScrubEn = true) (slice way a : Nat)
    (o : ScrubOutcome) :
    s.scrubLine slice way a o = match o with
      | .clean => s
      | .corrected =>
        s.setMem { s.mem with wayCorr := tblSet 0 s.mem.wayCorr (slice * 18 + way) (tblGet 0 s.mem.wayCorr (slice * 18 + way) + 1) }
      | .uncorrectable => s.poisonLine way a := by
  have hgo : ¬(s.flag F.cacCtrlEn = false ∨ s.flag F.cacCtrlScrubEn = false) := by simp [hen, hscrub]
  refine (if_neg hgo).trans ?_
  cases o <;> rfl

section

variable {way a : Nat}

theorem State.poisonLine_of_direct (hway : way < s.directWays) (ha : a < s.directBytes) :
    s.poisonLine way a = (s.addPoison tCache (a / 8)).setFld F.cacStatusPoisonSeen 1 := by
  rw [State.poisonLine, if_pos hway, if_pos ha]

theorem State.poisonLine_of_dirty (hway : s.directWays ≤ way) (hdirty : ∃ l ∈ s.mem.lines, l.line = a / 64 ∧ l.dirty = true) :
    s.poisonLine way a =
      (s.setMem { s.mem with linePoison := a / 8 :: s.mem.linePoison.filter (· != a / 8) }).setFld F.cacStatusPoisonSeen 1 := by
  rw [State.poisonLine, if_neg hway.not_gt, if_pos (by simpa [List.any_eq_true] using hdirty)]

theorem State.poisonLine_of_clean (hway : s.directWays ≤ way) (hclean : ∀ l ∈ s.mem.lines, l.line = a / 64 → l.dirty = false) :
    s.poisonLine way a = s := by
  rw [State.poisonLine, if_neg hway.not_gt, if_neg (by simpa [List.any_eq_true] using hclean)]

end

end

/-! ## The hour's counts (R197, R214) -/

/-- Fields of registers at offsets of their own, each written 0, all read 0. -/
theorem State.fld_over_setFld_zero {s : State} (h : s.regs.file.Pairwise fun x y => x.1 < y.1) {l : List Nat} {f : Nat → Fld}
    (hf : ∀ c, (f c).lo + (f c).len ≤ 32) (haddr : ∀ c d, c ≠ d → (f c).reg.addr ≠ (f d).reg.addr) {c : Nat}
    (hc : c ∈ l ∨ s.fld (f c) = 0) : (s.over l fun s c => s.setFld (f c) 0).fld (f c) = 0 := by
  induction l generalizing s with
  | nil => exact hc.resolve_left List.not_mem_nil
  | cons d l ih =>
    refine ih (State.setFld_sorted _ _ _ h) ?_
    by_cases hd : c = d
    · subst hd
      exact .inr ((State.fld_setFld_same _ _ _ h (hf c)).trans (Nat.zero_mod _))
    · rw [State.fld_setFld_other _ _ _ _ h (haddr c d hd)]
      exact hc.imp_left fun hc => (List.mem_cons.mp hc).resolve_left hd

/-! ## The lines of a way (R187, R192) -/

/-- Lines of a slice out of ls, no two of which compete for one set. -/
def OneOfEachSet (slice : Nat) (ls out : List CacheLine) : Prop :=
  (∀ l ∈ out, l ∈ ls ∧ sliceOf l.line = slice) ∧ out.Pairwise fun x y => sameSet x.line y.line = false

theorem OneOfEachSet.nil (slice : Nat) (ls : List CacheLine) : OneOfEachSet slice ls [] := ⟨by simp, List.Pairwise.nil⟩

/-- A line of the slice that competes with none of them may join. -/
theorem OneOfEachSet.snoc {slice : Nat} {ls out : List CacheLine} (h : OneOfEachSet slice ls out) {l : CacheLine} (hl : l ∈ ls)
    (hslice : sliceOf l.line = slice) (hapart : ∀ x ∈ out, sameSet x.line l.line = false) : OneOfEachSet slice ls (out ++ [l]) := by
  obtain ⟨hmem, hpair⟩ := h
  refine ⟨fun x hx => ?_, List.pairwise_append.mpr ⟨hpair, List.pairwise_singleton _ _, fun x hx y hy => ?_⟩⟩
  · rcases List.mem_append.mp hx with hx | hx
    · exact hmem x hx
    · obtain rfl := List.mem_singleton.mp hx
      exact ⟨hl, hslice⟩
  · obtain rfl := List.mem_singleton.mp hy
    exact hapart x hx

theorem wayLines_oneOfEachSet (free slice : Nat) (ls : List CacheLine) : OneOfEachSet slice ls (wayLines free slice ls) := by
  refine List.foldlRecOn ls _ (OneOfEachSet.nil slice ls) fun out hout l hl => ?_
  split
  next hjoin =>
    obtain ⟨hslice, -, hapart⟩ := hjoin
    exact hout.snoc hl hslice fun x hx => by simpa using List.all_eq_true.mp hapart x hx
  next => exact hout

/-! ## Ways and stacks (R192, R193, R253) -/

theorem State.replaceWay_of_limit {s : State} {slice way : Nat} (hin : slice * 18 + way ∉ s.mem.waysOut)
    (hlimit : s.fld F.cacLimitsWayCorr ≤ tblGet 0 s.mem.wayCorr (slice * 18 + way)) :
    s.replaceWay slice way =
      let k := slice * 18 + way
      let left : Fld := ⟨.cacStatus, 2 * slice, 2⟩
      let t := if s.fld left = 0 then s.countFld F.cacStatusMappedWays 1 else s.setFld left (s.fld left - 1)
      let gone := if way < t.directWays then [] else wayLines s.free slice s.mem.lines
      ((t.setFree (s.free + 2 ^ 40)).setMem { t.mem with
        waysOut := t.mem.waysOut ++ [k], wayCorr := tblSet 0 t.mem.wayCorr k 0
        lines := t.mem.lines.filter fun l => !gone.contains l }).spared (.slice slice) := by
  refine (if_neg (not_or.mpr ⟨by simpa using hin, hlimit.not_gt⟩)).trans ?_
  dsimp only
  split <;> rfl

theorem State.stackRepair_of_service {s : State} {c : Nat} (h : s.fld (F.hbcChstatState c) = 0) (k : HbmRepair) :
    s.stackRepair c k = (match k with
      | .lane => s.laneRepaired c
      | .row => s.rowRepaired c).spared (.channel c) := by
  refine (if_neg (not_not_intro h)).trans ?_
  cases k <;> rfl

/-! ## The statement -/

/-- Settles O38: a row's error, a failure that waited, the scrubs, the hour, a way and a stack's repair, each by the lemma of its meaning. -/
theorem repairAndScrubRowsComplete : Obligations.RepairAndScrubRowsComplete := by
  refine ⟨⟨fun s u _ => ⟨s.spared_sparedBy u, s.spared_mem u, s.spared_insts u⟩, fun s u c row e hf hu => ?rows,
      fun s c row b => ⟨?again, ?first⟩⟩,
    fun s c hc hidle => ⟨fun u hu => ?understudy, fun hnone => ?none⟩, declareFailedActs, depleteActs,
    fun s chan a hen hscrub ha => ⟨fun hlt hs => ?counted, fun hle hs => ?beyond, ?cleanSector, ?poisonedSector⟩,
    fun s slice way a hen hscrub => ⟨?cleanLine, ?countedLine, fun hway ha => ?direct, fun hway hd => ?dirty, fun hway hc => ?cleanPoison⟩,
    fun s hs => ?hour, fun s slice way hin hlimit => ?way, wayLines_oneOfEachSet, fun s chan h => ⟨?lane, ?row⟩⟩
  case rows =>
    have hshows : s.rowShows c.val row.val e = u.replaceRow c.val row.val ∧ u.spare = s.spare ∧ u.ledg = s.ledg := by
      cases e with
      | uncorrectable x =>
        subst hu
        exact ⟨State.rowShows_uncorrectable x, State.addPoison_spare _ _ _, State.addPoison_ledg _ _ _⟩
      | corrected b =>
        obtain ⟨hold, hother, rfl⟩ := hu
        exact ⟨(State.rowShows_corrected b).trans ((if_neg hold).trans (if_neg hother)), rfl, rfl⟩
    obtain ⟨hrow, hspare, hledg⟩ := hshows
    have hexec : exec (.lsRowReplace c ⟨row, e⟩) s = .next (u.replaceRow c.val row.val) := congrArg Host.Outcome.next hrow
    rw [hexec, ← hspare, ← hledg]
    rw [← hspare] at hf
    exact ⟨fun hused hroom => congrArg Host.Outcome.next (State.replaceRow_of_room hf hused hroom),
      fun hfull hw => congrArg Host.Outcome.next (State.replaceRow_of_full hf hfull hw)⟩
  case again =>
    intro hold
    have hne : ¬tblGet 0 s.mem.rowBit (c.val * 1536 + row.val) = 0 := by omega
    exact congrArg Host.Outcome.next ((State.rowShows_corrected b).trans ((if_neg hne).trans (if_pos hold)))
  case first => exact fun hnone => congrArg Host.Outcome.next ((State.rowShows_corrected b).trans (if_pos hnone))
  case understudy => exact congrArg Host.Outcome.next ((State.declareOut_of_waiting hc hidle).trans (by simp only [hu]))
  case none => exact congrArg Host.Outcome.next ((State.declareOut_of_waiting hc hidle).trans (by simp only [hnone]))
  case counted =>
    refine congrArg (fun t : State => Host.Outcome.next t.settle) ((State.scrub_of_enabled hen hscrub ha _ _).trans ?_)
    exact (State.corrected_eq hs _).trans (if_neg hlt.not_ge)
  case beyond =>
    refine congrArg (fun t : State => Host.Outcome.next t.settle) ((State.scrub_of_enabled hen hscrub ha _ _).trans ?_)
    exact (State.corrected_eq hs _).trans (if_pos hle)
  case cleanSector => exact congrArg (fun t : State => Host.Outcome.next t.settle) (State.scrub_of_enabled hen hscrub ha _ _)
  case poisonedSector => exact congrArg (fun t : State => Host.Outcome.next t.settle) (State.scrub_of_enabled hen hscrub ha _ _)
  case cleanLine => exact congrArg Host.Outcome.next (State.scrubLine_of_enabled hen hscrub _ _ _ _)
  case countedLine => exact congrArg Host.Outcome.next (State.scrubLine_of_enabled hen hscrub _ _ _ _)
  case direct =>
    exact congrArg Host.Outcome.next ((State.scrubLine_of_enabled hen hscrub _ _ _ _).trans (State.poisonLine_of_direct hway ha))
  case dirty =>
    exact congrArg Host.Outcome.next ((State.scrubLine_of_enabled hen hscrub _ _ _ _).trans (State.poisonLine_of_dirty hway hd))
  case cleanPoison =>
    exact congrArg Host.Outcome.next ((State.scrubLine_of_enabled hen hscrub _ _ _ _).trans (State.poisonLine_of_clean hway hc))
  case hour =>
    let t := s.setMem { s.mem with wayCorr := [] }
    have hexec : exec .corrHourRollover s = .next (t.over (List.range 384) fun s c => s.setFld (F.hbcChstatCorr c) 0) := rfl
    have hmem := State.view_over (f := fun s c => s.setFld (F.hbcChstatCorr c) 0) State.mem (fun _ _ => rfl) t (List.range 384)
    refine ⟨_, hexec, by rw [hmem]; rfl, fun c hc => ?_⟩
    refine State.fld_over_setFld_zero (s := t) (f := F.hbcChstatCorr) hs.regs.1.1 (fun c => ?_) (fun c d hne => ?_) (.inl (List.mem_range.mpr hc))
    · simp [F.hbcChstatCorr]
    · simp only [F.hbcChstatCorr, Reg.addr]; omega
  case way =>
    exact congrArg Host.Outcome.next (State.replaceWay_of_limit hin hlimit)
  case lane => exact congrArg Host.Outcome.next (State.stackRepair_of_service h .lane)
  case row => exact congrArg Host.Outcome.next (State.stackRepair_of_service h .row)

end Sys2Proof.Machine
end

section
/-!
Proofs about what leaves the channels of stacked memory alone (R197, R253): the sparing state and the registers of HBC, through messages,
the early end of an instruction, a reset and a withdrawal.
-/

namespace Sys2Proof.Machine

/-! ## A register's word after another register's -/

/-- What a table holds at a key, whatever its order, is not changed by a change at another key. -/
theorem tblGet_tblSet_ne {α : Type} [DecidableEq α] (d e : α) (t : List (Nat × α)) {a b : Nat} (v : α) (h : b ≠ a) :
    tblGet d (tblSet e t a v) b = tblGet d t b := by
  induction t with
  | nil => by_cases hv : v = e <;> simp [tblSet, tblGet, hv, h.symm]
  | cons c t ih =>
    obtain ⟨k, w⟩ := c
    unfold tblSet
    split
    · split
      · rfl
      · exact if_neg h.symm
    · split
      next hk =>
        subst hk
        have hskip : tblGet d ((a, w) :: t) b = tblGet d t b := if_neg h.symm
        split
        · exact hskip.symm
        · exact (if_neg h.symm).trans hskip.symm
      next => simp only [tblGet, ih]

theorem State.word_setFld_ne {s : State} {x : Fld} {r : Reg} (v : Nat) (h : r.addr ≠ x.reg.addr) : (s.setFld x v).word r = s.word r :=
  tblGet_tblSet_ne _ _ _ _ h

/-! ## The sparing state and the registers of stacked memory -/

/-- The offsets of the registers HBC, block 8 of 2^16 bytes (R377). -/
def Reg.ofHbc (r : Reg) : Prop := r.addr / 2 ^ 16 = 8

/-- What the state holds about the channels: the sparing state, and the words of HBC. -/
structure ChannelView where
  spare : SpareState
  word : {r : Reg // r.ofHbc} → Word32

def State.channels (s : State) : ChannelView := ⟨s.spare, fun r => s.word r.val⟩

section

variable {s t : State}

theorem State.spare_of_channels (h : s.channels = t.channels) : s.spare = t.spare := congrArg ChannelView.spare h

theorem State.word_of_channels (h : s.channels = t.channels) {r : Reg} (hr : r.ofHbc) : s.word r = t.word r :=
  congrFun (congrArg ChannelView.word h) ⟨r, hr⟩

theorem State.fld_of_channels (h : s.channels = t.channels) {x : Fld} (hx : x.reg.ofHbc) : s.fld x = t.fld x := by
  rw [State.fld, State.fld, State.word_of_channels h hx]

end

theorem State.channels_setFld {x : Fld} (hx : ¬x.reg.ofHbc) (s : State) (v : Nat) : (s.setFld x v).channels = s.channels := by
  refine congrArg (ChannelView.mk s.spare) (funext fun r => State.word_setFld_ne v fun h => hx ?_)
  rw [Reg.ofHbc, ← h]
  exact r.property

/-! ## Setters -/

/-- The sparing state and the register file are all that the view reads, beside the ordering number that the reset values depend on. -/
theorem State.channels_congr {s t : State} (hpart : t.part = s.part) (hspare : t.spare = s.spare) (hregs : t.regs = s.regs) :
    t.channels = s.channels := by
  simp only [State.channels, State.word, hpart, hspare, hregs]

section

variable (s : State)

@[simp] theorem State.channels_setMem (v : MemState) : (s.setMem v).channels = s.channels := State.channels_congr rfl rfl rfl
@[simp] theorem State.channels_setComp (v : CompanyState) : (s.setComp v).channels = s.channels := State.channels_congr rfl rfl rfl
@[simp] theorem State.channels_setLink (v : LinkState) : (s.setLink v).channels = s.channels := State.channels_congr rfl rfl rfl
@[simp] theorem State.channels_setHost (v : HostState) : (s.setHost v).channels = s.channels := State.channels_congr rfl rfl rfl
@[simp] theorem State.channels_setProm (v : PromptState) : (s.setProm v).channels = s.channels := State.channels_congr rfl rfl rfl
@[simp] theorem State.channels_setLedg (v : LedgState) : (s.setLedg v).channels = s.channels := State.channels_congr rfl rfl rfl
@[simp] theorem State.channels_setFree (v : Nat) : (s.setFree v).channels = s.channels := State.channels_congr rfl rfl rfl
@[simp] theorem State.channels_setQueues (v : List (Nat × Queue)) : (s.setQueues v).channels = s.channels := State.channels_congr rfl rfl rfl
@[simp] theorem State.channels_setInsts (v : List Inst) : (s.setInsts v).channels = s.channels := State.channels_congr rfl rfl rfl
@[simp] theorem State.channels_setInst (i : Inst) : (s.setInst i).channels = s.channels := State.channels_congr rfl rfl rfl
@[simp] theorem State.channels_dropInst (q i : Nat) : (s.dropInst q i).channels = s.channels := State.channels_congr rfl rfl rfl
@[simp] theorem State.channels_setQueue (q : Nat) (v : Queue) : (s.setQueue q v).channels = s.channels := State.channels_congr rfl rfl rfl
@[simp] theorem State.channels_setPartition (p : Nat) (v : Partition) : (s.setPartition p v).channels = s.channels := State.channels_congr rfl rfl rfl
@[simp] theorem State.channels_setGate (p g : Nat) (v : Gate) : (s.setGate p g v).channels = s.channels := State.channels_congr rfl rfl rfl
@[simp] theorem State.channels_setScene (p : Nat) (v : Scene) : (s.setScene p v).channels = s.channels := State.channels_congr rfl rfl rfl
@[simp] theorem State.channels_setPeerPair (n : Nat) (v : Pair) : (s.setPeerPair n v).channels = s.channels := State.channels_congr rfl rfl rfl
@[simp] theorem State.channels_setChainPort (n : Nat) (v : ChainPort) : (s.setChainPort n v).channels = s.channels := State.channels_congr rfl rfl rfl
@[simp] theorem State.channels_emit (o : Out) : (s.emit o).channels = s.channels := State.channels_congr rfl rfl rfl
@[simp] theorem State.channels_addRelay (r : Relay) : (s.addRelay r).channels = s.channels := State.channels_congr rfl rfl rfl
@[simp] theorem State.channels_drawNat : s.drawNat.2.channels = s.channels := State.channels_congr rfl rfl rfl
@[simp] theorem State.channels_hubEvent (e : HistoryEntry) : (s.hubEvent e).channels = s.channels := State.channels_congr rfl rfl rfl
@[simp] theorem State.channels_writeHost (fn a : Nat) (bs : Bytes) : (s.writeHost fn a bs).channels = s.channels := State.channels_congr rfl rfl rfl

end

@[simp] theorem State.channels_over {α : Type} {f : State → α → State} (h : ∀ s x, (f s x).channels = s.channels) (s : State) (l : List α) :
    (s.over l f).channels = s.channels := State.view_over State.channels h s l

@[simp] theorem State.channels_when {f : State → State} (h : ∀ s, (f s).channels = s.channels) (s : State) (c : Prop) [Decidable c] :
    (s.when c f).channels = s.channels := by
  unfold State.when
  split
  · exact h s
  · rfl

/-! ## Registers of other blocks -/

section

variable (s : State)

@[simp] theorem State.channels_setQctrlEn (q v : Nat) : (s.setFld (F.queQctrlEn q) v).channels = s.channels :=
  State.channels_setFld (by simp only [Reg.ofHbc, F.queQctrlEn, Reg.addr]; omega) s v

@[simp] theorem State.channels_setLastEvent (q v : Nat) : (s.setLastEvent q v).channels = s.channels :=
  State.channels_setFld (by simp only [Reg.ofHbc, F.queQctrlLastEvent, Reg.addr]; omega) s v

@[simp] theorem State.channels_haltQueue (q : Nat) : (s.haltQueue q).channels = s.channels :=
  State.channels_setFld (by simp only [Reg.ofHbc, F.queQctrlHalted, Reg.addr]; omega) s 1

@[simp] theorem State.channels_setParState (p v : Nat) : (s.setFld (F.parStatusState p) v).channels = s.channels :=
  State.channels_setFld (by simp only [Reg.ofHbc, F.parStatusState, Reg.addr]; omega) s v

@[simp] theorem State.channels_setPhase (p v : Nat) : (s.setFld (F.parRstatusPhase p) v).channels = s.channels :=
  State.channels_setFld (by simp only [Reg.ofHbc, F.parRstatusPhase, Reg.addr]; omega) s v

@[simp] theorem State.channels_setTail (v : Nat) : (s.setFld F.pciEvtStatTail v).channels = s.channels :=
  State.channels_setFld (by simp [Reg.ofHbc, F.pciEvtStatTail, Reg.addr]) s v

@[simp] theorem State.channels_eventLost : s.eventLost.channels = s.channels :=
  State.channels_setFld (by simp [Reg.ofHbc, F.pciEvtStatLost, Reg.addr]) s _

@[simp] theorem State.channels_setLedgerBusy (v : Nat) : (s.setFld F.ldgStatusBusy v).channels = s.channels :=
  State.channels_setFld (by simp [Reg.ofHbc, F.ldgStatusBusy, Reg.addr]) s v

end

/-! ## Events and records (R237, R253, R301, R335) -/

section

variable (s : State)

@[simp] theorem State.channels_msix (fn entry : Nat) : (s.msix fn entry).channels = s.channels := by simp [State.msix]

@[simp] theorem State.channels_raiseVector (p v : Nat) : (s.raiseVector p v).channels = s.channels := by
  unfold State.raiseVector
  split
  · rfl
  · split <;> simp

@[simp] theorem State.channels_raiseEvent (p code : Nat) : (s.raiseEvent p code).channels = s.channels := by simp [State.raiseEvent]

@[simp] theorem State.channels_eventWrite (code unit detail cue : Nat) : (s.eventWrite code unit detail cue).channels = s.channels := by
  unfold State.eventWrite
  dsimp only
  split
  · simp
  · split <;> simp

@[simp] theorem State.channels_raiseGlobal (code unit : Nat) : (s.raiseGlobal code unit).channels = s.channels := by
  unfold State.raiseGlobal
  dsimp only
  repeat' split
  all_goals simp

@[simp] theorem State.channels_beginRecord (kind : Nat) : (s.beginRecord kind).channels = s.channels := by
  unfold State.beginRecord
  dsimp only
  repeat' split
  all_goals simp

@[simp] theorem State.channels_noteHistory (code unit : Nat) : (s.noteHistory code unit).channels = s.channels := State.channels_congr rfl rfl rfl

@[simp] theorem State.channels_recordSparing (unit : Nat) : (s.recordSparing unit).channels = s.channels := by simp [State.recordSparing]

@[simp] theorem State.channels_queueRepair (u : RepairUnit) : (s.queueRepair u).channels = s.channels := by
  unfold State.queueRepair
  split <;> simp

@[simp] theorem State.channels_spared (u : RepairUnit) : (s.spared u).channels = s.channels := by simp [State.spared]

end

/-! ## Messages (R145, R166, R266) -/

section

variable (s : State)

@[simp] theorem State.channels_sendPackets (node part k : Nat) (mk : Nat → Out) : (s.sendPackets node part k mk).channels = s.channels := by
  unfold State.sendPackets
  dsimp only
  split <;> simp

@[simp] theorem State.channels_sendCollTo (t : Party) (e : RosterEntry) (dst type : Nat) (payload : Bytes)
    (count unit reason absent node slot : Nat) (cue : Option Nat) (level : Nat) :
    (s.sendCollTo t e dst type payload count unit reason absent node slot cue level).channels = s.channels := by
  simp [State.sendCollTo]

@[simp] theorem State.channels_sendCollAll (t : Party) (ranks : List Nat) (type reason absent : Nat) (cue : Option Nat) :
    (s.sendCollAll t ranks type reason absent cue).channels = s.channels := by simp [State.sendCollAll, State.sendColl]

@[simp] theorem State.channels_sendRingBoth (p : Nat) (r : Ring) (type reason absent : Nat) :
    (s.sendRingBoth p r type reason absent).channels = s.channels := by simp [State.sendRingBoth, State.sendRing]

@[simp] theorem State.channels_poisonColl (p : Nat) (c : Coll) (reason : Nat) : (s.poisonColl p c reason).channels = s.channels := by
  simp [State.poisonColl]

@[simp] theorem State.channels_poisonInst (i : Inst) (reason : Nat) : (s.poisonInst i reason).channels = s.channels := by
  unfold State.poisonInst
  repeat' split
  all_goals simp

@[simp] theorem State.channels_leaveLater (i : Inst) (reason : Nat) : (s.leaveLater i reason).channels = s.channels := by
  simp [State.leaveLater]

@[simp] theorem State.channels_sendAbsent (p rank : Nat) : (s.sendAbsent p rank).channels = s.channels := by
  unfold State.sendAbsent
  split <;> simp

theorem State.channels_sendPeer (p rank addr : Nat) (bs : Bytes) : (s.sendPeer p rank addr bs).1.channels = s.channels := by
  unfold State.sendPeer
  dsimp only
  refine List.foldlRecOn (motive := fun acc : State × List (Nat × Nat × Nat) => acc.1.channels = s.channels) _ _ rfl fun acc hacc k _ => ?_
  simp [hacc]

end

/-! ## Writes of the tiers (R60, R185, R191) -/

section

variable (s : State)

@[simp] theorem State.channels_setTierMem (tier : Nat) (m : List Host.Cell) : (s.setTierMem tier m).channels = s.channels := by
  unfold State.setTierMem
  split <;> rfl

@[simp] theorem State.channels_setPoison (tier : Nat) (l : List Nat) : (s.setPoison tier l).channels = s.channels := by
  unfold State.setPoison
  split <;> rfl

@[simp] theorem State.channels_mend (tier : Nat) (keys : List Nat) : (s.mend tier keys).channels = s.channels := by
  unfold State.mend
  dsimp only
  split <;> simp

@[simp] theorem State.channels_writeCells (tier who : Nat) (cells : List (Nat × Byte)) : (s.writeCells tier who cells).channels = s.channels := by
  simp [State.writeCells]

@[simp] theorem State.channels_touch (hint : Nat) (write : Bool) (addrs : List Nat) : (s.touch hint write addrs).channels = s.channels := by
  unfold State.touch
  split <;> simp

@[simp] theorem State.channels_staleDescriptors (p : Nat) (addrs : List Nat) : (s.staleDescriptors p addrs).channels = s.channels := by
  unfold State.staleDescriptors
  split <;> simp

@[simp] theorem State.channels_writePart (p tier who hint : Nat) (cells : List (Nat × Byte)) :
    (s.writePart p tier who hint cells).channels = s.channels := by
  unfold State.writePart
  dsimp only
  split <;> simp

@[simp] theorem State.channels_undefine (tier who a n : Nat) : (s.undefine tier who a n).channels = s.channels :=
  State.channels_setTierMem _ _ _

@[simp] theorem State.channels_loseOuts (i : Inst) : (s.loseOuts i).channels = s.channels := by
  refine State.channels_over (fun t e => ?_) s _
  unfold State.undefineExtent
  repeat' split
  all_goals simp

end

/-! ## A partition's reset and the device's withdrawal (R245, R246, R258) -/

section

variable (s : State)

@[simp] theorem State.channels_releaseGate (p g : Nat) : (s.releaseGate p g).channels = s.channels := State.channels_congr rfl rfl rfl

@[simp] theorem State.channels_tagWord (p g : Nat) : (s.tagWord p g).channels = s.channels := by
  unfold State.tagWord
  dsimp only
  split <;> simp [State.writeTier]

@[simp] theorem State.channels_breakHolds (p : Nat) (hs : List Hold) : (s.breakHolds p hs).channels = s.channels := by
  simp [State.breakHolds, State.breakHold]

@[simp] theorem State.channels_breakPorts (p : Nat) : (s.breakPorts p).channels = s.channels := by simp [State.breakPorts]

@[simp] theorem State.channels_dropWaiters (p : Nat) : (s.dropWaiters p).channels = s.channels := State.channels_congr rfl rfl rfl

@[simp] theorem State.channels_zeroLocal (folds : List Nat) : (s.zeroLocal folds).channels = s.channels := State.channels_congr rfl rfl rfl

@[simp] theorem State.channels_zeroClaims (b : PartBlock) : (s.zeroClaims b).channels = s.channels := State.channels_congr rfl rfl rfl

@[simp] theorem State.channels_resetQueue (q : Nat) : (s.resetQueue q).channels = s.channels := by simp [State.resetQueue]

@[simp] theorem State.channels_abandonInst (i : Inst) : (s.abandonInst i).channels = s.channels := by
  unfold State.abandonInst
  dsimp only
  repeat' split
  all_goals simp

@[simp] theorem State.channels_resetWork (p : Nat) (disables : Bool) : (s.resetWork p disables).channels = s.channels := by
  simp [State.resetWork]

@[simp] theorem State.channels_dropPackets (p : Nat) : (s.dropPackets p).channels = s.channels := by simp [State.dropPackets]

@[simp] theorem State.channels_withdrawPart (p : Nat) : (s.withdrawPart p).channels = s.channels := by
  unfold State.withdrawPart
  dsimp only
  split <;> simp

@[simp] theorem State.channels_withdraw : s.withdraw.channels = s.channels := by
  unfold State.withdraw
  dsimp only
  split <;> simp

end

/-! ## An instruction's early end (R22, R85, R136, R166) -/

section

variable (s : State)

@[simp] theorem State.channels_noteEvent (p : Nat) (scene : Option Nat) (ev : Nat) : (s.noteEvent p scene ev).channels = s.channels := by
  unfold State.noteEvent
  repeat' split
  all_goals simp

@[simp] theorem State.channels_writeRecord (p q i : Nat) (rec : Bytes) : (s.writeRecord p q i rec).channels = s.channels := by
  unfold State.writeRecord
  dsimp only
  repeat' split
  all_goals simp

@[simp] theorem State.channels_cyclesSince (p start : Nat) : (s.cyclesSince p start).2.channels = s.channels := State.channels_congr rfl rfl rfl

@[simp] theorem State.channels_retireWith (i : Inst) (event count : Nat) (halts : Bool) :
    (s.retireWith i event count halts).channels = s.channels := by
  simp [State.retireWith]

@[simp] theorem State.channels_writeStatus (i : Inst) (d : Option Desc) (bs : Bytes) : (s.writeStatus i d bs).1.channels = s.channels := by
  unfold State.writeStatus
  split
  · rfl
  · dsimp only
    split
    · exact State.channels_sendPeer _ _ _ _ _
    · split <;> simp

@[simp] theorem State.channels_leaveGate (i : Inst) : (s.leaveGate i).channels = s.channels := by
  unfold State.leaveGate
  split <;> simp

@[simp] theorem State.channels_setPoint (i : Inst) (point : Option Nat) : (s.setPoint i point).channels = s.channels := by
  unfold State.setPoint
  split <;> simp

@[simp] theorem State.channels_endWith (i : Inst) (event : Nat) (poison : Bool) : (s.endWith i event poison).channels = s.channels := by
  unfold State.endWith
  dsimp only
  repeat' split
  all_goals simp [State.leavePoint, State.writeRingStatus, State.writeCollStatus, State.retire]

@[simp] theorem State.channels_endEarly (i : Inst) (event : Nat) : (s.endEarly i event).channels = s.channels :=
  State.channels_endWith _ _ _ _

end

end Sys2Proof.Machine
end

section
/-!
Proofs about Rehearsal (R213, R215, R336): the start of a run, what its end reports, and what it repairs and maps out.
-/

namespace Sys2Proof.Machine

/-! ## The start of a run (R213, R215) -/

@[simp] theorem State.channels_undefineCells (s : State) (tier : Nat) (which : Nat → Bool) : (s.undefineCells tier which).channels = s.channels :=
  State.channels_setTierMem _ _ _

/-- The rows that start a run, with their modes. -/
def rehearsalRows : List (Instr × Nat) := [(.pattern, 0), (.march, 1), (.traffic, 2)]

theorem exec_rehearsalRow {row : Instr} {mode : Nat} (h : (row, mode) ∈ rehearsalRows) {s : State} (hp : s.host.pcieUp = true) :
    exec row s = .next (s.rehearseMode mode) := by
  have hhost : s.byHost (·.rehearseMode mode) = s.rehearseMode mode := if_pos hp
  rw [← hhost]
  simp only [rehearsalRows, List.mem_cons, List.not_mem_nil, or_false] at h
  obtain ⟨rfl, rfl⟩ | ⟨rfl, rfl⟩ | ⟨rfl, rfl⟩ := h <;> rfl

section

variable {s : State}

theorem State.rehearseMode_of_enabled (hen : s.flag F.hbcCtrlEn = true) (mode : Nat) :
    s.rehearseMode mode = s.wignOther none Reg.hbcRehCtrl.addr :=
  (if_pos hen).trans (if_pos (.inl hen))

/-- A run begins while stacked memory is disabled, the bring-up sequencer has ended and no other run goes on. -/
theorem State.rehearse_of_ready (hen : s.flag F.hbcCtrlEn = false) (hboot : s.fld F.hubBootPhase ≠ 3) (hbusy : s.flag F.hbcRehStatusBusy = false)
    (hmode : s.fld F.hbcRehCtrlMode ≠ 3) :
    s.rehearse =
      let t := s.undefineCells tStacked fun a => s.flag F.hbcRehCtrlAll || s.maybeOn (s.fld F.hbcRehCtrlChannel) a
      let u := if s.fld F.hbcRehCtrlMode = 2 then t else t.setMem { t.mem with
        stackPoison := t.mem.stackPoison.filter fun k => !(s.flag F.hbcRehCtrlAll || k * 64 / 256 % 384 == s.fld F.hbcRehCtrlChannel) }
      u.setFld F.hbcRehStatusBusy 1 := by
  have hgo : ¬(s.flag F.hbcCtrlEn = true ∨ s.fld F.hubBootPhase = 3) := by simp [hen, hboot]
  have hfree : ¬(s.flag F.hbcRehStatusBusy = true ∨ s.fld F.hbcRehCtrlMode = 3) := by simp [hbusy, hmode]
  have hkept : ∀ which, (s.undefineCells tStacked which).fld F.hbcRehCtrlMode = s.fld F.hbcRehCtrlMode := fun which =>
    State.fld_of_channels (s.channels_undefineCells _ which) rfl
  refine (if_neg hgo).trans ((if_neg hfree).trans ?_)
  simp only [State.when, hkept, ne_eq, ite_not]

theorem State.rehearseMode_of_ready (hs : s.canonical) (hen : s.flag F.hbcCtrlEn = false) (hboot : s.fld F.hubBootPhase ≠ 3)
    (hbusy : s.flag F.hbcRehStatusBusy = false) {mode : Nat} (hmode : mode < 3) :
    s.rehearseMode mode =
      let m := s.setFld F.hbcRehCtrlMode mode
      let c := m.fld F.hbcRehCtrlChannel
      let t := m.undefineCells tStacked fun a => m.flag F.hbcRehCtrlAll || m.maybeOn c a
      let u := if mode = 2 then t else t.setMem { t.mem with
        stackPoison := t.mem.stackPoison.filter fun k => !(m.flag F.hbcRehCtrlAll || k * 64 / 256 % 384 == c) }
      u.setFld F.hbcRehStatusBusy 1 := by
  have hsorted := hs.regs.1.1
  have hm : (s.setFld F.hbcRehCtrlMode mode).fld F.hbcRehCtrlMode = mode :=
    (State.fld_setFld_same _ _ _ hsorted (by decide)).trans (Nat.mod_eq_of_lt (by simp only [F.hbcRehCtrlMode]; omega))
  have hother : ∀ x : Fld, x.reg.addr ≠ Reg.hbcRehCtrl.addr → (s.setFld F.hbcRehCtrlMode mode).fld x = s.fld x := fun x hx =>
    State.fld_setFld_other _ _ _ _ hsorted hx
  refine (if_neg (by simp [hen])).trans ((State.rehearse_of_ready ?_ ?_ ?_ ?_).trans ?_)
  · rw [State.flag, hother _ (by decide)]; exact hen
  · rw [hother _ (by decide)]; exact hboot
  · rw [State.flag, hother _ (by decide)]; exact hbusy
  · rw [hm]; omega
  · simp only [hm]

end

/-! ## Fields written one after another (R5) -/

/-- Two fields share no bit: they lie in registers at different offsets, or apart in one register. -/
def Fld.Apart (x y : Fld) : Prop := x.reg.addr ≠ y.reg.addr ∨ x.reg = y.reg ∧ (x.lo + x.len ≤ y.lo ∨ y.lo + y.len ≤ x.lo)

section

variable {s : State} (h : s.regs.file.Pairwise fun x y => x.1 < y.1) {y : Fld} (hy : y.lo + y.len ≤ 32)

include h hy

theorem State.fld_setFld_of_apart {x : Fld} (ha : x.Apart y) (v : Nat) : (s.setFld x v).fld y = s.fld y := by
  rcases ha with ha | ⟨hr, ha⟩
  · exact State.fld_setFld_other _ _ _ _ h ha.symm
  · exact State.fld_setFld_apart _ _ _ _ h hr.symm hy ha

theorem State.fld_setFlds_of_apart {l : List (Fld × Nat)} (ha : ∀ x ∈ l, x.1.Apart y) : (s.setFlds l).fld y = s.fld y := by
  induction l generalizing s with
  | nil => rfl
  | cons x l ih =>
    obtain ⟨hx, hl⟩ := List.forall_mem_cons.mp ha
    exact (ih (State.setFld_sorted _ _ _ h) hl).trans (State.fld_setFld_of_apart h hy hx _)

/-- Of fields apart from one another, each reads as what was written to it. -/
theorem State.fld_setFlds_of_mem {l : List (Fld × Nat)} (ha : (l.map (·.1)).Pairwise fun x z => z.Apart x) {v : Nat} (hv : (y, v) ∈ l) :
    (s.setFlds l).fld y = v % 2 ^ y.len := by
  induction l generalizing s with
  | nil => exact absurd hv List.not_mem_nil
  | cons x l ih =>
    obtain ⟨hx, hl⟩ := List.pairwise_cons.mp ha
    have hsorted := State.setFld_sorted s x.1 x.2 h
    rcases List.mem_cons.mp hv with rfl | hv
    · exact (State.fld_setFlds_of_apart hsorted hy fun z hz => hx _ (List.mem_map_of_mem hz)).trans (State.fld_setFld_same _ _ _ h hy)
    · exact ih hsorted hl hv

end

theorem State.setFlds_spare (s : State) (l : List (Fld × Nat)) : (s.setFlds l).spare = s.spare := by
  obtain ⟨v, h⟩ := s.setFlds_eq_setRegs l
  rw [h, State.setRegs_spare]

/-! ## The report of a run (R213) -/

/-- STATUS of a run that has ended. -/
def rehStatusWrites (o : RehOutcome) (pass repaired unrepairable : Bool) : List (Fld × Nat) :=
  [(F.hbcRehStatusBusy, 0), (F.hbcRehStatusPass, b2n pass), (F.hbcRehStatusRepaired, b2n repaired),
   (F.hbcRehStatusUnrepairable, b2n unrepairable), (F.hbcRehStatusFailCount, sat 65535 o.failSectors)]

/-- What a run's end writes: STATUS, with the traffic of a TRAFFIC run, and the first failure. -/
def rehWrites (o : RehOutcome) (pass repaired unrepairable traffic : Bool) : List (Fld × Nat) :=
  rehStatusWrites o pass repaired unrepairable ++ (if traffic then [(F.hbcRehStatusTrafficGbs, sat 4095 o.traffic)] else []) ++
    if o.failSectors = 0 then [] else
      [(F.hbcRehFailChannel, o.firstChan.val), (F.hbcRehFailPseudo, b2n o.firstPseudo), (F.hbcRehFailBank, o.firstBank.toNat),
       (F.hbcRehFailRow, o.firstRow.toNat)]

/-- The fields that a run's end may write. -/
def rehReportFields : List Fld :=
  [F.hbcRehStatusBusy, F.hbcRehStatusPass, F.hbcRehStatusRepaired, F.hbcRehStatusUnrepairable, F.hbcRehStatusFailCount,
   F.hbcRehStatusTrafficGbs, F.hbcRehFailChannel, F.hbcRehFailPseudo, F.hbcRehFailBank, F.hbcRehFailRow]

theorem rehReportFields_apart : rehReportFields.Pairwise fun x z => z.Apart x := by
  simp only [Fld.Apart]
  decide

section

variable (o : RehOutcome) (pass repaired unrepairable traffic : Bool)

theorem rehWrites_sublist : ((rehWrites o pass repaired unrepairable traffic).map (·.1)).Sublist rehReportFields := by
  unfold rehWrites
  split_ifs <;> simp [rehStatusWrites, rehReportFields]

theorem rehWrites_apart : ((rehWrites o pass repaired unrepairable traffic).map (·.1)).Pairwise fun x z => z.Apart x :=
  rehReportFields_apart.sublist (rehWrites_sublist o pass repaired unrepairable traffic)

end

/-- What t reads of a run with outcome o: STATUS, with the traffic of a TRAFFIC run, and the first failure. -/
structure Reports (t : State) (o : RehOutcome) (pass repaired unrepairable traffic : Bool) : Prop where
  busy : t.flag F.hbcRehStatusBusy = false
  pass : t.flag F.hbcRehStatusPass = pass
  repaired : t.flag F.hbcRehStatusRepaired = repaired
  unrepairable : t.flag F.hbcRehStatusUnrepairable = unrepairable
  count : t.fld F.hbcRehStatusFailCount = min 65535 o.failSectors
  channel : o.failSectors ≠ 0 → t.fld F.hbcRehFailChannel = o.firstChan.val
  traffic : traffic = true → t.fld F.hbcRehStatusTrafficGbs = min 4095 o.traffic

theorem b2n_mod_two_beq_one (b : Bool) : (b2n b % 2 == 1) = b := by cases b <;> rfl

theorem State.reports_writes {s : State} (h : s.regs.file.Pairwise fun x y => x.1 < y.1) (o : RehOutcome)
    (pass repaired unrepairable traffic : Bool) :
    Reports (s.setFlds (rehWrites o pass repaired unrepairable traffic)) o pass repaired unrepairable traffic := by
  have hread : ∀ (y : Fld) (v : Nat), y.lo + y.len ≤ 32 → (y, v) ∈ rehWrites o pass repaired unrepairable traffic →
      (s.setFlds (rehWrites o pass repaired unrepairable traffic)).fld y = v % 2 ^ y.len := fun y v hy hv =>
    State.fld_setFlds_of_mem h hy (rehWrites_apart o _ _ _ _) hv
  have hstatus : rehStatusWrites o pass repaired unrepairable ⊆ rehWrites o pass repaired unrepairable traffic := by
    simp [rehWrites]
  have hflag : ∀ (y : Fld) (b : Bool), y.lo + y.len ≤ 32 → y.len = 1 → (y, b2n b) ∈ rehStatusWrites o pass repaired unrepairable →
      (s.setFlds (rehWrites o pass repaired unrepairable traffic)).flag y = b := by
    intro y b hy hlen hv
    rw [State.flag, hread y _ hy (hstatus hv), hlen]
    exact b2n_mod_two_beq_one b
  refine ⟨hflag _ false (by decide) rfl ?_, hflag _ pass (by decide) rfl ?_, hflag _ repaired (by decide) rfl ?_,
    hflag _ unrepairable (by decide) rfl ?_, ?count, fun hne => ?channel, fun htraffic => ?traffic⟩
  case count =>
    rw [hread _ (sat 65535 o.failSectors) (by decide) (hstatus (by simp [rehStatusWrites]))]
    exact Nat.mod_eq_of_lt (by simp only [sat, F.hbcRehStatusFailCount]; omega)
  case channel =>
    rw [hread _ o.firstChan.val (by decide) (by simp [rehWrites, hne])]
    exact Nat.mod_eq_of_lt (by simp only [F.hbcRehFailChannel]; omega)
  case traffic =>
    rw [hread _ (sat 4095 o.traffic) (by decide) (by simp [rehWrites, htraffic])]
    exact Nat.mod_eq_of_lt (by simp only [sat, F.hbcRehStatusTrafficGbs]; omega)
  all_goals simp [rehStatusWrites, b2n]

/-! ## The end of a run (R213, R336) -/

/-- The report of a run that has ended, its writes made. -/
def State.rehReport (s : State) (o : RehOutcome) (pass repaired unrepairable : Bool) : State :=
  s.setFlds (rehWrites o pass repaired unrepairable (s.fld F.hbcRehCtrlMode == 2))

/-- What a run repaired and what it mapped out. -/
def State.rehRepairs (s : State) (lanes rows outs : List ChanNo) : State :=
  let s := s.over (lanes.map (·.val)) State.laneRepaired
  let s := s.over (rows.map (·.val)) State.rowRepaired
  let s := s.over ((lanes ++ rows).map (·.val)).eraseDups fun s c => s.spared (.channel c)
  s.over (outs.map (·.val)) State.mapUnused

/-- Repair work for the test reports of the stacks that a run tested. -/
def State.queueStacks (s : State) : State :=
  s.over (if s.flag F.hbcRehCtrlAll then List.range 12 else [stackOf (s.fld F.hbcRehCtrlChannel)]) fun s k => s.queueRepair (.stack k)

theorem State.setFlds_append (s : State) (l k : List (Fld × Nat)) : s.setFlds (l ++ k) = (s.setFlds l).setFlds k := List.foldl_append

section

variable {s : State} (o : RehOutcome)

/-- The report's fields are written one after another, and the mode is not one of them. -/
theorem State.rehReport_eq (h : s.regs.file.Pairwise fun x y => x.1 < y.1) (pass repaired unrepairable : Bool) :
    s.rehReport o pass repaired unrepairable =
      let s := s.setFlds (rehStatusWrites o pass repaired unrepairable)
      let s := if s.fld F.hbcRehCtrlMode = 2 then s.setFld F.hbcRehStatusTrafficGbs (sat 4095 o.traffic) else s
      if o.failSectors = 0 then s
      else (((s.setFld F.hbcRehFailChannel o.firstChan.val).setFld F.hbcRehFailPseudo (b2n o.firstPseudo)).setFld F.hbcRehFailBank
        o.firstBank.toNat).setFld F.hbcRehFailRow o.firstRow.toNat := by
  have hmode : (s.setFlds (rehStatusWrites o pass repaired unrepairable)).fld F.hbcRehCtrlMode = s.fld F.hbcRehCtrlMode := by
    have hreg : ∀ x ∈ rehStatusWrites o pass repaired unrepairable, x.1.reg = .hbcRehStatus := by
      simp [rehStatusWrites, F.hbcRehStatusBusy, F.hbcRehStatusPass, F.hbcRehStatusRepaired, F.hbcRehStatusUnrepairable,
        F.hbcRehStatusFailCount]
    exact State.fld_setFlds_of_apart h (by decide) fun x hx => .inl (by rw [hreg x hx]; decide)
  dsimp only
  rw [hmode, State.rehReport, rehWrites, State.setFlds_append, State.setFlds_append]
  simp only [beq_iff_eq]
  split_ifs <;> rfl

theorem State.rehearsalEnds_of_busy (hs : s.canonical) (hbusy : s.flag F.hbcRehStatusBusy = true) :
    s.rehearsalEnds o =
      let repair := s.flag F.hbcRehCtrlRepair
      let lanes := if repair then o.repairedLanes else []
      let rows := if repair then o.repairedRows else []
      let outs := if repair then o.unrepairable else []
      ((s.rehReport o (o.failSectors == 0 || (repair && outs.isEmpty)) (!lanes.isEmpty || !rows.isEmpty) (!outs.isEmpty)).rehRepairs
        lanes rows outs).queueStacks := by
  dsimp only
  rw [State.rehReport_eq o hs.regs.1.1]
  exact if_pos hbusy

theorem State.rehearsalEnds_of_repair (hs : s.canonical) (hbusy : s.flag F.hbcRehStatusBusy = true)
    (hrepair : s.flag F.hbcRehCtrlRepair = true) :
    s.rehearsalEnds o = ((s.rehReport o (o.failSectors == 0 || o.unrepairable.isEmpty)
      (!o.repairedLanes.isEmpty || !o.repairedRows.isEmpty) (!o.unrepairable.isEmpty)).rehRepairs
        o.repairedLanes o.repairedRows o.unrepairable).queueStacks := by
  rw [State.rehearsalEnds_of_busy o hs hbusy, hrepair]
  rfl

theorem State.rehearsalEnds_of_test (hs : s.canonical) (hbusy : s.flag F.hbcRehStatusBusy = true)
    (hrepair : s.flag F.hbcRehCtrlRepair = false) :
    s.rehearsalEnds o = ((s.rehReport o (o.failSectors == 0) false false).rehRepairs [] [] []).queueStacks := by
  rw [State.rehearsalEnds_of_busy o hs hbusy, hrepair]
  simp

end

/-! ## What repairs leave of the report (R192, R197, R213) -/

section

variable (s : State) {r : Reg}

/-- A channel's own register stands at 0x81000 or above. -/
theorem State.word_setFld_chstat (hlow : r.addr < 0x81000) {x : Fld} {c : Nat} (hx : x.reg = .hbcChstat c) (v : Nat) :
    (s.setFld x v).word r = s.word r :=
  State.word_setFld_ne v (by rw [hx]; exact (hlow.trans_le (Nat.le_add_right 0x81000 (16 * c))).ne)

theorem State.word_markMapped (hlow : r.addr < 0x81000) (hmap : r.addr ≠ Reg.hbcMapped.addr) (c : Nat) :
    (s.markMapped c).word r = s.word r :=
  (State.word_setFld_chstat _ hlow rfl _).trans (State.word_setFld_ne _ hmap)

theorem State.channels_mapOut (c : Nat) : (s.mapOut c).channels = (s.markMapped c).channels := State.channels_spared _ _

variable (hr : r.ofHbc) (hlow : r.addr < 0x81000) (hmap : r.addr ≠ Reg.hbcMapped.addr)

include hr hlow hmap

theorem State.word_mapUnused (c : Nat) : (s.mapUnused c).word r = s.word r := by
  unfold State.mapUnused
  split
  · rfl
  · split
    · exact State.word_of_channels s.channels_withdraw hr
    · rw [State.word_of_channels (State.channels_raiseGlobal _ _ _) hr, State.word_of_channels (s.channels_mapOut c) hr,
        State.word_markMapped s hlow hmap]

theorem State.word_rehRepairs (lanes rows outs : List ChanNo) : (s.rehRepairs lanes rows outs).word r = s.word r := by
  unfold State.rehRepairs
  dsimp only
  rw [State.view_over (fun t => t.word r) (fun t c => t.word_mapUnused hr hlow hmap c),
    State.view_over (fun t => t.word r) (fun t c => State.word_of_channels (t.channels_spared (.channel c)) hr),
    State.view_over (f := State.rowRepaired) (fun t => t.word r) (fun t _ => t.word_setFld_chstat hlow rfl _),
    State.view_over (f := State.laneRepaired) (fun t => t.word r) (fun t _ => t.word_setFld_chstat hlow rfl _)]

end

@[simp] theorem State.channels_queueStacks (s : State) : s.queueStacks.channels = s.channels := by simp [State.queueStacks]

theorem State.fld_of_word {s t : State} {x : Fld} (h : s.word x.reg = t.word x.reg) : s.fld x = t.fld x := by
  rw [State.fld, State.fld, h]

theorem Reports.of_words {s t : State} {o : RehOutcome} {pass repaired unrepairable traffic : Bool}
    (h : Reports s o pass repaired unrepairable traffic) (hstatus : t.word .hbcRehStatus = s.word .hbcRehStatus)
    (hfail : t.word .hbcRehFail = s.word .hbcRehFail) : Reports t o pass repaired unrepairable traffic := by
  have hfld : ∀ x : Fld, x.reg = .hbcRehStatus → t.fld x = s.fld x := fun x hx => State.fld_of_word (by rw [hx]; exact hstatus)
  have hflag : ∀ x : Fld, x.reg = .hbcRehStatus → t.flag x = s.flag x := fun x hx => by rw [State.flag, State.flag, hfld x hx]
  exact ⟨(hflag _ rfl).trans h.busy, (hflag _ rfl).trans h.pass, (hflag _ rfl).trans h.repaired, (hflag _ rfl).trans h.unrepairable,
    (hfld _ rfl).trans h.count, fun hne => (State.fld_of_word hfail).trans (h.channel hne), fun ht => (hfld _ rfl).trans (h.traffic ht)⟩

/-- What is repaired and mapped out leaves the report as it was. -/
theorem Reports.ends {s : State} {o : RehOutcome} {pass repaired unrepairable traffic : Bool} (h : Reports s o pass repaired unrepairable traffic)
    (lanes rows outs : List ChanNo) : Reports (s.rehRepairs lanes rows outs).queueStacks o pass repaired unrepairable traffic := by
  have hword : ∀ r : Reg, r.ofHbc → r.addr < 0x81000 → r.addr ≠ Reg.hbcMapped.addr →
      (s.rehRepairs lanes rows outs).queueStacks.word r = s.word r := fun r hr hlow hmap =>
    (State.word_of_channels (State.channels_queueStacks _) hr).trans (s.word_rehRepairs hr hlow hmap lanes rows outs)
  exact h.of_words (hword _ rfl (by decide) (by decide)) (hword _ rfl (by decide) (by decide))

/-! ## Repair work (R336, R337) -/

theorem State.subset_over {α β : Type} {f : State → α → State} (view : State → List β) (hkeep : ∀ s x, view s ⊆ view (f s x)) (l : List α)
    (s : State) : view s ⊆ view (s.over l f) := by
  induction l generalizing s with
  | nil => exact List.Subset.refl _
  | cons x l ih => exact List.Subset.trans (hkeep s x) (ih (f s x))

/-- What one step of a fold adds, and no step takes away, is there at the end. -/
theorem State.mem_over {α β : Type} {f : State → α → State} (view : State → List β) (hkeep : ∀ s x, view s ⊆ view (f s x)) {y : β} {x : α}
    (hadd : ∀ s, y ∈ view (f s x)) {l : List α} (hx : x ∈ l) (s : State) : y ∈ view (s.over l f) := by
  induction l generalizing s with
  | nil => exact absurd hx List.not_mem_nil
  | cons z l ih =>
    rcases List.mem_cons.mp hx with rfl | hx
    · exact State.subset_over view hkeep l _ (hadd s)
    · exact ih hx _

theorem State.repairs_queueRepair (s : State) (u : RepairUnit) : s.prom.repairs ⊆ (s.queueRepair u).prom.repairs := by
  unfold State.queueRepair
  split
  · exact List.Subset.refl _
  · exact List.subset_append_left _ _

theorem State.repairs_queueStacks (s : State) : s.prom.repairs ⊆ s.queueStacks.prom.repairs :=
  State.subset_over (fun t => t.prom.repairs) (fun t k => t.repairs_queueRepair (.stack k)) _ s

theorem State.repairs_spared (s : State) (u : RepairUnit) : s.prom.repairs ⊆ (s.spared u).prom.repairs := by
  obtain ⟨f, l, r, h⟩ := State.recordSparing_eq s u.number
  have hprom : (s.recordSparing u.number).prom = s.prom := by rw [h]; rfl
  exact hprom ▸ State.repairs_queueRepair _ u

theorem State.mem_repairs_spared (s : State) (u : RepairUnit) : u ∈ (s.spared u).prom.repairs := State.mem_queueRepair _ u

/-- Each channel repaired has its entry in the queue of repair work when a run has ended that mapped nothing out. -/
theorem State.mem_repairs_of_repaired (s : State) {lanes rows : List ChanNo} {c : ChanNo} (hc : c ∈ lanes ++ rows) :
    RepairUnit.channel c.val ∈ (s.rehRepairs lanes rows []).queueStacks.prom.repairs := by
  have hunit : c.val ∈ ((lanes ++ rows).map (·.val)).eraseDups := List.mem_eraseDups.mpr (List.mem_map_of_mem hc)
  exact State.repairs_queueStacks _ (State.mem_over (f := fun s c => s.spared (.channel c)) (fun s => s.prom.repairs)
    (fun s c => s.repairs_spared (.channel c)) (fun s => s.mem_repairs_spared _) hunit _)

/-! ## A channel mapped out by a run (R199, R213) -/

theorem State.rehRepairs_keeps (s : State) (lanes rows : List ChanNo) : Keeps s (s.rehRepairs lanes rows []) :=
  (((Keeps.refl s).over fun _ c h => State.laneRepaired_keeps c h).over fun _ c h => State.rowRepaired_keeps c h).over
    fun _ c h => State.spared_keeps (.channel c) h

theorem State.rehRepairs_spare (s : State) (lanes rows : List ChanNo) : (s.rehRepairs lanes rows []).spare = s.spare := by
  have hspared := fun t : State => State.view_over State.spare (fun s c => s.spared_spare (.channel c)) t
    ((lanes ++ rows).map (·.val)).eraseDups
  have hrows := fun t : State => State.view_over (f := State.rowRepaired) State.spare (fun _ _ => rfl) t (rows.map (·.val))
  exact (hspared _).trans ((hrows _).trans (State.view_over (f := State.laneRepaired) State.spare (fun _ _ => rfl) s _))

theorem State.mapUnused_of_room {s : State} {c : Nat} (hc : c ∉ s.spare.mappedOut) (hroom : s.spare.mappedOut.length < s.maxMapped) :
    s.mapUnused c = (s.mapOut c).raiseGlobal Ev.chanMapped c :=
  (if_neg (by simpa using hc)).trans (if_neg hroom.not_ge)

theorem State.channels_mapUnused_of_room {s : State} {c : Nat} (hc : c ∉ s.spare.mappedOut) (hroom : s.spare.mappedOut.length < s.maxMapped) :
    (s.mapUnused c).channels = (s.markMapped c).channels := by
  rw [State.mapUnused_of_room hc hroom, State.channels_raiseGlobal, State.channels_mapOut]

theorem State.markMapped_state {s : State} (h : s.canonical) (c : Nat) : (s.markMapped c).fld (F.hbcChstatState c) = 2 :=
  State.fld_setFld_same _ _ _ (State.setFld_sorted _ _ _ h.regs.1.1) (by simp [F.hbcChstatState])

/-- A channel that a run with repair could not repair is mapped out at the run's end, while there is room. -/
theorem State.rehRepairs_mapped {s : State} (h : s.canonical) {lanes rows : List ChanNo} {c : ChanNo} (hc : c.val ∉ s.spare.mappedOut)
    (hroom : s.spare.mappedOut.length < s.maxMapped) :
    let t := (s.rehRepairs lanes rows [c]).queueStacks
    t.spare.mappedOut = s.spare.mappedOut ++ [c.val] ∧ t.fld (F.hbcChstatState c) = 2 := by
  have hcan := (s.rehRepairs_keeps lanes rows).canonical h
  have hspare := s.rehRepairs_spare lanes rows
  have hmax : (s.rehRepairs lanes rows []).maxMapped = s.maxMapped :=
    congrArg (min 8) (State.fld_of_word (s.word_rehRepairs (r := .hbcLimits) rfl (by decide) (by decide) lanes rows []))
  have hout : c.val ∉ (s.rehRepairs lanes rows []).spare.mappedOut := by rw [hspare]; exact hc
  have hless : (s.rehRepairs lanes rows []).spare.mappedOut.length < (s.rehRepairs lanes rows []).maxMapped := by
    rw [hspare, hmax]; exact hroom
  have hview : (s.rehRepairs lanes rows [c]).queueStacks.channels = ((s.rehRepairs lanes rows []).markMapped c).channels :=
    (State.channels_queueStacks _).trans (State.channels_mapUnused_of_room hout hless)
  refine ⟨?_, (State.fld_of_channels hview ?_).trans (State.markMapped_state hcan c)⟩
  · rw [State.spare_of_channels hview, ← hspare]
    rfl
  · simp only [Reg.ofHbc, F.hbcChstatState, Reg.addr]; omega

/-! ## What REHEARSAL_DONE answers (R213) -/

section

variable {s : State} (o : RehOutcome) (pass repaired unrepairable : Bool)

theorem State.rehReport_reports (hs : s.canonical) (lanes rows outs : List ChanNo) :
    Reports ((s.rehReport o pass repaired unrepairable).rehRepairs lanes rows outs).queueStacks o pass repaired unrepairable
      (s.fld F.hbcRehCtrlMode == 2) :=
  (State.reports_writes hs.regs.1.1 o _ _ _ _).ends lanes rows outs

theorem State.rehReport_canonical (hs : s.canonical) : (s.rehReport o pass repaired unrepairable).canonical :=
  ((Keeps.refl s).over fun _ x h => State.setFld_keeps x.1 x.2 h).canonical hs

theorem State.rehReport_spare (s : State) : (s.rehReport o pass repaired unrepairable).spare = s.spare := s.setFlds_spare _

theorem State.rehReport_maxMapped (hs : s.canonical) : (s.rehReport o pass repaired unrepairable).maxMapped = s.maxMapped := by
  have haddr : ∀ y ∈ rehReportFields, Reg.hbcLimits.addr ≠ y.reg.addr := by decide
  exact congrArg (min 8) (State.fld_of_word (State.word_setFlds_other hs.regs.1.1 fun x hx =>
    haddr _ ((rehWrites_sublist o _ _ _ _).subset (List.mem_map_of_mem hx))))

theorem State.rehReport_mapped (hs : s.canonical) {lanes rows : List ChanNo} {c : ChanNo} (hc : c.val ∉ s.spare.mappedOut)
    (hroom : s.spare.mappedOut.length < s.maxMapped) :
    let t := ((s.rehReport o pass repaired unrepairable).rehRepairs lanes rows [c]).queueStacks
    t.spare.mappedOut = s.spare.mappedOut ++ [c.val] ∧ t.fld (F.hbcChstatState c) = 2 := by
  have hspare := s.rehReport_spare o pass repaired unrepairable
  rw [← hspare] at hc ⊢
  rw [← hspare, ← State.rehReport_maxMapped o pass repaired unrepairable hs] at hroom
  exact State.rehRepairs_mapped (State.rehReport_canonical o _ _ _ hs) hc hroom

end

end Sys2Proof.Machine
end

section
/-!
Proofs about the drain of a channel (R197 to R199): when it starts, what it leaves, and the granules that it could not read.
-/

namespace Sys2Proof.Machine

/-! ## A channel beyond repair (R197, R199) -/

theorem State.startDrain_eq_drainBegun (s : State) (c : Nat) (waiting : List Nat) : s.startDrain c waiting = s.drainBegun c waiting := rfl

section

variable {s : State} {c : Nat} (hstate : s.fld (F.hbcChstatState c) = 0) (hen : s.flag F.hbcCtrlEn = true)

include hstate hen

/-- A channel in service is judged by the drain that goes on. -/
theorem State.beyondRepair_of_idle (hidle : s.spare.drain = none) :
    s.beyondRepair c = if s.maxMapped ≤ s.spare.mappedOut.length then s.withdraw else s.drainBegun c [] := by
  refine (if_neg (by simp [hstate, hen])).trans ?_
  rw [hidle, ← State.startDrain_eq_drainBegun]

theorem State.beyondRepair_of_drain {d : Drain} (hd : s.spare.drain = some d) (hc : c ∉ d.waiting)
    (hroom : s.spare.mappedOut.length + 1 + d.waiting.length < s.maxMapped) :
    s.beyondRepair c = s.setSpare { s.spare with drain := some { d with waiting := d.waiting ++ [c] } } := by
  refine (if_neg (by simp [hstate, hen])).trans ?_
  rw [hd]
  exact (if_neg (by simpa using hc)).trans (if_neg hroom.not_ge)

end

/-! ## The start of a drain (R197, R198) -/

/-- The fields that name the channel that drains. -/
def drainWrites (c : Nat) : List (Fld × Nat) := [(F.hbcChstatState c, 1), (F.hbcMappedDrainCh, c), (F.hbcMappedDraining, 1)]

theorem drainWrites_apart (c : Nat) : ((drainWrites c).map (·.1)).Pairwise fun x z => z.Apart x := by
  have hchan : Reg.hbcMapped.addr ≠ (Reg.hbcChstat c).addr := by simp only [Reg.addr]; omega
  simp [drainWrites, Fld.Apart, F.hbcChstatState, F.hbcMappedDrainCh, F.hbcMappedDraining, hchan]

/-- The channel that drains, in the sparing state and in the registers. -/
def State.drainMarked (s : State) (c : Nat) (waiting : List Nat) : State :=
  (s.setSpare { s.spare with drain := some ⟨c, waiting⟩ }).setFlds (drainWrites c)

/-- Neither the interrupts nor the instructions that end take the channel's mark away. -/
theorem State.channels_drainBegun (s : State) (c : Nat) (waiting : List Nat) :
    (s.drainBegun c waiting).channels = (s.drainMarked c waiting).channels := by
  unfold State.drainBegun
  dsimp only
  refine (State.channels_over (fun t x => ?_) _ _).trans ((State.channels_raiseGlobal _ _ _).trans ?_)
  · split
    · exact t.channels_endEarly _ _
    · rfl
  · exact State.channels_over (fun t p => State.channels_over (fun u v => u.channels_raiseVector p v) t _) _ _

theorem State.drainMarked_fld {s : State} (h : s.canonical) (c : Nat) (waiting : List Nat) {y : Fld} {v : Nat} (hy : y.lo + y.len ≤ 32)
    (hv : (y, v) ∈ drainWrites c) : (s.drainMarked c waiting).fld y = v % 2 ^ y.len :=
  State.fld_setFlds_of_mem (s := s.setSpare { s.spare with drain := some ⟨c, waiting⟩ }) h.regs.1.1 hy (drainWrites_apart c) hv

theorem State.drainBegun_reads {s : State} (h : s.canonical) (c : ChanNo) (waiting : List Nat) :
    (s.drainBegun c waiting).spare.drain = some ⟨c.val, waiting⟩ ∧ (s.drainBegun c waiting).fld (F.hbcChstatState c) = 1 ∧
      (s.drainBegun c waiting).flag F.hbcMappedDraining = true := by
  have hview := s.channels_drainBegun c waiting
  refine ⟨?_, ?_, ?_⟩
  · rw [State.spare_of_channels hview, State.drainMarked, State.setFlds_spare]
    rfl
  · rw [State.fld_of_channels hview (by simp only [Reg.ofHbc, F.hbcChstatState, Reg.addr]; omega)]
    exact State.drainMarked_fld h c waiting (v := 1) (by simp [F.hbcChstatState]) (by simp [drainWrites])
  · rw [State.flag, State.fld_of_channels (x := F.hbcMappedDraining) hview rfl,
      State.drainMarked_fld h c waiting (v := 1) (by decide) (by simp [drainWrites])]
    rfl

/-! ## The end of a drain (R198) -/

theorem State.stackPoison_addPoison (s : State) (k : Nat) :
    s.mem.stackPoison ⊆ (s.addPoison tStacked k).mem.stackPoison ∧ k ∈ (s.addPoison tStacked k).mem.stackPoison := by
  unfold State.addPoison
  split
  next h => exact ⟨List.Subset.refl _, h⟩
  next => exact ⟨List.subset_cons_self _ _, List.mem_cons_self⟩

/-- All four pieces of a granule of the draining channel that holds a poisoned one stand poisoned. -/
theorem State.mem_stackPoison_drainPoison {s : State} {c x : Nat} (hx : x ∈ s.mem.stackPoison) (hc : x / 4 % 384 = c) (hcap : 64 * x < s.capacity)
    {k : Nat} (hk : k < 4) : x / 4 * 4 + k ∈ (s.drainPoison c).mem.stackPoison := by
  have hone := fun (t : State) (y : Nat) => (t.stackPoison_addPoison y).1
  refine State.mem_over (fun t => t.mem.stackPoison) (fun t y => ?_) (fun t => ?_) (List.mem_filter.mpr ⟨hx, by simp [hc, hcap]⟩) _
  · exact State.subset_over (fun t => t.mem.stackPoison) (fun t k => hone t (y / 4 * 4 + k)) _ t
  · exact State.mem_over (fun t => t.mem.stackPoison) (fun t k => hone t (x / 4 * 4 + k)) (fun t => (t.stackPoison_addPoison _).2)
      (List.mem_range.mpr hk) t

/-! ## The statement -/

/-- Settles O39: the start and the end of a run, and the start and the end of a drain, each by the lemma of its meaning. -/
theorem rehearsalAndDrainRowsComplete : Obligations.RehearsalAndDrainRowsComplete := by
  refine ⟨fun s row mode hs hrow hp hen hboot hbusy => ?start, fun s row hrow hp hen => ?ignored, fun s o hs hbusy hrepair hnone => ?repaired,
    fun s o c hs hbusy hrepair hone hout hroom => ?mapped, fun s o hs hbusy hrepair => ?tested,
    fun s chan hstate hen => ⟨fun hidle hroom => ⟨?drains, fun hs => ?marked⟩, fun hidle hfull => ?fails, fun d hd hc hroom => ?waits⟩,
    fun s d hd => ⟨?done, fun x hx hc hcap k hk => ?poison⟩⟩
  case start =>
    have hmode : mode < 3 := by
      simp only [List.mem_cons, List.not_mem_nil, or_false] at hrow
      obtain ⟨rfl, rfl⟩ | ⟨rfl, rfl⟩ | ⟨rfl, rfl⟩ := hrow <;> decide
    intro m c t u
    rw [exec_rehearsalRow hrow hp, State.rehearseMode_of_ready hs hen hboot hbusy hmode]
  case ignored =>
    obtain ⟨mode, hmode⟩ : ∃ mode, (row, mode) ∈ rehearsalRows := by
      simp only [List.mem_cons, List.not_mem_nil, or_false] at hrow
      obtain rfl | rfl | rfl := hrow <;> simp [rehearsalRows]
    rw [exec_rehearsalRow hmode hp, State.rehearseMode_of_enabled hen]
  case repaired =>
    have hexec : exec (.rehearsalDone o) s = .next (s.rehearsalEnds o) := rfl
    rw [State.rehearsalEnds_of_repair o hs hbusy hrepair, hnone] at hexec
    have hreport := fun pass repaired => State.rehReport_reports o pass repaired false hs o.repairedLanes o.repairedRows []
    exact ⟨_, hexec, (hreport _ _).busy, (hreport _ _).pass.trans (Bool.or_true _), (hreport _ _).unrepairable,
      (hreport _ _).repaired.trans (Bool.not_and _ _).symm, (hreport _ _).count, fun c hc => State.mem_repairs_of_repaired _ hc⟩
  case mapped =>
    have hexec : exec (.rehearsalDone o) s = .next (s.rehearsalEnds o) := rfl
    rw [State.rehearsalEnds_of_repair o hs hbusy hrepair, hone] at hexec
    have hreport := fun pass repaired => State.rehReport_reports o pass repaired true hs o.repairedLanes o.repairedRows [c]
    exact ⟨_, hexec, (hreport _ _).busy, (hreport _ _).unrepairable, State.rehReport_mapped o _ _ _ hs hout hroom⟩
  case tested =>
    have hexec : exec (.rehearsalDone o) s = .next (s.rehearsalEnds o) := rfl
    rw [State.rehearsalEnds_of_test o hs hbusy hrepair] at hexec
    have hreport := State.rehReport_reports o (o.failSectors == 0) false false hs [] [] []
    exact ⟨_, hexec, hreport.busy, hreport.pass, hreport.repaired, hreport.unrepairable, hreport.count, hreport.channel,
      fun hmode => hreport.traffic (beq_iff_eq.mpr hmode)⟩
  case drains =>
    exact congrArg (fun t : State => Host.Outcome.next t.settle) ((State.beyondRepair_of_idle hstate hen hidle).trans (if_neg hroom.not_ge))
  case marked => exact State.drainBegun_reads hs _ _
  case fails =>
    exact congrArg (fun t : State => Host.Outcome.next t.settle) ((State.beyondRepair_of_idle hstate hen hidle).trans (if_pos hfull))
  case waits => exact congrArg (fun t : State => Host.Outcome.next t.settle) (State.beyondRepair_of_drain hstate hen hd hc hroom)
  case done =>
    have hexec : exec .channelDrainDone s = .next s.drainDone.settle := rfl
    obtain ⟨chan, waiting⟩ := d
    rw [hexec, State.drainDone, hd]
    cases waiting <;> rfl
  case poison =>
    rw [State.spared_mem]
    exact State.mem_stackPoison_drainPoison hx hc hcap hk

end Sys2Proof.Machine
end

section
/-!
Proofs about accesses between devices (R235, R319, R320, R373): the number by which a packet is accepted, and what a PEER write, a read, a
response, an acknowledgement and the timeout of one that does not come do.
-/

namespace Sys2Proof.Machine

/-! ## A packet accepted by its number (R319) -/

/-- Accepting a packet's number changes its pair alone. -/
theorem State.acceptSeq_eq_setPeerPair {s t : State} {src pseq : Nat} (h : s.acceptSeq src pseq = some t) : ∃ v, t = s.setPeerPair src v := by
  obtain ⟨n, -, hn⟩ := Option.bind_eq_some_iff.mp h
  split at hn
  · exact absurd hn (by simp)
  · exact ⟨_, (Option.some.inj hn).symm⟩

/-! ## A command while the clocks run (R282, R293) -/

theorem State.clocked_of_running {s : State} (h : s.running = true) (f : State → State) : s.clocked f = f s := if_pos h

theorem State.clocked_of_fixed {s : State} {f : State → State} (h : f s = s) : s.clocked f = s := by
  unfold State.clocked
  split
  · exact h
  · rfl

/-! ## A PEER write and a PEER read at their target (R235) -/

section

variable {s t : State} {src pseq : Nat}

theorem State.peerWriteIn_of_accepted (h : s.acceptSeq src pseq = some t) (p a : Nat) (bs : Bytes) :
    s.peerWriteIn src pseq p a bs = if (t.peerAllows p a bs.length && !t.readOnly tStacked a bs.length) = true then
      (t.writePart p tStacked 0 0 (cellsOf a bs)).sendAck src .done else t.sendAck src .outOfRange := by
  rw [State.peerWriteIn, h]

theorem State.peerWriteIn_of_duplicate (h : s.acceptSeq src pseq = none) (p a : Nat) (bs : Bytes) : s.peerWriteIn src pseq p a bs = s := by
  rw [State.peerWriteIn, h]

theorem State.peerReadIn_of_accepted (h : s.acceptSeq src pseq = some t) (p a n tag : Nat) :
    s.peerReadIn src pseq p a n tag =
      if (t.sendAck src .done).peerAllows p a n = false then (t.sendAck src .done).emit (.peerResponse src tag .outOfRange [])
      else if (t.sendAck src .done).rangeBad tStacked 0 a n = true then (t.sendAck src .done).emit (.peerResponse src tag .poisoned [])
      else ((t.sendAck src .done).touch 0 false ((List.range n).map (a + ·))).emit
        (.peerResponse src tag .done ((t.sendAck src .done).tierBytes tStacked 0 a n)) := by
  rw [State.peerReadIn, h]

theorem State.peerReadIn_of_duplicate (h : s.acceptSeq src pseq = none) (p a n tag : Nat) : s.peerReadIn src pseq p a n tag = s := by
  rw [State.peerReadIn, h]

end

/-- A PEER write that passes is written and acknowledged. -/
theorem exec_peerWrite_of_allowed {s t : State} {src : Word16} {pseq : Word32} {a : PeerAccess} {data : Bytes} (hrun : s.running = true)
    (h : s.acceptSeq src.toNat pseq.toNat = some t) (hallow : t.peerAllows a.target a.addr data.length = true)
    (hro : t.readOnly tStacked a.addr data.length = false) (p : PartNo) :
    exec (.peerWrite src pseq p a data) s =
      .next ((t.writePart a.target tStacked 0 0 (cellsOf a.addr data)).sendAck src.toNat .done) := by
  refine congrArg Host.Outcome.next ((State.clocked_of_running hrun _).trans ((State.peerWriteIn_of_accepted h _ _ _).trans (if_pos ?_)))
  rw [hallow, hro]
  rfl

/-- A run of bytes written by a partition lies in its tier as any run of bytes written there. -/
theorem State.tierByte_writePart (s : State) (p tier who hint a : Nat) (bs : Bytes) (u x b : Nat) :
    (s.writePart p tier who hint (cellsOf a bs)).tierByte u x b = (s.writeTier tier who a bs).tierByte u x b :=
  congrArg (Memory.read · (tierKey u x b)) (State.writePart_tierMem s p tier who hint (cellsOf a bs) u)

theorem State.tierByte_sendAck (s : State) (src : Nat) (st : PeerStatus) (tier who b : Nat) :
    (s.sendAck src st).tierByte tier who b = s.tierByte tier who b := rfl

/-- A run written to one tier leaves the bytes of another. -/
theorem State.writeTier_read_tier (s : State) {tier u : Nat} (ht : tier < 6) (hu : u < 6) (hne : u ≠ tier) (who a : Nat) (bs : Bytes) (x b : Nat) :
    (s.writeTier tier who a bs).tierByte u x b = s.tierByte u x b :=
  congrArg (Memory.read · (tierKey u x b)) (State.writeCells_tierMem_other s who (cellsOf a bs) ht hu hne)

/-- Settles O48: the write's run of bytes reads back, and every other byte of every tier is one that the run does not name. -/
theorem peerWriteLandsWhere : Obligations.PeerWriteLandsWhere := by
  intro s t src pseq p a data hs hrun h hallow hro
  obtain ⟨v, rfl⟩ := State.acceptSeq_eq_setPeerPair h
  have hwf : Memory.wf ((s.setPeerPair src.toNat v).tierMem tStacked) := State.tierMem_wf hs tStacked
  refine ⟨_, exec_peerWrite_of_allowed hrun h hallow hro p, ?lands, fun b hb => ?outside, fun tier who b htier => ?others⟩
  case lands =>
    rw [State.tierBytes_eq]
    simp only [State.tierByte_sendAck, State.tierByte_writePart]
    rw [← State.tierBytes_eq, State.writeTier_bytes_same _ _ _ _ _ hwf]
  case outside =>
    rw [State.tierByte_sendAck, State.tierByte_writePart, State.writeTier_read_other _ _ _ _ _ hwf b hb]
    rfl
  case others =>
    have hlt : tier < 6 ∧ tier ≠ tStacked := by
      simp only [List.mem_cons, List.not_mem_nil, or_false] at htier
      obtain rfl | rfl | rfl | rfl := htier <;> decide
    rw [State.tierByte_sendAck, State.tierByte_writePart, State.writeTier_read_tier _ (by decide) hlt.1 hlt.2]
    rfl

/-! ## A response and its instruction or entry (R211, R235) -/

section

variable {s : State} {src tag : Nat} (bs : Bytes)

theorem State.peerResponseIn_of_reader {i : Inst} {r : PeerRead} (h : s.readerOf src tag = some (i, r)) :
    s.peerResponseIn src tag .done bs =
      (let t := s.writeTier tPeer r.rank r.addr (bs.take r.len)
       let j : Inst := { i with reads := i.reads.filter fun x => x.tag != tag }
       if j.reads = [] ∧ j.wait = .peer then t.launch j else t.setInst j) ∧
    s.peerResponseIn src tag .outOfRange bs = s.endEarly i Ev.peerRange ∧ s.peerResponseIn src tag .poisoned bs = s.endEarly i Ev.eccUncorr := by
  simp only [State.peerResponseIn, h, and_self]

theorem State.peerResponseIn_of_entry (h : s.readerOf src tag = none) {x : Nat × Nat × RunEntry × PeerRead} (hx : s.entryReader src tag = some x)
    (st : PeerStatus) : s.peerResponseIn src tag st bs = s.entryResponse x st bs := by
  simp only [State.peerResponseIn, h, hx]

/-- The data of an entry that copies to a tier of its own land in the receive space, and the entry awaits what is left. -/
theorem State.entryResponse_done {q k : Nat} {e : RunEntry} {r : PeerRead} (h : e.dstTier ≠ tPeer) :
    s.entryResponse (q, k, e, r) .done bs = (s.writeTier tPeer r.rank r.addr (bs.take r.len)).setEntry q k
      { e with reads := e.reads.filter fun y => !(y.tag == r.tag && y.node == r.node) } := if_neg fun hc => h hc.2

end

theorem exec_peerReadResponse {s : State} (hrun : s.running = true) (src : Word16) (tag : Word32) (st : PeerStatus) (data : Bytes) :
    exec (.peerReadResponse src tag st data) s = .next (s.peerResponseIn src.toNat tag.toNat st data).follow :=
  congrArg Host.Outcome.next (State.clocked_of_running hrun _)

/-! ## Acknowledgements (R319, R320) -/

theorem State.peerPair_setPeerPair_same {s : State} (h : s.canonical) (n : Nat) (v : Pair) : (s.setPeerPair n v).peerPair n = v :=
  tblGet_tblSet_same _ _ _ _ h.link.2.1

theorem State.over_emit_out {α : Type} (s : State) (l : List α) (f : α → Out) : (s.over l fun s x => s.emit (f x)).out = s.out ++ l.map f := by
  induction l generalizing s with
  | nil => exact (List.append_nil _).symm
  | cons x l ih => exact (ih (s.emit (f x))).trans (List.append_assoc ..)

theorem State.view_over_emit {α γ : Type} (view : State → γ) (h : ∀ s o, view (State.emit s o) = view s) (s : State) (l : List α) (f : α → Out) :
    view (s.over l fun s x => s.emit (f x)) = view s := State.view_over view (fun _ _ => h _ _) s l

/-- Packets below a number counted as acknowledged: the pair, what goes out, and that no instruction is touched. -/
theorem State.ackPackets_acks {s : State} (h : s.canonical) (node upto : Nat) :
    let v := s.peerPair node
    let acked := max v.acked upto
    let go := v.backlog.takeWhile fun b => decide (b.1 < acked + 1024)
    (s.ackPackets node upto).peerPair node = { v with acked := acked, backlog := v.backlog.drop go.length } ∧
      (s.ackPackets node upto).out = s.out ++ go.map (·.2.2) ∧ (s.ackPackets node upto).insts = s.insts := by
  intro v acked go
  exact ⟨(State.view_over_emit (State.peerPair · node) (fun _ _ => rfl) _ go (·.2.2)).trans (State.peerPair_setPeerPair_same h _ _),
    State.over_emit_out _ go (·.2.2), State.view_over_emit State.insts (fun _ _ => rfl) _ go (·.2.2)⟩

/-! ## An access that nobody answers (R320) -/

theorem State.peerLost_of_open {s : State} {q index : Nat} {i : Inst} (h : s.inst? q index = some i) (hopen : i.reads ≠ [])
    (hlate : i.issueCue + 1000 * s.peerTimeout ≤ s.time.cue) : s.peerLost q index = (s.endEarly i Ev.peerLost).settle := by
  simp only [State.peerLost, h]
  exact if_pos ⟨.inl hopen, hlate⟩

/-! ## The rows -/

/-- Settles O47: a packet by its number, its window and its ranges, and a response, an acknowledgement and a timeout by what waits for them. -/
theorem peerRowsComplete : Obligations.PeerRowsComplete := by
  refine ⟨⟨fun s t src pseq p a data hrun h => ?write, fun s t src pseq p a n hrun h => ⟨fun hallow hgood => ?read, fun hallow => ?refused⟩,
    fun s src pseq p a data n h => ?duplicate⟩, fun s src tag data i r hrun h => ?response, fun s src tag data q k e r hrun h hx he => ?entry,
    fun s src pseq hs hrun => ?ack, fun s q index i hrun h hopen hlate => ?timeout⟩
  case write =>
    exact congrArg Host.Outcome.next ((State.clocked_of_running hrun _).trans (State.peerWriteIn_of_accepted h _ _ _))
  case read =>
    refine congrArg Host.Outcome.next ((State.clocked_of_running hrun _).trans ((State.peerReadIn_of_accepted h _ _ _ _).trans ?_))
    exact (if_neg (ne_false_of_eq_true hallow)).trans (if_neg (ne_true_of_eq_false hgood))
  case refused =>
    refine congrArg Host.Outcome.next ((State.clocked_of_running hrun _).trans ((State.peerReadIn_of_accepted h _ _ _ _).trans ?_))
    exact if_pos hallow
  case duplicate =>
    exact ⟨congrArg Host.Outcome.next (State.clocked_of_fixed (State.peerWriteIn_of_duplicate h _ _ _)),
      congrArg Host.Outcome.next (State.clocked_of_fixed (State.peerReadIn_of_duplicate h _ _ _ _))⟩
  case response =>
    obtain ⟨hdone, hrange, hpoison⟩ := State.peerResponseIn_of_reader data h
    simp only [exec_peerReadResponse hrun, hdone, hrange, hpoison, and_self]
  case entry =>
    simp only [exec_peerReadResponse hrun, State.peerResponseIn_of_entry data h hx]
    exact ⟨by rw [State.entryResponse_done data he], rfl, rfl⟩
  case ack =>
    exact ⟨_, congrArg Host.Outcome.next (State.clocked_of_running hrun _), State.ackPackets_acks hs _ _⟩
  case timeout =>
    exact congrArg Host.Outcome.next ((State.clocked_of_running hrun _).trans (State.peerLost_of_open h hopen hlate))

end Sys2Proof.Machine
end

section
/-!
Proofs about the lock of a partition (R248, R249): who takes it, what its owner commits or drops, and how it is lost.
-/

namespace Sys2Proof.Machine

/-! ## Agents (R248, R331) -/

theorem State.byAgent_of_acts {s : State} {who : Requester} (h : Acts s who) (f : State → State) : s.byAgent who f = f s := by
  cases who
  case fn => exact if_pos h
  case prompter => exact if_pos h
  case sideband => exact if_pos h

theorem State.ownsLock_of_owner {s : State} {p : Nat} {who : Requester} (hheld : s.flag (F.parLockHeld p) = true)
    (ha : s.agentCode p who = some (s.fld (F.parLockOwner p))) : s.ownsLock p who = true := by
  simp [State.ownsLock, hheld, ha]

/-! ## The lock taken, dropped and lost -/

section

variable {s : State} {p : Nat} {who : Requester}

theorem State.takeLock_of_free {a : Nat} (ha : s.agentCode p who = some a) (hen : s.flag (F.parCtrlEn p) = true)
    (hfree : s.flag (F.parLockHeld p) = false) :
    s.takeLock p who =
      (let t := ((s.setFld (F.parLockOwner p) a).setFld (F.parLockHeld p) 1).setFld (F.parLockLeaseLeft p) 100
       t.setPartition p { t.partition p with staging := {}, lockCue := s.time.cue }) := by
  rw [State.takeLock, ha]
  exact if_pos ⟨hen, hfree⟩

theorem State.abortBy_of_owner (hen : s.flag (F.parCtrlEn p) = true) (hown : s.ownsLock p who = true) : s.abortBy p who = lockFreed s p :=
  if_pos ⟨hen, hown⟩

theorem State.commitBy_of_owner (hen : s.flag (F.parCtrlEn p) = true) (hown : s.ownsLock p who = true) : s.commitBy p who = s.commitLock p :=
  (if_pos hen).trans (if_pos hown)

theorem State.commitBy_of_other (hen : s.flag (F.parCtrlEn p) = true) (hown : s.ownsLock p who = false) : s.commitBy p who = s.lockedOut p :=
  (if_pos hen).trans (if_neg (by simp [hown]))

/-- A lock that is held is lost: it is freed with what is staged, LOCK_LOST is set, and vector 0 is raised. -/
theorem State.loseLock_of_held (h : s.flag (F.parLockHeld p) = true) :
    s.loseLock p = ((lockFreed s p).setFld (F.parStatusLockLost p) 1).raiseEvent p Ev.lockLost := if_pos h

theorem State.loseLock_of_free (h : s.flag (F.parLockHeld p) = false) : s.loseLock p = s := if_neg (by simp [h])

/-! ## COMMIT by the owner -/

theorem getD_map_of_forall {o : Option Word32} {f : Word32 → Bool} (h : ∀ v, o = some v → f v = true) : (o.map f).getD true = true := by
  cases o with
  | none => rfl
  | some v => exact h v rfl

/-- A set of legal values that stages no roster plan: its values in their registers, REJECTED 0, the lock freed. -/
theorem State.commitLock_of_legal {x y : Option Word32} (hst : (s.partition p).staging = { shares := x, prio := y })
    (hx : ∀ v, x = some v → sharesOk v = true) (hy : ∀ v, y = some v → prioOk v = true) :
    s.commitLock p =
      (let t := (s.applyWord (.parShares p) x).applyWord (.parPrio p) y
       let t := if x.isSome ∨ y.isSome then t.configChanged else t
       lockFreed (t.setFld (F.parLockRejected p) 0) p) := by
  have hgood : ((x.map sharesOk).getD true && (y.map prioOk).getD true) = true := by
    rw [getD_map_of_forall hx, getD_map_of_forall hy, Bool.and_self]
  have hplan : s.stagedEntries p = some [] := by simp [State.stagedEntries, State.stagedPlan, hst]
  simp only [State.commitLock, hst, hgood, hplan]
  rfl

end

/-- Settles O25: the rows of a lock, each by what the lock is at the command. -/
theorem lockRowsComplete : Obligations.LockRowsComplete := by
  refine ⟨fun s p who a hacts ha hen hfree => ?acq, fun s p who a hacts hen hheld ha hown => ?abort,
    fun s p who a x y hacts hen hheld ha hown hst hx hy => ?commit, fun s p who hacts hen hown => ?refused, fun s p hheld hlate => ?lease⟩
  case acq => exact congrArg Host.Outcome.next ((State.byAgent_of_acts hacts _).trans (State.takeLock_of_free ha hen hfree))
  case abort =>
    subst hown
    exact congrArg Host.Outcome.next ((State.byAgent_of_acts hacts _).trans (State.abortBy_of_owner hen (State.ownsLock_of_owner hheld ha)))
  case commit =>
    subst hown
    refine congrArg Host.Outcome.next ((State.byAgent_of_acts hacts _).trans ?_)
    rw [State.commitBy_of_owner hen (State.ownsLock_of_owner hheld ha), State.commitLock_of_legal hst hx hy]
    cases x <;> cases y <;> rfl
  case refused => exact congrArg Host.Outcome.next ((State.byAgent_of_acts hacts _).trans (State.commitBy_of_other hen hown))
  case lease =>
    exact congrArg Host.Outcome.next ((if_pos ⟨hheld, hlate⟩ : s.expireLease p = s.loseLock p).trans (State.loseLock_of_held hheld))

end Sys2Proof.Machine
end

section
/-!
Proofs about the enable, the disable and the reset of a partition, and the resets of functions (R234, R245 to R249, R331): what a reset
changes, that the reset of another partition and a lost lock leave it, and the rows.
-/

namespace Sys2Proof.Machine

/-! ## Operations that change no register, no instruction in flight, and of a partition its gates and staging copy alone -/

/-- A partition but for its gates and what is staged for it. -/
def Partition.frame (v : Partition) : Partition := { v with gates := [], staging := {} }

@[simp] theorem Partition.frame_block (v : Partition) : v.frame.block = v.block := rfl
@[simp] theorem Partition.frame_scenes (v : Partition) : v.frame.scenes = v.scenes := rfl
@[simp] theorem Partition.frame_hurdles (v : Partition) : v.frame.hurdles = v.hurdles := rfl
@[simp] theorem Partition.frame_resetDisables (v : Partition) : v.frame.resetDisables = v.resetDisables := rfl

/-- From a to s no register and no instruction in flight has changed, and of a partition its gates and staging copy alone. -/
structure KeepsTables (a s : State) : Prop where
  keeps : Keeps a s
  regs : s.regs = a.regs
  insts : s.insts = a.insts
  frame : a.canonical → ∀ p, (s.partition p).frame = (a.partition p).frame

theorem State.frame_setPartition {s : State} (h : s.canonical) {q : Nat} {v : Partition} (hv : v.frame = (s.partition q).frame) (p : Nat) :
    ((s.setPartition q v).partition p).frame = (s.partition p).frame := by
  by_cases hp : p = q
  · rw [hp, State.partition_setPartition_same h, hv]
  · rw [State.partition_setPartition_other h _ hp]

namespace KeepsTables

variable {a s t : State}

theorem refl (s : State) : KeepsTables s s := ⟨Keeps.refl s, rfl, rfl, fun _ _ => rfl⟩

theorem trans (h : KeepsTables a s) (k : KeepsTables s t) : KeepsTables a t :=
  ⟨h.keeps.trans k.keeps, k.regs.trans h.regs, k.insts.trans h.insts, fun c p => (k.frame (h.keeps.canonical c) p).trans (h.frame c p)⟩

theorem of_tables (hk : Keeps a s) (h : s.tables = a.tables) : KeepsTables a s := by
  obtain ⟨hregs, hparts, hinsts⟩ : s.regs = a.regs ∧ s.parts = a.parts ∧ s.insts = a.insts := by simpa [State.tables] using h
  exact ⟨hk, hregs, hinsts, fun _ _ => by rw [State.partition, State.partition, hparts]⟩

theorem over_list {α : Type} {f : State → α → State} (h : ∀ s x, KeepsTables s (f s x)) (s : State) (l : List α) : KeepsTables s (s.over l f) := by
  induction l generalizing s with
  | nil => exact refl s
  | cons x l ih => exact (h s x).trans (ih (f s x))

theorem when {f : State → State} (h : ∀ s, KeepsTables s (f s)) (s : State) (c : Prop) [Decidable c] : KeepsTables s (s.when c f) := by
  unfold State.when
  split
  · exact h s
  · exact refl s

theorem setPartition {q : Nat} {v : Partition} (hk : Keeps s (s.setPartition q v)) (hv : v.frame = (s.partition q).frame) :
    KeepsTables s (s.setPartition q v) := ⟨hk, rfl, rfl, fun hc => State.frame_setPartition hc hv⟩

theorem block (h : KeepsTables a s) (hc : a.canonical) (p : Nat) : s.block p = a.block p := by
  rw [State.block, State.block, ← Partition.frame_block, h.frame hc, Partition.frame_block]

theorem fld (h : KeepsTables a s) (x : Fld) : s.fld x = a.fld x := by
  rw [State.fld, State.fld, State.word, State.word, h.regs, h.keeps.part]

end KeepsTables

section

variable (s : State) (q : Nat)

theorem State.setGate_keepsTables (g : Nat) (v : Gate) : KeepsTables s (s.setGate q g v) :=
  .setPartition (State.setGate_keeps _ _ _ (Keeps.refl s)) rfl

theorem State.tagWord_keepsTables (g : Nat) : KeepsTables s (s.tagWord q g) := by
  refine .of_tables (State.tagWord_keeps _ _ (Keeps.refl s)) ?_
  unfold State.tagWord
  dsimp only
  split <;> simp

theorem State.breakHold_keepsTables (h : Hold) : KeepsTables s (s.breakHold q h) :=
  (State.setGate_keepsTables s q h.gate _).trans (State.tagWord_keepsTables _ q h.gate)

theorem State.breakHolds_keepsTables (l : List Hold) : KeepsTables s (s.breakHolds q l) :=
  KeepsTables.over_list (fun t h => State.breakHold_keepsTables t q h) s l

theorem State.releaseGate_keepsTables (g : Nat) : KeepsTables s (s.releaseGate q g) := State.setGate_keepsTables s q g _

theorem State.abandonInst_keepsTables (i : Inst) : KeepsTables s (s.abandonInst i) := by
  have hpoison : KeepsTables s ((s.poisonInst i 0).leaveLater i 0) :=
    .of_tables (State.leaveLater_keeps _ _ (State.poisonInst_keeps _ _ (Keeps.refl s))) (by simp)
  refine hpoison.trans ((KeepsTables.when (fun t => State.releaseGate_keepsTables t i.part i.pkt.imm) _ (i.wait = .visible)).trans ?_)
  refine .trans ?_ (.of_tables (State.loseOuts_keeps _ (Keeps.refl _)) (State.tables_loseOuts _ _))
  split
  · split
    · exact .refl _
    · exact .of_tables (State.addRelay_keeps _ (Keeps.refl _)) (State.tables_addRelay _ _)
  · exact .refl _

theorem State.dropPackets_keepsTables : KeepsTables s (s.dropPackets q) :=
  .of_tables (State.dropPackets_keeps q (Keeps.refl s)) (State.tables_dropPackets s q)

theorem State.raiseEvent_keepsTables (code : Nat) : KeepsTables s (s.raiseEvent q code) := by
  refine .of_tables (State.raiseEvent_keeps _ _ (Keeps.refl s)) ?_
  unfold State.raiseEvent State.raiseVector
  dsimp only
  split
  · rfl
  · split
    · exact State.tables_when (fun _ => State.tables_emit _ _) _ _
    · rfl

end

/-! ## Queues disabled (R246) -/

theorem State.mem_queuesOf {s : State} {q x : Nat} : x ∈ s.queuesOf q ↔
    within x 1 (s.block q).queueFirst (s.block q).queueCount = true ∧ (s.qOn x || s.queues.any fun e => e.1 == x) = true := by
  simp only [State.queuesOf, List.mem_filter, List.mem_map, List.mem_range, within, decide_eq_true_eq, and_congr_left_iff]
  exact fun _ => ⟨fun ⟨k, hk, he⟩ => by omega, fun ⟨h1, h2⟩ => ⟨x - (s.block q).queueFirst, by omega, by omega⟩⟩

theorem State.qOn_resetQueue {s : State} (h : s.regs.file.Pairwise fun x y => x.1 < y.1) (x q : Nat) :
    (s.resetQueue q).qOn x = (s.qOn x && x != q) := by
  have hset : (s.resetQueue q).qOn x = (s.setFld (F.queQctrlEn q) 0).flag (F.queQctrlEn x) := rfl
  rw [hset, State.flag]
  by_cases hx : x = q
  · rw [hx, State.fld_setFld_same _ _ _ h (by simp [F.queQctrlEn])]
    simp
  · rw [State.fld_setFld_other _ _ _ _ h (by simp only [F.queQctrlEn, Reg.addr]; omega)]
    simp [hx, State.qOn, State.flag]

/-- A list of queues reset: they are off, and the others are as they were. -/
theorem State.qOn_over_resetQueue {s : State} (h : s.regs.file.Pairwise fun x y => x.1 < y.1) (l : List Nat) (x : Nat) :
    (s.over l State.resetQueue).qOn x = (s.qOn x && !l.contains x) := by
  induction l generalizing s with
  | nil => simp [State.over]
  | cons q l ih =>
    have hsorted : (s.resetQueue q).regs.file.Pairwise fun x y => x.1 < y.1 := State.setFld_sorted s (F.queQctrlEn q) 0 h
    have hover : s.over (q :: l) State.resetQueue = (s.resetQueue q).over l State.resetQueue := rfl
    rw [hover, ih hsorted, State.qOn_resetQueue h, List.contains_cons, Bool.not_or, Bool.and_assoc, bne]

theorem State.word_resetQueue {r : Reg} {q : Nat} (hr : r.addr ≠ (Reg.queQctrl q).addr) (s : State) : (s.resetQueue q).word r = s.word r :=
  State.word_setFld_ne (s := s) (x := F.queQctrlEn q) 0 hr

theorem State.word_over_resetQueue {r : Reg} (hr : ∀ q, r.addr ≠ (Reg.queQctrl q).addr) (s : State) (l : List Nat) :
    (s.over l State.resetQueue).word r = s.word r :=
  State.view_over (State.word · r) (fun t q => State.word_resetQueue (hr q) t) s l

/-! ## What a reset changes (R246, R247) -/

/-- A partition without its scenes and hurdle generations, as a reset that disables it, or does not, leaves it. -/
def Partition.cleared (v : Partition) (disables : Bool) : Partition := { v with hurdles := [], scenes := [], resetDisables := disables }

/-- From s to t partition q has been reset: its instructions are gone, its scenes and hurdles too, its queues are off and its STATE reads
RESETTING. Every EN, the STATE of the others and the other queues are as they were, and so are the other partitions, but for their gates and
staging copies. -/
structure ResetOf (q : Nat) (disables : Bool) (s t : State) : Prop where
  canonical : t.canonical
  insts : t.insts = s.insts.filter (·.part != q)
  own : (t.partition q).frame = (s.partition q).frame.cleared disables
  others : ∀ p, p ≠ q → (t.partition p).frame = (s.partition p).frame
  enabled : ∀ p < 16, t.flag (F.parCtrlEn p) = s.flag (F.parCtrlEn p)
  state : ∀ p < 16, t.fld (F.parStatusState p) = if p = q then 2 else s.fld (F.parStatusState p)
  queues : ∀ x, t.qOn x = (s.qOn x && !within x 1 (s.block q).queueFirst (s.block q).queueCount)

/-- The last part of a reset of q, after its queues: the zeroed memories are those of block b. -/
def State.clearPart (s : State) (q : Nat) (disables : Bool) (b : PartBlock) : State :=
  let t := s.setInsts (s.insts.filter (·.part != q))
  let t := t.setPartition q ((t.partition q).cleared disables)
  ((t.zeroLocal b.foldList).zeroClaims b).setFld (F.parStatusState q) 2

theorem State.resetPartition_eq_clearPart (s : State) (q : Nat) (disables : Bool) :
    ∃ r b, KeepsTables s r ∧ s.resetPartition q disables = (r.over (r.queuesOf q) State.resetQueue).clearPart q disables b := by
  refine ⟨_, _, (State.dropPackets_keepsTables s q).trans ?_, rfl⟩
  refine .trans ?_ (State.breakHolds_keepsTables _ _ _)
  refine .trans ?_ (.setPartition (State.dropWaiters_keeps _ (Keeps.refl _)) rfl)
  refine .trans ?_ (.of_tables (State.breakPorts_keeps _ (Keeps.refl _)) (State.tables_breakPorts _ _))
  exact KeepsTables.over_list (fun t i => State.abandonInst_keepsTables t i) _ _

section

variable {s : State} (q : Nat) (disables : Bool) (b : PartBlock)

theorem State.insts_clearPart : (s.clearPart q disables b).insts = s.insts.filter (·.part != q) := rfl

theorem State.partition_clearPart_same (h : s.canonical) :
    (s.clearPart q disables b).partition q = (s.partition q).cleared disables :=
  tblGet_tblSet_same ({} : Partition) s.parts q ((s.partition q).cleared disables) h.parts.1.1

theorem State.partition_clearPart_other (h : s.canonical) {p : Nat} (hp : p ≠ q) : (s.clearPart q disables b).partition p = s.partition p :=
  tblGet_tblSet_other ({} : Partition) s.parts q p ((s.partition q).cleared disables) h.parts.1.1 hp

theorem State.fld_clearPart_other {x : Fld} (hx : x.reg.addr ≠ (Reg.parStatus q).addr) : (s.clearPart q disables b).fld x = s.fld x :=
  congrArg (fun w : Word32 => bits w.toNat x.lo x.len)
    (State.word_setFld_ne (s := ((s.setInsts _).setPartition q _).zeroLocal _ |>.zeroClaims b) (x := F.parStatusState q) 2 hx)

theorem State.state_clearPart (h : s.canonical) : (s.clearPart q disables b).fld (F.parStatusState q) = 2 :=
  State.fld_setFld_same _ _ _ h.regs.1.1 (by simp [F.parStatusState])

end

/-- Resetting queues leaves the instructions in flight, the partitions and every register but theirs. -/
theorem State.insts_over_resetQueue (s : State) (l : List Nat) : (s.over l State.resetQueue).insts = s.insts :=
  State.view_over (f := State.resetQueue) State.insts (fun _ _ => rfl) s l

theorem State.partition_over_resetQueue (s : State) (l : List Nat) (p : Nat) : (s.over l State.resetQueue).partition p = s.partition p :=
  State.view_over (f := State.resetQueue) (State.partition · p) (fun _ _ => rfl) s l

theorem State.fld_over_resetQueue {x : Fld} (hx : ∀ q, x.reg.addr ≠ (Reg.queQctrl q).addr) (s : State) (l : List Nat) :
    (s.over l State.resetQueue).fld x = s.fld x :=
  congrArg (fun w : Word32 => bits w.toNat x.lo x.len) (State.word_over_resetQueue hx s l)

/-- The queues of a partition reset: those of its block are off, and the others are as they were. -/
theorem State.qOn_over_queuesOf {s : State} (h : s.canonical) (q x : Nat) :
    (s.over (s.queuesOf q) State.resetQueue).qOn x = (s.qOn x && !within x 1 (s.block q).queueFirst (s.block q).queueCount) := by
  rw [State.qOn_over_resetQueue h.regs.1.1]
  cases hx : s.qOn x
  · rfl
  · simp [List.contains_eq_mem, State.mem_queuesOf, hx]

/-- A reset's effects, by the parts of a reset. -/
theorem State.resetPartition_resetOf {s : State} (h : s.canonical) (q : Nat) (disables : Bool) :
    ResetOf q disables s (s.resetPartition q disables) := by
  have hcanonical := (State.resetPartition_keeps q disables (Keeps.refl s)).canonical h
  obtain ⟨r, b, hr, heq⟩ := s.resetPartition_eq_clearPart q disables
  have hrc := hr.keeps.canonical h
  have hu : (r.over (r.queuesOf q) State.resetQueue).canonical := ((Keeps.refl r).over fun _ x k => State.resetQueue_keeps x k).canonical hrc
  rw [heq] at hcanonical ⊢
  refine ⟨hcanonical, ?insts, ?own, fun p hp => ?others, fun p hp => ?enabled, fun p hp => ?state, fun x => ?queues⟩
  case insts => rw [State.insts_clearPart, State.insts_over_resetQueue, hr.insts]
  case own =>
    rw [State.partition_clearPart_same q disables b hu, State.partition_over_resetQueue, ← hr.frame h q]
    rfl
  case others => rw [State.partition_clearPart_other q disables b hu hp, State.partition_over_resetQueue, hr.frame h p]
  case enabled =>
    rw [State.flag, State.flag, State.fld_clearPart_other q disables b (by simp only [F.parCtrlEn, Reg.addr]; omega),
      State.fld_over_resetQueue (fun _ => by simp only [F.parCtrlEn, Reg.addr]; omega), hr.fld]
  case state =>
    split
    next hpq => rw [hpq, State.state_clearPart q disables b hu]
    next hpq =>
      rw [State.fld_clearPart_other q disables b (by simp only [F.parStatusState, Reg.addr]; omega),
        State.fld_over_resetQueue (fun _ => by simp only [F.parStatusState, Reg.addr]; omega), hr.fld]
  case queues =>
    rw [State.qOn, State.flag, State.fld_clearPart_other q disables b (by simp only [F.queQctrlEn, Reg.addr]; omega)]
    refine (State.qOn_over_queuesOf hrc q x).trans ?_
    rw [hr.block h, State.qOn, State.qOn, State.flag, State.flag, hr.fld]

/-! ## A lost lock (R249) -/

/-- What a lost lock writes: its register, and LOCK_LOST. -/
def lockLossWrites (q : Nat) : List (Fld × Nat) :=
  [(F.parLockOwner q, 31), (F.parLockHeld q, 0), (F.parLockLeaseLeft q, 0), (F.parStatusLockLost q, 1)]

theorem apart_of_mem_lockLossWrites {y : Fld} {q : Nat} (hlock : (Reg.parLock q).addr ≠ y.reg.addr) (hlost : (F.parStatusLockLost q).Apart y) :
    ∀ x ∈ lockLossWrites q, x.1.Apart y := by
  intro x hx
  simp only [lockLossWrites, List.mem_cons, List.not_mem_nil, or_false] at hx
  obtain rfl | rfl | rfl | rfl := hx
  · exact .inl hlock
  · exact .inl hlock
  · exact .inl hlock
  · exact hlost

/-- A partition's staging copy dropped. -/
def State.dropStaging (s : State) (q : Nat) : State := s.setPartition q { s.partition q with staging := {} }

section

variable (s : State) (q : Nat)

theorem State.dropStaging_keepsTables : KeepsTables s (s.dropStaging q) :=
  .setPartition (State.setPartition_keeps q { s.partition q with staging := {} } (Keeps.refl s) fun _ c => State.gates_wf c q) rfl

/-- A lock that is not held stays as it is; one that is held is what its writes make of the state without the staging copy. -/
theorem State.loseLock_cases : s.flag (F.parLockHeld q) = false ∧ s.loseLock q = s ∨
    s.loseLock q = ((s.dropStaging q).setFlds (lockLossWrites q)).raiseEvent q Ev.lockLost := by
  cases h : s.flag (F.parLockHeld q)
  · exact .inl ⟨rfl, State.loseLock_of_free h⟩
  · exact .inr (State.loseLock_of_held h)

theorem State.insts_loseLock : (s.loseLock q).insts = s.insts := by
  obtain ⟨-, h⟩ | h := s.loseLock_cases q
  · rw [h]
  · rw [h, (State.raiseEvent_keepsTables _ _ _).insts]
    rfl

variable {s} (hc : s.canonical)

include hc

theorem State.frame_loseLock (p : Nat) : ((s.loseLock q).partition p).frame = (s.partition p).frame := by
  obtain ⟨-, h⟩ | h := s.loseLock_cases q
  · rw [h]
  · have hdrop := s.dropStaging_keepsTables q
    have hset : ((s.dropStaging q).setFlds (lockLossWrites q)).canonical :=
      (hdrop.keeps.over fun _ x k => State.setFld_keeps x.1 x.2 k).canonical hc
    rw [h, (State.raiseEvent_keepsTables _ _ _).frame hset]
    exact hdrop.frame hc p

variable {q}

theorem State.fld_loseLock {y : Fld} (hy : y.lo + y.len ≤ 32) (hlock : (Reg.parLock q).addr ≠ y.reg.addr)
    (hlost : (F.parStatusLockLost q).Apart y) : (s.loseLock q).fld y = s.fld y := by
  obtain ⟨-, h⟩ | h := s.loseLock_cases q
  · rw [h]
  · have hdrop := s.dropStaging_keepsTables q
    rw [h, (State.raiseEvent_keepsTables _ _ _).fld, State.fld_setFlds_of_apart (hdrop.keeps.canonical hc).regs.1.1 hy
      (apart_of_mem_lockLossWrites hlock hlost), hdrop.fld]

theorem State.held_loseLock : (s.loseLock q).flag (F.parLockHeld q) = false := by
  obtain ⟨hfree, h⟩ | h := s.loseLock_cases q
  · rwa [h]
  · have hapart : ((lockLossWrites q).map (·.1)).Pairwise fun x z => z.Apart x := by
      simp [lockLossWrites, Fld.Apart, F.parLockOwner, F.parLockHeld, F.parLockLeaseLeft, F.parStatusLockLost, Reg.addr]
    have hsorted := ((s.dropStaging_keepsTables q).keeps.canonical hc).regs.1.1
    rw [h, State.flag, (State.raiseEvent_keepsTables _ _ _).fld,
      State.fld_setFlds_of_mem (v := 0) hsorted (by simp [F.parLockHeld]) hapart (by simp [lockLossWrites])]
    rfl

end

/-! ## A partition that stands reset (R245, R246) -/

/-- What keeps a partition reset: its STATE, its scenes and hurdles are as they were, and no instruction has come in flight and no queue on. -/
theorem IsReset.of_leaves {s t u : State} {p : Nat} (h : IsReset s t p) (hstate : u.fld (F.parStatusState p) = t.fld (F.parStatusState p))
    (hinsts : u.insts ⊆ t.insts) (hframe : (u.partition p).frame = (t.partition p).frame) (hqueues : ∀ x, t.qOn x = false → u.qOn x = false) :
    IsReset s u p := by
  obtain ⟨h2, hclean, hscenes, hhurdles, hoff⟩ := h
  refine ⟨hstate.trans h2, fun i hi => hclean i (hinsts hi), ?_, ?_, fun x hx => hqueues x (hoff x hx)⟩
  · rw [← Partition.frame_scenes, hframe, Partition.frame_scenes, hscenes]
  · rw [← Partition.frame_hurdles, hframe, Partition.frame_hurdles, hhurdles]

theorem ResetOf.isReset {s t : State} {p : Nat} {disables : Bool} (h : ResetOf p disables s t) (hp : p < 16) : IsReset s t p := by
  refine ⟨(h.state p hp).trans (if_pos rfl), fun i hi => ?_, ?_, ?_, fun x hx => ?_⟩
  · rw [h.insts] at hi
    simpa using (List.mem_filter.mp hi).2
  · rw [← Partition.frame_scenes, h.own]
    rfl
  · rw [← Partition.frame_hurdles, h.own]
    rfl
  · rw [h.queues, hx, Bool.not_true, Bool.and_false]

theorem ResetOf.resetDisables {s t : State} {p : Nat} {disables : Bool} (h : ResetOf p disables s t) : (t.partition p).resetDisables = disables := by
  rw [← Partition.frame_resetDisables, h.own]
  rfl

/-- In t, partition p is still to be reset: enabled, not RESETTING, with the block it has in s. -/
structure AwaitsReset (s t : State) (p : Nat) : Prop where
  canonical : t.canonical
  enabled : t.flag (F.parCtrlEn p) = true
  state : t.fld (F.parStatusState p) ≠ 2
  block : t.block p = s.block p

/-- In t, partition p has been reset and is enabled. -/
structure StandsReset (s t : State) (p : Nat) : Prop where
  canonical : t.canonical
  enabled : t.flag (F.parCtrlEn p) = true
  reset : IsReset s t p

section

variable {s t : State} {p : Nat}

theorem AwaitsReset.resetPartition (h : AwaitsReset s t p) (hp : p < 16) (disables : Bool) : StandsReset s (t.resetPartition p disables) p := by
  have hreset := State.resetPartition_resetOf h.canonical p disables
  refine ⟨hreset.canonical, (hreset.enabled p hp).trans h.enabled, ?_⟩
  obtain ⟨h2, hclean, hscenes, hhurdles, hoff⟩ := hreset.isReset hp
  exact ⟨h2, hclean, hscenes, hhurdles, h.block ▸ hoff⟩

theorem AwaitsReset.triggerReset (h : AwaitsReset s t p) (hp : p < 16) : StandsReset s (t.triggerReset p) p := by
  rw [State.triggerReset, if_pos ⟨h.enabled, h.state⟩]
  exact h.resetPartition hp false

theorem AwaitsReset.triggerReset_other (h : AwaitsReset s t p) (hp : p < 16) {q : Nat} (hq : p ≠ q) : AwaitsReset s (t.triggerReset q) p := by
  unfold State.triggerReset
  split
  · have hreset := State.resetPartition_resetOf h.canonical q false
    refine ⟨hreset.canonical, (hreset.enabled p hp).trans h.enabled, ?_, ?_⟩
    · rw [hreset.state p hp, if_neg hq]
      exact h.state
    · rw [State.block, ← Partition.frame_block, hreset.others p hq, Partition.frame_block]
      exact h.block
  · exact h

theorem StandsReset.triggerReset (h : StandsReset s t p) (hp : p < 16) (q : Nat) : StandsReset s (t.triggerReset q) p := by
  unfold State.triggerReset
  split
  next hc =>
    have hq : p ≠ q := fun hq => hc.2 (hq ▸ h.reset.1)
    have hreset := State.resetPartition_resetOf h.canonical q false
    refine ⟨hreset.canonical, (hreset.enabled p hp).trans h.enabled,
      h.reset.of_leaves ((hreset.state p hp).trans (if_neg hq)) ?_ (hreset.others p hq) fun x hx => ?_⟩
    · rw [hreset.insts]
      exact List.filter_subset_self _
    · rw [hreset.queues, hx, Bool.false_and]
  next => exact h

theorem StandsReset.loseLock (h : StandsReset s t p) {q : Nat} (hq : q < 16) : StandsReset s (t.loseLock q) p := by
  have henabled : (t.loseLock q).fld (F.parCtrlEn p) = t.fld (F.parCtrlEn p) :=
    State.fld_loseLock h.canonical (by simp [F.parCtrlEn]) (by simp only [F.parCtrlEn, Reg.addr]; omega)
      (.inl (by simp only [F.parStatusLockLost, F.parCtrlEn, Reg.addr]; omega))
  refine ⟨(State.loseLock_keeps q (Keeps.refl t)).canonical h.canonical, (congrArg (· == 1) henabled).trans h.enabled,
    h.reset.of_leaves ?state (t.insts_loseLock q ▸ List.Subset.refl _) (State.frame_loseLock q h.canonical p) fun x hx => ?off⟩
  case state =>
    refine State.fld_loseLock h.canonical (by simp [F.parStatusState]) (by simp only [F.parStatusState, Reg.addr]; omega) ?_
    by_cases hpq : p = q
    · exact .inr ⟨by rw [hpq]; rfl, .inr (by simp [F.parStatusState, F.parStatusLockLost])⟩
    · exact .inl (by simp only [F.parStatusLockLost, F.parStatusState, Reg.addr]; omega)
  case off =>
    refine (congrArg (· == 1) (State.fld_loseLock h.canonical (y := F.queQctrlEn x) (by simp [F.queQctrlEn]) ?_ (.inl ?_))).trans hx
    · simp only [F.queQctrlEn, Reg.addr]
      omega
    · simp only [F.parStatusLockLost, F.queQctrlEn, Reg.addr]
      omega

theorem StandsReset.over {f : State → Nat → State} {l : List Nat} (hf : ∀ u, ∀ q ∈ l, StandsReset s u p → StandsReset s (f u q) p)
    (h : StandsReset s t p) : StandsReset s (t.over l f) p := by
  induction l generalizing t with
  | nil => exact h
  | cons q l ih => exact ih (fun u x hx => hf u x (List.mem_cons_of_mem _ hx)) (hf t q List.mem_cons_self h)

/-- Partitions reset in turn, among them one that awaits it. -/
theorem AwaitsReset.triggerResets (h : AwaitsReset s t p) (hp : p < 16) {l : List Nat} (hl : p ∈ l) :
    StandsReset s (t.over l fun s q => s.triggerReset q) p := by
  induction l generalizing t with
  | nil => exact absurd hl List.not_mem_nil
  | cons q l ih =>
    by_cases hq : p = q
    · subst hq
      exact (AwaitsReset.triggerReset h hp).over (l := l) fun _ x _ hu => hu.triggerReset hp x
    · exact ih (h.triggerReset_other hp hq) ((List.mem_cons.mp hl).resolve_left hq)

end

/-! ## Functions reset (R245, R249, R331) -/

section

variable {s : State} {p : Nat} (hc : s.canonical) (hp : p < 16) (hlive : s.live p = true) (hen : s.flag (F.parCtrlEn p) = true)
  (hstate : s.fld (F.parStatusState p) ≠ 2)

include hc hp hlive hen hstate

theorem State.resetFn_stands {fn : Nat} (hfn : fn = 0 ∨ (s.block p).fn = fn) : StandsReset s (s.resetFn fn) p := by
  refine AwaitsReset.triggerResets ⟨hc, hen, hstate, rfl⟩ hp (List.mem_filter.mpr ⟨List.mem_range.mpr hp, ?_⟩)
  simpa [hlive] using hfn

theorem State.loseFnLocks_stands {fn : Nat} (hfn : fn = 0 ∨ (s.block p).fn = fn) : StandsReset s ((s.resetFn fn).loseFnLocks fn) p :=
  (State.resetFn_stands hc hp hlive hen hstate hfn).over fun _ _ hq hu => hu.loseLock (List.mem_range.mp (List.mem_filter.mp hq).1)

end

theorem State.byHost_of_up {s : State} (h : s.host.pcieUp = true) (f : State → State) : s.byHost f = f s := if_pos h

theorem exec_functionLevelReset {s : State} (h : s.host.pcieUp = true) (fn : FnNo) :
    exec (.functionLevelReset fn) s = .next (s.resetFunction fn) := congrArg Host.Outcome.next (State.byHost_of_up h _)

theorem exec_d3hotEntry {s : State} (h : s.host.pcieUp = true) {fn : FnNo} (hd : fn.val ∉ s.host.d3hot) :
    exec (.d3hotEntry fn) s = .next ((s.resetFn fn).setHost { s.host with d3hot := fn.val :: s.host.d3hot }) :=
  congrArg Host.Outcome.next ((State.byHost_of_up h _).trans (if_neg hd))

theorem exec_hotReset {s : State} (h : s.host.pcieUp = true) : exec .hotReset s = .next s.hotReset :=
  congrArg Host.Outcome.next (State.byHost_of_up h _)

/-- A function-level reset returns its function to D0. -/
theorem State.not_mem_d3hot_resetFunction (s : State) (fn : Nat) : fn ∉ (s.resetFunction fn).host.d3hot := by
  simp only [State.resetFunction, State.setHost_host]
  split <;> simp

/-- The physical function's partitions are all of them. -/
theorem State.fnParts_zero (s : State) : s.fnParts 0 = (List.range 16).filter s.live := by simp [State.fnParts]

/-! ## Enable and disable (R234, R247) -/

section

variable {s : State} {p : Nat}

theorem State.enablePart_of_disabled (hen : s.flag (F.parCtrlEn p) = false) (hstate : s.fld (F.parStatusState p) = 0) :
    s.enablePart p = if s.enableCause p = 0 then s.grantEnable p else s.refuseEnable p (s.enableCause p) :=
  if_neg (by simp [hen, hstate])

theorem State.triggerReset_of_enabled (hen : s.flag (F.parCtrlEn p) = true) (hstate : s.fld (F.parStatusState p) ≠ 2) (disables : Bool) :
    s.triggerReset p disables = s.resetPartition p disables := if_pos ⟨hen, hstate⟩

theorem State.disablePart_of_enabled (hen : s.flag (F.parCtrlEn p) = true) (hstate : s.fld (F.parStatusState p) ≠ 2) :
    s.disablePart p = ((s.resetPartition p true).loseLock p).setFld (F.parCtrlEn p) 0 := by
  rw [State.disablePart, if_pos ⟨hen, hstate⟩, State.triggerReset_of_enabled hen hstate]

/-- What a disable leaves: the partition reset, its lock lost and EN 0. -/
theorem State.disablePart_leaves (hc : s.canonical) (hp : p < 16) (hen : s.flag (F.parCtrlEn p) = true)
    (hstate : s.fld (F.parStatusState p) ≠ 2) :
    let t := ((s.resetPartition p true).loseLock p).setFld (F.parCtrlEn p) 0
    IsReset s t p ∧ t.flag (F.parCtrlEn p) = false ∧ (t.partition p).resetDisables = true ∧ t.flag (F.parLockHeld p) = false := by
  have hreset := State.resetPartition_resetOf hc p true
  have hstands : StandsReset s ((s.resetPartition p true).loseLock p) p :=
    (AwaitsReset.resetPartition ⟨hc, hen, hstate, rfl⟩ hp true).loseLock hp
  have hsorted := hstands.canonical.regs.1.1
  refine ⟨hstands.reset.of_leaves ?state (List.Subset.refl _) rfl fun x hx => ?off, ?en, ?disables, ?held⟩
  case state => exact State.fld_setFld_other _ _ _ _ hsorted (by simp only [F.parStatusState, F.parCtrlEn, Reg.addr]; omega)
  case off =>
    rw [State.qOn, State.flag, State.fld_setFld_other _ _ _ _ hsorted (by simp only [F.queQctrlEn, F.parCtrlEn, Reg.addr]; omega)]
    exact hx
  case en =>
    rw [State.flag, State.fld_setFld_same _ _ _ hsorted (by simp [F.parCtrlEn])]
    rfl
  case disables =>
    rw [State.setFld_partition, ← Partition.frame_resetDisables, State.frame_loseLock p hreset.canonical, Partition.frame_resetDisables,
      hreset.resetDisables]
  case held =>
    rw [State.flag, State.fld_setFld_other _ _ _ _ hsorted (by simp only [F.parLockHeld, F.parCtrlEn, Reg.addr]; omega)]
    exact State.held_loseLock hreset.canonical

end

/-! ## The rows -/

/-- Settles O26: the rows of a partition by the branches of their meanings, and what a reset leaves by what each later reset and lost lock
leaves of it. -/
theorem partitionRowsComplete : Obligations.PartitionRowsComplete := by
  refine ⟨⟨fun s p hup hen hstate hcause => ?enable, fun s p hup hen hstate hcause => ?refused, fun s p hen hstate => ?enabled,
    fun s p hup hen hstate => ⟨?disable, ?reset⟩, fun s p hc hup hen hstate _ => ⟨?resetLeaves, ?disableLeaves⟩, fun s p hstate => ?done⟩,
    fun s fn hup => ⟨exec_functionLevelReset hup fn, fun hd => exec_d3hotEntry hup hd, ?hot⟩,
    fun s fn hc hup _ => ⟨?functionLeaves, fun hd => ?d3Leaves, ?hotLeaves⟩⟩
  case enable =>
    exact congrArg Host.Outcome.next ((State.byHost_of_up hup _).trans ((State.enablePart_of_disabled hen hstate).trans (if_pos hcause)))
  case refused =>
    exact congrArg Host.Outcome.next ((State.byHost_of_up hup _).trans ((State.enablePart_of_disabled hen hstate).trans (if_neg hcause)))
  case enabled => exact congrArg Host.Outcome.next (if_pos ⟨hen, hstate⟩)
  case disable => exact congrArg Host.Outcome.next ((State.byHost_of_up hup _).trans (State.disablePart_of_enabled hen hstate))
  case reset => exact congrArg Host.Outcome.next ((State.byHost_of_up hup _).trans (State.triggerReset_of_enabled hen hstate false))
  case resetLeaves =>
    obtain ⟨-, hkept, hleaves⟩ := AwaitsReset.resetPartition ⟨hc, hen, hstate, rfl⟩ p.isLt false
    exact ⟨_, congrArg Host.Outcome.next ((State.byHost_of_up hup _).trans (State.triggerReset_of_enabled hen hstate false)), hleaves, hkept,
      (State.resetPartition_resetOf hc p false).resetDisables⟩
  case disableLeaves =>
    exact ⟨_, congrArg Host.Outcome.next ((State.byHost_of_up hup _).trans (State.disablePart_of_enabled hen hstate)),
      State.disablePart_leaves hc p.isLt hen hstate⟩
  case done => exact congrArg Host.Outcome.next (if_pos hstate)
  case hot => rw [exec_hotReset hup, State.hotReset, State.resetFn, State.fnParts_zero]
  case functionLeaves =>
    refine ⟨_, exec_functionLevelReset hup fn, s.not_mem_d3hot_resetFunction fn, fun p ⟨hp, hlive, hfn, hen⟩ hstate => ?_⟩
    obtain ⟨-, hkept, hleaves⟩ := State.loseFnLocks_stands hc hp hlive hen hstate hfn
    exact ⟨hleaves, hkept⟩
  case d3Leaves =>
    refine ⟨_, exec_d3hotEntry hup hd, List.mem_cons_self, fun p ⟨hp, hlive, hfn, hen⟩ hstate => ?_⟩
    obtain ⟨-, hkept, hleaves⟩ := State.resetFn_stands hc hp hlive hen hstate hfn
    exact ⟨hleaves, hkept⟩
  case hotLeaves =>
    refine ⟨_, exec_hotReset hup, rfl, fun p ⟨hp, hlive, hfn, hen⟩ hstate => ?_⟩
    obtain ⟨-, hkept, hleaves⟩ := State.resetFn_stands hc hp hlive hen hstate hfn
    exact ⟨hleaves, hkept⟩

end Sys2Proof.Machine
end

section
/-!
Proofs about the device-fault path (R258, R262 to R271, R276): what a suspension, a withdrawal and a rewind leave, what a decision and a
wings copy make of their partition, and the rows.
-/

namespace Sys2Proof.Machine

/-! ## Folds over a list -/

theorem State.over_induct {α : Type} {f : State → α → State} {P : State → Prop} {l : List α} (keep : ∀ s, ∀ y ∈ l, P s → P (f s y))
    {s : State} (h : P s) : P (s.over l f) := by
  induction l generalizing s with
  | nil => exact h
  | cons y l ih => exact ih (fun t z hz => keep t z (List.mem_cons_of_mem _ hz)) (keep s y List.mem_cons_self h)

/-- What the step at x establishes, the steps at other elements keep: the fold establishes it, when I holds up to that step. -/
theorem State.over_of_mem {α : Type} {f : State → α → State} {I P : State → Prop} {l : List α} {x : α} (hl : l.Nodup) (hx : x ∈ l)
    (before : ∀ s, ∀ y ∈ l, y ≠ x → I s → I (f s y)) (step : ∀ s, I s → P (f s x)) (after : ∀ s, ∀ y ∈ l, y ≠ x → P s → P (f s y))
    {s : State} (h : I s) : P (s.over l f) := by
  induction l generalizing s with
  | nil => exact absurd hx List.not_mem_nil
  | cons y l ih =>
    obtain ⟨hy, hl⟩ := List.nodup_cons.mp hl
    rcases List.mem_cons.mp hx with rfl | hx
    · exact State.over_induct (l := l) (fun t z hz => after t z (List.mem_cons_of_mem _ hz) fun e => hy (e ▸ hz)) (step s h)
    · exact ih hl hx (fun t z hz => before t z (List.mem_cons_of_mem _ hz)) (fun t z hz => after t z (List.mem_cons_of_mem _ hz))
        (before s y List.mem_cons_self (fun e => hy (e ▸ hx)) h)

theorem State.queuesOf_nodup (s : State) (p : Nat) : (s.queuesOf p).Nodup :=
  (List.nodup_range.map fun _ _ h => Nat.add_left_cancel h).filter _

/-! ## Registers -/

theorem State.fld_setFld_ne {s : State} {x y : Fld} (v : Nat) (h : y.reg.addr ≠ x.reg.addr) : (s.setFld x v).fld y = s.fld y :=
  State.fld_of_word (State.word_setFld_ne v h)

theorem parRstatus_addr_ne_queQctrl {p : Nat} (_hp : p < 16) (q : Nat) : (Reg.parRstatus p).addr ≠ (Reg.queQctrl q).addr := by
  simp only [Reg.addr]
  omega

theorem State.phase_setFld {s : State} (h : s.canonical) (p v : Nat) :
    (s.setFld (F.parRstatusPhase p) v).fld (F.parRstatusPhase p) = v % 8 :=
  State.fld_setFld_same _ _ _ h.regs.1.1 (by simp [F.parRstatusPhase])

/-- PHASE stands apart from the flags of its register. -/
theorem parRstatusPhase_apart {p : Nat} {x : Fld} (hx : x = F.parRstatusReplayed p ∨ x = F.parRstatusPromoted p ∨ x = F.parRstatusSuspended p) :
    (F.parRstatusPhase p).Apart x ∧ x.Apart (F.parRstatusPhase p) := by
  obtain rfl | rfl | rfl := hx
  all_goals exact ⟨.inr ⟨rfl, .inl (by simp [F.parRstatusPhase, F.parRstatusReplayed, F.parRstatusPromoted, F.parRstatusSuspended])⟩,
    .inr ⟨rfl, .inr (by simp [F.parRstatusPhase, F.parRstatusReplayed, F.parRstatusPromoted, F.parRstatusSuspended])⟩⟩

theorem State.phase_setFld_flag {s : State} (h : s.canonical) {p : Nat} {x : Fld}
    (hx : x = F.parRstatusReplayed p ∨ x = F.parRstatusPromoted p ∨ x = F.parRstatusSuspended p) (v : Nat) :
    (s.setFld x v).fld (F.parRstatusPhase p) = s.fld (F.parRstatusPhase p) :=
  State.fld_setFld_of_apart h.regs.1.1 (by simp [F.parRstatusPhase]) (parRstatusPhase_apart hx).2 v

/-! ## Suspension (R271) -/

theorem State.halted_over_haltQueue {s : State} (h : s.canonical) {l : List Nat} (hl : l.Nodup) {q : Nat} (hq : q ∈ l) :
    (s.over l State.haltQueue).flag (F.queQctrlHalted q) = true := by
  refine State.over_of_mem (I := fun t => t.canonical) (P := fun t => t.flag (F.queQctrlHalted q) = true) hl hq
    (fun t y _ _ ht => (State.haltQueue_keeps y (Keeps.refl t)).canonical ht) (fun t ht => ?_) (fun t y _ hy ht => ?_) h
  · rw [State.flag, State.haltQueue, State.fld_setFld_same _ _ _ ht.regs.1.1 (by simp [F.queQctrlHalted])]
    rfl
  · rw [State.flag, State.haltQueue, State.fld_setFld_ne _ (by simp only [F.queQctrlHalted, Reg.addr]; omega)]
    exact ht

/-- From s to t partition p has been suspended: PHASE and SUSPENDED, its queues halted, and no partition changed but for its gates and
staging copy. -/
structure SuspendsPart (p : Nat) (s t : State) : Prop where
  canonical : t.canonical
  phase : t.fld (F.parRstatusPhase p) = 5
  suspended : t.flag (F.parRstatusSuspended p) = true
  frame : ∀ x, (t.partition x).frame = (s.partition x).frame
  halted : ∀ q, within q 1 (s.block p).queueFirst (s.block p).queueCount = true → s.qOn q = true → t.flag (F.queQctrlHalted q) = true

theorem State.suspend_suspends {s : State} (h : s.canonical) {p : Nat} (hp : p < 16) (code : Nat) : SuspendsPart p s (s.suspend p code) := by
  have hcanonical := (State.suspend_keeps p code (Keeps.refl s)).canonical h
  obtain ⟨l, hl⟩ : ∃ l, l = (s.queuesOf p).filter fun q => s.qOn q := ⟨_, rfl⟩
  obtain ⟨u, hu⟩ : ∃ u, u = (s.over l State.haltQueue).setFld (F.parRstatusPhase p) 5 := ⟨_, rfl⟩
  have heq : s.suspend p code = (u.setFld (F.parRstatusSuspended p) 1).raiseEvent p code := by rw [hu, hl]; rfl
  have hhalt : (s.over l State.haltQueue).canonical := ((Keeps.refl s).over fun _ q k => State.haltQueue_keeps q k).canonical h
  have huc : u.canonical := hu ▸ (State.setFld_keeps _ _ (Keeps.refl _)).canonical hhalt
  have hraise := State.raiseEvent_keepsTables (u.setFld (F.parRstatusSuspended p) 1) p code
  rw [heq] at hcanonical ⊢
  refine ⟨hcanonical, ?phase, ?suspended, fun x => ?frame, fun q hq hon => ?halted⟩
  case phase =>
    rw [hraise.fld, State.phase_setFld_flag huc (.inr (.inr rfl)), hu, State.phase_setFld hhalt]
  case suspended =>
    rw [State.flag, hraise.fld, State.fld_setFld_same _ _ _ huc.regs.1.1 (by simp [F.parRstatusSuspended])]
    rfl
  case frame =>
    rw [hraise.frame ((State.setFld_keeps _ _ (Keeps.refl u)).canonical huc), State.setFld_partition, hu, State.setFld_partition]
    exact congrArg Partition.frame (State.view_over (f := State.haltQueue) (State.partition · x) (fun _ _ => rfl) s l)
  case halted =>
    have hmem : q ∈ l := by
      rw [hl]
      exact List.mem_filter.mpr ⟨State.mem_queuesOf.mpr ⟨hq, by simp [hon]⟩, hon⟩
    have hne := (parRstatus_addr_ne_queQctrl hp q).symm
    rw [State.flag, hraise.fld, State.fld_setFld_ne _ hne, hu, State.fld_setFld_ne _ hne]
    exact State.halted_over_haltQueue h (hl ▸ (State.queuesOf_nodup s p).filter _) hmem

/-! ## Events and records (R253, R301, R335) -/

/-- From a to s the event ring and the ledger may have been written: no instruction in flight, no partition but for its gates and staging
copy, and no register but LDG.STATUS and PCI.EVT_STAT has changed. -/
structure LogsOnly (a s : State) : Prop where
  keeps : Keeps a s
  insts : s.insts = a.insts
  frame : a.canonical → ∀ p, (s.partition p).frame = (a.partition p).frame
  word : ∀ r : Reg, r.addr ≠ Reg.ldgStatus.addr → r.addr ≠ Reg.pciEvtStat.addr → s.word r = a.word r

namespace LogsOnly

variable {a s t : State}

theorem trans (h : LogsOnly a s) (k : LogsOnly s t) : LogsOnly a t :=
  ⟨h.keeps.trans k.keeps, k.insts.trans h.insts, fun c p => (k.frame (h.keeps.canonical c) p).trans (h.frame c p),
    fun r h1 h2 => (k.word r h1 h2).trans (h.word r h1 h2)⟩

theorem of_keepsTables (h : KeepsTables a s) : LogsOnly a s :=
  ⟨h.keeps, h.insts, h.frame, fun r _ _ => by rw [State.word, State.word, h.regs, h.keeps.part]⟩

theorem of_tables (hk : Keeps a s) (h : s.tables = a.tables) : LogsOnly a s := of_keepsTables (.of_tables hk h)

theorem setFld (x : Fld) (v : Nat) (hx : x.reg = .ldgStatus ∨ x.reg = .pciEvtStat) : LogsOnly s (s.setFld x v) := by
  refine ⟨State.setFld_keeps _ _ (Keeps.refl s), rfl, fun _ _ => rfl, fun r h1 h2 => State.word_setFld_ne v ?_⟩
  rcases hx with hx | hx <;> rwa [hx]

theorem fld (h : LogsOnly a s) {x : Fld} (h1 : x.reg.addr ≠ Reg.ldgStatus.addr) (h2 : x.reg.addr ≠ Reg.pciEvtStat.addr) :
    s.fld x = a.fld x := State.fld_of_word (h.word _ h1 h2)

end LogsOnly

section

variable (s : State)

theorem State.eventLost_logsOnly : LogsOnly s s.eventLost := .setFld _ _ (.inr rfl)

theorem State.eventWrite_logsOnly (code unit detail cue : Nat) : LogsOnly s (s.eventWrite code unit detail cue) := by
  have hring : ∀ fn a bs v, LogsOnly s ((s.writeHost fn a bs).setFld F.pciEvtStatTail v) := fun fn a bs v =>
    (LogsOnly.of_tables (State.writeHost_keeps _ _ _ (Keeps.refl s)) rfl).trans (.setFld _ _ (.inr rfl))
  unfold State.eventWrite
  dsimp only
  split
  · exact s.eventLost_logsOnly
  · split
    · exact (hring _ _ _ _).trans (.of_tables (Keeps.setHost _ (Keeps.refl _)) (State.tables_setHost _ _))
    · exact hring _ _ _ _

theorem State.raiseGlobal_logsOnly (code unit : Nat) : LogsOnly s (s.raiseGlobal code unit) := by
  have hnote : LogsOnly s (s.drawNat.2.hubEvent ⟨s.time.cue, code, unit, s.drawNat.1 % 2 ^ 32⟩) :=
    .of_tables (State.hubEvent_keeps _ (State.drawNat_keeps (Keeps.refl s))) rfl
  have hsend : ∀ t : State, LogsOnly t ((t.msix 0 0).emit .inband) := fun t =>
    .of_tables (Keeps.emit _ (State.msix_keeps _ _ (Keeps.refl t))) (State.tables_when (fun _ => State.tables_emit _ _) t _)
  refine .trans (.trans hnote ?_) (hsend _)
  split
  · exact State.eventWrite_logsOnly _ _ _ _ _
  · split
    · exact State.eventLost_logsOnly _
    · split
      · exact .of_tables (Keeps.setHost _ (Keeps.refl _)) (State.tables_setHost _ _)
      · exact State.eventLost_logsOnly _

theorem State.setLedg_logsOnly {v : LedgState} (h : v.slots = s.ledg.slots) : LogsOnly s (s.setLedg v) :=
  .of_tables (Keeps.setLedg v (Keeps.refl s) fun k => by rw [LedgState.wf, h]; exact k) (State.tables_setLedg s v)

theorem State.beginRecord_logsOnly (kind : Nat) : LogsOnly s (s.beginRecord kind) := by
  have hshadow : LogsOnly s (s.setLedg { s.ledg with shadow := s.imageNow }) := State.setLedg_logsOnly s rfl
  unfold State.beginRecord
  dsimp only
  split
  · exact hshadow
  · split
    · exact hshadow.trans (State.setLedg_logsOnly _ rfl)
    · refine .trans ?_ (.setFld _ _ (.inl rfl))
      exact hshadow.trans (State.setLedg_logsOnly _ rfl)

theorem State.recordSparing_logsOnly (unit : Nat) : LogsOnly s (s.recordSparing unit) := by
  have hdraw : ∀ t : State, LogsOnly t t.drawNat.2 := fun t => .of_tables (State.drawNat_keeps (Keeps.refl t)) (State.tables_setFree _ _)
  have hnote : ∀ (t : State) (code : Nat), LogsOnly t (t.noteHistory code unit) := fun t code => (hdraw t).trans (State.setLedg_logsOnly _ rfl)
  exact ((hdraw s).trans (hnote _ _)).trans (State.beginRecord_logsOnly _ 2)

end

/-! ## Withdrawal (R258) -/

/-- A register of partition p's own: CTRL, STATUS or RSTATUS. -/
def Reg.ofPart (p : Nat) (r : Reg) : Prop := r = .parCtrl p ∨ r = .parStatus p ∨ r = .parRstatus p

theorem Reg.ofPart.apart {p : Nat} (hp : p < 16) {r : Reg} (hr : r.ofPart p) :
    r.addr ≠ Reg.ldgStatus.addr ∧ r.addr ≠ Reg.pciEvtStat.addr ∧ (∀ q, r.addr ≠ (Reg.queQctrl q).addr) ∧
      ∀ q, q ≠ p → r.addr ≠ (Reg.parStatus q).addr ∧ r.addr ≠ (Reg.parRstatus q).addr := by
  obtain rfl | rfl | rfl := hr
  all_goals
    simp only [Reg.addr]
    exact ⟨by omega, by omega, fun _ => by omega, fun _ _ => by omega⟩

theorem State.resetWork_eq_clearPart (s : State) (q : Nat) (disables : Bool) :
    ∃ r b, KeepsTables s r ∧ s.resetWork q disables = (r.over (r.queuesOf q) State.resetQueue).clearPart q disables b := by
  refine ⟨_, _, ?_, rfl⟩
  refine .trans ?_ (State.breakHolds_keepsTables _ _ _)
  refine .trans ?_ (.setPartition (State.dropWaiters_keeps _ (Keeps.refl _)) rfl)
  refine .trans ?_ (.of_tables (State.breakPorts_keeps _ (Keeps.refl _)) (State.tables_breakPorts _ _))
  exact KeepsTables.over_list (fun t i => State.abandonInst_keepsTables t i) _ _

section

variable (s : State) (q : Nat) (disables : Bool)

theorem State.insts_resetWork : (s.resetWork q disables).insts = s.insts.filter (·.part != q) := by
  obtain ⟨r, b, hr, heq⟩ := s.resetWork_eq_clearPart q disables
  rw [heq, State.insts_clearPart, State.insts_over_resetQueue, hr.insts]

theorem State.fld_resetWork {x : Fld} (hstatus : x.reg.addr ≠ (Reg.parStatus q).addr) (hqueue : ∀ k, x.reg.addr ≠ (Reg.queQctrl k).addr) :
    (s.resetWork q disables).fld x = s.fld x := by
  obtain ⟨r, b, hr, heq⟩ := s.resetWork_eq_clearPart q disables
  rw [heq, State.fld_clearPart_other q disables b hstatus, State.fld_over_resetQueue hqueue, hr.fld]

theorem State.state_resetWork (h : s.canonical) : (s.resetWork q disables).fld (F.parStatusState q) = 2 := by
  obtain ⟨r, b, hr, heq⟩ := s.resetWork_eq_clearPart q disables
  rw [heq, State.state_clearPart q disables b]
  exact ((Keeps.refl r).over fun _ x k => State.resetQueue_keeps x k).canonical (hr.keeps.canonical h)

/-- A partition's part in a withdrawal: what changes no register and no instruction, its reset, and PHASE. -/
theorem State.withdrawPart_eq : ∃ r, KeepsTables s r ∧ s.withdrawPart q =
    (r.when ((s.flag (F.parCtrlEn q) && s.fld (F.parStatusState q) != 2) = true) (·.resetWork q false)).setFld (F.parRstatusPhase q) 7 := by
  refine ⟨_, ?_, rfl⟩
  refine (KeepsTables.when (fun t => t.dropPackets_keepsTables q) s
    ((s.flag (F.parCtrlEn q) && s.fld (F.parStatusState q) != 2) = true)).trans ?_
  split
  · exact .of_tables (State.sendAbsent_keeps q _ (Keeps.refl _)) (State.tables_sendAbsent _ _ _)
  · exact .refl _

end

/-- In t, partition p has withdrawn: reset, still enabled, PHASE WITHDRAWN. -/
structure HasWithdrawn (p : Nat) (t : State) : Prop where
  canonical : t.canonical
  phase : t.fld (F.parRstatusPhase p) = 7
  state : t.fld (F.parStatusState p) = 2
  enabled : t.flag (F.parCtrlEn p) = true
  clean : ∀ i ∈ t.insts, i.part ≠ p

section

variable {s t : State} {p : Nat}

theorem HasWithdrawn.of_leaves (h : HasWithdrawn p s) (hc : t.canonical) (hfld : ∀ x : Fld, x.reg.ofPart p → t.fld x = s.fld x)
    (hinsts : t.insts ⊆ s.insts) : HasWithdrawn p t :=
  ⟨hc, (hfld _ (.inr (.inr rfl))).trans h.phase, (hfld _ (.inr (.inl rfl))).trans h.state,
    (congrArg (· == 1) (hfld (F.parCtrlEn p) (.inl rfl))).trans h.enabled, fun i hi => h.clean i (hinsts hi)⟩

variable (hp : p < 16)

include hp

/-- Another partition's part in a withdrawal leaves partition p's registers, and no instruction comes in flight. -/
theorem State.withdrawPart_other {q : Nat} (hq : q ≠ p) :
    (∀ x : Fld, x.reg.ofPart p → (s.withdrawPart q).fld x = s.fld x) ∧ (s.withdrawPart q).insts ⊆ s.insts := by
  obtain ⟨r, hr, heq⟩ := s.withdrawPart_eq q
  rw [heq]
  refine ⟨fun x hx => ?_, ?_⟩
  · obtain ⟨-, -, hqueue, hother⟩ := hx.apart hp
    obtain ⟨hstatus, hrstatus⟩ := hother q hq
    rw [State.fld_setFld_ne _ hrstatus, State.when]
    split
    · rw [State.fld_resetWork r q false hstatus hqueue, hr.fld]
    · exact hr.fld x
  · rw [State.setFld_insts, State.when]
    split
    · rw [State.insts_resetWork, hr.insts]
      exact List.filter_subset_self _
    · rw [hr.insts]
      exact List.Subset.refl _

theorem HasWithdrawn.logsOnly (h : HasWithdrawn p s) (hl : LogsOnly s t) : HasWithdrawn p t :=
  h.of_leaves (hl.keeps.canonical h.canonical) (fun _ hx => hl.fld (hx.apart hp).1 (hx.apart hp).2.1) (hl.insts ▸ List.Subset.refl _)

theorem State.withdrawPart_own (h : s.canonical) (hen : s.flag (F.parCtrlEn p) = true) (hstate : s.fld (F.parStatusState p) ≠ 2) :
    HasWithdrawn p (s.withdrawPart p) := by
  have hcanonical := (State.withdrawPart_keeps p (Keeps.refl s)).canonical h
  obtain ⟨r, hr, heq⟩ := s.withdrawPart_eq p
  have hrc := hr.keeps.canonical h
  rw [State.when, if_pos (by simp [hen, hstate])] at heq
  have hwc : (r.resetWork p false).canonical := (State.resetWork_keeps p false (Keeps.refl r)).canonical hrc
  rw [heq] at hcanonical ⊢
  refine ⟨hcanonical, State.phase_setFld hwc p 7, ?state, ?enabled, fun i hi => ?clean⟩
  case state =>
    rw [State.fld_setFld_ne _ (by simp only [F.parStatusState, F.parRstatusPhase, Reg.addr]; omega), State.state_resetWork r p false hrc]
  case enabled =>
    rw [State.flag, State.fld_setFld_ne _ (by simp only [F.parCtrlEn, F.parRstatusPhase, Reg.addr]; omega),
      State.fld_resetWork r p false (by simp only [F.parCtrlEn, Reg.addr]; omega) (fun k => by simp only [F.parCtrlEn, Reg.addr]; omega),
      hr.fld]
    exact hen
  case clean =>
    rw [State.setFld_insts, State.insts_resetWork] at hi
    simpa using (List.mem_filter.mp hi).2

/-- The device's withdrawal, for a partition that it withdraws from. -/
theorem State.withdraw_hasWithdrawn (h : s.canonical) (hjob : p ∈ s.jobPartitions) (hphase : s.fld (F.parRstatusPhase p) ≠ 5)
    (hstate : s.fld (F.parStatusState p) ≠ 2) : HasWithdrawn p s.withdraw := by
  obtain ⟨l, hl⟩ : ∃ l, l = s.jobPartitions.filter fun p => s.fld (F.parRstatusPhase p) != 5 := ⟨_, rfl⟩
  have hmem : p ∈ l := hl ▸ List.mem_filter.mpr ⟨hjob, by simp [hphase]⟩
  have hnodup : l.Nodup := hl ▸ (List.nodup_range.filter _).filter _
  have hen : s.flag (F.parCtrlEn p) = true := by
    have := (List.mem_filter.mp hjob).2
    simp only [Bool.and_eq_true] at this
    exact this.1.1.1
  have heq : s.withdraw = ((s.over l State.withdrawPart).recordSparing s.node).raiseGlobal Ev.withdrawn := by
    rw [State.withdraw, if_neg (hl ▸ List.ne_nil_of_mem hmem), hl]
  have hover : HasWithdrawn p (s.over l State.withdrawPart) := by
    refine State.over_of_mem
      (I := fun t => t.canonical ∧ t.flag (F.parCtrlEn p) = true ∧ t.fld (F.parStatusState p) ≠ 2) hnodup hmem
      (fun t q _ hq ht => ?_) (fun t ht => State.withdrawPart_own hp ht.1 ht.2.1 ht.2.2) (fun t q _ hq ht => ?_) ⟨h, hen, hstate⟩
    · obtain ⟨hc, hen, hstate⟩ := ht
      obtain ⟨hfld, -⟩ := State.withdrawPart_other (s := t) hp hq
      refine ⟨(State.withdrawPart_keeps q (Keeps.refl t)).canonical hc, ?_, ?_⟩
      · rw [State.flag, hfld _ (.inl rfl)]
        exact hen
      · rwa [hfld _ (.inr (.inl rfl))]
    · obtain ⟨hfld, hinsts⟩ := State.withdrawPart_other (s := t) hp hq
      exact ht.of_leaves ((State.withdrawPart_keeps q (Keeps.refl t)).canonical ht.canonical) hfld hinsts
  rw [heq]
  exact (hover.logsOnly hp (State.recordSparing_logsOnly _ _)).logsOnly hp (State.raiseGlobal_logsOnly _ _ _)

end

theorem State.withdraw_of_suspended {s : State} (h : ∀ p ∈ s.jobPartitions, s.fld (F.parRstatusPhase p) = 5) : s.withdraw = s :=
  if_pos (List.filter_eq_nil_iff.mpr fun p hp => by simp [h p hp])

/-! ## The parts of a rewind (R262, R265, R268, R270) -/

/-- The queues and the memories. -/
def State.stores (s : State) : List (Nat × Queue) × MemState := (s.queues, s.mem)

theorem State.queue_of_stores {s t : State} (h : t.stores = s.stores) (q : Nat) : t.queue q = s.queue q :=
  congrArg (fun x : List (Nat × Queue) × MemState => tblGet ({} : Queue) x.1 q) h

theorem State.tierBytes_of_stores {s t : State} (h : t.stores = s.stores) (tier who a n : Nat) :
    t.tierBytes tier who a n = s.tierBytes tier who a n :=
  congrArg (Memory.readN · _ n) (State.tierMem_of_mem (congrArg Prod.snd h) tier)

theorem State.queue_setQueue_same {s : State} (h : s.canonical) (q : Nat) (v : Queue) : (s.setQueue q v).queue q = v :=
  tblGet_tblSet_same _ _ _ _ h.queues.1

theorem State.queue_setQueue_other (s : State) {q x : Nat} (v : Queue) (hx : x ≠ q) : (s.setQueue q v).queue x = s.queue x :=
  tblGet_tblSet_ne _ _ _ _ hx

theorem State.abandonAll_leaves {s : State} (h : s.canonical) (p : Nat) :
    (s.abandonAll p).insts = s.insts.filter (·.part != p) ∧ (∀ x, (s.abandonAll p).fld x = s.fld x) ∧
      ((s.abandonAll p).partition p).frame = { (s.partition p).frame with scenes := [], hurdles := [] } := by
  obtain ⟨r, hr⟩ : ∃ r, r = s.over (s.insts.filter (·.part == p)) State.abandonInst := ⟨_, rfl⟩
  have hkeeps : KeepsTables s r := hr ▸ KeepsTables.over_list (fun t i => State.abandonInst_keepsTables t i) _ _
  have heq : s.abandonAll p = (r.setInsts (r.insts.filter (·.part != p))).setPartition p { r.partition p with scenes := [], hurdles := [] } := by
    rw [hr]
    rfl
  have hrc : (r.setInsts (r.insts.filter (·.part != p))).canonical := (Keeps.setInsts _ hkeeps.keeps).canonical h
  rw [heq]
  refine ⟨?_, fun x => hkeeps.fld x, ?_⟩
  · rw [State.setPartition_insts, State.setInsts_insts, hkeeps.insts]
  · rw [State.partition_setPartition_same hrc, ← hkeeps.frame h p]
    rfl

theorem State.emptyPorts_keepsTables (s : State) (p : Nat) : KeepsTables s (s.emptyPorts p) :=
  .of_tables (State.emptyPorts_keeps p (Keeps.refl s)) (State.tables_over (fun _ _ => State.tables_setChainPort _ _ _) _ _)

/-- What a rewind abandons: the instructions, scenes and hurdles of its partition. -/
theorem State.emptyPorts_abandonAll_leaves {s : State} (h : s.canonical) (p : Nat) :
    let t := (s.abandonAll p).emptyPorts p
    t.canonical ∧ t.insts = s.insts.filter (·.part != p) ∧ (∀ x, t.fld x = s.fld x) ∧
      (t.partition p).frame = { (s.partition p).frame with scenes := [], hurdles := [] } := by
  obtain ⟨hinsts, hfld, hframe⟩ := State.abandonAll_leaves h p
  have hc := (State.abandonAll_keeps p (Keeps.refl s)).canonical h
  have hports := (s.abandonAll p).emptyPorts_keepsTables p
  exact ⟨hports.keeps.canonical hc, hports.insts.trans hinsts, fun x => (hports.fld x).trans (hfld x), (hports.frame hc p).trans hframe⟩

/-- The head that a slot holds for a queue. -/
def State.slotHead (s : State) (b : ResBlock) (first at' q : Nat) : Nat :=
  if q = b.prologueQueue then leNat (s.tierBytes tStacked 0 (at' + 0x10) 4) else leNat (s.tierBytes tStacked 0 (at' + 0x40 + 4 * (q - first)) 4)

/-- The queues of a list as a rewind leaves them. -/
def State.rewindList (s : State) (b : ResBlock) (first at' : Nat) (l : List Nat) : State :=
  s.over l fun t q => t.rewindQueue q (t.slotHead b first at' q)

theorem State.rewindQueues_eq (s : State) (p : Nat) (b : ResBlock) (at' origin : Nat) :
    ∃ c, s.rewindQueues p b at' origin = (s.rewindList b (s.block p).queueFirst at' (s.queuesOf p)).setQueue b.stepQueue
      { (s.rewindList b (s.block p).queueFirst at' (s.queuesOf p)).queue b.stepQueue with baseCue := c } := ⟨_, rfl⟩

section

variable (s : State) (b : ResBlock) (first at' : Nat) (l : List Nat)

theorem State.insts_rewindList : (s.rewindList b first at' l).insts = s.insts :=
  State.view_over (f := fun t q => t.rewindQueue q (t.slotHead b first at' q)) State.insts (fun _ _ => rfl) s l

theorem State.partition_rewindList (x : Nat) : (s.rewindList b first at' l).partition x = s.partition x :=
  State.view_over (f := fun t q => t.rewindQueue q (t.slotHead b first at' q)) (State.partition · x) (fun _ _ => rfl) s l

theorem State.mem_rewindList : (s.rewindList b first at' l).mem = s.mem :=
  State.view_over (f := fun t q => t.rewindQueue q (t.slotHead b first at' q)) State.mem (fun _ _ => rfl) s l

theorem State.fld_rewindList {x : Fld} (hx : ∀ q, x.reg.addr ≠ (Reg.queQctrl q).addr) : (s.rewindList b first at' l).fld x = s.fld x :=
  State.view_over (f := fun t q => t.rewindQueue q (t.slotHead b first at' q)) (State.fld · x)
    (fun t q => State.fld_setFld_ne (s := t.setQueue q _) (x := F.queQctrlHalted q) 0 (hx q)) s l

variable {s b first at' l}

/-- A queue of the list is not halted, and its head is the one that the slot holds. -/
theorem State.rewindList_queue (h : s.canonical) (hl : l.Nodup) {q : Nat} (hq : q ∈ l) :
    (s.rewindList b first at' l).canonical ∧ (s.rewindList b first at' l).flag (F.queQctrlHalted q) = false ∧
      ((s.rewindList b first at' l).queue q).head = s.slotHead b first at' q := by
  refine State.over_of_mem (I := fun t => t.canonical ∧ t.mem = s.mem)
    (P := fun t => t.canonical ∧ t.flag (F.queQctrlHalted q) = false ∧ (t.queue q).head = s.slotHead b first at' q) hl hq
    (fun t y _ _ ht => ⟨(State.rewindQueue_keeps y _ (Keeps.refl t)).canonical ht.1, ht.2⟩) (fun t ht => ?_) (fun t y _ hy ht => ?_) ⟨h, rfl⟩
  · obtain ⟨hc, hmem⟩ := ht
    refine ⟨(State.rewindQueue_keeps q _ (Keeps.refl t)).canonical hc, ?_, ?_⟩
    · rw [State.flag, State.rewindQueue, State.fld_setFld_same (t.setQueue q _) _ _ hc.regs.1.1 (by simp [F.queQctrlHalted])]
      rfl
    · rw [State.rewindQueue, State.setFld_queue, State.queue_setQueue_same hc]
      simp only [State.slotHead, State.tierBytes, State.tierMem_of_mem hmem]
  · obtain ⟨hc, hhalted, hhead⟩ := ht
    refine ⟨(State.rewindQueue_keeps y _ (Keeps.refl t)).canonical hc, ?_, ?_⟩
    · rw [State.flag, State.rewindQueue, State.fld_setFld_ne _ (by simp only [F.queQctrlHalted, Reg.addr]; omega)]
      exact hhalted
    · rw [State.rewindQueue, State.setFld_queue, State.queue_setQueue_other _ _ hy.symm]
      exact hhead

theorem State.rewindQueues_leaves (s : State) (p : Nat) (b : ResBlock) (at' origin : Nat) :
    let t := s.rewindQueues p b at' origin
    t.insts = s.insts ∧ (∀ x, t.partition x = s.partition x) ∧ t.mem = s.mem ∧
      ∀ x : Fld, (∀ q, x.reg.addr ≠ (Reg.queQctrl q).addr) → t.fld x = s.fld x := by
  obtain ⟨c, heq⟩ := s.rewindQueues_eq p b at' origin
  rw [heq]
  exact ⟨State.insts_rewindList _ _ _ _ _, State.partition_rewindList _ _ _ _ _, State.mem_rewindList _ _ _ _ _,
    fun _ hx => State.fld_rewindList _ _ _ _ _ hx⟩

/-- A queue of the partition after the rewind of its queues. -/
theorem State.rewindQueues_queue (h : s.canonical) (p origin : Nat) {q : Nat} (hq : q ∈ s.queuesOf p) :
    (s.rewindQueues p b at' origin).flag (F.queQctrlHalted q) = false ∧
      ((s.rewindQueues p b at' origin).queue q).head = s.slotHead b (s.block p).queueFirst at' q := by
  obtain ⟨c, heq⟩ := s.rewindQueues_eq p b at' origin
  obtain ⟨hc, hhalted, hhead⟩ := State.rewindList_queue (b := b) (first := (s.block p).queueFirst) (at' := at') h (s.queuesOf_nodup p) hq
  rw [heq]
  refine ⟨hhalted, ?_⟩
  by_cases hstep : q = b.stepQueue
  · subst hstep
    rw [State.queue_setQueue_same hc]
    exact hhead
  · rw [State.queue_setQueue_other _ _ hstep]
    exact hhead

end

@[simp] theorem State.tables_setCompany (s : State) (c : Nat) (v : CompanyEntry) : (s.setCompany c v).tables = s.tables := rfl

theorem State.stores_setCompany (s : State) (c : Nat) (v : CompanyEntry) : (s.setCompany c v).stores = s.stores := rfl

theorem State.stores_setGate (s : State) (p g : Nat) (v : Gate) : (s.setGate p g v).stores = s.stores := rfl

theorem State.stores_sendPackets (s : State) (node part k : Nat) (mk : Nat → Out) : (s.sendPackets node part k mk).stores = s.stores := by
  simp only [State.sendPackets]
  split <;> rfl

/-- A partition whose device has these seals left. -/
def Partition.withSeals (v : Partition) (l : List (Nat × Nat)) : Partition := { v with replay := { v.replay with seals := l } }

/-- The companies' records and the gates' counts restored, and the later seals unsealed. -/
def State.rewindRecords (s : State) (p : Nat) (b : ResBlock) (at' origin epoch : Nat) : State :=
  (((s.rewindCompanies p at').setEpochs p epoch).rewindGates p at').unsealFrom p b origin

section

variable {s : State} (h : s.canonical) (p : Nat) (b : ResBlock) (at' origin epoch : Nat)

include h

theorem State.unsealFrom_leaves : (s.unsealFrom p b origin).insts = s.insts ∧ (s.unsealFrom p b origin).stores = s.stores ∧
    (∀ x, (s.unsealFrom p b origin).fld x = s.fld x) ∧
    ∃ l, ((s.unsealFrom p b origin).partition p).frame = (s.partition p).frame.withSeals l := by
  have hsame : s.insts = s.insts ∧ s.stores = s.stores ∧ (∀ x, s.fld x = s.fld x) ∧
      ∃ l, (s.partition p).frame = (s.partition p).frame.withSeals l :=
    ⟨rfl, rfl, fun _ => rfl, (s.partition p).replay.seals, rfl⟩
  unfold State.unsealFrom
  split
  · exact hsame
  next x _ =>
    split
    · exact hsame
    · have hsend : ∀ (l : List (Nat × Nat)), KeepsTables s (s.over l fun s e => s.unseal p (if e.1 = 0 then b.seal0 else b.seal1) x) := fun l =>
        KeepsTables.over_list (fun t e => .of_tables (State.unseal_keeps _ _ _ (Keeps.refl t)) (State.tables_sendPackets _ _ _ _ _)) s l
      refine ⟨(hsend _).insts, State.view_over State.stores (fun _ _ => State.stores_sendPackets _ _ _ _ _) s _, (hsend _).fld,
        (s.partition p).replay.seals.filter fun e => decide (e.2 < origin), ?_⟩
      rw [State.partition_setPartition_same ((hsend _).keeps.canonical h), ← (hsend _).frame h p]
      rfl

theorem State.rewindRecords_leaves :
    let t := s.rewindRecords p b at' origin epoch
    t.canonical ∧ t.insts = s.insts ∧ t.stores = s.stores ∧ (∀ x, t.fld x = s.fld x) ∧
      ∃ l, (t.partition p).frame = (s.partition p).frame.withSeals l := by
  obtain ⟨r, hr⟩ : ∃ r, r = ((s.rewindCompanies p at').setEpochs p epoch).rewindGates p at' := ⟨_, rfl⟩
  have hkeeps : KeepsTables s r := by
    rw [hr]
    refine .trans ?_ (KeepsTables.over_list (fun t g => State.setGate_keepsTables t p g _) _ _)
    refine .trans ?_ (.of_tables (State.setEpochs_keeps _ _ (Keeps.refl _)) (State.tables_over (fun _ _ => State.tables_setCompany _ _ _) _ _))
    exact .of_tables (State.rewindCompanies_keeps _ _ (Keeps.refl _)) (State.tables_over (fun _ _ => State.tables_setCompany _ _ _) _ _)
  have hstores : r.stores = s.stores := by
    rw [hr]
    refine (State.view_over State.stores (fun _ _ => State.stores_setGate _ _ _ _) _ _).trans ?_
    refine (State.view_over State.stores (fun _ _ => State.stores_setCompany _ _ _) _ _).trans ?_
    exact State.view_over State.stores (fun _ _ => State.stores_setCompany _ _ _) _ _
  obtain ⟨hinsts, hst, hfld, l, hl⟩ := State.unsealFrom_leaves (hkeeps.keeps.canonical h) p b origin
  rw [State.rewindRecords, ← hr]
  refine ⟨(State.unsealFrom_keeps p b origin hkeeps.keeps).canonical h, hinsts.trans hkeeps.insts, hst.trans hstores,
    fun x => (hfld x).trans (hkeeps.fld x), l, hl.trans ?_⟩
  rw [hkeeps.frame h p]

end

/-! ## The mark of a replay (R261, R270) -/

theorem State.stores_raiseEvent (s : State) (p code : Nat) : (s.raiseEvent p code).stores = s.stores := by
  unfold State.raiseEvent State.raiseVector State.msix State.when
  dsimp only
  split
  · rfl
  · split
    · split <;> rfl
    · rfl

/-- The heads of a table of queues whose entries are changed one by one, or dropped, each with its head as it was. -/
theorem head_tblGet_filterMap {t : List (Nat × Queue)} (h : t.Pairwise fun x y => x.1 < y.1) {g : Nat × Queue → Option (Nat × Queue)}
    (hsome : ∀ x y, g x = some y → y.1 = x.1 ∧ y.2.head = x.2.head) (hnone : ∀ x, g x = none → x.2.head = 0) (k : Nat) :
    (tblGet ({} : Queue) (t.filterMap g) k).head = (tblGet ({} : Queue) t k).head := by
  induction t with
  | nil => rfl
  | cons c t ih =>
    obtain ⟨hc, ht⟩ := List.pairwise_cons.mp h
    have hrest := ih ht
    cases hg : g c with
    | none =>
      rw [List.filterMap_cons_none hg, hrest, tblGet]
      split
      next hk =>
        have habsent : tblGet ({} : Queue) t k = {} :=
          (tblGet_mem {} t k).resolve_right fun hmem => by have := hc _ hmem; simp only at this; omega
        rw [habsent, hnone c hg]
      next => rfl
    | some y =>
      obtain ⟨hkey, hhead⟩ := hsome c y hg
      rw [List.filterMap_cons_some hg, tblGet, tblGet, hkey]
      split
      · exact hhead
      · exact hrest

theorem State.head_staleDescriptors {s : State} (h : s.queues.Pairwise fun x y => x.1 < y.1) (p : Nat) (addrs : List Nat) (q : Nat) :
    ((s.staleDescriptors p addrs).queue q).head = (s.queue q).head := by
  unfold State.staleDescriptors
  split
  · rfl
  · refine head_tblGet_filterMap h (fun x y hxy => ?_) (fun x hx => ?_) q
    · split at hxy
      · dsimp only at hxy
        split at hxy
        · exact absurd hxy (by simp)
        · rw [← Option.some.inj hxy]
          exact ⟨rfl, rfl⟩
      · rw [← Option.some.inj hxy]
        exact ⟨rfl, rfl⟩
    · split at hx
      · dsimp only at hx
        split at hx
        next he => exact congrArg Queue.head he
        next => exact absurd hx (by simp)
      · exact absurd hx (by simp)

theorem State.writePart_stacked_eq (s : State) (p who hint : Nat) (cells : List (Nat × Byte)) :
    ∃ m, s.writePart p tStacked who hint cells = (s.setMem m).staleDescriptors p (cells.map (·.1)) := by
  simp only [State.writePart, if_pos]
  unfold State.touch
  split <;> exact ⟨_, rfl⟩

theorem State.head_writePart {s : State} (h : s.canonical) (p who hint : Nat) (cells : List (Nat × Byte)) (q : Nat) :
    ((s.writePart p tStacked who hint cells).queue q).head = (s.queue q).head := by
  obtain ⟨m, heq⟩ := s.writePart_stacked_eq p who hint cells
  rw [heq]
  exact State.head_staleDescriptors (s := s.setMem m) h.queues.1 p _ q

theorem State.tierBytes_writePart_later {s : State} (h : s.canonical) (p a : Nat) (bs : Bytes) {b : Nat} (hb : a + bs.length ≤ b) (n : Nat) :
    (s.writePart p tStacked 0 0 (cellsOf a bs)).tierBytes tStacked 0 b n = s.tierBytes tStacked 0 b n := by
  rw [State.tierBytes_eq, State.tierBytes_eq]
  refine List.map_congr_left fun i _ => ?_
  rw [State.tierByte_writePart, State.writeTier_read_other _ _ _ _ _ (State.tierMem_wf h _) _ (.inr (by omega))]

theorem State.recordHead_length_le (s : State) (p origin epoch : Nat) (absent : List Nat) : (s.recordHead p origin epoch absent).length ≤ 96 := by
  simp [State.recordHead, List.length_flatMap]
  omega

/-- A partition that goes on after a rewind: its CUE_OFFSET moved ahead, the bounds of its prologue, only the prologue to issue. -/
def Partition.replaying (v : Partition) (ahead proEnd : Nat) (proTo : Option Nat) : Partition :=
  { v with cueOffset := v.cueOffset + ahead, replay := { v.replay with proEnd := proEnd, proTo := proTo, hold := true } }

/-- The replay marked in its partition and counted. -/
def State.replayMarked (s : State) (p ahead proEnd : Nat) (proTo : Option Nat) : State :=
  ((s.setPartition p ((s.partition p).replaying ahead proEnd proTo)).countFld (F.parRstatusReplays p) 1).setFld (F.parRstatusReplayed p) 1

/-- The replay's record at an address, PHASE and E_REPLAY. -/
def State.replayAnnounced (s : State) (p a : Nat) (bs : Bytes) : State :=
  ((s.writePart p tStacked 0 0 (cellsOf a bs)).setFld (F.parRstatusPhase p) 3).raiseEvent p Ev.replay

theorem State.rewind_eq (s : State) (p : Nat) (b : ResBlock) (k origin epoch : Nat) (absent : List Nat) :
    ∃ e o bs, bs.length ≤ 96 ∧ s.rewind p b k origin epoch absent =
      (((((s.abandonAll p).emptyPorts p).rewindQueues p b (s.slotAt p b k) origin).rewindRecords p b (s.slotAt p b k) origin epoch).replayMarked
        p (epoch - origin) e o).replayAnnounced p b.rrec bs := by
  unfold State.rewind State.replayAnnounced State.replayMarked State.rewindRecords Partition.replaying
  exact ⟨_, _, _, State.recordHead_length_le _ p origin epoch absent, rfl⟩

section

variable {s : State} (h : s.canonical) {p : Nat} (hp : p < 16)

include h

theorem State.replayMarked_leaves (ahead proEnd : Nat) (proTo : Option Nat) :
    let t := s.replayMarked p ahead proEnd proTo
    t.canonical ∧ t.insts = s.insts ∧ t.stores = s.stores ∧ (∀ x : Fld, x.reg.addr ≠ (Reg.parRstatus p).addr → t.fld x = s.fld x) ∧
      t.flag (F.parRstatusReplayed p) = true ∧ (t.partition p).frame = (s.partition p).frame.replaying ahead proEnd proTo := by
  have hset := (State.setPartition_keeps p ((s.partition p).replaying ahead proEnd proTo) (Keeps.refl s) fun _ c => State.gates_wf c p).canonical h
  have hcount := (State.countFld_keeps (F.parRstatusReplays p) 1 (Keeps.refl _)).canonical hset
  refine ⟨(State.setFld_keeps _ _ (Keeps.refl _)).canonical hcount, rfl, rfl, fun x hx => ?_, ?_, ?_⟩
  · rw [State.replayMarked, State.fld_setFld_ne _ hx, State.countFld, State.fld_setFld_ne _ hx, State.setPartition_fld]
  · rw [State.flag, State.replayMarked, State.fld_setFld_same _ _ _ hcount.regs.1.1 (by simp [F.parRstatusReplayed])]
    rfl
  · rw [State.replayMarked, State.setFld_partition, State.countFld_partition, State.partition_setPartition_same h]
    rfl

theorem State.replayAnnounced_leaves (a : Nat) (bs : Bytes) :
    let t := s.replayAnnounced p a bs
    t.insts = s.insts ∧ (∀ x : Fld, x.reg.addr ≠ (Reg.parRstatus p).addr → t.fld x = s.fld x) ∧ t.fld (F.parRstatusPhase p) = 3 ∧
      t.flag (F.parRstatusReplayed p) = s.flag (F.parRstatusReplayed p) ∧ (t.partition p).frame = (s.partition p).frame ∧
      (∀ q, (t.queue q).head = (s.queue q).head) ∧
      ∀ b n, a + bs.length ≤ b → t.tierBytes tStacked 0 b n = s.tierBytes tStacked 0 b n := by
  obtain ⟨w, hw⟩ : ∃ w, w = s.writePart p tStacked 0 0 (cellsOf a bs) := ⟨_, rfl⟩
  have hkeeps : KeepsTables s w := hw ▸ .of_tables (State.writePart_keeps p tStacked 0 0 _ (Keeps.refl s)) (State.tables_writePart _ _ _ _ _ _)
  have hwc := hkeeps.keeps.canonical h
  have hraise := State.raiseEvent_keepsTables (w.setFld (F.parRstatusPhase p) 3) p Ev.replay
  have hstores : (s.replayAnnounced p a bs).stores = w.stores := by
    rw [State.replayAnnounced, ← hw, State.stores_raiseEvent]
    rfl
  refine ⟨?insts, fun x hx => ?fld, ?phase, ?replayed, ?frame, fun q => ?head, fun b n hb => ?bytes⟩
  case insts => rw [State.replayAnnounced, ← hw, hraise.insts, State.setFld_insts, hkeeps.insts]
  case fld => rw [State.replayAnnounced, ← hw, hraise.fld, State.fld_setFld_ne _ hx, hkeeps.fld]
  case phase => rw [State.replayAnnounced, ← hw, hraise.fld, State.phase_setFld hwc]
  case replayed =>
    rw [State.flag, State.flag, State.replayAnnounced, ← hw, hraise.fld, State.fld_setFld_of_apart hwc.regs.1.1 (by simp [F.parRstatusReplayed])
      (parRstatusPhase_apart (.inl rfl)).1, hkeeps.fld]
  case frame =>
    rw [State.replayAnnounced, ← hw, hraise.frame ((State.setFld_keeps _ _ (Keeps.refl w)).canonical hwc), State.setFld_partition, hkeeps.frame h]
  case head => rw [State.queue_of_stores hstores, hw, State.head_writePart h]
  case bytes => rw [State.tierBytes_of_stores hstores, hw, State.tierBytes_writePart_later h p a bs hb]

end

/-! ## A rewind (R265, R268, R270) -/

/-- From s to t partition p has gone back to slot k: its instructions, scenes and hurdles are gone, PHASE reads PROLOGUE, and its queues
stand where the slot has them. -/
structure RewindsPart (p : Nat) (b : ResBlock) (k ahead : Nat) (s t : State) : Prop where
  canonical : t.canonical
  clean : ∀ i ∈ t.insts, i.part ≠ p
  phase : t.fld (F.parRstatusPhase p) = 3
  replayed : t.flag (F.parRstatusReplayed p) = true
  frame : ∃ l e o, (t.partition p).frame =
    (({ (s.partition p).frame with scenes := [], hurdles := [] } : Partition).withSeals l).replaying ahead e o
  queues : ∀ q, within q 1 (s.block p).queueFirst (s.block p).queueCount = true → s.qOn q = true → q ≠ b.prologueQueue →
    t.flag (F.queQctrlHalted q) = false ∧
      (t.queue q).head = leNat (t.tierBytes tStacked 0 (s.slotAt p b k + 0x40 + 4 * (q - (s.block p).queueFirst)) 4)

theorem State.rewind_rewinds {s : State} (h : s.canonical) {p : Nat} (hp : p < 16) (b : ResBlock) (k origin epoch : Nat) (absent : List Nat) :
    RewindsPart p b k (epoch - origin) s (s.rewind p b k origin epoch absent) := by
  have hcanonical := (State.rewind_keeps p b k origin epoch absent (Keeps.refl s)).canonical h
  obtain ⟨e, o, bs, hbs, heq⟩ := s.rewind_eq p b k origin epoch absent
  obtain ⟨a, ha⟩ : ∃ a, a = (s.abandonAll p).emptyPorts p := ⟨_, rfl⟩
  obtain ⟨u, hu⟩ : ∃ u, u = a.rewindQueues p b (s.slotAt p b k) origin := ⟨_, rfl⟩
  obtain ⟨r, hr⟩ : ∃ r, r = u.rewindRecords p b (s.slotAt p b k) origin epoch := ⟨_, rfl⟩
  obtain ⟨m, hm⟩ : ∃ m, m = r.replayMarked p (epoch - origin) e o := ⟨_, rfl⟩
  rw [← ha, ← hu, ← hr, ← hm] at heq
  obtain ⟨hac, hainsts, hafld, haframe⟩ := State.emptyPorts_abandonAll_leaves h p
  rw [← ha] at hac hainsts hafld haframe
  have huc : u.canonical := hu ▸ (State.rewindQueues_keeps p b _ origin (Keeps.refl a)).canonical hac
  obtain ⟨huinsts, hupart, humem, hufld⟩ := a.rewindQueues_leaves p b (s.slotAt p b k) origin
  rw [← hu] at huinsts hupart humem hufld
  obtain ⟨hrc, hrinsts, hrstores, hrfld, l, hrframe⟩ := State.rewindRecords_leaves huc p b (s.slotAt p b k) origin epoch
  rw [← hr] at hrc hrinsts hrstores hrfld hrframe
  obtain ⟨hmc, hminsts, hmstores, hmfld, hmreplayed, hmframe⟩ := State.replayMarked_leaves hrc (p := p) (epoch - origin) e o
  rw [← hm] at hmc hminsts hmstores hmfld hmreplayed hmframe
  obtain ⟨hinsts, hfld, hphase, hreplayed, hframe, hhead, hbytes⟩ := State.replayAnnounced_leaves hmc (p := p) b.rrec bs
  rw [← heq] at hinsts hfld hphase hreplayed hframe hhead hbytes
  refine ⟨hcanonical, fun i hi => ?clean, hphase, hreplayed.trans hmreplayed, ⟨l, e, o, ?frame⟩, fun q hq hon hne => ?queues⟩
  case clean =>
    rw [hinsts, hminsts, hrinsts, huinsts, hainsts] at hi
    simpa using (List.mem_filter.mp hi).2
  case frame => rw [hframe, hmframe, hrframe, hupart, haframe]
  case queues =>
    have hblock : a.block p = s.block p := by
      rw [State.block, State.block, ← Partition.frame_block, haframe]
      rfl
    have hmem : q ∈ a.queuesOf p := by
      have hona : a.qOn q = true := (congrArg (· == 1) (hafld _)).trans hon
      exact State.mem_queuesOf.mpr ⟨hblock ▸ hq, by simp [hona]⟩
    obtain ⟨hqhalted, hqhead⟩ := State.rewindQueues_queue (b := b) (at' := s.slotAt p b k) hac p origin hmem
    rw [← hu] at hqhalted hqhead
    have hapart := (parRstatus_addr_ne_queQctrl hp q).symm
    refine ⟨?_, ?_⟩
    · rw [State.flag, hfld _ hapart, hmfld _ hapart, hrfld]
      exact hqhalted
    · have hfar : b.rrec + bs.length ≤ s.slotAt p b k + 0x40 + 4 * (q - (s.block p).queueFirst) := by
        rw [State.slotAt]
        omega
      have hstores : m.stores = u.stores := hmstores.trans hrstores
      rw [hhead, hbytes _ _ hfar, State.queue_of_stores hstores, State.tierBytes_of_stores hstores, hqhead, State.slotHead, if_neg hne, hblock,
        State.tierBytes, State.tierBytes, State.tierMem_of_mem humem]

section

variable {p : Nat} {b : ResBlock} {k ahead : Nat} {s t : State} (h : RewindsPart p b k ahead s t)

include h

theorem RewindsPart.scenes : (t.partition p).scenes = [] := by
  obtain ⟨l, e, o, hframe⟩ := h.frame
  exact congrArg Partition.scenes hframe

theorem RewindsPart.hurdles : (t.partition p).hurdles = [] := by
  obtain ⟨l, e, o, hframe⟩ := h.frame
  exact congrArg Partition.hurdles hframe

theorem RewindsPart.cueOffset : (t.partition p).cueOffset = (s.partition p).cueOffset + ahead := by
  obtain ⟨l, e, o, hframe⟩ := h.frame
  exact congrArg Partition.cueOffset hframe

theorem RewindsPart.replay : ∃ l e o, (t.partition p).replay = { (s.partition p).replay with seals := l, proEnd := e, proTo := o, hold := true } := by
  obtain ⟨l, e, o, hframe⟩ := h.frame
  exact ⟨l, e, o, congrArg Partition.replay hframe⟩

end

/-! ## The shared operations -/

theorem faultPathActs : FaultPathActs := by
  refine ⟨fun s p hs hjob hphase hstate => ?withdraw, fun s h => State.withdraw_of_suspended h, fun s p code hs _ => ?suspend,
    fun s p b k origin epoch absent hs _ _ _ => ?rewind⟩
  case withdraw =>
    obtain ⟨-, hphase, hstate, hen, hclean⟩ :=
      State.withdraw_hasWithdrawn (List.mem_range.mp (List.mem_filter.mp hjob).1) hs hjob hphase hstate
    exact ⟨hphase, hstate, hen, hclean⟩
  case suspend =>
    obtain ⟨-, hphase, hsuspended, -, hhalted⟩ := State.suspend_suspends hs p.isLt code
    exact ⟨hphase, hsuspended, hhalted⟩
  case rewind =>
    have hrewinds := State.rewind_rewinds hs p.isLt b k origin epoch absent
    obtain ⟨l, e, o, hreplay⟩ := hrewinds.replay
    exact ⟨hrewinds.clean, hrewinds.scenes, hrewinds.hurdles, hrewinds.cueOffset, congrArg Replay.hold hreplay, hrewinds.phase,
      hrewinds.replayed, hrewinds.queues⟩

/-! ## Absences (R258, R266) -/

theorem exec_absentReceived {s : State} (hrun : s.running = true) (p : PartNo) (a : AbsentHeader) :
    exec (.absentReceived p a) s = .next (s.holdAbsent p a.company.toNat a.absentRank.toNat a.sendCue.toNat).settle :=
  congrArg Host.Outcome.next (State.clocked_of_running hrun _)

/-- An ABSENT of a node relayed in the job's company, when its roster names the node. -/
def State.absentRelayed (s : State) (p : Nat) (b : ResBlock) (job : CompanyEntry) (node cue : Nat) : State :=
  match (s.rosterAt job.roster job.size).findIdx? (·.node == node) with
  | some k => s.relayAbsent p b job k cue
  | none => s

section

variable {s : State} {p company rank cue : Nat} {e : Nat × CompanyEntry} {x : RosterEntry} (he : s.companyOf p company = some e)
  (hx : (s.rosterAt e.2.roster e.2.size)[rank]? = some x)

include he hx

theorem State.holdAbsent_of_ignored (h : s.flag (F.parCtrlEn p) = false ∨ s.fld (F.parRstatusPhase p) = 5 ∨ s.fld (F.parRstatusPhase p) = 7 ∨
    (s.partition p).replay.repeats ((s.partition p).replay.meant x.node cue) cue = true) : s.holdAbsent p company rank cue = s := by
  simp only [State.holdAbsent, he, hx, if_pos h]

variable (hen : s.flag (F.parCtrlEn p) = true) (h5 : s.fld (F.parRstatusPhase p) ≠ 5) (h7 : s.fld (F.parRstatusPhase p) ≠ 7)
  (hnew : (s.partition p).replay.repeats ((s.partition p).replay.meant x.node cue) cue = false)

include hen h5 h7 hnew

theorem State.holdAbsent_of_own (hnode : (s.partition p).replay.meant x.node cue = s.node) : s.holdAbsent p company rank cue = s.withdraw := by
  simp only [State.holdAbsent, he, hx]
  rw [if_neg (by simp [hen, h5, h7, hnew]), if_pos hnode]

theorem State.holdAbsent_of_other {b : ResBlock} {job : CompanyEntry} (hnode : (s.partition p).replay.meant x.node cue ≠ s.node)
    (hres : (s.partition p).res = some b) (hjob : s.jobEntry p = some job) (hrank : job.rank ≠ noRank) :
    s.holdAbsent p company rank cue = (s.absentRelayed p b job x.node cue).over ((s.absentRelayed p b job x.node cue).jobOf p)
      fun t y => t.noteAbsent ((s.partition p).replay.meant x.node cue) cue y := by
  simp only [State.holdAbsent, he, hx]
  rw [if_neg (by simp [hen, h5, h7, hnew]), if_neg hnode]
  simp only [hres, hjob, if_neg hrank]
  rfl

end

theorem State.noteAbsent_of_new {s : State} {y node : Nat} (h5 : s.fld (F.parRstatusPhase y) ≠ 5) (h7 : s.fld (F.parRstatusPhase y) ≠ 7)
    (hnew : ∀ z ∈ (s.partition y).replay.absents, z.1 ≠ node) (cue : Nat) :
    s.noteAbsent node cue y = (s.setPartition y { s.partition y with
      replay := { (s.partition y).replay with absents := (s.partition y).replay.absents ++ [(node, cue)] } }).setFld (F.parRstatusPhase y) 1 :=
  if_neg (by simpa [h5, h7] using fun c hc => hnew (node, c) hc rfl)

/-! ## Decision (R266, R267, R271) -/

section

variable {s : State} {p : Nat} {b : ResBlock}

theorem State.decisionCue_of_early (hres : (s.partition p).res = some b)
    (h : (s.partition p).replay.absents = [] ∨ s.time.cue < (s.partition p).replay.settleEnd b + 256) : s.decisionCue p = s := by
  simp only [State.decisionCue, hres]
  refine if_neg fun ⟨_, hsome, hdue⟩ => ?_
  rcases h with h | h
  · exact hsome h
  · omega

theorem State.decisionCue_of_due (hres : (s.partition p).res = some b) (hphase : s.fld (F.parRstatusPhase p) = 1)
    (hsome : (s.partition p).replay.absents ≠ []) (hdue : (s.partition p).replay.settleEnd b + 256 ≤ s.time.cue) :
    s.decisionCue p = (s.decideRound p b).settle := by
  simp only [State.decisionCue, hres]
  exact if_pos ⟨hphase, hsome, hdue⟩

/-- The absences that a round leaves to the next. -/
def Replay.later (r : Replay) (b : ResBlock) : List (Nat × Nat) := r.absents.filter fun x => !decide (x.2 < r.settleEnd b)

/-- A partition whose round has been decided at D, with a list of successors moved in, or without. -/
def Partition.decided (v : Partition) (b : ResBlock) (m : Option (List (RosterEntry × Nat) × Nat)) : Partition :=
  let r := { v.replay with decided := v.replay.settleEnd b + 256, lastSet := v.replay.absentSet b, moved := [] }
  match m with
  | none => { v with replay := r }
  | some m => { v with replay := { r with
      moved := m.1.map (fun x => (x.1.node, x.2)), epoch := v.replay.settleEnd b + 256 + b.load, used := v.replay.used + m.2 } }

/-- A round's successors moved in: the decision noted, USED, and the rosters rewritten. -/
def State.moveIn (s : State) (p : Nat) (b : ResBlock) (m : List (RosterEntry × Nat) × Nat) : State :=
  let t := (s.setPartition p ((s.partition p).decided b (some m))).setFld (F.parRstatusUsed p) (sat 255 ((s.partition p).replay.used + m.2))
  t.over (t.jobRosters p b) fun t a => t.rewriteRoster p m.1 a

theorem State.decideRound_of_no_target (hstandby : b.standby = false) (htarget : s.target p b (s.partition p).replay.leastCue = none) :
    s.decideRound p b = s.withdraw := by
  simp [State.decideRound, hstandby, htarget]

theorem State.decideRound_of_exhausted (hstandby : b.standby = false) {t : Nat × Nat}
    (htarget : s.target p b (s.partition p).replay.leastCue = some t)
    (hm : succeed ((s.partition p).replay.absentSet b) ((s.partition p).replay.absentSet b)
      ((s.successionOf b).drop (s.partition p).replay.used) 0 = none) :
    s.decideRound p b = (((s.setPartition p ((s.partition p).decided b none)).rewind p b t.1 t.2 ((s.partition p).replay.settleEnd b + 256 + b.load)
      ((s.partition p).replay.absentSet b)).suspend p Ev.succession).nextRound p [] := by
  simp only [State.decideRound, hstandby, htarget, hm, Bool.false_eq_true, ↓reduceIte]
  rfl

theorem State.decideRound_of_survivor (hstandby : b.standby = false) {t : Nat × Nat} (htarget : s.target p b (s.partition p).replay.leastCue = some t)
    {m : List (RosterEntry × Nat) × Nat}
    (hm : succeed ((s.partition p).replay.absentSet b) ((s.partition p).replay.absentSet b)
      ((s.successionOf b).drop (s.partition p).replay.used) 0 = some m) :
    s.decideRound p b = ((s.moveIn p b m).rewind p b t.1 t.2 ((s.partition p).replay.settleEnd b + 256 + b.load)
      ((s.partition p).replay.absentSet b)).nextRound p ((s.partition p).replay.later b) := by
  simp only [State.decideRound, hstandby, htarget, hm, if_pos]
  rfl

/-- A standby device's part in a decision. -/
def State.standIn (s : State) (p : Nat) (b : ResBlock) (m : List (RosterEntry × Nat) × Nat) : State :=
  let t := (s.moveIn p b m).setEpochs p ((s.partition p).replay.settleEnd b + 256 + b.load)
  if m.1.any (·.1.node == t.node) then t.promote p b else t.setFld (F.parRstatusPhase p) 6

theorem State.decideRound_of_standby (hstandby : b.standby = true) {m : List (RosterEntry × Nat) × Nat}
    (hm : succeed ((s.partition p).replay.absentSet b) ((s.partition p).replay.absentSet b)
      ((s.successionOf b).drop (s.partition p).replay.used) 0 = some m) :
    s.decideRound p b = (s.standIn p b m).nextRound p ((s.partition p).replay.later b) := by
  simp only [State.decideRound, hstandby, hm, if_pos]
  rfl

end

theorem Partition.replay_of_frame {v w : Partition} (h : v.frame = w.frame) : v.replay = w.replay := by
  have hreplay : v.frame.replay = w.frame.replay := by rw [h]
  exact hreplay

theorem Partition.cueOffset_of_frame {v w : Partition} (h : v.frame = w.frame) : v.cueOffset = w.cueOffset := by
  have hoffset : v.frame.cueOffset = w.frame.cueOffset := by rw [h]
  exact hoffset

theorem State.setPartition_canonical {s : State} (h : s.canonical) (p : Nat) {v : Partition} (hv : v.gates = (s.partition p).gates) :
    (s.setPartition p v).canonical :=
  (State.setPartition_keeps p v (Keeps.refl s) fun _ c => hv ▸ State.gates_wf c p).canonical h

theorem State.nextRound_nil (s : State) (p : Nat) :
    s.nextRound p [] = s.setPartition p { s.partition p with replay := { (s.partition p).replay with absents := [] } } := by
  simp [State.nextRound, State.when]

theorem SuspendsPart.nextRound_nil {s t : State} {p : Nat} (h : SuspendsPart p s t) :
    (t.nextRound p []).fld (F.parRstatusPhase p) = 5 ∧ (t.nextRound p []).flag (F.parRstatusSuspended p) = true ∧
      ((t.nextRound p []).partition p).replay.absents = [] := by
  rw [State.nextRound_nil, State.setPartition_fld, State.setPartition_flag, State.partition_setPartition_same h.canonical]
  exact ⟨h.phase, h.suspended, rfl⟩

section

variable {s : State} (h : s.canonical) (p : Nat) (b : ResBlock)

include h

theorem State.nextRound_leaves (left : List (Nat × Nat)) :
    (s.nextRound p left).insts = s.insts ∧
      (s.nextRound p left).partition p = { s.partition p with replay := { (s.partition p).replay with absents := left } } ∧
      (s.nextRound p left).fld (F.parRstatusPhase p) =
        if left ≠ [] ∧ s.fld (F.parRstatusPhase p) ≠ 5 ∧ s.fld (F.parRstatusPhase p) ≠ 7 then 1 else s.fld (F.parRstatusPhase p) := by
  obtain ⟨t, ht⟩ : ∃ t, t = s.setPartition p { s.partition p with replay := { (s.partition p).replay with absents := left } } := ⟨_, rfl⟩
  have htc : t.canonical := ht ▸ State.setPartition_canonical h p rfl
  have hpart : t.partition p = { s.partition p with replay := { (s.partition p).replay with absents := left } } :=
    ht ▸ State.partition_setPartition_same h p _
  have hinsts : t.insts = s.insts := ht ▸ rfl
  have hphase : t.fld (F.parRstatusPhase p) = s.fld (F.parRstatusPhase p) := ht ▸ rfl
  have heq : s.nextRound p left = t.when (left ≠ [] ∧ t.fld (F.parRstatusPhase p) ≠ 5 ∧ t.fld (F.parRstatusPhase p) ≠ 7)
      (·.setFld (F.parRstatusPhase p) 1) := ht ▸ rfl
  rw [heq, State.when, hphase]
  split
  · exact ⟨hinsts, hpart, State.phase_setFld htc p 1⟩
  · exact ⟨hinsts, hpart, hphase⟩

theorem State.moveIn_leaves (m : List (RosterEntry × Nat) × Nat) :
    let t := s.moveIn p b m
    t.canonical ∧ (t.partition p).frame = ((s.partition p).decided b (some m)).frame ∧
      ∀ x : Fld, x.reg.addr ≠ (Reg.parRstatus p).addr → t.fld x = s.fld x := by
  obtain ⟨u, hu⟩ : ∃ u, u = (s.setPartition p ((s.partition p).decided b (some m))).setFld (F.parRstatusUsed p)
      (sat 255 ((s.partition p).replay.used + m.2)) := ⟨_, rfl⟩
  have huc : u.canonical :=
    hu ▸ (State.setFld_keeps _ _ (Keeps.refl _)).canonical (State.setPartition_canonical h p rfl)
  have hupart : u.partition p = (s.partition p).decided b (some m) := hu ▸ State.partition_setPartition_same h p _
  have hrosters : KeepsTables u (s.moveIn p b m) := by
    rw [State.moveIn, ← hu]
    refine KeepsTables.over_list (fun t a => .of_tables (State.rewriteRoster_keeps p m.1 a (Keeps.refl t)) ?_) _ _
    refine State.tables_over (fun t k => ?_) _ _
    dsimp only
    split
    · rfl
    · exact State.tables_writePart _ _ _ _ _ _
  refine ⟨hrosters.keeps.canonical huc, by rw [hrosters.frame huc, hupart], fun x hx => ?_⟩
  rw [hrosters.fld, hu, State.fld_setFld_ne _ hx, State.setPartition_fld]

variable (hp : p < 16)

include hp

/-- What the decision leaves when the succession list is exhausted. -/
theorem State.decideRound_exhausted_suspends (t : Nat × Nat) (epoch : Nat) (absent : List Nat) :
    ∃ r, SuspendsPart p r (((s.setPartition p ((s.partition p).decided b none)).rewind p b t.1 t.2 epoch absent).suspend p Ev.succession) := by
  have hset : (s.setPartition p ((s.partition p).decided b none)).canonical := State.setPartition_canonical h p rfl
  have hrewind := State.rewind_rewinds hset hp b t.1 t.2 epoch absent
  exact ⟨_, State.suspend_suspends hrewind.canonical hp Ev.succession⟩

/-- What a surviving device's decision leaves. -/
theorem State.decideRound_survivor_leaves (m : List (RosterEntry × Nat) × Nat) (t : Nat × Nat) (absent : List Nat) (left : List (Nat × Nat)) :
    let epoch := (s.partition p).replay.settleEnd b + 256 + b.load
    let u := ((s.moveIn p b m).rewind p b t.1 t.2 epoch absent).nextRound p left
    (∀ i ∈ u.insts, i.part ≠ p) ∧ (u.partition p).scenes = [] ∧ (u.partition p).cueOffset = (s.partition p).cueOffset + (epoch - t.2) ∧
      u.fld (F.parRstatusPhase p) = (if left = [] then 3 else 1) ∧
      ∃ l e o, (u.partition p).replay =
        { ((s.partition p).decided b (some m)).replay with seals := l, proEnd := e, proTo := o, hold := true, absents := left } := by
  obtain ⟨hmc, hmframe, -⟩ := State.moveIn_leaves h p b m
  have hrewind := State.rewind_rewinds hmc hp b t.1 t.2 ((s.partition p).replay.settleEnd b + 256 + b.load) absent
  obtain ⟨l, e, o, hreplay⟩ := hrewind.replay
  obtain ⟨hinsts, hpart, hphase⟩ := State.nextRound_leaves hrewind.canonical p left
  have hmoved : ((s.moveIn p b m).partition p).replay = ((s.partition p).decided b (some m)).replay := Partition.replay_of_frame hmframe
  have hoffset : ((s.moveIn p b m).partition p).cueOffset = (s.partition p).cueOffset :=
    (Partition.cueOffset_of_frame hmframe).trans rfl
  refine ⟨hinsts ▸ hrewind.clean, ?_, ?_, ?_, l, e, o, ?_⟩
  · rw [hpart]
    exact hrewind.scenes
  · rw [hpart, ← hoffset]
    exact hrewind.cueOffset
  · rw [hphase, hrewind.phase]
    by_cases hl : left = [] <;> simp [hl]
  · rw [hpart, hreplay, hmoved]

end

/-! ## Promotion (R269) -/

theorem State.promote_leaves {s : State} (h : s.canonical) {p : Nat} (hp : p < 16) (b : ResBlock) :
    let t := s.promote p b
    t.canonical ∧ t.fld (F.parRstatusPhase p) = 2 ∧ t.flag (F.parRstatusPromoted p) = true ∧
      (t.partition p).frame = { (s.partition p).frame with
        res := some { b with standby := false }, replay := { (s.partition p).frame.replay with proTo := none, hold := true, copying := none } } := by
  obtain ⟨u, hu⟩ : ∃ u, u = s.setPartition p { s.partition p with
    res := some { b with standby := false }, replay := { (s.partition p).replay with proTo := none, hold := true, copying := none } } := ⟨_, rfl⟩
  have huc : u.canonical := hu ▸ State.setPartition_canonical h p rfl
  obtain ⟨r, hr⟩ : ∃ r, r = u.over (u.companiesOf p) fun s e =>
    match s.ownPlace p e.2.roster e.2.size with
    | some r => s.setCompany e.1 { s.company e.1 with rank := r }
    | none => s := ⟨_, rfl⟩
  have hranks : KeepsTables u r := by
    rw [hr]
    refine KeepsTables.over_list (fun t e => ?_) _ _
    split
    · exact .of_tables (State.setCompany_keeps _ _ (Keeps.refl t)) (State.tables_setCompany _ _ _)
    · exact .refl t
  have hrc := hranks.keeps.canonical huc
  obtain ⟨m, hm⟩ : ∃ m, m = (r.setFld (F.parRstatusPromoted p) 1).setFld (F.parRstatusPhase p) 2 := ⟨_, rfl⟩
  have hpc : (r.setFld (F.parRstatusPromoted p) 1).canonical := (State.setFld_keeps _ _ (Keeps.refl r)).canonical hrc
  have hmc : m.canonical := hm ▸ (State.setFld_keeps _ _ (Keeps.refl _)).canonical hpc
  have heq : s.promote p b = ((m.recordSparing m.node).raiseEvent p Ev.promoted).raiseGlobal Ev.promoted p := by
    rw [hm, hr, hu]
    rfl
  have hlogs : LogsOnly m (s.promote p b) := by
    rw [heq]
    exact ((State.recordSparing_logsOnly m _).trans (.of_keepsTables (State.raiseEvent_keepsTables _ _ _))).trans (State.raiseGlobal_logsOnly _ _ _)
  obtain ⟨hldg, hpci, -⟩ := Reg.ofPart.apart hp (r := .parRstatus p) (.inr (.inr rfl))
  refine ⟨hlogs.keeps.canonical hmc, ?phase, ?promoted, ?frame⟩
  case phase => rw [hlogs.fld hldg hpci, hm, State.phase_setFld hpc]
  case promoted =>
    rw [State.flag, hlogs.fld hldg hpci, hm, State.fld_setFld_of_apart hpc.regs.1.1 (by simp [F.parRstatusPromoted])
      (parRstatusPhase_apart (.inr (.inl rfl))).1, State.fld_setFld_same _ _ _ hrc.regs.1.1 (by simp [F.parRstatusPromoted])]
    rfl
  case frame =>
    rw [hlogs.frame hmc, hm, State.setFld_partition, State.setFld_partition, hranks.frame huc, hu, State.partition_setPartition_same h]
    rfl

/-- What a standby device's part in a decision leaves: promoted when a successor is this device, and else standing by. -/
theorem State.standIn_leaves {s : State} (h : s.canonical) {p : Nat} (hp : p < 16) (b : ResBlock) (m : List (RosterEntry × Nat) × Nat) :
    let t := s.standIn p b m
    t.canonical ∧ (t.partition p).replay.used = (s.partition p).replay.used + m.2 ∧
      ((∀ x ∈ m.1, x.1.node ≠ s.node) → t.fld (F.parRstatusPhase p) = 6) ∧
      ((∃ x ∈ m.1, x.1.node = s.node) → t.fld (F.parRstatusPhase p) = 2 ∧ t.flag (F.parRstatusPromoted p) = true ∧
        (t.partition p).res = some { b with standby := false } ∧ (t.partition p).replay.hold = true) := by
  obtain ⟨u, hu⟩ : ∃ u, u = (s.moveIn p b m).setEpochs p ((s.partition p).replay.settleEnd b + 256 + b.load) := ⟨_, rfl⟩
  obtain ⟨hmc, hmframe, hmfld⟩ := State.moveIn_leaves h p b m
  have hepochs : KeepsTables (s.moveIn p b m) u := hu ▸ .of_tables (State.setEpochs_keeps _ _ (Keeps.refl _))
    (State.tables_over (fun _ _ => State.tables_setCompany _ _ _) _ _)
  have huc := hepochs.keeps.canonical hmc
  have huframe : (u.partition p).frame = ((s.partition p).decided b (some m)).frame := (hepochs.frame hmc p).trans hmframe
  have hnode : u.node = s.node := (hepochs.fld _).trans (hmfld _ (by simp only [F.oxlNodeNode, Reg.addr]; omega))
  have hany : (m.1.any fun x => x.1.node == u.node) = true ↔ ∃ x ∈ m.1, x.1.node = s.node := by simp [hnode]
  have heq : s.standIn p b m = if (m.1.any fun x => x.1.node == u.node) then u.promote p b else u.setFld (F.parRstatusPhase p) 6 := by
    rw [hu]
    rfl
  rw [heq]
  split
  next hthis =>
    obtain ⟨hpc, hphase, hpromoted, hframe⟩ := State.promote_leaves huc hp b
    rw [huframe] at hframe
    refine ⟨hpc, congrArg (fun v : Partition => v.replay.used) hframe, fun hnone => ?_, fun _ => ⟨hphase, hpromoted,
      congrArg Partition.res hframe, congrArg (fun v : Partition => v.replay.hold) hframe⟩⟩
    obtain ⟨x, hx, hxn⟩ := hany.mp hthis
    exact absurd hxn (hnone x hx)
  next hother =>
    refine ⟨(State.setFld_keeps _ _ (Keeps.refl u)).canonical huc, ?_, fun _ => State.phase_setFld huc p 6,
      fun hsome => absurd (hany.mpr hsome) hother⟩
    exact congrArg Replay.used (Partition.replay_of_frame huframe)

/-! ## The start of a wings copy (R269) -/

theorem exec_wingsCopyStart_of_due {s : State} (hrun : s.running = true) {p : PartNo} {b : ResBlock} (hres : (s.partition p).res = some b)
    (hphase : s.fld (F.parRstatusPhase p) = 2) (hcopy : (s.partition p).replay.copying = none)
    (hdue : (s.partition p).replay.decided + 64 ≤ s.time.cue) : exec (.wingsCopyStart p) s = .next (s.wingsStart p b) := by
  refine congrArg Host.Outcome.next ((State.clocked_of_running hrun _).trans ?_)
  simp only [hres]
  exact if_pos ⟨hphase, hcopy, hdue⟩

theorem State.wingsPartner_congr {s t : State} {p : Nat} (hcomp : t.comp = s.comp) (hblock : t.block p = s.block p) (hmem : t.mem = s.mem)
    (b : ResBlock) : t.wingsPartner p b = s.wingsPartner p b := by
  simp only [State.wingsPartner, State.companyOf, State.companiesOf, State.rosterAt, State.tierBytes, hcomp, hblock, State.tierMem_of_mem hmem]

/-- The reads that the wings copy of partition p has out, none answered yet: node, purpose and length of each. -/
def State.WingsAsked (s : State) (p : Nat) (l : List (Nat × Nat × Nat)) : Prop :=
  s.canonical ∧ ∃ c, (s.partition p).replay.copying = some c ∧ c.bad = false ∧ c.chosen = false ∧ c.got = [] ∧
    c.reads.map (fun r => (r.node, r.what, r.len)) = l

/-- Piece k of a wings copy's read. -/
def State.wingsPiece (s : State) (p : Nat) (x : RosterEntry) (what addr dst len k : Nat) : State :=
  let n := min 16368 (len - 16368 * k)
  let tag := (s.peerPair x.node).nextPseq % 2 ^ 32
  let t := s.sendPackets x.node p 1 fun _ => .peerRead x.node tag x.part (addr + 16368 * k) n
  let c := (t.partition p).replay.copying.getD {}
  t.setPartition p { t.partition p with replay := { (t.partition p).replay with
    copying := some { c with reads := c.reads ++ [⟨tag, x.node, what, dst + 16368 * k, n⟩] } } }

theorem State.wingsRead_eq (s : State) (p : Nat) (x : RosterEntry) (what addr dst len : Nat) :
    s.wingsRead p x what addr dst len =
      s.over (List.range (ceilDiv len 16368)) fun t k => t.wingsPiece p x what addr dst len k := rfl

section

variable {s : State} {p : Nat} {l : List (Nat × Nat × Nat)} (h : s.WingsAsked p l) (x : RosterEntry) (what addr dst len : Nat)

include h

theorem State.WingsAsked.wingsPiece (k : Nat) :
    (s.wingsPiece p x what addr dst len k).WingsAsked p (l ++ [(x.node, what, min 16368 (len - 16368 * k))]) := by
  obtain ⟨hc, c, hcopy, hbad, hchosen, hgot, hreads⟩ := h
  obtain ⟨t, ht⟩ : ∃ t, t = s.sendPackets x.node p 1 fun _ =>
    .peerRead x.node ((s.peerPair x.node).nextPseq % 2 ^ 32) x.part (addr + 16368 * k) (min 16368 (len - 16368 * k)) := ⟨_, rfl⟩
  have htc : t.canonical := ht ▸ (State.sendPackets_keeps _ _ _ _ (Keeps.refl s)).canonical hc
  have hpart : t.partition p = s.partition p := by
    have htables : t.tables = s.tables := ht ▸ State.tables_sendPackets _ _ _ _ _
    exact congrArg (fun x : RegState × List (Nat × Partition) × List Inst => tblGet ({} : Partition) x.2.1 p) htables
  rw [State.wingsPiece, ← ht, hpart, hcopy]
  refine ⟨State.setPartition_canonical htc p (by rw [hpart]), { c with
    reads := c.reads ++ [⟨(s.peerPair x.node).nextPseq % 2 ^ 32, x.node, what, dst + 16368 * k, min 16368 (len - 16368 * k)⟩] }, ?_, hbad, hchosen,
    hgot, ?_⟩
  · rw [State.partition_setPartition_same htc]
    rfl
  · rw [List.map_append, hreads]
    rfl

/-- A read asks for its bytes in pieces of 16,368. -/
theorem State.WingsAsked.wingsRead : (s.wingsRead p x what addr dst len).WingsAsked p
    (l ++ (List.range (ceilDiv len 16368)).map fun k => (x.node, what, min 16368 (len - 16368 * k))) := by
  rw [State.wingsRead_eq]
  generalize List.range (ceilDiv len 16368) = ks
  induction ks generalizing s l with
  | nil => simpa [State.over] using h
  | cons k ks ih =>
    have hrest := ih (h.wingsPiece x what addr dst len k)
    rw [List.append_assoc] at hrest
    exact hrest

end

/-- A read of one piece. -/
theorem State.WingsAsked.wingsRead_one {s : State} {p : Nat} {l : List (Nat × Nat × Nat)} (h : s.WingsAsked p l) (x : RosterEntry)
    (what addr dst : Nat) {len : Nat} (hpos : 0 < len) (hlen : len ≤ 16368) :
    (s.wingsRead p x what addr dst len).WingsAsked p (l ++ [(x.node, what, len)]) := by
  have hone : ceilDiv len 16368 = 1 := by
    rw [ceilDiv]
    omega
  simpa [hone, hlen] using h.wingsRead x what addr dst len

/-- The copy has asked the partner for the record and both seals, and perhaps for more. -/
def State.WingsBegun (s : State) (p : Nat) (x : RosterEntry) : Prop :=
  ∃ l, s.WingsAsked p ([(x.node, wRecord, 16), (x.node, wSeal 0, 64), (x.node, wSeal 1, 64)] ++ l)

theorem State.WingsBegun.wingsRead {s : State} {p : Nat} {x : RosterEntry} (h : s.WingsBegun p x) (y : RosterEntry) (what addr dst len : Nat) :
    (s.wingsRead p y what addr dst len).WingsBegun p x := by
  obtain ⟨l, hl⟩ := h
  exact ⟨_, List.append_assoc _ _ _ ▸ hl.wingsRead y what addr dst len⟩

/-- The copy of a device with a partner begins with the record and both seals. -/
theorem State.wingsStart_of_partner {s : State} (h : s.canonical) {p : Nat} {b : ResBlock} {x : RosterEntry} (hwings : b.noWings = false)
    (hx : s.wingsPartner p b = some x) :
    (s.wingsStart p b).WingsBegun p x := by
  obtain ⟨t, ht⟩ : ∃ t, t = s.setPartition p { s.partition p with replay := { (s.partition p).replay with copying := some {} } } := ⟨_, rfl⟩
  have hasked : t.WingsAsked p [] := by
    refine ⟨ht ▸ State.setPartition_canonical h p rfl, {}, ?_, rfl, rfl, rfl, rfl⟩
    rw [ht, State.partition_setPartition_same h]
  have hpartner : t.wingsPartner p b = some x := by
    rw [← hx]
    refine State.wingsPartner_congr (ht ▸ rfl) ?_ (ht ▸ rfl) b
    rw [State.block, State.block, ht, State.partition_setPartition_same h]
  have hfirst := ((hasked.wingsRead_one x wRecord b.rrec 0 (len := 16) (by decide) (by decide)).wingsRead_one x (wSeal 0) b.seal0 0 (len := 64)
    (by decide) (by decide)).wingsRead_one x (wSeal 1) b.seal1 0 (len := 64) (by decide) (by decide)
  simp only [State.wingsStart, ← ht, hwings, hpartner, Bool.false_eq_true, if_false]
  refine State.over_induct (P := (State.WingsBegun · p x)) (fun t e _ ht => ?_) ⟨[], hfirst⟩
  split
  · exact ht
  · exact State.over_induct (P := (State.WingsBegun · p x)) (fun _ _ _ hu => (hu.wingsRead _ _ _ _ _).wingsRead _ _ _ _ _) ht

theorem State.wingsStart_of_no_partner {s : State} (h : s.canonical) {p : Nat} {b : ResBlock} (hnone : b.noWings = true ∨ s.wingsPartner p b = none) :
    ((s.wingsStart p b).partition p).replay.copying = some { bad := true } ∧ (s.wingsStart p b).out = s.out := by
  obtain ⟨t, ht⟩ : ∃ t, t = s.setPartition p { s.partition p with replay := { (s.partition p).replay with copying := some {} } } := ⟨_, rfl⟩
  have htc : t.canonical := ht ▸ State.setPartition_canonical h p rfl
  have hpartner : (if b.noWings then none else t.wingsPartner p b) = none := by
    rcases hnone with hnone | hnone
    · exact if_pos hnone
    · have hsame : t.wingsPartner p b = s.wingsPartner p b := by
        refine State.wingsPartner_congr (ht ▸ rfl) ?_ (ht ▸ rfl) b
        rw [State.block, State.block, ht, State.partition_setPartition_same h]
      simp [hsame, hnone]
  simp only [State.wingsStart, ← ht, hpartner]
  refine ⟨?_, ht ▸ rfl⟩
  rw [State.partition_setPartition_same htc]

/-! ## The end of a wings copy (R269, R271) -/

/-- The wings copy of a partition over, and what came of it not yet used. -/
def State.copyOver (s : State) (p : Nat) : State :=
  s.setPartition p { s.partition p with replay := { (s.partition p).replay with copying := none } }

section

variable {s : State} {p : Nat} {c : WingsCopy} (hcopy : (s.partition p).replay.copying = some c) (hphase : s.fld (F.parRstatusPhase p) = 2)

include hcopy hphase

theorem State.wingsEnd_of_copying : s.wingsEnd p =
    if c.bad then (s.copyOver p).over ((s.copyOver p).jobOf p) fun s x => s.suspend x Ev.wings
    else if c.chosen ∧ c.reads = [] then ((s.copyOver p).wingsNumbers p c).setFld (F.parRstatusPhase p) 3
    else s := by
  simp only [State.wingsEnd, hcopy]
  exact if_neg (not_not.mpr hphase)

end

/-! ### COLL_SEQ of the companies -/

theorem State.company_setCompany_same {s : State} (h : s.canonical) (e : Nat) (v : CompanyEntry) : (s.setCompany e v).company e = v :=
  tblGet_tblSet_same _ _ _ _ h.comp.1.1

theorem State.company_setCompany_other (s : State) {e x : Nat} (v : CompanyEntry) (hx : x ≠ e) : (s.setCompany e v).company x = s.company x :=
  tblGet_tblSet_ne _ _ _ _ hx

theorem State.companiesOf_pairwise {s : State} (h : s.canonical) (p : Nat) : (s.companiesOf p).Pairwise fun x y => x.1 < y.1 :=
  h.comp.1.1.filter _

/-- The number that a wings copy has read for company entry e: from the records of slot k, under the entry's company. -/
def WingsCopy.recordOf (c : WingsCopy) (count : Nat) (e : Nat × CompanyEntry) (k : Nat) : Option Bytes :=
  ((List.range count).map fun j => slice (c.bytes (wCompanies e.1 k)) (48 * j) 48).find? fun r => field r 0 2 == e.2.company

/-- The slot of the target that a wings copy has found for company entry e. -/
def WingsCopy.slotOf (c : WingsCopy) (e : Nat × CompanyEntry) : Option Nat :=
  [0, 1].find? fun k => c.got.any fun x => x.1 == wOrigin e.1 k && leNat x.2 == field (c.bytes wRecord) 0 8

/-- One company's number restored. -/
def State.wingsNumber (s : State) (p : Nat) (c : WingsCopy) (e : Nat × CompanyEntry) : State :=
  match c.slotOf e with
  | none => s
  | some k =>
    match c.recordOf (s.block p).companyCount e k with
    | some r => s.setCompany e.1 { s.company e.1 with collSeq := field r 8 8 }
    | none => s

theorem State.wingsNumbers_eq (s : State) (p : Nat) (c : WingsCopy) :
    s.wingsNumbers p c = s.over (s.companiesOf p) fun t e => t.wingsNumber p c e := rfl

section

variable {s : State} {p : Nat} {c : WingsCopy}

/-- A company's number restored changes nothing, or the company's entry alone. -/
theorem State.wingsNumber_cases (s : State) (p : Nat) (c : WingsCopy) (e : Nat × CompanyEntry) :
    s.wingsNumber p c e = s ∨ ∃ v, s.wingsNumber p c e = s.setCompany e.1 v := by
  unfold State.wingsNumber
  split
  · exact .inl rfl
  · split
    · exact .inr ⟨_, rfl⟩
    · exact .inl rfl

theorem State.wingsNumber_leaves (h : s.canonical) (e : Nat × CompanyEntry) :
    (s.wingsNumber p c e).canonical ∧ (s.wingsNumber p c e).block p = s.block p ∧
      ∀ x, x ≠ e.1 → (s.wingsNumber p c e).company x = s.company x := by
  rcases s.wingsNumber_cases p c e with heq | ⟨v, heq⟩
  · rw [heq]
    exact ⟨h, rfl, fun _ _ => rfl⟩
  · rw [heq]
    exact ⟨(State.setCompany_keeps _ _ (Keeps.refl s)).canonical h, rfl, fun _ hx => State.company_setCompany_other _ _ hx⟩

theorem State.collSeq_wingsNumber (h : s.canonical) {e : Nat × CompanyEntry} {k : Nat} {r : Bytes} (hk : c.slotOf e = some k)
    (hr : c.recordOf (s.block p).companyCount e k = some r) : ((s.wingsNumber p c e).company e.1).collSeq = field r 8 8 := by
  simp only [State.wingsNumber, hk, hr]
  rw [State.company_setCompany_same h]

theorem State.collSeq_wingsNumbers (h : s.canonical) {e : Nat × CompanyEntry} (he : e ∈ s.companiesOf p) {k : Nat} {r : Bytes}
    (hk : c.slotOf e = some k) (hr : c.recordOf (s.block p).companyCount e k = some r) :
    ((s.wingsNumbers p c).company e.1).collSeq = field r 8 8 := by
  have hkeys : ((s.companiesOf p).map Prod.fst).Nodup := List.pairwise_map.mpr ((State.companiesOf_pairwise h p).imp Nat.ne_of_lt)
  have hother : ∀ y ∈ s.companiesOf p, y ≠ e → e.1 ≠ y.1 := fun y hy hne hkey => hne (List.inj_on_of_nodup_map hkeys hy he hkey.symm)
  rw [State.wingsNumbers_eq]
  refine (State.over_of_mem (I := fun t => t.canonical ∧ t.block p = s.block p)
    (P := fun t => t.canonical ∧ (t.company e.1).collSeq = field r 8 8) hkeys.of_map he ?before ?step ?after ⟨h, rfl⟩).2
  case before =>
    rintro t y - - ⟨ht, hblock⟩
    obtain ⟨hleft, hsame, -⟩ := State.wingsNumber_leaves (p := p) (c := c) ht y
    exact ⟨hleft, hsame.trans hblock⟩
  case step =>
    rintro t ⟨ht, hblock⟩
    exact ⟨(State.wingsNumber_leaves ht e).1, State.collSeq_wingsNumber ht hk (hblock ▸ hr)⟩
  case after =>
    rintro t y hy hne ⟨ht, hseq⟩
    obtain ⟨hleft, -, hsame⟩ := State.wingsNumber_leaves (p := p) (c := c) ht y
    exact ⟨hleft, (congrArg CompanyEntry.collSeq (hsame e.1 (hother y hy hne))).trans hseq⟩

end

/-! ## The resumption (R268, R270) -/

theorem State.resumeReplay_of_due {s : State} {p : Nat} (hhold : (s.settle.partition p).replay.hold = true)
    (hphase : s.settle.fld (F.parRstatusPhase p) = 4) (hepoch : (s.settle.partition p).replay.epoch ≤ s.settle.time.cue)
    (hended : ∀ x ∈ s.settle.jobOf p, s.settle.fld (F.parRstatusPhase x) = 0 ∨ 4 ≤ s.settle.fld (F.parRstatusPhase x)) :
    s.resumeReplay p = s.settle.setPartition p { s.settle.partition p with
      replay := { (s.settle.partition p).replay with hold := false } } := by
  unfold State.resumeReplay
  generalize s.settle = t at *
  refine if_pos ⟨hhold, hphase, hepoch, List.any_eq_false.mpr fun x hx => ?_⟩
  have hx := hended x hx
  simp only [decide_eq_true_eq]
  omega

/-! ## The rows -/

/-- What an ABSENT received does. -/
theorem exec_absentReceived_row {s : State} {p : PartNo} {a : AbsentHeader} {e : Nat × CompanyEntry} {x : RosterEntry} (hrun : s.running = true)
    (he : s.companyOf p a.company.toNat = some e) (hx : (s.rosterAt e.2.roster e.2.size)[a.absentRank.toNat]? = some x) :
    let cue := a.sendCue.toNat
    let node := (s.partition p).replay.meant x.node cue
    let ph := s.fld (F.parRstatusPhase p)
    (s.flag (F.parCtrlEn p) = false ∨ ph = 5 ∨ ph = 7 ∨ (s.partition p).replay.repeats node cue = true →
      exec (.absentReceived p a) s = .next s.settle) ∧
    (s.flag (F.parCtrlEn p) = true → ph ≠ 5 → ph ≠ 7 → (s.partition p).replay.repeats node cue = false →
      (node = s.node → exec (.absentReceived p a) s = .next s.withdraw.settle) ∧
      (∀ (b : ResBlock) (job : CompanyEntry), node ≠ s.node → (s.partition p).res = some b → s.jobEntry p = some job → job.rank ≠ noRank →
        let t := s.absentRelayed p b job x.node cue
        exec (.absentReceived p a) s = .next (t.over (t.jobOf p) fun t y => t.noteAbsent node cue y).settle)) := by
  intro cue node ph
  rw [exec_absentReceived hrun]
  refine ⟨fun h => ?_, fun hen h5 h7 hnew => ⟨fun hnode => ?_, fun b job hnode hres hjob hrank => ?_⟩⟩
  · rw [State.holdAbsent_of_ignored he hx h]
  · rw [State.holdAbsent_of_own he hx hen h5 h7 hnew hnode]
  · rw [State.holdAbsent_of_other he hx hen h5 h7 hnew hnode hres hjob hrank]

/-- An absence noted: the list is longer, and the partition is in SETTLING. -/
theorem State.noteAbsent_notes {s : State} (h : s.canonical) {y node : Nat} (h5 : s.fld (F.parRstatusPhase y) ≠ 5)
    (h7 : s.fld (F.parRstatusPhase y) ≠ 7) (hnew : ∀ z ∈ (s.partition y).replay.absents, z.1 ≠ node) (cue : Nat) :
    ((s.noteAbsent node cue y).partition y).replay.absents = (s.partition y).replay.absents ++ [(node, cue)] ∧
      (s.noteAbsent node cue y).fld (F.parRstatusPhase y) = 1 := by
  rw [State.noteAbsent_of_new h5 h7 hnew]
  refine ⟨?_, State.phase_setFld (State.setPartition_canonical h y rfl) y 1⟩
  rw [State.setFld_partition, State.partition_setPartition_same h]

/-- A decision that finds the succession list exhausted suspends the partition. -/
theorem State.decideRound_exhausted_leaves {s : State} (h : s.canonical) {p : Nat} (hp : p < 16) {b : ResBlock} (hstandby : b.standby = false)
    {t : Nat × Nat} (htarget : s.target p b (s.partition p).replay.leastCue = some t)
    (hm : succeed ((s.partition p).replay.absentSet b) ((s.partition p).replay.absentSet b)
      ((s.successionOf b).drop (s.partition p).replay.used) 0 = none) :
    (s.decideRound p b).fld (F.parRstatusPhase p) = 5 ∧ (s.decideRound p b).flag (F.parRstatusSuspended p) = true ∧
      ((s.decideRound p b).partition p).replay.absents = [] := by
  rw [State.decideRound_of_exhausted hstandby htarget hm]
  obtain ⟨_, hsuspends⟩ := State.decideRound_exhausted_suspends h p b hp t ((s.partition p).replay.settleEnd b + 256 + b.load)
    ((s.partition p).replay.absentSet b)
  exact hsuspends.nextRound_nil

/-- A standby device's decision, when no absence is left to a later round. -/
theorem State.decideRound_standby_leaves {s : State} (h : s.canonical) {p : Nat} (hp : p < 16) {b : ResBlock} (hstandby : b.standby = true)
    {m : List (RosterEntry × Nat) × Nat} (hlater : (s.partition p).replay.later b = [])
    (hm : succeed ((s.partition p).replay.absentSet b) ((s.partition p).replay.absentSet b)
      ((s.successionOf b).drop (s.partition p).replay.used) 0 = some m) :
    let u := s.decideRound p b
    (u.partition p).replay.used = (s.partition p).replay.used + m.2 ∧
      ((∀ x ∈ m.1, x.1.node ≠ s.node) → u.fld (F.parRstatusPhase p) = 6) ∧
      ((∃ x ∈ m.1, x.1.node = s.node) → u.fld (F.parRstatusPhase p) = 2 ∧ u.flag (F.parRstatusPromoted p) = true ∧
        (u.partition p).res = some { b with standby := false } ∧ (u.partition p).replay.hold = true) := by
  obtain ⟨htc, hused, hother, hthis⟩ := State.standIn_leaves h hp b m
  rw [State.decideRound_of_standby hstandby hm, hlater, State.nextRound_nil]
  simp only [State.setPartition_fld, State.setPartition_flag, State.partition_setPartition_same htc]
  exact ⟨hused, hother, hthis⟩

theorem exec_decisionCue {s : State} (hrun : s.running = true) (p : PartNo) : exec (.decisionCue p) s = .next (s.decisionCue p) :=
  congrArg Host.Outcome.next (State.clocked_of_running hrun _)

theorem exec_wingsCopyDone {s : State} (hrun : s.running = true) (p : PartNo) : exec (.wingsCopyDone p) s = .next (s.wingsEnd p) :=
  congrArg Host.Outcome.next (State.clocked_of_running hrun _)

theorem exec_replayResume {s : State} (hrun : s.running = true) (p : PartNo) : exec (.replayResume p) s = .next (s.resumeReplay p) :=
  congrArg Host.Outcome.next (State.clocked_of_running hrun _)

/-- Settles O60: each row's command is its shared operation (`exec_…`), and the operation's cases are those of its own lemmas; the decision
and the device-fault path rest on what a rewind, a suspension, a withdrawal and a promotion leave (`RewindsPart`, `SuspendsPart`,
`HasWithdrawn`, `State.promote_leaves`). -/
theorem resilienceRowsComplete : Obligations.ResilienceRowsComplete := by
  refine ⟨⟨fun s p a e x hrun he hx => exec_absentReceived_row hrun he hx,
      fun s y node cue hs _ h5 h7 hnew => State.noteAbsent_notes hs h5 h7 hnew cue⟩,
    faultPathActs, fun s p b hs hrun hres hphase _ => ?decision, fun s p b hs hrun hres hphase hcopy hdue => ?wingsStart,
    fun s p c hrun hcopy hphase => ?wingsDone, fun s p hrun hhold hphase hepoch hended => ?resume⟩
  case decision =>
    intro v r limit absent left list
    rw [exec_decisionCue hrun]
    refine ⟨fun hearly => congrArg _ (State.decisionCue_of_early hres hearly), fun hsome hdue => ?_⟩
    rw [State.decisionCue_of_due hres hphase hsome hdue]
    refine ⟨fun hstandby htarget => ?_, fun t m hstandby htarget hm => ⟨_, rfl, ?survivor⟩,
      fun t hstandby htarget hm => ⟨_, rfl, ?exhausted⟩, fun m hstandby hm hleft => ⟨_, rfl, ?standby⟩⟩
    · rw [State.decideRound_of_no_target hstandby htarget]
    case survivor =>
      rw [State.decideRound_of_survivor hstandby htarget hm]
      obtain ⟨hclean, hscenes, hoffset, hph, l, e, o, hreplay⟩ :=
        State.decideRound_survivor_leaves hs p b p.isLt m t absent left
      exact ⟨hclean, hscenes, congrArg Replay.decided hreplay, congrArg Replay.epoch hreplay, congrArg Replay.lastSet hreplay,
        congrArg Replay.moved hreplay, congrArg Replay.used hreplay, congrArg Replay.absents hreplay, hoffset, hph⟩
    case exhausted => exact State.decideRound_exhausted_leaves hs p.isLt hstandby htarget hm
    case standby => exact State.decideRound_standby_leaves hs p.isLt hstandby hleft hm
  case wingsStart =>
    rw [exec_wingsCopyStart_of_due hrun hres hphase hcopy hdue]
    refine ⟨fun hnone => ⟨_, rfl, State.wingsStart_of_no_partner hs hnone⟩, fun x hwings hx => ?_⟩
    obtain ⟨l, -, c, hc, hbad, hchosen, hgot, hreads⟩ := State.wingsStart_of_partner hs hwings hx
    exact ⟨_, c, rfl, hc, hbad, hchosen, hgot, by rw [List.map_take, hreads]; rfl⟩
  case wingsDone =>
    intro t
    rw [exec_wingsCopyDone hrun, State.wingsEnd_of_copying hcopy hphase]
    refine ⟨fun hbad => ?bad, fun hbad hchosen hreads => ⟨?well, fun hs e k rec' he hk hr => ?numbers⟩, fun hbad hopen => ?going⟩
    case bad => rw [if_pos hbad]; rfl
    case well => rw [if_neg (by simp [hbad]), if_pos ⟨hchosen, hreads⟩]; rfl
    case numbers =>
      have ht : t.canonical := State.setPartition_canonical hs p rfl
      have hblock : t.block p = s.block p := by
        rw [State.block, State.block, State.partition_setPartition_same hs]
      exact State.collSeq_wingsNumbers ht he hk (hblock.symm ▸ hr)
    case going =>
      have hnot : ¬(c.chosen = true ∧ c.reads = []) := by
        rintro ⟨hchosen, hreads⟩
        simp [hchosen, hreads] at hopen
      rw [if_neg (by simp [hbad]), if_neg hnot]
  case resume =>
    rw [exec_replayResume hrun, State.resumeReplay_of_due hhold hphase hepoch hended]

end Sys2Proof.Machine
end

section
/-!
Proofs about what the Shepherd's own state keeps: no event, no record and no withdrawal (R258, R301, R304, R307) changes it.
-/

namespace Sys2Proof.Machine

@[simp] theorem State.shep_over {α : Type} {f : State → α → State} (h : ∀ s x, (f s x).shep = s.shep) (s : State) (l : List α) :
    (s.over l f).shep = s.shep := State.view_over State.shep h s l

theorem State.view_when {β : Type} {f : State → State} (view : State → β) {s : State} (h : view (f s) = view s) (c : Prop) [Decidable c] :
    view (s.when c f) = view s := by
  unfold State.when
  split
  · exact h
  · rfl

@[simp] theorem State.shep_when {f : State → State} (h : ∀ s, (f s).shep = s.shep) (s : State) (c : Prop) [Decidable c] :
    (s.when c f).shep = s.shep := State.view_when State.shep (h s) c

section

variable (s : State)

@[simp] theorem State.shep_setFld (x : Fld) (v : Nat) : (s.setFld x v).shep = s.shep := rfl
@[simp] theorem State.shep_emit (o : Out) : (s.emit o).shep = s.shep := rfl
@[simp] theorem State.shep_setPartition (p : Nat) (v : Partition) : (s.setPartition p v).shep = s.shep := rfl
@[simp] theorem State.shep_setChainPort (n : Nat) (v : ChainPort) : (s.setChainPort n v).shep = s.shep := rfl
@[simp] theorem State.shep_setPeerPair (n : Nat) (v : Pair) : (s.setPeerPair n v).shep = s.shep := rfl
@[simp] theorem State.shep_addRelay (r : Relay) : (s.addRelay r).shep = s.shep := rfl
@[simp] theorem State.shep_releaseGate (p g : Nat) : (s.releaseGate p g).shep = s.shep := rfl
@[simp] theorem State.shep_resetQueue (q : Nat) : (s.resetQueue q).shep = s.shep := rfl
@[simp] theorem State.shep_dropWaiters (p : Nat) : (s.dropWaiters p).shep = s.shep := rfl
@[simp] theorem State.shep_zeroLocal (folds : List Nat) : (s.zeroLocal folds).shep = s.shep := rfl
@[simp] theorem State.shep_zeroClaims (b : PartBlock) : (s.zeroClaims b).shep = s.shep := rfl
@[simp] theorem State.shep_noteHistory (code unit : Nat) : (s.noteHistory code unit).shep = s.shep := rfl

@[simp] theorem State.shep_msix (fn entry : Nat) : (s.msix fn entry).shep = s.shep := by simp -implicitDefEqProofs [State.msix]

@[simp] theorem State.shep_eventWrite (code unit detail cue : Nat) : (s.eventWrite code unit detail cue).shep = s.shep := by
  unfold State.eventWrite
  dsimp only
  split
  · rfl
  · split <;> simp [State.writeHost]

@[simp] theorem State.shep_raiseGlobal (code unit : Nat) : (s.raiseGlobal code unit).shep = s.shep := by
  unfold State.raiseGlobal
  dsimp only
  repeat' split
  all_goals simp [State.hubEvent, State.drawNat, State.eventLost, State.countFld]

@[simp] theorem State.shep_beginRecord (kind : Nat) : (s.beginRecord kind).shep = s.shep := by
  obtain ⟨l, r, h⟩ := s.beginRecord_eq kind
  rw [h]; rfl

@[simp] theorem State.shep_recordSparing (unit : Nat) : (s.recordSparing unit).shep = s.shep := State.shep_beginRecord _ 2

@[simp] theorem State.shep_sendPackets (node part k : Nat) (mk : Nat → Out) : (s.sendPackets node part k mk).shep = s.shep := by
  unfold State.sendPackets
  dsimp only
  split <;> simp

@[simp] theorem State.shep_sendCollAll (t : Party) (ranks : List Nat) (type reason absent : Nat) (cue : Option Nat) :
    (s.sendCollAll t ranks type reason absent cue).shep = s.shep := by simp [State.sendCollAll, State.sendColl, State.sendCollTo]

@[simp] theorem State.shep_poisonInst (i : Inst) (reason : Nat) : (s.poisonInst i reason).shep = s.shep := by
  unfold State.poisonInst
  repeat' split
  all_goals simp [State.poisonColl, State.sendRingBoth, State.sendRing]

@[simp] theorem State.shep_leaveLater (i : Inst) (reason : Nat) : (s.leaveLater i reason).shep = s.shep := by
  simp [State.leaveLater, State.poisonColl]

@[simp] theorem State.shep_setTierMem (tier : Nat) (m : List Host.Cell) : (s.setTierMem tier m).shep = s.shep := by
  unfold State.setTierMem
  split <;> rfl

@[simp] theorem State.shep_undefine (tier who a n : Nat) : (s.undefine tier who a n).shep = s.shep := State.shep_setTierMem _ _ _

@[simp] theorem State.shep_loseOuts (i : Inst) : (s.loseOuts i).shep = s.shep := by
  refine State.shep_over (fun t e => ?_) s _
  unfold State.undefineExtent
  repeat' split
  all_goals simp

@[simp] theorem State.shep_abandonInst (i : Inst) : (s.abandonInst i).shep = s.shep := by
  unfold State.abandonInst
  dsimp only
  repeat' split
  all_goals simp -implicitDefEqProofs

@[simp] theorem State.shep_mend (tier : Nat) (keys : List Nat) : (s.mend tier keys).shep = s.shep := by
  unfold State.mend State.setPoison
  dsimp only
  repeat' split
  all_goals rfl

@[simp] theorem State.shep_breakHold (p : Nat) (h : Hold) : (s.breakHold p h).shep = s.shep := by
  unfold State.breakHold State.tagWord
  dsimp only
  split <;> simp [State.writeTier, State.writeCells]

@[simp] theorem State.shep_resetWork (p : Nat) (disables : Bool) : (s.resetWork p disables).shep = s.shep := by
  simp -implicitDefEqProofs [State.resetWork, State.breakHolds, State.breakPorts]

@[simp] theorem State.shep_dropPackets (p : Nat) : (s.dropPackets p).shep = s.shep := by simp -implicitDefEqProofs [State.dropPackets]

@[simp] theorem State.shep_sendAbsent (p rank : Nat) : (s.sendAbsent p rank).shep = s.shep := by
  unfold State.sendAbsent
  split <;> simp

@[simp] theorem State.shep_withdrawPart (p : Nat) : (s.withdrawPart p).shep = s.shep := by
  unfold State.withdrawPart
  dsimp only
  split <;> simp

@[simp] theorem State.shep_withdraw : s.withdraw.shep = s.shep := by
  unfold State.withdraw
  dsimp only
  split <;> simp

end

end Sys2Proof.Machine
end

section
/-!
Proofs about the Shepherd's shared operations (R282, R284, R293 to R296, R304, R307): the entries that an event leaves, what may follow
E_SENSOR, and what a stop and its Curtain save set.
-/

namespace Sys2Proof.Machine

/-! ## The Shepherd's events (R304, R307) -/

section

variable (s : State)

theorem State.noteHistory_logsOnly (code unit : Nat) : LogsOnly s (s.noteHistory code unit) :=
  .trans (.of_tables (State.drawNat_keeps (Keeps.refl s)) (State.tables_setFree _ _)) (State.setLedg_logsOnly _ rfl)

theorem State.shepEvent_logsOnly (code unit : Nat) : LogsOnly s (s.shepEvent code unit) := by
  unfold State.shepEvent
  dsimp only
  split
  · exact (s.noteHistory_logsOnly code unit).trans (State.raiseGlobal_logsOnly _ _ _)
  · exact s.noteHistory_logsOnly code unit

@[simp] theorem State.shep_shepEvent (code unit : Nat) : (s.shepEvent code unit).shep = s.shep := by
  unfold State.shepEvent
  dsimp only
  split <;> simp

theorem State.ledg_eventWrite (code unit detail cue : Nat) : (s.eventWrite code unit detail cue).ledg = s.ledg := by
  unfold State.eventWrite
  dsimp only
  split
  · rfl
  · split <;> simp [State.writeHost]

/-- Of the ledger an event on the global vector changes the hub's last events alone. -/
theorem State.ledg_raiseGlobal (code unit : Nat) :
    (s.raiseGlobal code unit).ledg = (s.hubEvent ⟨s.time.cue, code, unit, s.drawNat.1 % 2 ^ 32⟩).ledg := by
  unfold State.raiseGlobal State.msix State.when
  dsimp only
  have hemit : ∀ (t : State) (fn : Nat), ((if fn ∉ t.host.msixOff then t.emit (.msix fn 0) else t).emit .inband).ledg = t.ledg := fun t fn => by
    split <;> rfl
  rw [hemit]
  split
  · exact State.ledg_eventWrite _ _ _ _ _
  · split
    · rfl
    · split <;> rfl

theorem State.hubEvent_getLast (e : HistoryEntry) : (s.hubEvent e).ledg.hubEvents.getLast? = some e := by
  simp [State.hubEvent, List.getLast?_reverse]

theorem State.shepEvent_history (code unit : Nat) :
    (s.shepEvent code unit).ledg.shadow.history.getLast? = some ⟨s.time.cue, code, unit, s.drawNat.1⟩ := by
  unfold State.shepEvent
  dsimp only
  split
  · rw [State.ledg_raiseGlobal]
    exact s.noteHistory_getLast code unit
  · exact s.noteHistory_getLast code unit

theorem State.shepEvent_hubEvents (code unit : Nat) (h : s.host.pcieUp = true ∨ s.host.evtEver = false) :
    ∃ d, (s.shepEvent code unit).ledg.hubEvents.getLast? = some ⟨s.time.cue, code, unit, d⟩ := by
  have heq : s.shepEvent code unit = (s.noteHistory code unit).raiseGlobal code unit := if_pos h
  rw [heq, State.ledg_raiseGlobal, State.hubEvent_getLast]
  exact ⟨_, rfl⟩

/-- What may follow E_SENSOR: nothing, a free number drawn, or STATE at DEGRADED with its record (log entry 45). -/
theorem State.degrade_eq : ∃ n d, s.degrade = if s.fld F.shpStatusState ≠ 1 then s
    else if d = true then ((s.setFree n).setFld F.shpStatusState 2).beginRecord 4 else s.setFree n := by
  refine ⟨s.free + 1, s.drawBool.1, ?_⟩
  unfold State.degrade
  by_cases hstate : s.fld F.shpStatusState = 1
  · rw [if_pos hstate, if_neg (not_not.mpr hstate)]
    have hset : s.drawBool.2.setShp 2 = ((s.setFree (s.free + 1)).setFld F.shpStatusState 2).beginRecord 4 :=
      if_neg fun h => absurd (hstate.symm.trans h) (by decide)
    dsimp only
    rw [hset]
    rfl
  · rw [if_neg hstate, if_pos hstate]

/-- A register that the Shepherd's events and records leave alone: not LDG.STATUS, PCI.EVT_STAT or SHP.STATUS. -/
def Reg.Unlogged (r : Reg) : Prop := r.addr ≠ Reg.ldgStatus.addr ∧ r.addr ≠ Reg.pciEvtStat.addr ∧ r.addr ≠ Reg.shpStatus.addr

variable {s} in
theorem LogsOnly.fld_of_unlogged {t : State} (h : LogsOnly s t) {x : Fld} (hx : x.reg.Unlogged) : t.fld x = s.fld x := h.fld hx.1 hx.2.1

@[simp] theorem State.shep_degrade : s.degrade.shep = s.shep := by
  obtain ⟨n, d, h⟩ := s.degrade_eq
  rw [h]
  split
  · rfl
  · split <;> simp

@[simp] theorem State.shep_sensorEvent (unit : Nat) : (s.sensorEvent unit).shep = s.shep := by simp [State.sensorEvent]

theorem State.fld_degrade {x : Fld} (hx : x.reg.Unlogged) : s.degrade.fld x = s.fld x := by
  obtain ⟨n, d, h⟩ := s.degrade_eq
  rw [h]
  split
  · rfl
  · split
    · rw [(State.beginRecord_logsOnly _ 4).fld_of_unlogged hx, State.fld_setFld_ne _ hx.2.2, State.setFree_fld]
    · rfl

theorem State.fld_sensorEvent (unit : Nat) {x : Fld} (hx : x.reg.Unlogged) : (s.sensorEvent unit).fld x = s.fld x := by
  rw [State.sensorEvent, State.fld_degrade _ hx, (s.shepEvent_logsOnly _ _).fld_of_unlogged hx]

end

/-! ## Stops and the Curtain save (R282, R293 to R296) -/

theorem State.running_of_stop {s t : State} (h : t.shep.stop = s.shep.stop) : t.running = s.running := by
  rw [State.running, State.running, h]

/-- The marks of an immediate stop: SHP.CAUSE, and STATE STOPPED. -/
def State.stopMarked (s : State) (event unit : Nat) : State := (s.setCause event unit).setFld F.shpStatusState 3

def stopWrites (event unit : Nat) : List (Fld × Nat) := [(F.shpCauseEvent, event), (F.shpCauseUnit, unit), (F.shpStatusState, 3)]

theorem State.stopMarked_eq_setFlds (s : State) (event unit : Nat) : s.stopMarked event unit = s.setFlds (stopWrites event unit) := rfl

theorem stopWrites_apart (event unit : Nat) : ((stopWrites event unit).map (·.1)).Pairwise fun x z => z.Apart x := by
  simp [stopWrites, Fld.Apart, F.shpCauseEvent, F.shpCauseUnit, F.shpStatusState, Reg.addr]

/-- The number of a save's record: an ordinary write's without its commit word, or the next. -/
def State.curtainSeq (s : State) : Nat :=
  match s.ledg.write with
  | some w => w.record.seq
  | none => s.ledgerSeq + 1

/-- The record of a save, in its slot. -/
def State.curtainWrite (s : State) (cause unit : Nat) : LedgerWrite :=
  ⟨slotOf s.curtainSeq, s.recordOf s.curtainSeq 3 (s.fillCurtain cause unit).1⟩

section

variable {s : State} (hrun : s.running = true)

include hrun

theorem State.stopNow_of_running (event unit : Nat) : s.stopNow event unit = (s.stopMarked event unit).curtain event unit :=
  if_neg (by simp [hrun])

/-- A trigger while no save may be made stops the device and releases its rails. -/
theorem State.curtain_of_disabled (h : s.shep.savesEnabled = false ∨ s.ledg.held = true) (cause unit : Nat) :
    s.curtain cause unit = (s.halt .halted).releaseRails :=
  (if_neg (by simp [hrun])).trans (if_pos h)

theorem State.curtain_of_enabled (hsaves : s.shep.savesEnabled = true) (hheld : s.ledg.held = false) (cause unit : Nat) :
    s.curtain cause unit = (((s.setFree (s.free + 11)).setLedg { s.ledg with
      shadow := (s.fillCurtain cause unit).1, write := some (s.curtainWrite cause unit), again := false }).setFld F.ldgStatusBusy 1).halt
        .saving := by
  have hgo : ¬(s.shep.savesEnabled = false ∨ s.ledg.held = true) := by simp [hsaves, hheld]
  exact (if_neg (by simp [hrun])).trans ((if_neg hgo).trans rfl)

/-- Either way the device no longer runs, its link is down, and THERMTRIP_N stays as it was. -/
theorem State.curtain_stops (cause unit : Nat) : let t := s.curtain cause unit
    t.running = false ∧ t.host.pcieUp = false ∧ t.shep.pins.thermtrip = s.shep.pins.thermtrip := by
  by_cases h : s.shep.savesEnabled = false ∨ s.ledg.held = true
  · rw [State.curtain_of_disabled hrun h]
    exact ⟨rfl, rfl, rfl⟩
  · obtain ⟨hsaves, hheld⟩ := not_or.mp h
    rw [State.curtain_of_enabled hrun (by simpa using hsaves) (by simpa using hheld)]
    exact ⟨rfl, rfl, rfl⟩

/-- Of the registers a trigger changes BUSY and HEALTHY alone. -/
theorem State.fld_curtain (h : s.regs.file.Pairwise fun x y => x.1 < y.1) (cause unit : Nat) {x : Fld} (hx : x.lo + x.len ≤ 32) (hbusy : F.ldgStatusBusy.Apart x)
    (hhealthy : F.shpStatusHealthy.Apart x) : (s.curtain cause unit).fld x = s.fld x := by
  by_cases hoff : s.shep.savesEnabled = false ∨ s.ledg.held = true
  · rw [State.curtain_of_disabled hrun hoff]
    exact State.fld_setFld_of_apart (s := s) h hx hhealthy 0
  · obtain ⟨hsaves, hheld⟩ := not_or.mp hoff
    rw [State.curtain_of_enabled hrun (by simpa using hsaves) (by simpa using hheld)]
    exact State.fld_setFld_of_apart (s := s) h hx hbusy 1

end

theorem State.flag_setFld_same {s : State} (h : s.regs.file.Pairwise fun x y => x.1 < y.1) {x : Fld} (hx : x.lo + x.len ≤ 32) (v : Nat) :
    (s.setFld x v).flag x = (v % 2 ^ x.len == 1) := by
  rw [State.flag, State.fld_setFld_same _ _ _ h hx]

theorem State.releaseRails_flag {s : State} (h : s.regs.file.Pairwise fun x y => x.1 < y.1) :
    s.releaseRails.flag F.shpStatusHealthy = false :=
  (State.flag_setFld_same (s := s.setShep _) h (by simp [F.shpStatusHealthy]) 0).trans rfl

theorem State.stopMarked_canonical {s : State} (h : s.canonical) (event unit : Nat) : (s.stopMarked event unit).canonical :=
  (State.setFld_keeps _ _ (State.setFld_keeps _ _ (State.setFld_keeps _ _ (Keeps.refl s)))).canonical h

theorem State.fld_stopNow {s : State} (h : s.canonical) (hrun : s.running = true) {event unit : Nat} {x : Fld} {v : Nat}
    (hx : (x, v) ∈ stopWrites event unit) : (s.stopNow event unit).fld x = v % 2 ^ x.len := by
  have hfit : x.lo + x.len ≤ 32 ∧ F.ldgStatusBusy.Apart x ∧ F.shpStatusHealthy.Apart x := by
    simp only [stopWrites, List.mem_cons, List.not_mem_nil, or_false] at hx
    obtain ⟨rfl, -⟩ | ⟨rfl, -⟩ | ⟨rfl, -⟩ := hx
    all_goals simp [Fld.Apart, F.ldgStatusBusy, F.shpStatusHealthy, F.shpCauseEvent, F.shpCauseUnit, F.shpStatusState, Reg.addr]
  obtain ⟨hlen, hbusy, hhealthy⟩ := hfit
  have hmarked : (s.stopMarked event unit).regs.file.Pairwise fun x y => x.1 < y.1 := (State.stopMarked_canonical h event unit).regs.1.1
  rw [State.stopNow_of_running hrun, State.fld_curtain (s := s.stopMarked event unit) hrun hmarked event unit hlen hbusy hhealthy,
    State.stopMarked_eq_setFlds]
  exact State.fld_setFlds_of_mem h.regs.1.1 hlen (stopWrites_apart event unit) hx

/-- What the Shepherd's shared operations do: the events by the entries they leave, a stop by the marks it sets and by what its trigger
begins. -/
theorem shepherdActs : ShepherdActs := by
  refine ⟨fun s code unit => ⟨⟨_, s.shepEvent_history code unit⟩, s.shepEvent_hubEvents code unit⟩,
    fun s unit => (s.shepEvent 0x7005 unit).degrade_eq, fun s event unit hs hrun hevent hunit => ?stopNow, fun s event unit h => ?orderly⟩
  case stopNow =>
    have hm : (s.stopMarked event unit).running = true := hrun
    have hreads {x : Fld} {v : Nat} := State.fld_stopNow (x := x) (v := v) (event := event) (unit := unit) hs hrun
    refine ⟨(hreads (by simp [stopWrites])).trans (Nat.mod_eq_of_lt hevent), (hreads (by simp [stopWrites])).trans (Nat.mod_eq_of_lt hunit),
      hreads (v := 3) (by simp [stopWrites]), ?_, fun hsaves hheld => ?_, fun hoff => ?_⟩
    all_goals rw [State.stopNow_of_running hrun]
    · exact (State.curtain_stops hm event unit).2.1
    · rw [State.curtain_of_enabled hm hsaves hheld]
      exact ⟨rfl, _, rfl, rfl, rfl, rfl, rfl, rfl⟩
    · rw [State.curtain_of_disabled hm hoff]
      exact ⟨rfl, rfl, rfl, State.releaseRails_flag (s := (s.stopMarked event unit).halt .halted)
        (State.stopMarked_canonical hs event unit).regs.1.1⟩
  case orderly =>
    unfold State.stopOrderly
    rw [h]

end Sys2Proof.Machine
end

section
/-!
Proofs about the temperature rows (R282 to R284, R288): the hardwired trip of a sensor.
-/

namespace Sys2Proof.Machine

/-! ## Sensors counted as failed (R284) -/

/-- An orderly stop changes of the Shepherd's state what stops the device alone, and the clocks run on until it has withdrawn. -/
theorem State.stopOrderly_shep (s : State) (event unit : Nat) :
    ∃ v, (s.stopOrderly event unit).shep = { s.shep with stop := v } ∧ (s.stopOrderly event unit).running = s.running := by
  unfold State.stopOrderly
  split
  next h =>
    refine ⟨.orderly event unit, State.shep_withdraw _, ?_⟩
    rw [State.running, State.running, State.shep_withdraw, h]
    rfl
  next => exact ⟨s.shep.stop, rfl, rfl⟩

/-- A sensor newly failed: its mark, E_SENSOR, and the fold's cap. -/
def State.sensorMarked (s : State) (f now : Nat) : State := ((s.setFld (F.shpTempFailed f) now).sensorEvent f).applyCap f

@[simp] theorem State.shep_sensorMarked (s : State) (f now : Nat) : (s.sensorMarked f now).shep = s.shep :=
  State.shep_sensorEvent (s.setFld (F.shpTempFailed f) now) f

/-- Sensors counted as failed are failed already, are marked, or are marked and stop the device. -/
theorem State.sensorsFail_cases (s : State) (f mask : Nat) : let now := Nat.lor (s.fld (F.shpTempFailed f)) mask
    now = s.fld (F.shpTempFailed f) ∧ s.sensorsFail f mask = s ∨
      now ≠ s.fld (F.shpTempFailed f) ∧ (s.sensorsFail f mask = s.sensorMarked f now ∨
        s.sensorsFail f mask = (s.sensorMarked f now).stopOrderly 0x7005 f) := by
  intro now
  unfold State.sensorsFail
  dsimp only
  split
  next h => exact .inl ⟨h, rfl⟩
  next h =>
    split
    · exact .inr ⟨h, .inr rfl⟩
    · exact .inr ⟨h, .inl rfl⟩

theorem State.sensorsFail_shep (s : State) (f mask : Nat) :
    ∃ v, (s.sensorsFail f mask).shep = { s.shep with stop := v } ∧ (s.sensorsFail f mask).running = s.running := by
  have hmarked (now : Nat) : (s.sensorMarked f now).running = s.running :=
    State.running_of_stop (congrArg ShepState.stop (s.shep_sensorMarked f now))
  obtain ⟨-, h⟩ | ⟨-, h | h⟩ := s.sensorsFail_cases f mask
  all_goals rw [h]
  · exact ⟨s.shep.stop, rfl, rfl⟩
  · exact ⟨s.shep.stop, s.shep_sensorMarked f _, hmarked _⟩
  · obtain ⟨v, hshep, hrun⟩ := (s.sensorMarked f (Nat.lor (s.fld (F.shpTempFailed f)) mask)).stopOrderly_shep 0x7005 f
    exact ⟨v, by rw [hshep, State.shep_sensorMarked], hrun.trans (hmarked _)⟩

/-! ## The hardwired trip (R279, R283) -/

theorem State.thermalTrip_stops {s : State} (hrun : s.running = true) (unit : Nat) : let t := s.thermalTrip unit
    t.shep.pins.thermtrip = true ∧ t.running = false ∧ t.host.pcieUp = false := by
  obtain ⟨u, hu⟩ : ∃ u, u = (s.setShep { s.shep with pins := { s.shep.pins with thermtrip := true } }).noteHistory 0x7001 unit := ⟨_, rfl⟩
  have hgo : u.running = true := hu ▸ hrun
  have htrip : s.thermalTrip unit = (u.stopMarked 0x7001 unit).curtain 0x7001 unit := by
    rw [← State.stopNow_of_running hgo, hu]
    exact if_pos hrun
  obtain ⟨hstopped, hlink, hpin⟩ := State.curtain_stops (s := u.stopMarked 0x7001 unit) hgo 0x7001 unit
  rw [htrip]
  exact ⟨hpin.trans (by rw [hu]; rfl), hstopped, hlink⟩

theorem shpTlimits_unlogged : Reg.shpTlimits.Unlogged := by
  simp [Reg.Unlogged, Reg.addr]

section

variable (s : State)

theorem State.noteSample_eq (k : Nat) : ∃ l, s.noteSample k = s.setShep { s.shep with sampled := l } := by
  unfold State.noteSample
  split
  · exact ⟨s.shep.sampled, rfl⟩
  · exact ⟨_, rfl⟩

@[simp] theorem State.noteSample_fld (k : Nat) (x : Fld) : (s.noteSample k).fld x = s.fld x := by
  obtain ⟨l, h⟩ := s.noteSample_eq k
  rw [h, State.setShep_fld]

@[simp] theorem State.noteSample_running (k : Nat) : (s.noteSample k).running = s.running := by
  obtain ⟨l, h⟩ := s.noteSample_eq k
  rw [h]
  rfl

end

/-- The field of a fold's sensor A or B. -/
def sensorFld (f : Nat) (a : Bool) : Fld := if a then F.shpTempSensorA f else F.shpTempSensorB f

@[simp] theorem sensorFld_reg (f : Nat) (a : Bool) : (sensorFld f a).reg = .shpTemp f := by
  cases a <;> rfl

/-- A fold's sensor read: its field holds the reading, and it is noted as read. -/
def State.tempRead (s : State) (f : Nat) (a : Bool) (reading : Int) : State :=
  (s.setFld (sensorFld f a) (tempCode reading)).noteSample (2 * f + if a then 0 else 1)

section

variable (s : State) (f : Nat) (a : Bool) (reading : Int)

@[simp] theorem State.tempRead_running : (s.tempRead f a reading).running = s.running := State.noteSample_running _ _

@[simp] theorem State.tempRead_trip : (s.tempRead f a reading).fld F.shpTlimitsTrip = s.fld F.shpTlimitsTrip := by
  rw [State.tempRead, State.noteSample_fld, State.fld_setFld_ne]
  simp only [sensorFld_reg, F.shpTlimitsTrip, Reg.addr]
  omega

theorem State.tempSample_eq : let t := s.tempRead f a reading
    let mask := if a then 1 else 2
    let judged := s.running && !t.shep.restarting
    s.tempSample f a reading = if 4 * s.fld F.shpTlimitsTrip ≤ reading.toNat
      then (t.when (judged && outOfRange reading) (·.sensorsFail f mask)).thermalTrip f
      else t.when (judged = true) (·.judgeTemp f mask reading) := by
  rw [← State.tempRead_trip s f a reading, ← State.tempRead_running s f a reading]
  cases a <;> rfl

/-- A reading at or above TRIP of a fold's sensor trips a device that runs, whatever the Shepherd's cores have made of it. -/
theorem State.tempSample_of_hot (h : 4 * s.fld F.shpTlimitsTrip ≤ reading.toNat) :
    ∃ t : State, t.running = s.running ∧ s.tempSample f a reading = t.thermalTrip f := by
  refine ⟨_, ?_, (s.tempSample_eq f a reading).trans (if_pos h)⟩
  obtain ⟨v, -, hrun⟩ := (s.tempRead f a reading).sensorsFail_shep f (if a then 1 else 2)
  exact (State.view_when State.running hrun _).trans (s.tempRead_running f a reading)

end

/-! ## Sensors of the hub die and of the stacks -/

section

variable (s : State) (unit : Nat) (a : Bool) (reading : Int)

/-- A sensor of the hub die or of a stack read. -/
def State.heatRead : State :=
  s.setShep { s.shep with heat := tblSet 0 s.shep.heat (2 * unit + if a then 0 else 1) (tempCode reading) }

/-- Its place's sensors, by the mask of those that have failed. -/
def State.heatMarked (failed : Nat) : State :=
  (s.setShep { s.shep with heatFailed := tblSet 0 s.shep.heatFailed unit failed }).sensorEvent unit

/-- What the Shepherd's cores make of the reading: one out of range counts its sensor as failed. -/
def State.heatJudged : State :=
  let was := tblGet 0 s.shep.heatFailed unit
  let now := Nat.lor was (if a then 1 else 2)
  (s.heatRead unit a reading).when (s.running ∧ s.shep.restarting = false ∧ outOfRange reading ∧ now ≠ was) (·.heatMarked unit now)

@[simp] theorem State.heatMarked_running (failed : Nat) : (s.heatMarked unit failed).running = s.running :=
  (State.running_of_stop (congrArg ShepState.stop (State.shep_sensorEvent _ unit))).trans rfl

@[simp] theorem State.heatMarked_trip (failed : Nat) : (s.heatMarked unit failed).fld F.shpTlimitsTrip = s.fld F.shpTlimitsTrip :=
  State.fld_sensorEvent _ unit shpTlimits_unlogged

theorem State.heatJudged_running : (s.heatJudged unit a reading).running = s.running :=
  (State.view_when State.running (State.heatMarked_running _ unit _) _).trans rfl

theorem State.heatJudged_trip : (s.heatJudged unit a reading).fld F.shpTlimitsTrip = s.fld F.shpTlimitsTrip :=
  (State.view_when (State.fld · F.shpTlimitsTrip) (State.heatMarked_trip _ unit _) _).trans rfl

theorem State.heatSample_eq : s.heatSample unit a reading =
    if 4 * s.fld F.shpTlimitsTrip ≤ reading.toNat then (s.heatJudged unit a reading).thermalTrip unit else s.heatJudged unit a reading := by
  rw [← s.heatJudged_trip unit a reading]
  rfl

theorem State.heatSample_of_hot (h : 4 * s.fld F.shpTlimitsTrip ≤ reading.toNat) :
    ∃ t : State, t.running = s.running ∧ s.heatSample unit a reading = t.thermalTrip unit :=
  ⟨_, s.heatJudged_running unit a reading, (s.heatSample_eq unit a reading).trans (if_pos h)⟩

end

/-! ## The statement -/

theorem State.sampleAt_of_hot {s : State} {reading : Int} (hdark : s.shep.dark = false) (h : 4 * s.fld F.shpTlimitsTrip ≤ reading.toNat)
    (x : HeatPlace) (a : Bool) : ∃ (t : State) (unit : Nat), t.running = s.running ∧ s.sampleAt x a reading = t.thermalTrip unit := by
  have hlit : ¬s.shep.dark = true := by simp [hdark]
  cases x with
  | fold f =>
    obtain ⟨t, hrun, htrip⟩ := s.tempSample_of_hot f a reading h
    exact ⟨t, f, hrun, (if_neg hlit).trans htrip⟩
  | hub =>
    obtain ⟨t, hrun, htrip⟩ := s.heatSample_of_hot (heatUnit .hub) a reading h
    exact ⟨t, _, hrun, (if_neg hlit).trans htrip⟩
  | stack k =>
    obtain ⟨t, hrun, htrip⟩ := s.heatSample_of_hot (heatUnit (.stack k)) a reading h
    exact ⟨t, _, hrun, (if_neg hlit).trans htrip⟩

/-- Settles O55: wherever the sensor stands, the reading ends in the hardwired trip of a state that still runs (`State.sampleAt_of_hot`),
whatever the Shepherd's cores have made of it before. -/
theorem thermalTripStopsTheDevice : Obligations.ThermalTripStopsTheDevice := by
  intro s x r t _ hrun hdark hhot hexec
  have hsample (a : Bool) (h : s.sampleAt x a r = t) : t.shep.pins.thermtrip = true ∧ t.running = false ∧ t.host.pcieUp = false := by
    obtain ⟨u, unit, hu, htrip⟩ := State.sampleAt_of_hot hdark hhot x a
    rw [← h, htrip]
    exact State.thermalTrip_stops (hu.trans hrun) unit
  exact hexec.elim (fun h => hsample true (Host.Outcome.next.inj h)) (fun h => hsample false (Host.Outcome.next.inj h))

end Sys2Proof.Machine
end

section
/-!
Proofs about the current, coolant and leak rows (R285 to R287): the caps of every fold by the flow, and the rows.
-/

namespace Sys2Proof.Machine

/-! ## A row while the clocks run (R282, R293) -/

theorem next_clocked {s : State} (hrun : s.running = true) (f : State → State) : (.next (s.clocked f) : Result) = .next (f s) :=
  congrArg _ (State.clocked_of_running hrun f)

/-! ## Clocks and caps (R283, R284, R286) -/

theorem State.foldClock_setFoldClock_same {s : State} (h : s.canonical) (f v : Nat) : (s.setFoldClock f v).foldClock f = v :=
  tblGet_tblSet_same _ _ _ _ h.time.2.1

theorem State.foldClock_setFoldClock_ne (s : State) {f g : Nat} (v : Nat) (h : g ≠ f) : (s.setFoldClock f v).foldClock g = s.foldClock g :=
  tblGet_tblSet_ne _ _ _ _ h

/-- A fold at ALARM, with both sensors failed, or with the flow low, is capped at 0.9 GHz, and its clock brought within the cap. -/
theorem State.applyCap_of_low {s : State} {f : Nat}
    (h : s.flag (F.shpTempAlarm f) = true ∨ s.fld (F.shpTempFailed f) = 3 ∨ s.shep.flowCapped = true) :
    s.applyCap f = (s.setFld (F.shpTempClockCap f) 90).setFoldClock f (min 90 (s.foldClock f)) := by
  have hlow : (s.flag (F.shpTempAlarm f) || s.fld (F.shpTempFailed f) == 3 || s.shep.flowCapped) = true := by
    simpa [or_assoc] using h
  unfold State.applyCap
  dsimp only
  rw [if_pos hlow]
  rfl

theorem State.cap_of_applyCap_of_low {s : State} (hs : s.canonical) {f : Nat}
    (h : s.flag (F.shpTempAlarm f) = true ∨ s.fld (F.shpTempFailed f) = 3 ∨ s.shep.flowCapped = true) :
    (s.applyCap f).fld (F.shpTempClockCap f) = 90 := by
  rw [State.applyCap_of_low h, State.setFoldClock_fld, State.fld_setFld_same _ _ _ hs.regs.1.1 (by simp [F.shpTempClockCap])]
  rfl

theorem State.foldClock_applyCap_ne (s : State) {f g : Nat} (h : g ≠ f) : (s.applyCap f).foldClock g = s.foldClock g :=
  State.foldClock_setFoldClock_ne _ _ h

theorem State.fld_applyCap_ne (s : State) {f g : Nat} (h : g ≠ f) : (s.applyCap f).fld (F.shpTempClockCap g) = s.fld (F.shpTempClockCap g) :=
  State.fld_setFld_ne (s := s) (x := F.shpTempClockCap f) (y := F.shpTempClockCap g) _
    (by simp only [F.shpTempClockCap, Reg.addr]; omega)

theorem State.capAll_caps {s : State} (h : s.canonical) {f : Nat} (hf : f < 32) :
    s.capAll.fld (F.shpTempClockCap f) = 90 ∧ s.capAll.foldClock f = min 90 (s.foldClock f) := by
  refine State.over_of_mem (I := fun t => t.canonical ∧ t.shep.flowCapped = true ∧ t.foldClock f = s.foldClock f)
    (P := fun t => t.fld (F.shpTempClockCap f) = 90 ∧ t.foldClock f = min 90 (s.foldClock f)) List.nodup_range (List.mem_range.mpr hf)
    (fun t y _ hy ⟨hc, hlow, hclock⟩ => ⟨(State.applyCap_keeps y (Keeps.refl t)).canonical hc, hlow, ?_⟩) (fun t ⟨hc, hlow, hclock⟩ => ⟨?_, ?_⟩)
    (fun t y _ hy ⟨hcap, hclock⟩ => ⟨?_, ?_⟩) ⟨(Keeps.setShep { s.shep with flowCapped := true } (Keeps.refl s) fun k => k).canonical h, rfl, rfl⟩
  · rw [State.foldClock_applyCap_ne t hy.symm, hclock]
  · exact State.cap_of_applyCap_of_low hc (.inr (.inr hlow))
  · rw [State.applyCap_of_low (.inr (.inr hlow)), ← hclock]
    exact State.foldClock_setFoldClock_same (s := t.setFld _ _) ((State.setFld_keeps _ _ (Keeps.refl t)).canonical hc) f _
  · rw [State.fld_applyCap_ne t hy.symm, hcap]
  · rw [State.foldClock_applyCap_ne t hy.symm, hclock]

/-! ## Leaks (R287) -/

/-- A sample of a cable in SHP.COOLANT. -/
def State.cableRead (s : State) (c : LeakCable) (ohms : Nat) : State :=
  (s.setFld (leakFld c) (b2n (decide (ohms < 10000)))).setFld (openFld c) (b2n (decide (2000000 < ohms)))

section

variable {s : State} (hdark : s.shep.dark = false) (c : LeakCable) {ohms : Nat}

include hdark

theorem State.leakSample_of_leak (h : ohms < 10000) : s.leakSample c ohms = (s.cableRead c ohms).leak c :=
  (if_neg (by simp [hdark])).trans (if_pos h)

theorem State.leakSample_of_dry (h : 10000 ≤ ohms) : s.leakSample c ohms =
    (s.cableRead c ohms).when (2000000 < ohms ∧ s.flag (openFld c) = false ∧ s.running = true) (·.sensorEvent (cableUnit c)) :=
  (if_neg (by simp [hdark])).trans (if_neg (Nat.not_lt.mpr h))

end

/-! ## The statement -/

/-- Settles O56: each row is its operation while the clocks run, and the operation's cases are the branches of its definition; what the flow's
cap makes of every fold is `State.capAll_caps`. -/
theorem sensorRowsComplete : Obligations.SensorRowsComplete := by
  refine ⟨⟨fun d => ⟨rfl, rfl, rfl, rfl⟩, ⟨rfl, rfl, rfl, by simp [railDies]⟩, fun s r ma hrun => ?current, fun s d hrun hd => ?restart⟩,
    ⟨fun s x hrun => ?flow, fun s f hs hf => State.capAll_caps hs hf, fun s c ohms hdark => ?leak⟩, shepherdActs⟩
  case current =>
    refine ⟨next_clocked hrun _, next_clocked hrun _, fun hma hd => (next_clocked hrun _).trans (congrArg _ (if_pos ⟨hma, ?_⟩)), next_clocked hrun _, next_clocked hrun _⟩
    simpa using hd
  case restart =>
    exact (next_clocked hrun _).trans (congrArg _ (if_pos (by simpa using hd)))
  case flow =>
    refine ⟨next_clocked hrun _, next_clocked hrun _, fun ha hb => (next_clocked hrun _).trans (congrArg _ (if_pos ⟨ha, hb⟩)), fun h => (next_clocked hrun _).trans (congrArg _ (if_neg ?_)),
      fun ha hb hm => (next_clocked hrun _).trans (congrArg _ (if_pos ⟨ha, hb, hm⟩))⟩
    rintro ⟨ha, hb⟩
    exact h.elim (fun h => h ha) (fun h => absurd (hb.symm.trans h) (by decide))
  case leak =>
    refine ⟨fun hleak hrun => ?_, fun hleak hrun => ?_, fun hlow hhigh => ?_, fun hopen hwas hrun => ?_⟩
    · exact congrArg _ ((State.leakSample_of_leak hdark c hleak).trans (if_neg fun h => absurd (hrun.symm.trans h) (by decide)))
    · exact congrArg _ ((State.leakSample_of_leak hdark c hleak).trans (if_pos hrun))
    · exact congrArg _ ((State.leakSample_of_dry hdark c hlow).trans (if_neg fun h => absurd h.1 (Nat.not_lt.mpr hhigh)))
    · exact congrArg _ ((State.leakSample_of_dry hdark c (by omega)).trans (if_pos ⟨hopen, hwas, hrun⟩))

end Sys2Proof.Machine
end

section
/-!
Proofs about the VHOLD bank, the Shepherd's cores and supply, the loops and the ends of records and saves (R288 to R298, R301): the cases of
each operation, and the rows.
-/

namespace Sys2Proof.Machine

/-! ## The VHOLD bank (R298) -/

section

variable (s : State) (x : BankSample)

/-- A bank's test in SHP.HOLD. -/
def State.bankRead : State :=
  ((s.setFld F.shpHoldVhold (min 4095 x.volts)).setFld F.shpHoldCap (min 4095 x.cap)).setFld F.shpHoldEnergy
    (min 255 (bankEnergy x / 4000000))

theorem State.bankTest_eq : s.bankTest x = if 240000000 ≤ bankEnergy x then (s.bankRead x).setFld F.shpStatusHoldOk 1
    else ((s.bankRead x).setFld F.shpStatusHoldOk 0).shepEvent 0x7007 := by
  unfold State.bankTest
  dsimp only
  by_cases h : 240000000 ≤ bankEnergy x
  · rw [decide_eq_true h, if_pos rfl, if_pos h]
    rfl
  · rw [decide_eq_false h, if_neg (by decide), if_neg h]
    rfl

theorem State.holdLow_eq : s.holdLow x = if x.volts < 1080 ∧ 3 ≤ s.fld F.hubBootPhase then (s.setFld F.shpHoldVhold x.volts).shepEvent 0x7007
    else s.setFld F.shpHoldVhold (min 4095 x.volts) := by
  have hphase (v : Nat) : (s.setFld F.shpHoldVhold v).fld F.hubBootPhase = s.fld F.hubBootPhase := State.fld_setFld_ne v (by decide)
  unfold State.holdLow
  dsimp only
  rw [hphase]
  split
  next h => rw [sat, Nat.min_eq_right (by omega)]
  next => rfl

end

/-! ## The Shepherd's supply (R288, R303) -/

section

variable (s : State)

theorem State.tearRecord_leaves : s.tearRecord.ledg.write = none ∧ s.tearRecord.shep = s.shep := by
  unfold State.tearRecord
  split
  next h => exact ⟨h, rfl⟩
  next => exact ⟨rfl, rfl⟩

/-- Every output released (R288). -/
def State.darkened : State :=
  let t := s.releaseRails
  t.setShep { t.shep with dark := true, pins := { t.shep.pins with thermtrip := false, pwrkill := false } }

theorem State.shepherdDark_of_saving (h : s.shep.stop = .saving) : s.shepherdDark = s.darkened := by
  unfold State.shepherdDark
  dsimp only
  split
  next => rfl
  next hne => exact absurd h hne

theorem State.shepherdDark_of_not_saving (h : s.shep.stop ≠ .saving) : s.shepherdDark = s.darkened.tearRecord.halt .halted := by
  unfold State.shepherdDark
  dsimp only
  split
  next heq => exact absurd heq h
  next => rfl

theorem State.shepherdDark_leaves : let t := s.shepherdDark
    t.shep.dark = true ∧ t.shep.pins.healthy = false ∧ t.shep.pins.thermtrip = false ∧ t.shep.pins.pwrkill = false ∧
      (s.shep.stop = .saving → t.shep.stop = .saving) ∧
      (s.shep.stop ≠ .saving → t.shep.stop = .halted ∧ t.host.pcieUp = false ∧ t.ledg.write = none) := by
  by_cases h : s.shep.stop = .saving
  · rw [s.shepherdDark_of_saving h]
    exact ⟨rfl, rfl, rfl, rfl, fun _ => h, fun hne => absurd h hne⟩
  · obtain ⟨hwrite, hshep⟩ := s.darkened.tearRecord_leaves
    have hpins := congrArg ShepState.pins hshep
    rw [s.shepherdDark_of_not_saving h]
    exact ⟨congrArg ShepState.dark hshep, congrArg Pins.healthy hpins, congrArg Pins.thermtrip hpins, congrArg Pins.pwrkill hpins,
      fun hsaving => absurd hsaving h, fun _ => ⟨rfl, rfl, hwrite⟩⟩

end

/-! ## The adaptive loops (R290) -/

theorem State.countClamp_bne {α : Type} [DecidableEq α] (s : State) (a b : α) :
    s.countClamp (a != b) = if a = b then s else s.setShep { s.shep with clamps := s.shep.clamps + 1 } := by
  unfold State.countClamp
  by_cases h : a = b <;> simp [h]

theorem State.countClamp_beq (s : State) (a b : Bool) :
    s.countClamp (a == b) = if a = b then s.setShep { s.shep with clamps := s.shep.clamps + 1 } else s := by
  unfold State.countClamp
  by_cases h : a = b <;> simp [h]

/-! ## The ends of records and saves (R294 to R296, R301) -/

section

variable {s : State}

theorem State.afterStop_of_no_por (h : s.shep.pins.por = false) : s.afterStop = s := if_neg (by simp [h])

theorem State.stopWithdrawn_of_orderly {event unit : Nat} (h : s.shep.stop = .orderly event unit) : s.stopWithdrawn = s.stopNow event unit := by
  unfold State.stopWithdrawn
  rw [h]

theorem State.saveDone_of_saving {w : LedgerWrite} (hstop : s.shep.stop = .saving) (hw : s.ledg.write = some w)
    (hpor : s.shep.pins.por = false) : let t := (s.commitRecord w).releaseRails
    s.saveDone = (t.setShep { t.shep with stop := .saved }).setFld F.shpStatusState 4 := by
  intro t
  unfold State.saveDone
  rw [hstop, hw]
  exact State.afterStop_of_no_por hpor

theorem State.recordDone_of_write {w : LedgerWrite} (hrun : s.running = true) (hw : s.ledg.write = some w) :
    s.recordDone = if s.ledg.again = true then
        ((s.commitRecord w).setLedg { (s.commitRecord w).ledg with again := false }).beginRecord 2
      else s.commitRecord w := by
  unfold State.recordDone
  rw [hw]
  exact if_pos hrun

/-- After a collapse the controller issues no further word (R296). -/
def State.collapsed (s : State) : State := s.tearRecord.setLedg { s.tearRecord.ledg with held := true }

theorem State.collapsed_shep (s : State) : s.collapsed.shep = s.shep := s.tearRecord_leaves.2

theorem State.vholdCollapse_of_saving (hstop : s.shep.stop = .saving) (hpor : s.shep.pins.por = false) :
    s.vholdCollapse = (s.collapsed.setShep { s.collapsed.shep with stop := .halted }).releaseRails := by
  have hpins : s.collapsed.shep.pins.por = false := by rw [State.collapsed_shep, hpor]
  unfold State.vholdCollapse
  dsimp only
  split
  next => exact State.afterStop_of_no_por hpins
  next hne => exact absurd ((congrArg ShepState.stop s.collapsed_shep).trans hstop) hne

theorem State.vholdCollapse_of_not_saving (hstop : s.shep.stop ≠ .saving) : s.vholdCollapse = s.collapsed := by
  unfold State.vholdCollapse
  dsimp only
  split
  next h => exact absurd ((congrArg ShepState.stop s.collapsed_shep).symm.trans h) hstop
  next => rfl

theorem State.vholdCollapse_leaves (hpor : s.shep.pins.por = false) : let t := s.vholdCollapse
    t.ledg.write = none ∧ t.ledg.held = true ∧ (s.shep.stop = .saving → t.shep.stop = .halted ∧ t.shep.pins.healthy = false) := by
  by_cases hstop : s.shep.stop = .saving
  · rw [State.vholdCollapse_of_saving hstop hpor]
    exact ⟨s.tearRecord_leaves.1, rfl, fun _ => ⟨rfl, rfl⟩⟩
  · rw [State.vholdCollapse_of_not_saving hstop]
    exact ⟨s.tearRecord_leaves.1, rfl, fun h => absurd h hstop⟩

end

theorem execLoopSetting_eq {s : State} (hrun : s.running = true) (r : LoopRequest) : exec (.loopSettingRequest r) s = .next (s.loopRequest r) :=
  next_clocked hrun _

theorem State.supplyTrigger_of_running {s : State} (hrun : s.running = true) (unit : Nat) :
    s.supplyTrigger unit = ((s.setFld F.shpCauseEvent 0).setFld F.shpCauseUnit unit).curtain 0 unit := if_pos hrun

/-- Settles O57: each row is its operation while the clocks run, and the operation's cases are its lemmas here; a save's record is the one of
`State.curtain_of_enabled`. -/
theorem shepherdRowsComplete : Obligations.ShepherdRowsComplete := by
  refine ⟨⟨fun s x hrun => ?bank, fun s x hs hrun => ?low, fun s hrun => ?lockstep, fun s => rfl, fun s => ⟨_, rfl, s.shepherdDark_leaves⟩,
      fun s f want mv hrun => ?clock, fun s f on hrun => ?claims, fun s p l v hrun => ?tap, fun s c v reported hrun => ?refresh⟩,
    fun s hrun => ?pwrfail, fun s r mv hrun => ⟨fun hlow => ?under, fun hok => ?within⟩, ⟨fun _ => rfl, rfl, rfl, rfl, rfl⟩,
    fun s cause unit hs hrun hsaves hheld => ?curtain, fun s e u h => ?withdrawn, fun s w hstop hw hpor => ?saved,
    fun s hpor => ⟨_, rfl, State.vholdCollapse_leaves hpor⟩, fun s w hrun hw => ?record, shepherdActs⟩
  case bank => exact (next_clocked hrun _).trans (congrArg _ (s.bankTest_eq x))
  case low => exact (next_clocked hrun _).trans (congrArg _ (s.holdLow_eq x))
  case lockstep =>
    intro recent t
    refine (next_clocked hrun _).trans (congrArg _ ?_)
    by_cases h : recent = []
    · exact (if_pos (by rw [List.isEmpty_iff]; exact h)).trans (if_pos h).symm
    · exact (if_neg (by rw [List.isEmpty_iff]; exact h)).trans (if_neg h).symm
  case clock => exact (execLoopSetting_eq hrun _).trans (congrArg _ (State.countClamp_bne _ _ _))
  case claims => exact (execLoopSetting_eq hrun _).trans (congrArg _ (State.countClamp_beq _ _ _))
  case tap => exact (execLoopSetting_eq hrun _).trans (congrArg _ (State.countClamp_bne _ _ _))
  case refresh => exact (execLoopSetting_eq hrun _).trans (congrArg _ (State.countClamp_bne _ _ _))
  case pwrfail =>
    intro t
    exact congrArg Host.Outcome.next (State.supplyTrigger_of_running (s := t) hrun 0)
  case under => exact congrArg _ ((if_pos hlow).trans (State.supplyTrigger_of_running hrun _))
  case within => exact congrArg _ (if_neg (Nat.not_lt.mpr hok))
  case curtain =>
    rw [State.curtain_of_enabled hrun hsaves hheld]
    exact ⟨rfl, rfl, State.flag_setFld_same (s := (s.setFree _).setLedg _) hs.regs.1.1 (by simp [F.ldgStatusBusy]) 1, _, rfl, rfl, rfl, rfl, rfl⟩
  case withdrawn => exact congrArg Host.Outcome.next (State.stopWithdrawn_of_orderly h)
  case saved => exact congrArg _ (State.saveDone_of_saving hstop hw hpor)
  case record =>
    intro t
    refine ⟨fun hagain => congrArg _ ((State.recordDone_of_write hrun hw).trans (if_neg (by simp [hagain]))),
      fun hagain => congrArg _ ((State.recordDone_of_write hrun hw).trans (if_pos hagain))⟩

end Sys2Proof.Machine
end

section
/-!
Proofs about start-up (R302, R348, R351 to R353): recovery, the rails, the recovered sparing, and what the bring-up sequencer leaves.
-/

namespace Sys2Proof.Machine

/-! ## Ledger recovery (R302) -/

/-- What recovery loads: saves allowed, the slots, and of the image the replaced rows, failed clusters and mapped-out channels. -/
def State.loaded (s : State) : Bool × List (Nat × LedgerSlot) × List RowRepl × List Nat × List Nat :=
  let m := s.ledg.shadow
  (s.shep.savesEnabled, s.ledg.slots, m.rowRepl, m.failed, m.mapped)

section

variable (s : State)

theorem State.loaded_of_ledg {s t : State} (hledg : t.ledg = s.ledg) (hshep : t.shep = s.shep) : t.loaded = s.loaded := by
  rw [State.loaded, State.loaded, hledg, hshep]

theorem State.loaded_shepEvent (code unit : Nat) : (s.shepEvent code unit).loaded = s.loaded := by
  unfold State.shepEvent
  dsimp only
  split
  · exact (State.loaded_of_ledg (s := (s.noteHistory code unit).hubEvent _) (State.ledg_raiseGlobal _ code unit)
      (State.shep_raiseGlobal _ code unit)).trans rfl
  · rfl

theorem State.loaded_tornSlot (cur : Nat) (x : Nat × LedgerSlot) : (s.tornSlot cur x).loaded = s.loaded := by
  unfold State.tornSlot
  split
  · exact State.loaded_shepEvent _ _ _
  · rfl

theorem State.loaded_corruptSlot (x : Nat × LedgerSlot) : (s.corruptSlot x).loaded = s.loaded := by
  unfold State.corruptSlot
  split
  · exact State.loaded_shepEvent _ _ _
  · rfl

theorem State.loaded_reportCurtain (r : LedgerSlot) : (s.reportCurtain r).loaded = s.loaded := by
  unfold State.reportCurtain
  split
  · exact State.loaded_shepEvent _ _ _
  · rfl

theorem State.applyLimits_leaves : s.applyLimits.ledg = s.ledg ∧ s.applyLimits.shep = s.shep := by
  refine State.over_induct (P := fun t => t.ledg = s.ledg ∧ t.shep = s.shep) (fun t x _ ht => ?_) ⟨rfl, rfl⟩
  split
  · exact ht
  · exact ht

end

section

variable {s : State} (hphase : s.phase = 1) (hsaves : s.shep.savesEnabled = false)

include hphase hsaves

theorem State.recover_of_none (h : bestSlot s.ledg.slots = none) : s.recover = s.setFld F.shpCauseEvent 0x8001 := by
  unfold State.recover
  rw [if_neg (by simp [hphase, hsaves]), h]

theorem State.recover_loads {k : Nat} {r : LedgerSlot} (h : bestSlot s.ledg.slots = some (k, r)) :
    s.recover.loaded = (true, s.ledg.slots, r.image.rowRepl, r.image.failed, r.image.mapped) := by
  unfold State.recover
  rw [if_neg (by simp [hphase, hsaves]), h]
  dsimp only
  rw [State.loaded_reportCurtain, State.view_over State.loaded State.loaded_corruptSlot,
    State.view_over State.loaded fun t x => State.loaded_tornSlot t r.seq x]
  have hlimits (t : State) : (t.applyLimits.setShep { t.applyLimits.shep with savesEnabled := true }).loaded =
      (t.setShep { t.shep with savesEnabled := true }).loaded :=
    State.loaded_of_ledg t.applyLimits_leaves.1 (congrArg (fun v : ShepState => { v with savesEnabled := true }) t.applyLimits_leaves.2)
  rw [hlimits]
  rfl

end

/-! ## Rails and the recovered sparing (R348, R352) -/

theorem Pins.driveSeq_get (v : Pins) {k : Nat} (hk : k < 4) :
    [(v.driveSeq k).seq0, (v.driveSeq k).seq1, (v.driveSeq k).seq2, (v.driveSeq k).seq3][k]? = some true := by
  match k, hk with
  | 0, _ | 1, _ | 2, _ | 3, _ => rfl

theorem State.powerRails_leaves {s : State} (h : s.canonical) : let t := s.powerRails
    t.shep.pins.healthy = true ∧ t.shep.pins.seq0 = true ∧ t.shep.rails.inRange = 0 ∧ t.shep.rails.waiting = true ∧
      t.flag F.shpStatusHealthy = true :=
  ⟨rfl, rfl, rfl, rfl, State.flag_setFld_same (s := s.setShep _) h.regs.1.1 (by simp [F.shpStatusHealthy]) 1⟩

theorem State.releaseRails_leaves {s : State} (h : s.canonical) : let t := s.releaseRails
    t.shep.pins.healthy = false ∧ t.shep.pins.seq0 = false ∧ t.shep.pins.seq1 = false ∧ t.shep.pins.seq2 = false ∧
      t.shep.pins.seq3 = false ∧ t.flag F.shpStatusHealthy = false :=
  ⟨rfl, rfl, rfl, rfl, rfl, State.releaseRails_flag h.regs.1.1⟩

/-- The lists of spares and the Prompter's state, which writing registers leaves as they were. -/
def State.spares (s : State) : SpareState × MemState × PromptState := (s.spare, s.mem, s.prom)

theorem State.applySparing_leaves (s : State) : let t := s.applySparing
    t.spare.failed = s.ledg.shadow.failed ∧ t.spare.mappedOut = s.ledg.shadow.mapped ∧ t.mem.waysOut = s.ledg.shadow.waysOut ∧
      t.spare.rowsUsed = rowsUsedOf s.ledg.shadow.rowRepl ∧ t.prom = s.prom := by
  obtain ⟨u, hu⟩ : ∃ u, u = s.setSpare { s.spare with
    rowsUsed := rowsUsedOf s.ledg.shadow.rowRepl, failed := s.ledg.shadow.failed
    lost := (List.range 32).flatMap (lostOf s.ledg.shadow.failed), mappedOut := s.ledg.shadow.mapped } := ⟨_, rfl⟩
  obtain ⟨v, hv⟩ : ∃ v, v = u.over s.ledg.shadow.folds fun s x => s.setWord (.fldStatus x.1) x.2 := ⟨_, rfl⟩
  have hfolds : v.spares = u.spares := by
    rw [hv]
    refine State.view_over State.spares ?_ u _
    exact fun _ _ => rfl
  have hrest : s.applySparing.spares = (v.spare, { v.mem with waysOut := s.ledg.shadow.waysOut }, v.prom) := by
    rw [hv, hu]
    refine (State.view_over State.spares ?_ _ _).trans ((State.view_over State.spares ?_ _ _).trans rfl)
    all_goals exact fun _ _ => rfl
  have hspare : s.applySparing.spare = u.spare := (congrArg Prod.fst hrest).trans (congrArg Prod.fst hfolds)
  have hmem : s.applySparing.mem.waysOut = s.ledg.shadow.waysOut := congrArg (fun x => x.2.1.waysOut) hrest
  have hprom : s.applySparing.prom = u.prom := (congrArg (fun x => x.2.2) hrest).trans (congrArg (fun x => x.2.2) hfolds)
  subst hu
  exact ⟨congrArg SpareState.failed hspare, congrArg SpareState.mappedOut hspare, hmem, congrArg SpareState.rowsUsed hspare, hprom⟩

/-! ## What the bring-up sequencer leaves (R353) -/

/-- The register of the most channels that may be mapped out. -/
def State.channelLimit (s : State) : Word32 := s.word .hbcLimits

/-- From s to t the limit on mapped-out channels stands, and the lists of mapped-out channels and of failed clusters have only grown. -/
structure SparesGrow (s t : State) : Prop where
  limit : t.channelLimit = s.channelLimit
  mapped : s.spare.mappedOut <+: t.spare.mappedOut
  failed : s.spare.failed <+: t.spare.failed

namespace SparesGrow

variable {s t u : State}

theorem refl (s : State) : SparesGrow s s := ⟨rfl, List.prefix_refl _, List.prefix_refl _⟩

theorem trans (h : SparesGrow s t) (k : SparesGrow t u) : SparesGrow s u :=
  ⟨k.limit.trans h.limit, h.mapped.trans k.mapped, h.failed.trans k.failed⟩

theorem of_channels (h : t.channels = s.channels) : SparesGrow s t :=
  ⟨State.word_of_channels h (by simp [Reg.ofHbc, Reg.addr]), by rw [State.spare_of_channels h], by rw [State.spare_of_channels h]⟩

theorem of_spare (hlimit : t.channelLimit = s.channelLimit) (hspare : t.spare = s.spare) : SparesGrow s t :=
  ⟨hlimit, by rw [hspare], by rw [hspare]⟩

theorem over_list {α : Type} {f : State → α → State} (h : ∀ s x, SparesGrow s (f s x)) (s : State) (l : List α) : SparesGrow s (s.over l f) :=
  State.over_induct (P := SparesGrow s) (fun t x _ ht => ht.trans (h t x)) (refl s)

end SparesGrow

section

variable (s : State) (c : Nat)

theorem State.channelLimit_foldStatus (f idx : Nat) (depleted : Bool) : (s.foldStatus f idx depleted).channelLimit = s.channelLimit := by
  rw [State.foldStatus_eq_setFlds]
  refine State.over_induct (P := fun t => t.channelLimit = s.channelLimit) (fun t x hx ht => (State.word_setFld_ne _ ?_).trans ht) rfl
  rw [State.reg_of_mem_foldStatusWrites hx]
  simp only [Reg.addr]
  omega

theorem State.markFailed_grows : SparesGrow s (s.markFailed c).1 := by
  refine ⟨?_, ?_, ?_⟩
  · rw [State.markFailed_fst, State.channelLimit_foldStatus]
    rfl
  all_goals rw [State.markFailed_spare]
  · exact List.prefix_refl _
  · exact List.prefix_append _ _

theorem State.markMapped_grows : SparesGrow s (s.markMapped c) :=
  ⟨s.word_markMapped (r := .hbcLimits) (by simp [Reg.addr]) (by simp [Reg.addr]) c, List.prefix_append _ _, List.prefix_refl _⟩

theorem State.channelTested_grows : SparesGrow s (s.channelTested c) :=
  .of_spare ((State.word_setFld_chstat _ (by simp [Reg.addr]) rfl _).trans
    ((State.word_setFld_chstat _ (by simp [Reg.addr]) rfl _).trans rfl)) rfl

end

/-- A fold that has lost every cluster regains none by a further failure. -/
theorem foldClusters_eq_nil_of_prefix {l k : List Nat} (h : l <+: k) {f : Nat} (hl : foldClusters l f = []) : foldClusters k f = [] := by
  obtain ⟨m, rfl⟩ := h
  have hstay (gone : List Nat) (m : List Nat) :
      (m.foldl (fun (acc : List Nat × List Nat) c => (c :: acc.1, failOne f acc.1 acc.2 c)) (gone, [])).2 = [] := by
    induction m generalizing gone with
    | nil => rfl
    | cons c m ih => exact ih (c :: gone)
  unfold foldClusters at hl ⊢
  rw [List.filter_append, List.foldl_append, ← Prod.mk.eta (p := List.foldl _ _ (l.filter _)), hl]
  exact hstay _ _

/-- Too few means to become READY: more channels out than may be, or a fold without clusters (R353). -/
def State.Falls (s : State) : Prop := s.maxMapped < s.spare.mappedOut.length ∨ ∃ f < 32, foldClusters s.spare.failed f = []

theorem SparesGrow.falls {s t : State} (h : SparesGrow s t) (hs : s.Falls) : t.Falls := by
  refine hs.imp (fun hmapped => ?_) (fun ⟨f, hf, hfold⟩ => ⟨f, hf, foldClusters_eq_nil_of_prefix h.failed hfold⟩)
  have hlimit : t.maxMapped = s.maxMapped := congrArg (min 8) (State.fld_of_word h.limit)
  exact hlimit ▸ hmapped.trans_le h.mapped.length_le

/-- Clusters that fail their test. -/
def State.clustersTested (s : State) (l : List Nat) : State :=
  s.over l fun s c => if s.spare.failed.contains c then s else (s.markFailed c).1.queueRepair (.cluster c)

/-- Channels beyond repair. -/
def State.channelsOutTested (s : State) (l : List Nat) : State :=
  s.over l fun s c => if s.spare.mappedOut.contains c then s else ((s.markMapped c).queueRepair (.channel c)).raiseGlobal Ev.chanMapped c

/-- Every channel trained and tested. -/
def State.channelsTrained (s : State) : State := s.over (List.range 384) State.channelTested

/-- The stacks' contents undefined, the local stores zeroed. -/
def State.memoriesCleared (s : State) : State :=
  let t := s.undefineCells tStacked fun _ => true
  t.setMem { t.mem with loc := [], locPoison := [], stackPoison := [] }

/-- The BOOT record. -/
def State.bootRecorded (s : State) : State :=
  (s.setLedg { s.ledg with shadow := { s.ledg.shadow with bootCount := s.ledg.shadow.bootCount + 1 } }).beginRecord 1

/-- The bring-up sequencer's work before its verdict. -/
def State.sequenced (s : State) (o : BringupOutcome) : State :=
  ((s.clustersTested (o.failedClusters.map (·.val))).channelsOutTested
    (o.unrepairable.map (·.val)).eraseDups).channelsTrained.memoriesCleared.bootRecorded

/-- READY (R351). -/
def State.madeReady (s : State) : State := (s.setPhase 4).setFld F.shpStatusState 1

theorem State.broughtUp_eq {s : State} (h : s.phase = 3) (o : BringupOutcome) : let t := s.sequenced o
    s.broughtUp o = if t.maxMapped < t.spare.mappedOut.length ∨ (List.range 32).any (fun f => (foldClusters t.spare.failed f).isEmpty)
      then t.setPhase 5 else t.madeReady :=
  by
  unfold State.broughtUp State.sequenced State.bootRecorded State.memoriesCleared State.channelsTrained State.channelsOutTested
    State.clustersTested State.madeReady
  rw [if_neg (not_not.mpr h)]

theorem State.falls_iff (s : State) : s.Falls ↔ s.maxMapped < s.spare.mappedOut.length ∨
    (List.range 32).any (fun f => (foldClusters s.spare.failed f).isEmpty) = true := by
  simp [State.Falls]

section

variable (s : State)

theorem State.clustersTested_grows (l : List Nat) : SparesGrow s (s.clustersTested l) :=
  SparesGrow.over_list (fun t c => by
    split
    · exact .refl t
    · exact (t.markFailed_grows c).trans (.of_channels (State.channels_queueRepair _ _))) s l

theorem State.channelsOutTested_grows (l : List Nat) : SparesGrow s (s.channelsOutTested l) :=
  SparesGrow.over_list (fun t c => by
    split
    · exact .refl t
    · exact (t.markMapped_grows c).trans (.of_channels ((State.channels_raiseGlobal _ _ _).trans (State.channels_queueRepair _ _)))) s l

theorem State.channels_memoriesCleared : s.memoriesCleared.channels = s.channels :=
  (State.channels_setMem _ _).trans (State.channels_undefineCells _ _ _)

theorem State.channels_bootRecorded : s.bootRecorded.channels = s.channels :=
  (State.channels_beginRecord _ 1).trans (State.channels_setLedg _ _)

theorem State.channels_cleared_bootRecorded : s.memoriesCleared.bootRecorded.channels = s.channels :=
  (State.channels_bootRecorded _).trans s.channels_memoriesCleared

theorem State.channelsTrained_grows : SparesGrow s s.channelsTrained := SparesGrow.over_list State.channelTested_grows s _

theorem State.sequenced_grows (o : BringupOutcome) : SparesGrow s (s.sequenced o) :=
  (s.clustersTested_grows _).trans ((State.channelsOutTested_grows _ _).trans ((State.channelsTrained_grows _).trans
    (.of_channels (State.channels_cleared_bootRecorded _))))

theorem State.clustersTested_keeps (l : List Nat) : Keeps s (s.clustersTested l) := (Keeps.refl s).over fun t c k => by
  split
  · exact k
  · exact State.queueRepair_keeps _ (State.markFailed_keeps c k)

theorem State.channelsOutTested_keeps (l : List Nat) : Keeps s (s.channelsOutTested l) := (Keeps.refl s).over fun t c k => by
  split
  · exact k
  · exact State.raiseGlobal_keeps _ _ (State.queueRepair_keeps _ (State.markMapped_keeps c k))

theorem State.channelsTrained_keeps : Keeps s s.channelsTrained := (Keeps.refl s).over fun _ c k => State.channelTested_keeps c k

theorem State.memoriesCleared_keeps : Keeps s s.memoriesCleared :=
  Keeps.setMem _ (State.undefineCells_keeps _ _ (Keeps.refl s)) fun k =>
    ⟨⟨List.Pairwise.nil, fun _ hx => absurd hx List.not_mem_nil⟩, k.2⟩

theorem State.bootRecorded_keeps : Keeps s s.bootRecorded := State.beginRecord_keeps 1 (Keeps.setLedg _ (Keeps.refl s) fun k => k)

theorem State.sequenced_keeps (o : BringupOutcome) : Keeps s (s.sequenced o) :=
  (s.clustersTested_keeps _).trans ((State.channelsOutTested_keeps _ _).trans ((State.channelsTrained_keeps _).trans
    ((State.memoriesCleared_keeps _).trans (State.bootRecorded_keeps _))))

end

theorem State.phase_setPhase {s : State} (h : s.canonical) (v : Nat) : (s.setPhase v).phase = v % 8 :=
  State.fld_setFld_same _ _ _ h.regs.1.1 (by simp [F.hubBootPhase])

theorem State.broughtUp_of_falls {s : State} (hs : s.canonical) (hphase : s.phase = 3) (h : s.Falls) (o : BringupOutcome) :
    (s.broughtUp o).phase = 5 := by
  have hfalls := (State.falls_iff _).mp ((s.sequenced_grows o).falls h)
  rw [State.broughtUp_eq hphase, if_pos hfalls, State.phase_setPhase ((s.sequenced_keeps o).canonical hs)]

/-! ## A device whose every cluster and channel passes -/

theorem State.channelTested_in_service {s : State} (h : s.canonical) {c : Nat} (hc : c ∉ s.spare.mappedOut) :
    (s.channelTested c).fld (F.hbcChstatState c) = 0 := by
  have hsorted := State.setFld_sorted s.drawNat.2 (F.hbcChstatPprLeft c) (s.drawNat.1 % 256) h.regs.1.1
  unfold State.channelTested
  dsimp only
  rw [State.fld_setFld_same _ _ _ hsorted (by simp [F.hbcChstatState])]
  simp [State.drawNat, hc]

theorem State.channelTested_other (s : State) {c y : Nat} (hy : y ≠ c) :
    (s.channelTested y).fld (F.hbcChstatState c) = s.fld (F.hbcChstatState c) := by
  have hne : (Reg.hbcChstat c).addr ≠ (Reg.hbcChstat y).addr := by
    simp only [Reg.addr]
    omega
  exact (State.fld_setFld_ne (y := F.hbcChstatState c) (x := F.hbcChstatState y) _ hne).trans
    (State.fld_setFld_ne (y := F.hbcChstatState c) (x := F.hbcChstatPprLeft y) _ hne)

theorem State.channelsTrained_spare (s : State) : s.channelsTrained.spare = s.spare := by
  refine State.view_over State.spare ?_ s _
  exact fun _ _ => rfl

theorem State.channelsTrained_in_service {s : State} (h : s.canonical) (hmapped : s.spare.mappedOut = []) {c : Nat} (hc : c < 384) :
    s.channelsTrained.fld (F.hbcChstatState c) = 0 := by
  refine State.over_of_mem (I := fun t => t.canonical ∧ t.spare.mappedOut = []) (P := fun t => t.fld (F.hbcChstatState c) = 0)
    List.nodup_range (List.mem_range.mpr hc) (fun t y _ _ ⟨ht, hm⟩ => ⟨(State.channelTested_keeps y (Keeps.refl t)).canonical ht, hm⟩)
    (fun t ⟨ht, hm⟩ => State.channelTested_in_service ht (by simp [hm])) (fun t y _ hy ht => (t.channelTested_other hy).trans ht) ⟨h, hmapped⟩

theorem State.bootRecorded_mem (s : State) : s.bootRecorded.mem = s.mem := by
  obtain ⟨l, r, h⟩ := State.beginRecord_eq (s.setLedg { s.ledg with shadow := { s.ledg.shadow with bootCount := s.ledg.shadow.bootCount + 1 } }) 1
  rw [State.bootRecorded, h]
  rfl

theorem State.memoriesCleared_mem (s : State) : s.memoriesCleared.mem.loc = [] ∧ s.memoriesCleared.mem.stackPoison = [] := ⟨rfl, rfl⟩

theorem State.madeReady_leaves {s : State} (h : s.canonical) : s.madeReady.phase = 4 ∧ s.madeReady.fld F.shpStatusState = 1 ∧
    s.madeReady.mem = s.mem ∧ s.madeReady.channels = s.channels := by
  refine ⟨?_, State.fld_setFld_same _ _ _ (State.setFld_sorted _ _ _ h.regs.1.1) (by decide), rfl, ?_⟩
  · exact (State.fld_setFld_ne (x := F.shpStatusState) (y := F.hubBootPhase) 1 (by decide)).trans (State.phase_setPhase h 4)
  · rw [State.madeReady, State.channels_setFld (by simp [Reg.ofHbc, F.shpStatusState, Reg.addr]), State.setPhase,
      State.channels_setFld (by simp [Reg.ofHbc, F.hubBootPhase, Reg.addr])]

theorem foldClusters_nil_ne_nil (f : Nat) : foldClusters [] f ≠ [] := by
  simp [foldClusters]

section

variable {s : State} (hs : s.canonical) {o : BringupOutcome} (hclusters : o.failedClusters = []) (hchannels : o.unrepairable = [])

include hclusters hchannels

theorem State.sequenced_of_pass : s.sequenced o = s.channelsTrained.memoriesCleared.bootRecorded := by
  rw [State.sequenced, hclusters, hchannels]
  rfl

theorem State.sequenced_spare_of_pass : (s.sequenced o).spare = s.spare := by
  rw [State.sequenced_of_pass hclusters hchannels, State.spare_of_channels (State.channels_cleared_bootRecorded _), State.channelsTrained_spare]

include hs

theorem State.broughtUp_of_pass (hphase : s.phase = 3) (hmapped : s.spare.mappedOut = []) (hfailed : s.spare.failed = []) :
    let t := s.broughtUp o
    t.phase = 4 ∧ t.fld F.shpStatusState = 1 ∧ t.mem.loc = [] ∧ t.mem.stackPoison = [] ∧ ∀ c < 384, t.fld (F.hbcChstatState c) = 0 := by
  have hstands : ¬(s.sequenced o).Falls := by
    rw [State.Falls, State.sequenced_spare_of_pass hclusters hchannels, hmapped, hfailed]
    rintro (h | ⟨f, -, h⟩)
    · exact absurd h (Nat.not_lt_zero _)
    · exact foldClusters_nil_ne_nil f h
  have hready : s.broughtUp o = (s.sequenced o).madeReady := by
    rw [State.broughtUp_eq hphase]
    exact if_neg fun h => hstands ((State.falls_iff _).mpr h)
  obtain ⟨hready4, hstate, hmem, hview⟩ := State.madeReady_leaves ((s.sequenced_keeps o).canonical hs)
  rw [State.sequenced_of_pass hclusters hchannels] at hready hready4 hstate hmem hview
  obtain ⟨hloc, hpoison⟩ := s.channelsTrained.memoriesCleared_mem
  rw [State.bootRecorded_mem] at hmem
  rw [hready]
  refine ⟨hready4, hstate, by rw [hmem, hloc], by rw [hmem, hpoison], fun c hc => ?_⟩
  rw [State.fld_of_channels (hview.trans (State.channels_cleared_bootRecorded _))
    (by simp only [Reg.ofHbc, F.hbcChstatState, Reg.addr]; omega)]
  exact State.channelsTrained_in_service hs hmapped hc

end

/-! ## The statement -/

/-- Settles O59: each row is its operation while the clocks run; recovery by what it loads, the rails and the sparing by what each operation
leaves, the end of the bring-up by whether enough of the device stands (`State.Falls`). -/
theorem bringUpRowsComplete : Obligations.BringUpRowsComplete := by
  refine ⟨fun s hrun hphase => ?selfTest, fun s hrun hphase hsaves h => ?blank, fun s k r _ hrun hphase hsaves h => ?recovers,
    fun s hs => State.powerRails_leaves hs, fun s k hk => ⟨s.shep.pins.driveSeq_get hk, rfl, rfl, rfl⟩,
    fun s hs => State.releaseRails_leaves hs, fun s => s.applySparing_leaves, fun s hrun hphase hsaves => ⟨fun hv => ?entry, fun hv => ?anyway⟩,
    fun s hrun hphase hwait => ⟨?inRange, ?late⟩, fun s hrun hphase hwait => ⟨fun h0 h4 => ?next, fun h0 htries hpin => ?retry⟩,
    fun s o hs hrun hphase hc hu hm hf => ⟨_, next_clocked hrun _, State.broughtUp_of_pass hs hc hu hphase hm hf⟩,
    fun s o hs hrun hphase h => ⟨_, next_clocked hrun _, State.broughtUp_of_falls hs hphase h o⟩⟩
  case selfTest => exact (next_clocked hrun _).trans (congrArg _ (if_pos hphase))
  case blank => exact (next_clocked hrun _).trans (congrArg _ (State.recover_of_none hphase hsaves h))
  case recovers =>
    have hloads := State.recover_loads hphase hsaves h
    refine ⟨_, next_clocked hrun _, congrArg (·.1) hloads, congrArg (·.2.1) hloads, congrArg (·.2.2.1) hloads, congrArg (·.2.2.2.1) hloads,
      congrArg (·.2.2.2.2) hloads⟩
  case entry => exact (next_clocked hrun _).trans (congrArg _ (if_pos ⟨hphase, hsaves, hv⟩))
  case anyway => exact (next_clocked hrun _).trans (congrArg _ (if_pos ⟨hphase, hsaves, hv⟩))
  case inRange => exact (next_clocked hrun _).trans (congrArg _ (if_pos ⟨hphase, hwait⟩))
  case late => exact (next_clocked hrun _).trans (congrArg _ (if_pos ⟨hphase, hwait⟩))
  case next => exact (next_clocked hrun _).trans (congrArg _ (if_pos ⟨hphase, hwait, h0, h4⟩))
  case retry => exact (next_clocked hrun _).trans (congrArg _ (if_pos ⟨hphase, htries, hwait, h0, hpin⟩))

end Sys2Proof.Machine
end

section
/-!
Proofs about a packet in frames (R311, R317): the payloads that it is cut into, put together again.
-/

namespace Sys2Proof.Machine

/-! ## Bytes cut into pieces of 256 (R317) -/

theorem zeros_append_zeros (m n : Nat) : zeros m ++ zeros n = zeros (m + n) := List.replicate_append_replicate

/-- Piece i of bytes cut into pieces of 256, the last filled up with zeros. -/
def framePiece (b : Bytes) (i : Nat) : Bytes := let c := slice b (256 * i) 256; c ++ zeros (256 - c.length)

theorem framePayloads_eq_map (k : Packet) :
    framePayloads k = (List.range (frameCount k)).map (framePiece (natLE 16 (routeNat k.route) ++ k.body)) := rfl

theorem framePiece_length (b : Bytes) (i : Nat) : (framePiece b i).length = 256 := by
  have hle : (slice b (256 * i) 256).length ≤ 256 := List.length_take_le _ _
  simp only [framePiece, List.length_append, zeros_length]
  omega

theorem framePiece_zero (b : Bytes) : framePiece b 0 = b.take 256 ++ zeros (256 - b.length) := by
  have hlen : 256 - (b.take 256).length = 256 - b.length := by
    rw [List.length_take]
    omega
  rw [← hlen]
  rfl

theorem framePiece_succ (b : Bytes) (i : Nat) : framePiece b (i + 1) = framePiece (b.drop 256) i := by
  simp only [framePiece, slice, List.drop_drop, Nat.mul_succ, Nat.add_comm]

/-- The pieces of bytes that fit into them are the bytes, filled up with zeros. -/
theorem flatten_framePieces (n : Nat) {b : Bytes} (h : b.length ≤ 256 * n) :
    ((List.range n).map (framePiece b)).flatten = b ++ zeros (256 * n - b.length) := by
  induction n generalizing b with
  | zero =>
    have hb : b = [] := List.eq_nil_of_length_eq_zero (by omega)
    rw [hb]
    rfl
  | succ n ih =>
    have hrest : ((List.range n).map fun i => framePiece b (i + 1)).flatten = b.drop 256 ++ zeros (256 * n - (b.length - 256)) := by
      have hdrop := ih (b := b.drop 256) (by rw [List.length_drop]; omega)
      rw [List.length_drop] at hdrop
      simpa only [framePiece_succ] using hdrop
    rw [List.range_succ_eq_map, List.map_cons, List.flatten_cons, List.map_map, framePiece_zero]
    refine (congrArg _ hrest).trans ?_
    rcases Nat.le_total b.length 256 with hb | hb
    · rw [List.take_of_length_le hb, List.drop_of_length_le hb, List.nil_append, List.append_assoc, zeros_append_zeros]
      exact congrArg (b ++ zeros ·) (by omega)
    · have hfull : zeros (256 - b.length) = [] := by rw [Nat.sub_eq_zero_of_le hb]; rfl
      rw [hfull, List.append_nil, ← List.append_assoc, List.take_append_drop]
      exact congrArg (b ++ zeros ·) (by omega)

/-! ## The statement -/

theorem routeNat_lt (h : RouteHeader) : routeNat h < 256 ^ 16 := by
  have hb : ∀ b : Bool, b2n b ≤ 1 := fun b => by cases b <;> decide
  have := hb h.msgLast
  have := hb h.esc
  have := hb h.cls
  unfold routeNat
  omega

/-- Settles O41: the frames' payloads are pieces of the header's bytes and the body, and the header stands in the first 16. -/
theorem packetFramesRoundTrip : Obligations.PacketFramesRoundTrip := by
  intro k hk
  obtain ⟨all, hall⟩ : ∃ all, all = natLE 16 (routeNat k.route) ++ k.body := ⟨_, rfl⟩
  have hlen : all.length = 16 + k.body.length := by rw [hall, List.length_append, natLE_length]
  have hflat : (framePayloads k).flatten = natLE 16 (routeNat k.route) ++ (k.body ++ zeros (256 * frameCount k - 16 - k.body.length)) := by
    rw [framePayloads_eq_map, ← hall, flatten_framePieces _ (by omega), hlen, hall, List.append_assoc, Nat.sub_sub]
  refine ⟨fun b hb => ?length, by rw [framePayloads_eq_map, List.length_map, List.length_range], ?packet⟩
  case length =>
    rw [framePayloads_eq_map] at hb
    obtain ⟨i, -, rfl⟩ := List.mem_map.mp hb
    exact framePiece_length _ i
  case packet =>
    rw [packetOf, hflat, field_natLE_append_same, Nat.mod_eq_of_lt (routeNat_lt _), routeOf_routeNat, List.drop_left' (natLE_length _ _)]

end Sys2Proof.Machine
end

section
/-!
Proofs about the choice of a port on a data channel (R324): the first of the largest, as the fold over the ports keeps it.
-/

namespace Sys2Proof.Machine

/-! ## The first of the largest -/

/-- The better of a candidate so far and the next. -/
def betterOf (f : Nat → Nat) (best : Option Nat) (p : Nat) : Option Nat :=
  match best with
  | none => some p
  | some q => if f q < f p then some p else best

/-- Of a list this is the candidate with the largest value, the lowest of several; none when the list is empty. -/
def IsFirstLargest (f : Nat → Nat) (l : List Nat) : Option Nat → Prop
  | none => l = []
  | some p => p ∈ l ∧ ∀ q ∈ l, f q ≤ f p ∧ (q < p → f q < f p)

theorem IsFirstLargest.append_singleton {f : Nat → Nat} {l : List Nat} {o : Option Nat} (h : IsFirstLargest f l o) {x : Nat}
    (hx : ∀ q ∈ l, q < x) : IsFirstLargest f (l ++ [x]) (betterOf f o x) := by
  cases o with
  | none =>
    rw [show l = [] from h]
    exact ⟨List.mem_singleton_self x, fun q hq => by rw [List.mem_singleton.mp hq]; exact ⟨le_rfl, fun hlt => absurd hlt (lt_irrefl x)⟩⟩
  | some p =>
    obtain ⟨hp, hbest⟩ := h
    have hpx := hx p hp
    by_cases hlt : f p < f x
    · rw [betterOf, if_pos hlt]
      refine ⟨List.mem_append_right _ (List.mem_singleton_self x), fun q hq => ?_⟩
      rcases List.mem_append.mp hq with hq | hq
      · have hqp := (hbest q hq).1
        omega
      · rw [List.mem_singleton.mp hq]
        omega
    · rw [betterOf, if_neg hlt]
      refine ⟨List.mem_append_left _ hp, fun q hq => ?_⟩
      rcases List.mem_append.mp hq with hq | hq
      · exact hbest q hq
      · rw [List.mem_singleton.mp hq]
        omega

theorem isFirstLargest_foldl (f : Nat → Nat) {l : List Nat} (hl : l.Pairwise (· < ·)) : IsFirstLargest f l (l.foldl (betterOf f) none) := by
  induction l using List.reverseRecOn with
  | nil => rfl
  | append_singleton l x ih =>
    obtain ⟨hrest, -, hlast⟩ := List.pairwise_append.mp hl
    rw [List.foldl_append]
    exact (ih hrest).append_singleton fun q hq => hlast q hq x (List.mem_singleton_self x)

/-! ## The ports of a mask -/

/-- The ACTIVE ports of a mask. -/
def State.portsOf (s : State) (mask : Nat) : List Nat := (List.range 16).filter fun p => bits mask p 1 == 1 && s.active p

theorem State.mem_portsOf {s : State} {mask p : Nat} : p ∈ s.portsOf mask ↔ p < 16 ∧ bits mask p 1 = 1 ∧ s.active p = true := by
  simp [State.portsOf]

theorem State.portsOf_pairwise (s : State) (mask : Nat) : (s.portsOf mask).Pairwise (· < ·) := List.pairwise_lt_range.filter _

theorem State.bestPort_eq_foldl (s : State) (mask : Nat) (own : Bool) (k : Packet) :
    s.bestPort mask own k = (s.portsOf mask).foldl (betterOf (s.freeCredits · own k)) none := rfl

/-! ## The statement -/

/-- Settles O45: a later port takes the place of the best before it only with more free credits. -/
theorem bestPortHasMostCredits : Obligations.BestPortHasMostCredits := by
  intro s mask own k p h
  have hbest := isFirstLargest_foldl (s.freeCredits · own k) (s.portsOf_pairwise mask)
  rw [← State.bestPort_eq_foldl, h] at hbest
  obtain ⟨hp, hmost⟩ := hbest
  obtain ⟨hlt, hmask, hactive⟩ := State.mem_portsOf.mp hp
  exact ⟨hlt, hmask, hactive, fun q hq hqmask hqactive => hmost q (State.mem_portsOf.mpr ⟨hq, hqmask, hqactive⟩)⟩

end Sys2Proof.Machine
end

section
/-!
Proofs about the numbers between two nodes (R319): the full number of a packet, the gap that closes, and that no number is accepted twice.
-/

namespace Sys2Proof.Machine

/-! ## The full number of a packet -/

theorem aheadSeq_eq_some {lowest pseq n : Nat} (hpseq : pseq < 2 ^ 32) (h : aheadSeq lowest pseq = some n) :
    lowest ≤ n ∧ n < lowest + 2 ^ 31 ∧ n % 2 ^ 32 = pseq := by
  obtain ⟨hd, hn⟩ := Option.ite_none_right_eq_some.mp h
  obtain rfl := Option.some.inj hn
  omega

theorem aheadSeq_of_ahead {lowest n : Nat} (hlow : lowest ≤ n) (hhigh : n < lowest + 2 ^ 31) : aheadSeq lowest (n % 2 ^ 32) = some n :=
  (if_pos (by omega)).trans (congrArg some (by omega))

theorem aheadSeq_of_behind {lowest n : Nat} (hlow : n < lowest) (hhigh : lowest ≤ n + 2 ^ 31) : aheadSeq lowest (n % 2 ^ 32) = none :=
  if_neg (by omega)

/-! ## The gap that closes -/

/-- With fuel for every number of the list, the gap closes up to a number that the list lacks, over numbers of the list alone, and what
stood above it stays. -/
theorem closeGap_closes (fuel low : Nat) (l : List Nat) (hfuel : l.length ≤ fuel) (hl : ∀ m ∈ l, low ≤ m) :
    let r := closeGap fuel low l
    low ≤ r.1 ∧ r.1 ∉ l ∧ (∀ m, low ≤ m → m < r.1 → m ∈ l) ∧ ∀ m, m ∈ r.2 ↔ m ∈ l ∧ r.1 < m := by
  have stops : ∀ (low : Nat) (l : List Nat), low ∉ l → (∀ m ∈ l, low ≤ m) →
      low ≤ low ∧ low ∉ l ∧ (∀ m, low ≤ m → m < low → m ∈ l) ∧ ∀ m, m ∈ l ↔ m ∈ l ∧ low < m := fun low l hlow hl =>
    ⟨le_rfl, hlow, fun m h1 h2 => absurd h2 (Nat.not_lt.mpr h1),
      fun m => ⟨fun hm => ⟨hm, Nat.lt_of_le_of_ne (hl m hm) fun e => hlow (by rwa [e])⟩, fun hm => hm.1⟩⟩
  induction fuel generalizing low l with
  | zero =>
    obtain rfl : l = [] := List.eq_nil_of_length_eq_zero (Nat.le_zero.mp hfuel)
    exact stops low [] List.not_mem_nil hl
  | succ fuel ih =>
    by_cases hlow : low ∈ l
    · have hstep : closeGap (fuel + 1) low l = closeGap fuel (low + 1) (l.filter (· != low)) := if_pos (by simpa using hlow)
      have hmem : ∀ m, m ∈ l.filter (· != low) ↔ m ∈ l ∧ m ≠ low := by simp
      have hshort : (l.filter (· != low)).length < l.length := List.length_filter_lt_length_iff_exists.mpr ⟨low, hlow, by simp⟩
      obtain ⟨hle, hgap, hbelow, hrest⟩ := ih (low + 1) (l.filter (· != low)) (by omega) fun m hm => by
        obtain ⟨hml, hne⟩ := (hmem m).mp hm
        exact Nat.lt_of_le_of_ne (hl m hml) hne.symm
      rw [hstep]
      refine ⟨Nat.le_of_succ_le hle, fun hm => hgap ((hmem _).mpr ⟨hm, Nat.ne_of_gt hle⟩), fun m hm hlt => ?below, fun m => ?rest⟩
      case below =>
        rcases Nat.eq_or_lt_of_le hm with rfl | hm
        · exact hlow
        · exact ((hmem m).mp (hbelow m hm hlt)).1
      case rest =>
        rw [hrest, hmem]
        exact ⟨fun ⟨⟨hm, _⟩, hlt⟩ => ⟨hm, hlt⟩, fun ⟨hm, hlt⟩ => ⟨⟨hm, by omega⟩, hlt⟩⟩
    · have hstep : closeGap (fuel + 1) low l = (low, l) := if_neg (by simpa using hlow)
      rw [hstep]
      exact stops low l hlow hl

/-- A number ahead of the lowest not yet accepted, accepted: it lies below the new lowest, or ahead of it, and the new lowest is within half
the number space of the old. -/
theorem Pair.accept_accepts {v : Pair} (hv : v.ordered) {n : Nat} (hlow : v.accepted ≤ n) (hhigh : n < v.accepted + 2 ^ 31) :
    v.accepted ≤ (v.accept n).accepted ∧ (v.accept n).accepted ≤ v.accepted + 2 ^ 31 ∧ (v.accept n).ordered ∧
      (n < (v.accept n).accepted ∨ n ∈ (v.accept n).ahead) := by
  have hlist : ∀ m ∈ n :: v.ahead, v.accepted ≤ m ∧ m < v.accepted + 2 ^ 31 := by
    refine List.forall_mem_cons.mpr ⟨⟨hlow, hhigh⟩, fun m hm => ?_⟩
    obtain ⟨h1, h2⟩ := hv m hm
    exact ⟨h1.le, h2⟩
  obtain ⟨hle, hgap, hbelow, hrest⟩ := closeGap_closes (v.ahead.length + 1) v.accepted (n :: v.ahead) le_rfl fun m hm => (hlist m hm).1
  refine ⟨hle, ?last, fun m hm => ?ordered, ?accepted⟩
  case last =>
    by_contra hlt
    have hmem := hbelow (v.accepted + 2 ^ 31) (Nat.le_add_right _ _) (Nat.lt_of_not_le hlt)
    exact absurd (hlist _ hmem).2 (lt_irrefl _)
  case ordered =>
    obtain ⟨hml, hlt⟩ := (hrest m).mp hm
    exact ⟨hlt, (hlist m hml).2.trans_le (Nat.add_le_add_right hle _)⟩
  case accepted =>
    refine (Nat.lt_or_ge n (v.accept n).accepted).imp_right fun hge => (hrest n).mpr ⟨List.mem_cons_self, ?_⟩
    exact Nat.lt_of_le_of_ne hge fun e => hgap (List.mem_cons.mpr (.inl e))

/-! ## A packet accepted -/

theorem State.acceptSeq_eq_some {s t : State} {src pseq : Nat} (h : s.acceptSeq src pseq = some t) :
    ∃ n, aheadSeq (s.peerPair src).accepted pseq = some n ∧ t = s.setPeerPair src ((s.peerPair src).accept n) := by
  obtain ⟨n, hn, hacc⟩ := Option.bind_eq_some_iff.mp h
  exact ⟨n, hn, (Option.some.inj (Option.ite_none_left_eq_some.mp hacc).2).symm⟩

/-- A number below the lowest not yet accepted, or accepted ahead of it, is that of a duplicate. -/
theorem State.acceptSeq_of_accepted {s : State} {src n : Nat} (hv : (s.peerPair src).ordered) (hhigh : (s.peerPair src).accepted ≤ n + 2 ^ 31)
    (h : n < (s.peerPair src).accepted ∨ n ∈ (s.peerPair src).ahead) : s.acceptSeq src (n % 2 ^ 32) = none := by
  unfold State.acceptSeq
  rcases h with h | h
  · rw [aheadSeq_of_behind h hhigh, Option.bind_none]
  · obtain ⟨hlow, hlt⟩ := hv n h
    rw [aheadSeq_of_ahead hlow.le hlt, Option.bind_some]
    exact if_pos (by simpa using h)

/-! ## The statement -/

/-- Settles O46: the number accepted lies below the new lowest or ahead of it, and either way a second packet of it is a duplicate. -/
theorem packetAcceptedOnce : Obligations.PacketAcceptedOnce := by
  refine ⟨fun n m hm => absurd hm List.not_mem_nil, fun s t src pseq hs hpseq hv h => ?_⟩
  obtain ⟨n, hn, rfl⟩ := State.acceptSeq_eq_some h
  obtain ⟨hlow, hhigh, rfl⟩ := aheadSeq_eq_some hpseq hn
  obtain ⟨hgrows, hlast, hordered, hmem⟩ := Pair.accept_accepts hv hlow hhigh
  have hpair := State.peerPair_setPeerPair_same hs src ((s.peerPair src).accept n)
  rw [← hpair] at hgrows hlast hordered hmem
  exact ⟨State.acceptSeq_of_accepted hordered (hlast.trans (Nat.add_le_add_right hlow _)) hmem, hgrows, hordered⟩

end Sys2Proof.Machine
end

section
/-!
Proofs about what the ports' shared operations do (R243, R311, R312, R314, R317, R323): frames put into the replay buffer, LINK frames, packets
transmitted, ports that leave service, and what waits routed again.
-/

namespace Sys2Proof.Machine

/-! ## The table of ports -/

theorem State.port_setPort_same {s : State} (h : s.canonical) (p : Nat) (v : Port) : (s.setPort p v).port p = v :=
  tblGet_tblSet_same _ _ _ _ h.link.1.1

/-- The state with another table of ports. -/
def State.setPorts (s : State) (v : List (Nat × Port)) : State := s.setLink { s.link with ports := v }

/-! ## The replay buffer (R312) -/

/-- The entry of the replay buffer that a payload becomes. -/
def Port.entry (v : Port) (vc kind : Nat) (ends : Option Queued) (b : Bytes) : Replayed where
  fseq := v.txNext % 4096
  frame := mkFrame (frameHeader v.txNext vc kind (v.rxNext + 4095)) b
  ends := ends

/-- The port with one more frame in its replay buffer. -/
def Port.put (v : Port) (e : Replayed) : Port := { v with replay := v.replay ++ [e], txNext := (v.txNext + 1) % 4096 }

theorem State.putFrames_cons (s : State) (p vc kind : Nat) (ends : Option Queued) (b : Bytes) (l : List Bytes) :
    s.putFrames p vc kind ends (b :: l) =
      (s.setPort p ((s.port p).put ((s.port p).entry vc kind (if l.isEmpty then ends else none) b))).putFrames p vc kind ends l := rfl

/-- Frames put into a replay buffer change the table of ports alone. -/
theorem State.putFrames_eq_setPorts (s : State) (p vc kind : Nat) (ends : Option Queued) (l : List Bytes) :
    ∃ v, s.putFrames p vc kind ends l = s.setPorts v := by
  induction l generalizing s with
  | nil => exact ⟨s.link.ports, rfl⟩
  | cons b l ih =>
    obtain ⟨v, hv⟩ := ih (s.setPort p ((s.port p).put ((s.port p).entry vc kind (if l.isEmpty then ends else none) b)))
    exact ⟨v, hv⟩

/-- The frames stand at the end of the replay buffer, one for each payload; of the port only the next FSEQ changes with them. -/
theorem State.port_putFrames {s : State} (h : s.canonical) (p vc kind : Nat) (ends : Option Queued) (l : List Bytes) :
    ∃ fs n, (s.putFrames p vc kind ends l).port p = { s.port p with replay := (s.port p).replay ++ fs, txNext := n } ∧
      fs.map (·.frame.payload) = l := by
  induction l generalizing s with
  | nil => exact ⟨[], (s.port p).txNext, by rw [List.append_nil]; rfl, rfl⟩
  | cons b l ih =>
    obtain ⟨e, he⟩ : ∃ e, e = (s.port p).entry vc kind (if l.isEmpty then ends else none) b := ⟨_, rfl⟩
    obtain ⟨fs, n, hport, hfs⟩ := ih ((State.setPort_keeps p ((s.port p).put e) (Keeps.refl s)).canonical h)
    refine ⟨e :: fs, n, ?_, by rw [List.map_cons, hfs, he]; rfl⟩
    rw [State.putFrames_cons, ← he, hport, State.port_setPort_same h, Port.put, List.append_assoc, List.singleton_append]

/-! ## LINK frames (R311) -/

/-- A LINK frame draws its bytes, stands in the replay buffer while that has room, and goes out. -/
theorem State.sendLink_eq (s : State) (p : Nat) (o : Out) : ∃ n v, s.sendLink p o = ((s.setFree n).setPorts v).emit o := by
  unfold State.sendLink
  split
  · obtain ⟨v, hv⟩ := (s.drawBytes 256).2.putFrames_eq_setPorts p 0 fLink none [(s.drawBytes 256).1]
    exact ⟨s.free + 256, v, congrArg (State.emit · o) hv⟩
  · exact ⟨s.free, s.link.ports, rfl⟩

section

variable (s : State) (p : Nat) (o : Out)

@[simp] theorem State.sendLink_regs : (s.sendLink p o).regs = s.regs := by
  obtain ⟨_, _, h⟩ := s.sendLink_eq p o
  rw [h]; rfl

@[simp] theorem State.sendLink_part : (s.sendLink p o).part = s.part := by
  obtain ⟨_, _, h⟩ := s.sendLink_eq p o
  rw [h]; rfl

@[simp] theorem State.sendLink_out : (s.sendLink p o).out = s.out ++ [o] := by
  obtain ⟨_, _, h⟩ := s.sendLink_eq p o
  rw [h]; rfl

/-- Of the links a LINK frame changes the ports alone. -/
theorem State.sendLink_link : ∃ v, (s.sendLink p o).link = { s.link with ports := v } := by
  obtain ⟨_, v, h⟩ := s.sendLink_eq p o
  exact ⟨v, by rw [h]; rfl⟩

@[simp] theorem State.sendLink_word (r : Reg) : (s.sendLink p o).word r = s.word r := by simp [State.word]

end

theorem State.sendLink_of_room {s : State} {p : Nat} (h : (s.port p).replay.length < 2048) (o : Out) :
    s.sendLink p o =
      ((s.setFree (s.free + 256)).setPort p ((s.port p).put ((s.port p).entry 0 fLink none (s.drawBytes 256).1))).emit o := if_pos h

/-! ## Packets transmitted (R317, R323) -/

/-- What a packet sent takes of the neighbour's receive buffer. -/
def State.useOf (s : State) (p : Nat) (own : Bool) (k : Packet) : CreditUse where
  vc := k.route.vc.toNat
  frames := frameCount k
  takes := takeFrom (s.port p) (s.sharesFor own k) (creditNeed k)

theorem State.leaveBuffer_of_own (s : State) {x : Queued} (h : x.origin = none) : s.leaveBuffer x = s := by
  rw [State.leaveBuffer, h]

theorem State.transmit_of_own (s : State) (p : Nat) {x : Queued} (h : x.origin = none) (k : Packet) :
    s.transmit p x k = ((s.setPort p { s.port p with credits := (s.port p).credits ++ [s.useOf p true k] }).putFrames p k.route.vc.toNat fData
      (some { x with freed := true }) (framePayloads k)).emit (.packet p k) := by
  refine (State.leaveBuffer_of_own _ h).trans ?_
  rw [h]
  rfl

/-- A packet of the device's own, transmitted: it goes out, holds its credits, and stands in the replay buffer as its frames; of the links the
ports alone change. -/
theorem State.transmit_transmits {s : State} (hs : s.canonical) (p : Nat) {x : Queued} (h : x.origin = none) (k : Packet) :
    (s.transmit p x k).out = s.out ++ [.packet p k] ∧ (s.transmit p x k).regs = s.regs ∧
      (s.transmit p x k).link.waiting = s.link.waiting ∧
      ((s.transmit p x k).port p).credits = (s.port p).credits ++ [s.useOf p true k] ∧
      (((s.transmit p x k).port p).replay.drop (s.port p).replay.length).map (·.frame.payload) = framePayloads k := by
  obtain ⟨u, hu⟩ : ∃ u, u = s.setPort p { s.port p with credits := (s.port p).credits ++ [s.useOf p true k] } := ⟨_, rfl⟩
  have huc : u.canonical := hu ▸ (State.setPort_keeps _ _ (Keeps.refl s)).canonical hs
  obtain ⟨v, hv⟩ := u.putFrames_eq_setPorts p k.route.vc.toNat fData (some { x with freed := true }) (framePayloads k)
  obtain ⟨fs, n, hport, hfs⟩ := State.port_putFrames huc p k.route.vc.toNat fData (some { x with freed := true }) (framePayloads k)
  have hp : (s.transmit p x k).port p = { u.port p with replay := (u.port p).replay ++ fs, txNext := n } := by
    rw [State.transmit_of_own s p h, ← hu]
    exact hport
  rw [hu, State.port_setPort_same hs] at hp
  refine ⟨?out, ?regs, ?waiting, by rw [hp], by rw [hp, List.drop_left, hfs]⟩
  all_goals
    rw [State.transmit_of_own s p h, ← hu, hv, hu]
    rfl

/-! ## A port that leaves service (R314) -/

theorem State.port_reclaim {s : State} (h : s.canonical) (p : Nat) :
    (s.reclaim p).port p = { s.port p with
      replay := [], queue := [], credits := [], rxFrames := [], rxNext := 0, txNext := 0, crcFails := 0, swap := none } :=
  State.port_setPort_same h p _

/-! ## What waits, routed again (R243) -/

/-- A port's queue emptied. -/
def State.emptyQueue (s : State) (p : Nat) : State := s.setPort p { s.port p with queue := [] }

/-- Every ACTIVE port's queue emptied, and nothing waiting. -/
def State.nothingWaits (s : State) : State :=
  let t := s.over ((List.range 16).filter s.active) State.emptyQueue
  t.setLink { t.link with waiting := [] }

@[simp] theorem State.nothingWaits_out (s : State) : s.nothingWaits.out = s.out :=
  State.view_over (f := State.emptyQueue) State.out (fun _ _ => rfl) s _

@[simp] theorem State.nothingWaits_regs (s : State) : s.nothingWaits.regs = s.regs :=
  State.view_over (f := State.emptyQueue) State.regs (fun _ _ => rfl) s _

/-- Data of the device's own, which is tried by turns. -/
def Queued.byTurns (x : Queued) : Bool := x.origin.isNone && decide (2 ≤ x.packet.route.vc.toNat)

/-- While no packet is queued to a port, those that wait are routed: what is relayed or runs on VC0 and VC1 first. -/
theorem State.pumpLinks_of_no_queue {s : State} (h : ∀ p < 16, s.active p = true → (s.port p).queue = []) :
    s.pumpLinks = (s.nothingWaits.routeAll (s.link.waiting.filter (!·.byTurns))).routeInTurn (s.link.waiting.filter Queued.byTurns).length
      (s.link.waiting.filter Queued.byTurns) := by
  have hnil : ((List.range 16).filter s.active).flatMap (fun p => (s.port p).queue) = [] := List.flatMap_eq_nil_iff.mpr fun p hp => by
    obtain ⟨hlt, hactive⟩ := List.mem_filter.mp hp
    exact h p (List.mem_range.mp hlt) hactive
  unfold State.pumpLinks
  rw [hnil, List.nil_append]
  rfl

theorem State.mem_turnOrder (s : State) {p : Nat} (h : p < 16) : p ∈ s.turnOrder := by
  have hp : p ∈ (List.range 16).map fun k => (s.link.turn + k) % 16 :=
    List.mem_map.mpr ⟨(p + 16 - s.link.turn % 16) % 16, List.mem_range.mpr (Nat.mod_lt _ (by decide)), by omega⟩
  unfold State.turnOrder
  dsimp only
  split
  · rw [← List.take_append_drop 1 (List.map _ _)] at hp
    exact List.mem_append.mpr (List.mem_append.mp hp).symm
  · exact hp

theorem State.inTurn_singleton (s : State) (x : Queued) : s.inTurn [x] = some x := by
  have hsome : (s.inTurn [x]).isSome := List.findSome?_isSome_iff.mpr ⟨_, s.mem_turnOrder x.packet.route.part.isLt, by simp⟩
  obtain ⟨y, hy⟩ := Option.isSome_iff_exists.mp hsome
  obtain ⟨p, -, hp⟩ := List.exists_of_findSome?_eq_some hy
  rw [hy, List.mem_singleton.mp (List.mem_of_find?_eq_some hp)]

/-- One packet that waits is routed, and of the rest only whose turn it is can change. -/
theorem State.pumpLinks_of_one {s : State} (h : ∀ p < 16, s.active p = true → (s.port p).queue = []) {x : Queued} (hx : s.link.waiting = [x]) :
    ∃ n g, s.pumpLinks = (s.nothingWaits.route x).setLink { (s.nothingWaits.route x).link with turn := n, grants := g } := by
  rw [State.pumpLinks_of_no_queue h, hx]
  cases hturn : x.byTurns with
  | false =>
    rw [List.filter_cons_of_pos (by simp [hturn]), List.filter_cons_of_neg (by simp [hturn])]
    exact ⟨(s.nothingWaits.route x).link.turn, (s.nothingWaits.route x).link.grants, rfl⟩
  | true =>
    rw [List.filter_cons_of_neg (by simp [hturn]), List.filter_cons_of_pos (by simp [hturn])]
    have hroute : s.nothingWaits.routeInTurn 1 [x] = (s.nothingWaits.route x).when
        ((s.nothingWaits.route x).link.waiting.length ≤ s.nothingWaits.link.waiting.length) (·.countGrant x.packet.route.part.toNat) := by
      rw [State.routeInTurn, State.inTurn_singleton]
      rfl
    refine hroute ▸ ?_
    unfold State.when
    split
    · exact ⟨_, _, rfl⟩
    · exact ⟨(s.nothingWaits.route x).link.turn, (s.nothingWaits.route x).link.grants, rfl⟩

/-! ## The shared operations -/

/-- The clauses on the ports' shared operations that the link's rows have in common. -/
theorem linkActs : LinkActs := by
  refine ⟨fun s p o hs hroom => ?sendLink, fun s p x k hs hx => ?transmit, fun s p hs => ?reclaim,
    fun s hq => ⟨fun hw => ?nothing, fun x hx => ?one⟩⟩
  case sendLink =>
    have hport : (s.sendLink p o).port p = (s.port p).put ((s.port p).entry 0 fLink none (s.drawBytes 256).1) := by
      rw [State.sendLink_of_room hroom]
      exact State.port_setPort_same (s := s.setFree _) ((Keeps.setFree _ (Keeps.refl s)).canonical hs) p _
    exact ⟨s.sendLink_out p o, s.sendLink_regs p o, by rw [hport]; rfl, _, by rw [hport]; rfl⟩
  case transmit =>
    obtain ⟨hout, hregs, -, hcredits, hreplay⟩ := State.transmit_transmits hs p hx k
    exact ⟨hout, hregs, hcredits, hreplay⟩
  case reclaim =>
    have hport := State.port_reclaim hs p
    exact ⟨by rw [hport], by rw [hport], by rw [hport], by rw [hport], by rw [hport], rfl, rfl⟩
  case nothing =>
    have hpump : s.pumpLinks = s.nothingWaits := by
      rw [State.pumpLinks_of_no_queue hq, hw]
      rfl
    exact ⟨hpump, s.nothingWaits_out, s.nothingWaits_regs⟩
  case one => exact State.pumpLinks_of_one hq hx

end Sys2Proof.Machine
end

section
/-!
Proofs about frames (R311 to R314): a frame accepted or refused, the fields of a LINK frame, the replay buffer, and the rows.
-/

namespace Sys2Proof.Machine

/-! ## A frame accepted or refused (R311, R313) -/

/-- The frame expected next has come, and is acknowledged. -/
def State.frameTaken (s : State) (p : Nat) : State :=
  (s.setPort p { s.port p with rxNext := ((s.port p).rxNext + 1) % 4096 }).emit (.ack p (s.port p).rxNext)

theorem State.port_frameTaken {s : State} (h : s.canonical) (p : Nat) :
    (s.frameTaken p).port p = { s.port p with rxNext := ((s.port p).rxNext + 1) % 4096 } := State.port_setPort_same h p _

section

variable {s : State} {p : Nat} {f : Frame}

theorem State.acceptFrame_of_bad (hcrc : badCrc f = true) : s.acceptFrame p f = (false, s.crcFailed p) := if_pos hcrc

section

variable (hcrc : badCrc f = false) (hack : bits f.header.toNat 29 1 = 0)

include hcrc hack

theorem State.acceptFrame_of_good : s.acceptFrame p f =
    if bits f.header.toNat 0 12 = (s.port p).rxNext then (true, s.frameTaken p) else (false, s.nakBack p) := by
  have hheader : s.headerAck p f = s := if_neg (by rw [hack]; decide)
  unfold State.acceptFrame
  rw [if_neg (by simp [hcrc]), hheader]
  rfl

theorem State.acceptFrame_of_next (hseq : bits f.header.toNat 0 12 = (s.port p).rxNext) : s.acceptFrame p f = (true, s.frameTaken p) := by
  rw [State.acceptFrame_of_good hcrc hack, if_pos hseq]

theorem State.acceptFrame_of_other (hseq : bits f.header.toNat 0 12 ≠ (s.port p).rxNext) : s.acceptFrame p f = (false, s.nakBack p) := by
  rw [State.acceptFrame_of_good hcrc hack, if_neg hseq]

end

theorem State.dataFrame_of_active (hactive : s.active p = true) (hkind : badCrc f = true ∨ bits f.header.toNat 15 2 = 0) :
    s.dataFrame p f = if (s.acceptFrame p f).1 then (s.acceptFrame p f).2.takePayload p f.payload else (s.acceptFrame p f).2 :=
  if_pos ⟨hactive, hkind⟩

theorem State.linkFrame_of_framed (hframed : s.framed p = true) (hkind : bits f.header.toNat 15 2 = 2) (x : LinkFields) :
    s.linkFrame p f x = if (s.acceptFrame p f).1 then (s.acceptFrame p f).2.linkFields p x else (s.acceptFrame p f).2 :=
  if_pos ⟨hframed, .inr hkind⟩

theorem State.framed_of_active (hactive : s.active p = true) : s.framed p = true := by rw [State.framed, hactive, Bool.or_true]

end

/-- A payload taken joins its packet's, which is whole with its last frame. -/
theorem State.takePayload_frameTaken {s : State} (h : s.canonical) (p : Nat) (b : Bytes) :
    let w : Port := { s.port p with rxNext := ((s.port p).rxNext + 1) % 4096 }
    let fs := (s.port p).rxFrames ++ [b]
    (s.frameTaken p).takePayload p b = (s.frameTaken p).setPort p (if fs.length < frameCount (packetOf fs) then { w with rxFrames := fs }
      else { w with rxFrames := [], rxPackets := (s.port p).rxPackets ++ [packetOf fs] }) := by
  simp only [State.takePayload, State.port_frameTaken h]
  split <;> rfl

/-! ## The fields of a LINK frame (R311) -/

section

variable {t : State} {p : PortNo} (hrun : t.running = true)

include hrun

theorem exec_frameAck (hframed : t.framed p = true) (n : BitVec 12) : exec (.frameAck p n) t = .next (t.ackFrames p n.toNat) :=
  (next_clocked hrun _).trans (congrArg _ (if_pos hframed))

theorem exec_frameNak (hframed : t.framed p = true) (n : BitVec 12) : exec (.frameNak p n) t = .next (t.nakFrames p n.toNat) :=
  (next_clocked hrun _).trans (congrArg _ (if_pos hframed))

/-- Each field alone acts as the row of its own. -/
theorem State.linkFields_single (hframed : t.framed p = true) :
    t.linkFields p ⟨none, [], none, none, none, none⟩ = t ∧
    (∀ n, .next (t.linkFields p ⟨some n, [], none, none, none, none⟩) = exec (.frameNak p n) t) ∧
    (∀ vc n, .next (t.linkFields p ⟨none, [(vc, n)], none, none, none, none⟩) = exec (.linkCreditReturn p vc n) t) ∧
    (∀ l, .next (t.linkFields p ⟨none, [], some l, none, none, none⟩) = exec (.laneSwapCommand p l) t) ∧
    (∀ r, .next (t.linkFields p ⟨none, [], none, some r, none, none⟩) = exec (.rttProbe p r) t) ∧
    (∀ r, .next (t.linkFields p ⟨none, [], none, none, some r, none⟩) = exec (.identityRecord p r) t) ∧
    (∀ r, .next (t.linkFields p ⟨none, [], none, none, none, some r⟩) = exec (.cueReport p r) t) :=
  ⟨rfl, fun n => (exec_frameNak hrun hframed n).symm, fun vc n => (next_clocked hrun (·.creditReturned p vc n)).symm,
    fun l => (next_clocked hrun (·.swapCommand p l)).symm, fun r => (next_clocked hrun (·.probeIn p r)).symm,
    fun r => (next_clocked hrun (·.identity p r)).symm, fun r => (next_clocked hrun (·.cueReportIn p r)).symm⟩

end

/-! ## The replay buffer (R312) -/

section

variable {s : State} {p fseq k : Nat} (h : (s.port p).replay.findIdx? (·.fseq == fseq) = some k)

include h

theorem State.ackFrames_of_find : s.ackFrames p fseq = (s.setPort p { s.port p with replay := (s.port p).replay.drop (k + 1) }).pumpLinks := by
  unfold State.ackFrames
  dsimp only
  rw [h]

theorem State.nakFrames_of_find : s.nakFrames p fseq = s.resend p ((s.port p).replay.drop k) := by
  unfold State.nakFrames
  dsimp only
  rw [h]

end

section

variable (s : State) (p : Nat) (l : List Replayed)

/-- Frames sent again go out as they stand, and the links do not change. -/
theorem State.resend_sends : (s.resend p l).out = s.out ++ l.map (fun r => .frame p r.fseq r.frame) ∧ (s.resend p l).link = s.link :=
  ⟨State.over_emit_out s l fun r => .frame p r.fseq r.frame,
    State.view_over_emit State.link (fun _ _ => rfl) s l fun r => .frame p r.fseq r.frame⟩

theorem State.fld_resend {x : Fld} (hx : x.reg.addr ≠ (Reg.oxlPortErr p).addr) : (s.resend p l).fld x = s.fld x :=
  (State.fld_setFld_ne _ hx).trans (State.view_over_emit (State.fld · x) (fun _ _ => rfl) s l fun r => .frame p r.fseq r.frame)

end

theorem State.portState_setFld {s : State} (h : s.canonical) (p v : Nat) : (s.setFld (F.oxlPortStatState p) v).portState p = v % 8 :=
  State.fld_setFld_same _ _ _ h.regs.1.1 (by simp [F.oxlPortStatState])

/-! ## The statement -/

/-- Settles O42: a frame by its CRC and its number, an acknowledgement and a NAK by the frame that they name, the ports' operations by
`linkActs`. -/
theorem frameRowsComplete : Obligations.FrameRowsComplete := by
  refine ⟨⟨fun s p f hrun hactive hcrc hkind hack => ⟨fun hseq hs => ?dataNext, fun hseq => ?dataOther⟩,
    fun s p f x hrun hframed hcrc hkind hack => ⟨fun hseq => ?linkNext, fun hseq => ?linkOther⟩, fun s p f hrun hactive hcrc => ?bad,
    fun s p f hrun hactive hcrc hkind hack => ?idle⟩, fun s p fseq k hrun hframed hfind => ⟨?ack, ?nak⟩, fun s p fseq hrun hframed => ?timeout,
    fun s p hs hrun hstate => ?retrained, fun s p vc n hrun hactive => ?credits, fun vc n u l => ⟨rfl, (ite_not _ _ _).symm⟩, linkActs⟩
  case dataNext =>
    refine (next_clocked hrun _).trans (congrArg _ ?_)
    rw [State.dataFrame_of_active hactive (.inr hkind), State.acceptFrame_of_next hcrc hack hseq]
    exact State.takePayload_frameTaken hs p f.payload
  case dataOther =>
    refine (next_clocked hrun _).trans (congrArg _ ?_)
    rw [State.dataFrame_of_active hactive (.inr hkind), State.acceptFrame_of_other hcrc hack hseq]
    rfl
  case linkNext =>
    obtain ⟨hnone, hnak, hcredit, hswap, hprobe, hid, hcue⟩ := State.linkFields_single (t := s.frameTaken p) (p := p) hrun hframed
    have hexec : exec (.linkFrame p f x) s = .next ((s.frameTaken p).linkFields p x) := by
      refine (next_clocked hrun _).trans (congrArg _ ?_)
      rw [State.linkFrame_of_framed hframed hkind, State.acceptFrame_of_next hcrc hack hseq]
      rfl
    rw [hexec]
    exact ⟨fun hx => hx ▸ congrArg _ hnone, fun n hx => hx ▸ hnak n, fun vc n hx => hx ▸ hcredit vc n, fun l hx => hx ▸ hswap l,
      fun r hx => hx ▸ hprobe r, fun r hx => hx ▸ hid r, fun r hx => hx ▸ hcue r⟩
  case linkOther =>
    refine (next_clocked hrun _).trans (congrArg _ ?_)
    rw [State.linkFrame_of_framed hframed hkind, State.acceptFrame_of_other hcrc hack hseq]
    rfl
  case bad =>
    refine (next_clocked hrun _).trans (congrArg _ ?_)
    rw [State.dataFrame_of_active hactive (.inl hcrc), State.acceptFrame_of_bad hcrc]
    rfl
  case idle =>
    have hidle : s.idleFrame p f = s.ackFrames p (bits f.header.toNat 17 12) := by
      unfold State.idleFrame
      rw [if_pos hactive, if_neg (by simp [hcrc]), if_pos (show _ = fIdle from hkind)]
      exact if_pos hack
    rw [exec_frameAck hrun (State.framed_of_active hactive), BitVec.toNat_ofNat, bits_mod_two_pow_len, ← hidle]
    exact next_clocked hrun _
  case ack => rw [exec_frameAck hrun hframed, State.ackFrames_of_find hfind]
  case nak =>
    obtain ⟨hout, hlink⟩ := s.resend_sends p ((s.port p).replay.drop k)
    exact ⟨_, by rw [exec_frameNak hrun hframed, State.nakFrames_of_find hfind], hout, hlink⟩
  case timeout =>
    obtain ⟨hout, hlink⟩ := s.resend_sends p ((s.port p).replay.filter (·.fseq == fseq.toNat))
    exact ⟨_, (next_clocked hrun _).trans (congrArg _ (if_pos hframed)), hlink, hout⟩
  case retrained =>
    obtain ⟨hout, hlink⟩ := (s.setFld (F.oxlPortStatState p) 5).resend_sends p (s.port p).replay
    refine ⟨_, (next_clocked hrun _).trans (congrArg _ (if_pos hstate)), ?_, hlink, hout⟩
    have hother : (Reg.oxlPortStat p).addr ≠ (Reg.oxlPortErr p).addr := by
      simp only [Reg.addr]
      omega
    exact (State.fld_resend _ _ _ hother).trans (State.portState_setFld hs p 5)
  case credits => exact (next_clocked hrun _).trans (congrArg _ (if_pos hactive))

end Sys2Proof.Machine
end

section
/-!
Proofs about the training of a port and its lanes (R308, R309, R314, R315): identity records sent and received, a lane that fails, and the rows.
-/

namespace Sys2Proof.Machine

/-! ## Identity records (R315) -/

/-- The record that a port sends names the book, the node, the port and the stepping; its probe is out with it. -/
theorem State.sendIdentity_sends (s : State) (p : Nat) :
    ∃ n r, r.bookDigest = BitVec.ofNat 64 s.digest ∧ r.node = BitVec.ofNat 16 s.node ∧ r.port = BitVec.ofNat 8 p ∧ r.stepping = 0x11 ∧
      s.sendIdentity p = ((s.setFree n).setPort p { s.port p with probed := true }).sendLink p (.identity p r) :=
  ⟨s.free + 1 + 1, (s.identityOf p).1, rfl, rfl, rfl, rfl, rfl⟩

/-- A record received: its sender is noted, and its probe echoed. -/
def State.identified (s : State) (p : Nat) (r : IdRecord) : State :=
  ((s.setFld (F.oxlPortStatNeighbour p) r.node.toNat).setFld (F.oxlPortStatNeighbourPort p) r.port.toNat).sendLink p (.probeEcho p r.probe)

section

variable (s : State) (p : Nat) (r : IdRecord)

theorem State.word_identified {x : Reg} (hx : x.addr ≠ (Reg.oxlPortStat p).addr) : (s.identified p r).word x = s.word x := by
  rw [State.identified, State.sendLink_word, State.word_setFld_ne _ hx, State.word_setFld_ne _ hx]

theorem State.fld_identified {x : Fld} (hx : x.reg.addr ≠ (Reg.oxlPortStat p).addr) : (s.identified p r).fld x = s.fld x :=
  State.fld_of_word (s.word_identified p r hx)

theorem State.node_identified : (s.identified p r).node = s.node := s.fld_identified p r (by simp only [F.oxlNodeNode, Reg.addr]; omega)

theorem State.digest_identified : (s.identified p r).digest = s.digest := by
  rw [State.digest, State.pair, State.word_identified _ _ _ (by simp only [Reg.addr]; omega),
    State.word_identified _ _ _ (by simp only [Reg.addr]; omega)]
  rfl

/-- A register of the port's configuration is not touched. -/
theorem State.cfg_identified {x : Fld} (hx : x.reg = .oxlPortCfg p) : (s.identified p r).fld x = s.fld x :=
  s.fld_identified p r (by rw [hx]; simp only [Reg.addr]; omega)

/-- The record names another peer than the one that the port is to check. -/
def State.wrongPeer : Bool :=
  s.flag (F.oxlPortCfgCheck p) && !(r.node.toNat == s.fld (F.oxlPortCfgPeerNode p) && r.port.toNat == s.fld (F.oxlPortCfgPeerPort p))

/-- The record is of another book. -/
def State.otherBook : Bool := decide (r.bookDigest.toNat ≠ 0 ∧ s.digest ≠ 0 ∧ r.bookDigest.toNat ≠ s.digest)

theorem State.wrongPeer_identified : (s.identified p r).wrongPeer p r = s.wrongPeer p r := by
  rw [State.wrongPeer, State.flag, State.cfg_identified _ _ _ rfl, State.cfg_identified _ _ _ rfl, State.cfg_identified _ _ _ rfl]
  rfl

theorem State.otherBook_identified : (s.identified p r).otherBook r = s.otherBook r := by
  rw [State.otherBook, State.digest_identified]
  rfl

theorem State.identity_of_identify (h : s.portState p = 4) : s.identity p r =
    if s.wrongPeer p r = true then (s.identified p r).raiseGlobal 0x4003 p else if s.node = 65535 then s.identified p r
      else (if s.otherBook r = true then (s.identified p r).bookSplit p else s.identified p r).becomeActive p := by
  rw [← s.wrongPeer_identified p r, ← s.otherBook_identified p r, ← s.node_identified p r]
  unfold State.identity
  rw [h, if_neg (by decide)]
  exact if_pos rfl

theorem State.identity_of_active (h : s.portState p = 5) :
    s.identity p r = if s.otherBook r = true then (s.identified p r).bookSplit p else s.identified p r := by
  rw [← s.otherBook_identified p r]
  unfold State.identity
  rw [h, if_neg (by decide)]
  exact if_neg (by decide)

end

/-! ## The lane check (R314) -/

section

variable {s : State} {p good : Nat} (hstate : s.portState p = 3)

include hstate

theorem State.lanesChecked_of_none (h : chooseSpare good (s.fld (F.oxlPortStatSparedLane p)) = none) :
    s.lanesChecked p good = (s.setPort p { s.port p with lanes := good }).goDown p false := by
  unfold State.lanesChecked
  rw [if_neg (not_not.mpr hstate)]
  dsimp only
  rw [h]

theorem State.lanesChecked_of_some {l : Nat} (h : chooseSpare good (s.fld (F.oxlPortStatSparedLane p)) = some l) :
    let u := ((s.setPort p { s.port p with lanes := good }).setFld (F.oxlPortStatUnderstudy p) (b2n (l != 15))).setFld (F.oxlPortStatSparedLane p) l
    s.lanesChecked p good =
      ((if l = s.fld (F.oxlPortStatSparedLane p) then u else u.spared (.port p)).setFld (F.oxlPortStatState p) 4).sendIdentity p := by
  unfold State.lanesChecked
  rw [if_neg (not_not.mpr hstate)]
  dsimp only
  rw [h]

end

/-! ## Lanes (R309) -/

/-- A lane no longer in working order. -/
def State.laneOut (s : State) (p lane : Nat) : State := s.setPort p { s.port p with lanes := setBits (s.port p).lanes lane 1 0 }

section

variable {s : State} {p lane : Nat} (hactive : s.active p = true) (hswap : (s.port p).swap = none)

include hactive hswap

theorem State.laneFails_of_reserve (hused : s.flag (F.oxlPortStatUnderstudy p) = false) (hlane : lane < 8) : s.laneFails p lane =
    if bits (s.port p).lanes 8 1 = 1 then (s.laneOut p lane).swapLane p lane else (s.laneOut p lane).goDown p true := by
  unfold State.laneFails
  rw [if_neg (by simp [hactive])]
  dsimp only
  rw [if_neg (by simp [hswap, hused]), if_neg (by omega)]
  exact if_congr (by simp [hused, hswap]) rfl rfl

theorem State.laneFails_of_used (hused : s.flag (F.oxlPortStatUnderstudy p) = true) (hlane : lane ≠ s.fld (F.oxlPortStatSparedLane p)) :
    s.laneFails p lane = (s.laneOut p lane).goDown p true := by
  unfold State.laneFails
  rw [if_neg (by simp [hactive])]
  dsimp only
  rw [if_neg (by simp [hswap, hlane]), if_neg (by simp [hused]), if_neg (by simp [hused])]
  rfl

end

theorem State.swapDone_of_swap {s : State} {p lane : Nat} (h : (s.port p).swap = some lane) :
    s.swapDone p = (((s.setPort p { s.port p with swap := none }).setFld (F.oxlPortStatUnderstudy p) 1).setFld
      (F.oxlPortStatSparedLane p) lane).spared (.port p) := by
  unfold State.swapDone
  rw [h]

/-! ## The statement -/

/-- Settles O43: each state's row is its operation in that state; a record by the peer and the book that it names, a lane by the understudy. -/
theorem trainingRowsComplete : Obligations.TrainingRowsComplete := by
  refine ⟨⟨fun s p hrun hstate => ⟨?signal, ?silence⟩, fun s p hrun hstate => ⟨?equalised, ?equaliseLate⟩,
    fun s p good hrun hstate => ⟨fun l hl => ?lanesGood, fun hl => ?lanesBad⟩, fun s p hrun hactive => ?lockLost,
    fun s p hrun hstate => ?retrainLate, fun s p hrun hstate => ?downOver, fun s p r _ hrun hstate hcheck hnode hbook => ?becomesActive,
    fun s p r _ hrun hstate hcheck hpeer => ?wrongPeer, fun s p r _ hrun hstate hbook hdigest hother => ?otherBook, linkActs⟩,
    fun s p lane hrun hactive hused hswap hlane => ⟨?reserve, ?command⟩, fun s p lane hrun hactive hused hspared hswap => ?used,
    fun s p lane hrun hswap => ?swapDone⟩
  case lanesGood =>
    obtain ⟨n, r, hdigest, hnode, hport, hstepping, hsend⟩ := State.sendIdentity_sends _ _
    refine ⟨n, r, hdigest, hnode, hport, hstepping, (next_clocked hrun _).trans (congrArg _ ?_)⟩
    exact (State.lanesChecked_of_some hstate hl).trans hsend
  all_goals refine (next_clocked hrun _).trans (congrArg _ ?_)
  case signal => exact if_pos ⟨hstate, rfl⟩
  case silence => exact if_neg (by simp)
  case equalised => exact if_pos hstate
  case equaliseLate => exact if_pos hstate
  case lanesBad => exact State.lanesChecked_of_none hstate hl
  case lockLost => exact if_pos hactive
  case retrainLate => exact if_pos hstate
  case downOver => exact if_pos hstate
  case becomesActive =>
    have hpeer : s.wrongPeer p r = false := by rw [State.wrongPeer, hcheck, Bool.false_and]
    have hsame : s.otherBook r = false := by simp [State.otherBook, hbook]
    rw [State.identity_of_identify s p r hstate, hpeer, hsame, if_neg Bool.false_ne_true, if_neg hnode, if_neg Bool.false_ne_true]
    rfl
  case wrongPeer =>
    have hwrong : s.wrongPeer p r = true := by
      rw [State.wrongPeer, hcheck, Bool.true_and, Bool.not_eq_true', Bool.and_eq_false_iff]
      exact hpeer.imp beq_false_of_ne beq_false_of_ne
    rw [State.identity_of_identify s p r hstate, if_pos hwrong]
    rfl
  case otherBook =>
    have hbooks : s.otherBook r = true := decide_eq_true ⟨hbook, hdigest, hother⟩
    rw [State.identity_of_active s p r hstate, if_pos hbooks]
    rfl
  case reserve => exact State.laneFails_of_reserve hactive hswap hused hlane
  case command => exact if_pos ⟨hactive, hlane, hswap, hused⟩
  case used => exact State.laneFails_of_used hactive hswap hused hspared
  case swapDone => exact State.swapDone_of_swap hswap

end Sys2Proof.Machine
end

section
/-!
Proofs about packets on their way (R317 to R319, R321 to R324): the next hop, routing, a message's one packet delivered, the escape channel, and the
rows.
-/

namespace Sys2Proof.Machine

/-! ## The next hop (R322, R324) -/

section

variable {s : State} {origin : Option Nat} {k : Packet}

theorem State.hop_of_here (h : k.route.dst.toNat = s.node) : s.hop origin k = .deliver := if_pos h

theorem State.hop_of_no_table (h : k.route.dst.toNat ≠ s.node) (hdst : 4096 ≤ k.route.dst.toNat) : s.hop origin k = .drop :=
  (if_neg h).trans (if_pos (.inl hdst))

/-- The packet as its escape port takes it: in class 1 from a dateline on. -/
def State.escapePacket (s : State) (n : Nat) (k : Packet) : Packet :=
  { k with route := { k.route with cls := k.route.cls || s.flag (F.oxlPortCfgDateline (s.fld (F.oxlRteEscPort n))) } }

/-- A packet of the device's own on the escape channel goes to its escape port. -/
theorem State.hop_onEscape (h : k.route.dst.toNat ≠ s.node) (hdst : k.route.dst.toNat < 4096)
    (hvalid : s.flag (F.oxlRteEscValid k.route.dst.toNat) = true) :
    s.hop none (onEscape k) = .to (s.fld (F.oxlRteEscPort k.route.dst.toNat)) (s.escapePacket k.route.dst.toNat (onEscape k)) := by
  have hvc : (onEscape k).route.vc.toNat ≤ 1 := by simp [onEscape]
  have hescape : s.hop none (onEscape k) = s.escapeHop k.route.dst.toNat (onEscape k) := by
    unfold State.hop
    dsimp only
    rw [if_neg (show ¬(onEscape k).route.dst.toNat = s.node from h), if_neg (by simpa [onEscape] using hdst)]
    exact if_pos hvc
  exact hescape.trans (if_pos hvalid)

end

/-! ## Routing (R322, R323) -/

section

variable {s : State} {x : Queued}

theorem State.route_of_deliver (h : s.hop x.origin x.packet = .deliver) : s.route x = s.deliver x := by
  rw [State.route, h]

theorem State.route_of_drop (h : s.hop x.origin x.packet = .drop) : s.route x = s.discardPacket x := by
  rw [State.route, h]

theorem State.route_of_send {p : Nat} {k : Packet} (h : s.hop x.origin x.packet = .to p k) (hsend : s.canSend p x.origin.isNone k = true) :
    s.route x = s.transmit p x k := by
  rw [State.route, h]
  exact if_pos hsend

/-- A packet of the device's own that its port can send now goes out, and stands in the replay buffer as its frames. -/
theorem State.route_transmits (hs : s.canonical) (hx : x.origin = none) {p : Nat} {k : Packet} (h : s.hop none x.packet = .to p k)
    (hsend : s.canSend p true k = true) :
    (s.route x).out = s.out ++ [.packet p k] ∧ (s.route x).link.waiting = s.link.waiting ∧
      (((s.route x).port p).replay.drop (s.port p).replay.length).map (·.frame.payload) = framePayloads k := by
  obtain ⟨hout, -, hwaiting, -, hreplay⟩ := State.transmit_transmits hs p hx k
  rw [State.route_of_send (by rwa [hx]) (by rwa [hx])]
  exact ⟨hout, hwaiting, hreplay⟩

theorem State.route_of_spent {p : Nat} {k : Packet} (h : s.hop x.origin x.packet = .to p k)
    (hspent : s.freeCredits p x.origin.isNone k < creditNeed k) : s.route x = s.setLink { s.link with waiting := s.link.waiting ++ [x] } := by
  have hsend : ¬s.canSend p x.origin.isNone k = true := by simp [State.canSend, hspent]
  rw [State.route, h]
  dsimp only
  rw [if_neg hsend, if_neg (by omega)]

end

/-! ## Delivery (R318, R319) -/

theorem State.peerPair_of_pairs {s t : State} (h : t.link.pairs = s.link.pairs) (n : Nat) : t.peerPair n = s.peerPair n := by
  rw [State.peerPair, h]
  rfl

/-- Accepting a number looks at the pairs alone. -/
theorem State.acceptSeq_of_pairs {s t u : State} {src pseq : Nat} (hpairs : t.link.pairs = s.link.pairs) (h : s.acceptSeq src pseq = some u) :
    ∃ v, u = s.setPeerPair src v ∧ t.acceptSeq src pseq = some (t.setPeerPair src v) := by
  obtain ⟨n, hn, hacc⟩ := Option.bind_eq_some_iff.mp h
  obtain ⟨hnew, hu⟩ := Option.ite_none_left_eq_some.mp hacc
  refine ⟨_, (Option.some.inj hu).symm, ?_⟩
  rw [State.acceptSeq, State.peerPair_of_pairs hpairs, hn, Option.bind_some, if_neg hnew]

/-- A message of one packet is whole with it. -/
theorem State.assemble_of_single {s : State} {k : Packet} (hlast : k.route.msgLast = true) (hidx : k.route.msgIdx = 0)
    (hnew : ∀ x ∈ s.link.assembly, sameMessage k x = false) :
    s.assemble k = s.setLink { s.link with messages := s.link.messages ++ [(k.route.src.toNat, k.body)] } := by
  have hmine : (k :: s.link.assembly).filter (sameMessage k) = [k] := by
    rw [List.filter_cons_of_pos (by simp [sameMessage]), List.filter_eq_nil_iff.mpr fun x hx => by simp [hnew x hx]]
  have hrest : (s.link.assembly.filter fun x => !sameMessage k x) = s.link.assembly := List.filter_eq_self.mpr fun x hx => by simp [hnew x hx]
  have hfind : [k].find? (·.route.msgLast) = some k := List.find?_cons_of_pos hlast
  have hparts : (List.range (k.route.msgIdx.toNat + 1)).map (fun i => [k].find? fun x => x.route.msgIdx.toNat == i) = [some k] := by
    simp [hidx]
  unfold State.assemble
  simp only [hmine, hfind, hparts, hrest]
  simp

/-- A message's one packet, received over a port: its credits go back, it is acknowledged, and the message is whole. -/
theorem State.deliver_single {s u : State} {q : Nat} {k : Packet} (hkind : k.route.kind = 0) (hlast : k.route.msgLast = true)
    (hidx : k.route.msgIdx = 0) (hnew : ∀ x ∈ s.link.assembly, sameMessage k x = false)
    (hacc : s.acceptSeq k.route.src.toNat k.route.pseq.toNat = some u) :
    (s.deliver { origin := some q, packet := k }).link.messages = s.link.messages ++ [(k.route.src.toNat, k.body)] ∧
      (s.deliver { origin := some q, packet := k }).out = s.out ++ [.creditReturn q k.route.vc.toNat (frameCount k),
        .e2eAck k.route.src.toNat (u.peerPair k.route.src.toNat).accepted .done] := by
  obtain ⟨t, ht⟩ : ∃ t, t = s.sendLink q (.creditReturn q k.route.vc.toNat (frameCount k)) := ⟨_, rfl⟩
  have hout : t.out = s.out ++ [.creditReturn q k.route.vc.toNat (frameCount k)] := ht ▸ s.sendLink_out q _
  obtain ⟨ports, hlink⟩ : ∃ v, t.link = { s.link with ports := v } := ht ▸ s.sendLink_link q _
  obtain ⟨v, rfl, hv⟩ := State.acceptSeq_of_pairs (t := t) (by rw [hlink]) hacc
  obtain ⟨w, hw⟩ : ∃ w, w = t.setPeerPair k.route.src.toNat v := ⟨_, rfl⟩
  have hwlink : w.link = { (s.setPeerPair k.route.src.toNat v).link with ports := ports } := by
    rw [hw, State.setPeerPair, State.setLink_link, hlink]
    rfl
  have hdeliver : s.deliver { origin := some q, packet := k } = (w.assemble k).sendAck k.route.src.toNat .done := by
    have hleave : s.leaveBuffer { origin := some q, packet := k } = t := ht ▸ rfl
    unfold State.deliver
    dsimp only
    rw [hleave, if_pos hkind, hv, hw]
  rw [hdeliver, State.assemble_of_single hlast hidx (by rw [hwlink]; exact hnew)]
  refine ⟨by rw [hwlink]; rfl, ?_⟩
  rw [State.sendAck, State.emit_out, State.setLink_out, hw, State.setPeerPair_out, hout, List.append_assoc, List.singleton_append, ← hw,
    State.peerPair_of_pairs (s := s.setPeerPair k.route.src.toNat v) (by rw [State.setLink_link, hwlink])]

/-- A packet received over a port is routed once it has left the port's list. -/
theorem exec_packetRoute_port {s : State} (hrun : s.running = true) (hen : s.flag F.oxlCtrlEn = true) (p : PortNo) (k : Packet) :
    exec (.packetRoute (.port p) k) s =
      .next ((s.setPort p { s.port p with rxPackets := (s.port p).rxPackets.erase k }).route { origin := some p.val, packet := k }) :=
  (next_clocked hrun _).trans (congrArg _ (if_pos hen))

/-! ## The escape channel (R322) -/

theorem dst_of_samePacket {x y : Packet} (h : samePacket x y = true) : x.route.dst = y.route.dst := by
  obtain ⟨hroute, -⟩ := Bool.and_eq_true_iff.mp h
  have hdst := congrArg RouteHeader.dst (eq_of_beq hroute)
  exact hdst

section

variable {s : State} {k : Packet} {x : Queued}
  (hfind : (s.link.waiting.find? fun x => x.origin == none && samePacket x.packet k && decide (2 ≤ x.packet.route.vc.toNat)) = some x)

include hfind

theorem State.escapeWait_of_find : s.escapeWait .own k =
    (s.setLink { s.link with waiting := s.link.waiting.erase x }).route { x with packet := onEscape x.packet } := by
  unfold State.escapeWait
  dsimp only
  rw [hfind]

theorem origin_of_find : x.origin = none := by
  have h := List.find?_some hfind
  simp only [Bool.and_eq_true, beq_iff_eq] at h
  exact h.1.1

theorem dst_of_find : x.packet.route.dst = k.route.dst := by
  have h := List.find?_some hfind
  simp only [Bool.and_eq_true] at h
  exact dst_of_samePacket h.1.2

end

/-! ## The statement -/

/-- Settles O44: a packet by its next hop and its credits, a message's one packet by `State.deliver_single`, one that has waited too long by its
escape way. -/
theorem packetRowsComplete : Obligations.PacketRowsComplete := by
  refine ⟨fun s k hrun => ⟨?own, fun hnode hkind => ?here, fun hnode hdst => ?noTable, fun p k' hs hhop hsend => ?sends⟩,
    fun s u q k _ hrun hen hnode hkind hlast hidx hnew hacc => ?message, fun s p k hrun hen => ?relayed, linkActs,
    fun s x p k hhop => ⟨State.route_of_send hhop, fun _ => State.route_of_spent hhop⟩, fun s k x hrun hfind => ?expires,
    fun s k x hs hrun hfind hnode hdst hvalid hsend => ?escapes⟩
  case own => exact next_clocked hrun _
  case here =>
    refine (next_clocked hrun _).trans (congrArg _ ?_)
    exact (State.route_of_deliver (State.hop_of_here hnode)).trans (if_neg hkind)
  case noTable =>
    refine (next_clocked hrun _).trans (congrArg _ ?_)
    exact State.route_of_drop (State.hop_of_no_table hnode hdst)
  case sends =>
    obtain ⟨hout, -, hreplay⟩ := State.route_transmits hs (x := { origin := none, packet := _ }) rfl hhop hsend
    exact ⟨_, next_clocked hrun _, hout, hreplay⟩
  case message =>
    obtain ⟨t, ht⟩ : ∃ t, t = s.setPort q { s.port q with rxPackets := (s.port q).rxPackets.erase k } := ⟨_, rfl⟩
    obtain ⟨v, rfl, hv⟩ := State.acceptSeq_of_pairs (t := t) (by rw [ht]; rfl) hacc
    have hroute := State.route_of_deliver (s := t) (x := { origin := some q.val, packet := k }) (State.hop_of_here (by rw [ht]; exact hnode))
    obtain ⟨hmessages, hout⟩ := State.deliver_single (q := q) hkind hlast hidx (by rw [ht]; exact hnew) hv
    refine ⟨_, (exec_packetRoute_port hrun hen q k).trans (congrArg _ (ht ▸ hroute)), ?_, ?_⟩
    · rw [← ht, hmessages, ht]
      rfl
    · rw [← ht, hout, ht]
      rfl
  case relayed => exact exec_packetRoute_port hrun hen p k
  case expires => exact (next_clocked hrun _).trans (congrArg _ (State.escapeWait_of_find hfind))
  case escapes =>
    have horigin := origin_of_find hfind
    rw [← dst_of_find hfind] at hnode hdst hvalid hsend ⊢
    have hdropped : (s.setLink { s.link with waiting := s.link.waiting.erase x }).canonical :=
      ((Keeps.refl s).setLink { s.link with waiting := s.link.waiting.erase x } fun h => h).canonical hs
    obtain ⟨hout, hwaiting, -⟩ := State.route_transmits hdropped (x := { x with packet := onEscape x.packet }) horigin
      (State.hop_onEscape hnode hdst hvalid) hsend
    exact ⟨_, (next_clocked hrun _).trans (congrArg _ (State.escapeWait_of_find hfind)), hout, hwaiting⟩

end Sys2Proof.Machine
end

section
/-!
Proofs about the step function and the state after reset (R347, R348, R359): the command at the front runs, every command answers, and
nothing waits or is listed after reset.
-/

namespace Sys2Proof.Machine

/-! ## A step -/

/-- Settles O1: the front command runs on the state without it, whose queue is the rest. -/
theorem stepRunsFrontCommand : Obligations.StepRunsFrontCommand := by
  intro s c rest h
  have hfront : s.takeFront = s.setPending rest := by rw [State.takeFront, h, List.tail_cons]
  rw [step_of_front h, hfront]

/-! ## Every command answers -/

/-- Each arm of the command switch answers a next state, on all its paths. -/
theorem exec_answers (c : Instr) (s : State) : ∃ t, exec c s = .next t := by
  cases c <;> exact ⟨_, rfl⟩

/-- Settles O2: what a command answers keeps the queue of waiting commands. -/
theorem everyStepAnswers : Obligations.EveryStepAnswers := by
  refine ⟨fun c s => ?_, fun s => step_of_empty⟩
  obtain ⟨t, hexec⟩ := exec_answers c s
  exact ⟨t, hexec, (exec_keeps c hexec).pending⟩

/-! ## The state after reset -/

theorem tblWf_nil {α : Type} (d : α) : tblWf d [] := ⟨List.Pairwise.nil, fun _ h => absurd h List.not_mem_nil⟩

/-- Every memory and table is empty after reset. -/
theorem State.reset_canonical : State.reset.canonical where
  mem := ⟨tblWf_nil _, tblWf_nil _, tblWf_nil _, tblWf_nil _, tblWf_nil _, tblWf_nil _, tblWf_nil _, tblWf_nil _, tblWf_nil _⟩
  regs := ⟨⟨List.Pairwise.nil, fun _ h => absurd h List.not_mem_nil⟩, tblWf_nil _, tblWf_nil _⟩
  queues := tblWf_nil _
  parts := ⟨tblWf_nil _, fun _ h => absurd h List.not_mem_nil⟩
  comp := ⟨tblWf_nil _, tblWf_nil _, tblWf_nil _, tblWf_nil _⟩
  link := ⟨tblWf_nil _, tblWf_nil _⟩
  prom := ⟨tblWf_nil _, tblWf_nil _, tblWf_nil _⟩
  time := ⟨tblWf_nil _, tblWf_nil _⟩
  spare := tblWf_nil _
  ledg := tblWf_nil _
  shep := ⟨tblWf_nil _, tblWf_nil _, tblWf_nil _, tblWf_nil _, tblWf_nil _⟩

/-- Settles O3: the state after reset lists nothing. -/
theorem resetIsCanonical : Obligations.ResetIsCanonical := ⟨State.reset_canonical, rfl, rfl, rfl⟩

end Sys2Proof.Machine
end

section
/-!
Proofs about register accesses (R345, R357, R359 to R364): reads with their latches, the holding mirror, and what a write completes as.
-/

namespace Sys2Proof.Machine

/-! ## Reads and their latches (R363) -/

/-- The state with the _HI half latched for a requester. -/
def State.latchFor (s : State) (who : Requester) (hi : Reg) : State :=
  s.setRegs { s.regs with shadows := tblSet none s.regs.shadows (shadowKey who hi) (some (s.readReg hi)) }

theorem Reg.isLatch_of_latched {lo hi : Reg} (h : lo.latched = some hi) : hi.isLatch = true := by
  cases lo <;> cases h <;> rfl

theorem State.readBy_of_latched {lo hi : Reg} (h : lo.latched = some hi) (s : State) (who : Requester) :
    s.readBy who lo = (s.readReg lo, s.latchFor who hi) := by
  cases lo <;> cases h <;> rfl

theorem State.readBy_of_isLatch {hi : Reg} (h : hi.isLatch = true) (s : State) (who : Requester) :
    s.readBy who hi = ((tblGet none s.regs.shadows (shadowKey who hi)).getD (s.readReg hi), s) := by
  cases hi <;> cases h <;> rfl

theorem exec_loReadLatch_reg {s : State} {who : Requester} {off o : Nat} {w : Option Nat} {r : Reg} (ha : s.canAccess who = true)
    (hplace : s.placeAt who off = .reg w o r) :
    exec (.loReadLatch who off) s = .next ((s.readBy who r).2.emit (.readData who (s.readBy who r).1)) := by
  refine congrArg Host.Outcome.next ((if_pos ha).trans ?_)
  rw [State.readAt, hplace]

/-- Requesters have keys of their own. -/
theorem shadowKey_ne {who other : Requester} (hwho : requesterNo other ≠ requesterNo who) {r hi : Reg} (hr : r.addr < 2 ^ 32)
    (hhi : hi.addr < 2 ^ 32) : shadowKey other r ≠ shadowKey who hi := by
  unfold shadowKey
  omega

/-- Settles O31: the read of the low half leaves the high half in the reader's own shadow, which is what the read of the high half gives. -/
theorem lowReadLatchesHighHalf : Obligations.LowReadLatchesHighHalf := by
  intro s who off hiOff w w' o o' lo hi hs ha hplace hlatch
  have hlow := exec_loReadLatch_reg ha hplace
  rw [State.readBy_of_latched hlatch] at hlow
  refine ⟨_, hlow, rfl, rfl, fun u hau hshadows hplace' => ?high, fun other r hwho hr hhi => ?other⟩
  case high =>
    have hlatched : tblGet none u.regs.shadows (shadowKey who hi) = some (s.readReg hi) := by
      rw [hshadows]
      exact tblGet_tblSet_same _ _ _ _ hs.regs.2.1.1
    have hread := exec_loReadLatch_reg hau hplace'
    rw [State.readBy_of_isLatch (Reg.isLatch_of_latched hlatch), hlatched] at hread
    exact ⟨_, hread, rfl⟩
  case other => exact tblGet_tblSet_ne _ _ _ _ (shadowKey_ne hwho hr hhi)

/-! ## The holding mirror (R357, R364) -/

theorem foldl_tblSet_sorted {α β : Type} [DecidableEq α] (d : α) (key : β → Nat) (val : β → α) (l : List β) {m : List (Nat × α)}
    (h : m.Pairwise fun x y => x.1 < y.1) : (l.foldl (fun m x => tblSet d m (key x) (val x)) m).Pairwise fun x y => x.1 < y.1 := by
  induction l generalizing m with
  | nil => exact h
  | cons x l ih => exact ih (tblSet_pairwise _ _ _ _ h)

/-- After entries have been set in order, a key set holds the value of an entry of the list, the last one with that key. -/
theorem tblGet_foldl_tblSet {α β : Type} [DecidableEq α] (d : α) (key : β → Nat) (val : β → α) {l : List β} {m : List (Nat × α)}
    (h : m.Pairwise fun x y => x.1 < y.1) {y : β} (hy : y ∈ l) :
    ∃ x ∈ l, key x = key y ∧ tblGet d (l.foldl (fun m x => tblSet d m (key x) (val x)) m) (key y) = val x := by
  induction l using List.reverseRecOn with
  | nil => exact absurd hy List.not_mem_nil
  | append_singleton l z ih =>
    rw [List.foldl_append, List.foldl_cons, List.foldl_nil]
    by_cases hz : key z = key y
    · refine ⟨z, List.mem_append_right _ (List.mem_singleton_self z), hz, ?_⟩
      rw [hz]
      exact tblGet_tblSet_same _ _ _ _ (foldl_tblSet_sorted d key val l h)
    · have hyl : y ∈ l := by
        rcases List.mem_append.mp hy with hy | hy
        · exact hy
        · exact absurd (congrArg key (List.mem_singleton.mp hy)).symm hz
      obtain ⟨x, hx, hkey, hval⟩ := ih hyl
      exact ⟨x, List.mem_append_left _ hx, hkey, (tblGet_tblSet_ne _ _ _ _ (Ne.symm hz)).trans hval⟩

/-- What the mirror keeps of a register as it reads now. -/
def State.mirrorWord (s : State) (r : Reg) : Word32 := BitVec.ofNat 32 (r.mirrored (s.readReg r).toNat)

/-- The mirror filled from the registers below it. -/
def State.mirrorFilled (s : State) : List (Nat × Word32) :=
  (snapRegs.filter fun r => decide (r.addr < 0x800000)).foldl (fun m r => tblSet 0 m r.addr (s.mirrorWord r)) s.regs.mirror

def State.setMirror (s : State) (m : List (Nat × Word32)) : State := s.setRegs { s.regs with mirror := m }

theorem State.capture_of_pending {s : State} (h : s.flag F.hubSnapPending = true) :
    s.capture = ((s.setMirror s.mirrorFilled).setFld F.hubSnapDone 1).setFld F.hubSnapPending 0 := if_pos h

/-- What a capture leaves, whatever fills the mirror. -/
theorem State.setMirror_marked {s : State} (h : s.regs.file.Pairwise fun x y => x.1 < y.1) (m : List (Nat × Word32)) :
    let t := ((s.setMirror m).setFld F.hubSnapDone 1).setFld F.hubSnapPending 0
    t.flag F.hubSnapDone = true ∧ t.flag F.hubSnapPending = false ∧ t.regs.mirror = m ∧
      ∀ r : Reg, r.addr ≠ Reg.hubSnap.addr → t.word r = s.word r := by
  have hdone : ((s.setMirror m).setFld F.hubSnapDone 1).regs.file.Pairwise fun x y => x.1 < y.1 := State.setFld_sorted (s.setMirror m) _ _ h
  refine ⟨?_, State.flag_setFld_same hdone (by decide) 0, rfl, fun r hr =>
    (State.word_setFld_ne _ hr).trans (State.word_setFld_ne (s := s.setMirror m) _ hr)⟩
  rw [State.flag, State.fld_setFld_of_apart hdone (by decide) (.inr (by decide)), State.fld_setFld_same (s.setMirror m) _ _ h (by decide)]
  rfl

/-- Settles O32: the mirror by the fold that fills it, DONE and PENDING as the last two fields written. -/
theorem snapRowsComplete : Obligations.SnapRowsComplete := by
  refine ⟨fun s hup => congrArg Host.Outcome.next (State.byHost_of_up hup _), fun s hrun => next_clocked hrun _, fun s hs hrun hpending => ?_⟩
  have hexec : exec .snapCapture s = .next s.capture := next_clocked hrun _
  rw [State.capture_of_pending hpending] at hexec
  obtain ⟨hdone, hclear, hmirror, hwords⟩ := State.setMirror_marked hs.regs.1.1 s.mirrorFilled
  refine ⟨_, hexec, hdone, hclear, fun r hr hlow => ?_, hwords⟩
  have hcovered : r ∈ snapRegs.filter fun r => decide (r.addr < 0x800000) := List.mem_filter.mpr ⟨hr, decide_eq_true hlow⟩
  obtain ⟨x, hx, haddr, hval⟩ := tblGet_foldl_tblSet 0 Reg.addr s.mirrorWord hs.regs.2.2.1 hcovered
  refine ⟨x, List.mem_of_mem_filter hx, haddr, ?_⟩
  rw [hmirror, State.mirrorFilled, hval, State.mirrorWord]

/-! ## Writes (R5, R345, R359 to R362, R375) -/

section

variable {s : State} {who : Requester} {off : Nat} (v : Word32)

theorem exec_registerWrite_of_access (ha : s.canAccess who = true) : exec (.registerWrite who off v) s = .next (s.writeAt who off v.toNat) :=
  congrArg Host.Outcome.next (if_pos ha)

theorem exec_registerWrite_unsupported (ha : s.canAccess who = true) (hwho : who ≠ .sideband) (hplace : s.placeAt who off = .unsupported) :
    exec (.registerWrite who off v) s = .next (s.emit (.unsupported who)) := by
  rw [exec_registerWrite_of_access v ha, State.writeAt, if_neg hwho, hplace]

theorem exec_registerWrite_reg (ha : s.canAccess who = true) (hwho : who ≠ .sideband) {w : Option Nat} {o : Nat} {r : Reg}
    (hplace : s.placeAt who off = .reg w o r) : exec (.registerWrite who off v) s = .next (s.writeReg who w o r v.toNat) := by
  rw [exec_registerWrite_of_access v ha, State.writeAt, if_neg hwho, hplace]

theorem exec_registerWrite_sideband (hdark : s.shep.dark = false) :
    exec (.registerWrite .sideband off v) s = .next (s.sidebandWrite (s.placeAt .sideband off) v.toNat) := by
  rw [exec_registerWrite_of_access v (by simp [State.canAccess, hdark]), State.writeAt, if_pos rfl]

theorem State.placeAt_of_unaligned (h : off % 4 ≠ 0) : s.placeAt who off = .unsupported := if_pos h

end

/-- A register that only holds fields takes a word that differs, and nothing else. -/
theorem State.store_of_onlyHolds {r : Reg} (h : r.onlyHolds = true) (s : State) (who : Requester) (window : Option Nat) (sub v old w : Nat) :
    s.store who window r sub v old w = if w = old then s else s.setWord r (BitVec.ofNat 32 w) := by
  have hstore : s.store who window r sub v old w = s.when (w ≠ old) (·.setWord r (BitVec.ofNat 32 w)) := by cases r <;> cases h <;> rfl
  rw [hstore, State.when, ite_not]

theorem State.sidebandWrite_go (s : State) (w : Option Nat) (o v : Nat) : s.sidebandWrite (.reg w o (.pmtMbxCtrl 17)) v =
    (s.setWord (.pmtMbxCtrl 17) (BitVec.ofNat 32 ((Reg.pmtMbxCtrl 17).after (o % 16) (s.word (.pmtMbxCtrl 17)).toNat v false))).when
      (commands (o % 16) v 0 = true) (·.submit 17) := rfl

theorem State.sidebandWrite_other {r : Reg} (h : r ≠ .pmtMbxCtrl 17) (s : State) (w : Option Nat) (o v : Nat) :
    s.sidebandWrite (.reg w o r) v = s := by
  unfold State.sidebandWrite
  split
  next heq => cases heq
  next heq => cases heq; exact absurd rfl h
  next => rfl

theorem commands_eq_false {sub v lo : Nat} (h : sub = 8 ∨ sub = 12 ∨ bits v lo 1 = 0) : commands sub v lo = false := by
  unfold commands
  rcases h with rfl | rfl | h
  · rfl
  · rfl
  · rw [h, Bool.and_comm]
    rfl

/-- Settles O30: where the offset leads, and of a register that only holds fields what its new word is. -/
theorem registerWriteCompletes : Obligations.RegisterWriteCompletes := by
  refine ⟨⟨fun s who off v w o r ha hwho hplace hholds => ?holds,
    fun s who off v ha hwho hplace => exec_registerWrite_unsupported v ha hwho hplace⟩,
    fun s who off v ha hwho hoff => ?unaligned, fun s off a v hdark hplace => ?buffer, fun s off o w v hdark hplace hgo => ?go,
    fun s off o w r v hdark hplace hr => ?ignored⟩
  case holds =>
    have htold : (r == .hbcRehCtrl && commands (o % 16) v.toNat 16) = false := by
      have hne : r ≠ .hbcRehCtrl := by rintro rfl; cases hholds
      rw [beq_eq_false_iff_ne.mpr hne, Bool.false_and]
    rw [exec_registerWrite_reg v ha hwho hplace]
    simp only [State.writeReg, State.store_of_onlyHolds hholds, htold, State.when, ite_not, Bool.not_false, Bool.and_true,
      Bool.and_right_comm]
  case unaligned =>
    have hplace : s.placeAt who off = .unsupported := State.placeAt_of_unaligned hoff
    refine ⟨exec_registerWrite_unsupported v ha hwho hplace, congrArg Host.Outcome.next ((if_pos ha).trans ?_)⟩
    rw [State.readAt, hplace]
  case buffer => rw [exec_registerWrite_sideband v hdark, hplace, State.sidebandWrite]
  case go =>
    rw [exec_registerWrite_sideband v hdark, hplace, State.sidebandWrite_go, commands_eq_false hgo]
    rfl
  case ignored => rw [exec_registerWrite_sideband v hdark, hplace, State.sidebandWrite_other hr]

end Sys2Proof.Machine
end

section
/-!
Proofs about the book and the configuration check (R371 to R375): what a COMMIT is refused for, what it begins and ends with, and the end
of a pass by what it is compared with.
-/

namespace Sys2Proof.Machine

/-! ## The book (R371, R372) -/

section

variable {s : State}

theorem State.bookCause_of_enabled {p : Nat} (hp : p < 16) (hen : s.flag (F.parCtrlEn p) = true) : s.bookCause = 6 := by
  rw [State.bookCause]
  exact if_pos (List.any_eq_true.mpr ⟨p, List.mem_range.mpr hp, hen⟩)

theorem State.commitBook_of_refused (hbusy : s.flag F.hubBookCtrlBusy = false) (hcause : s.bookCause ≠ 0) :
    s.commitBook = ((s.setFld F.hubBookCtrlRefused 1).setFld F.hubBookCtrlCause s.bookCause).raiseGlobal Ev.bookRefused := by
  rw [State.commitBook, if_neg (by simp [hbusy])]
  exact if_pos hcause

theorem State.commitBook_of_passed (hbusy : s.flag F.hubBookCtrlBusy = false) (hcause : s.bookCause = 0) :
    let a := s.pair .hubBookAddrLo .hubBookAddrHi
    let n := (BookHead.ofBytes (s.tierBytes tStacked 0 a 64)).length
    s.commitBook = (s.setConfig { s.config with pending := some ⟨s.tierBytes tStacked 0 a n⟩ }).setFld F.hubBookCtrlBusy 1 := by
  intro a n
  rw [State.commitBook, if_neg (by simp [hbusy])]
  exact if_neg (by simp [hcause])

theorem State.bookDone_of_pending {k : Book} (h : s.config.pending = some k) :
    let t := (s.setConfig { s.config with book := some k, pending := none }).setPair .hubBookDigestLo .hubBookDigestHi k.digest
    s.bookDone = ((t.setFld F.hubBookCtrlCommitted 1).setFld F.hubBookCtrlBusy 0).configChanged.sendIdentities := by
  intro t
  rw [State.bookDone, h]

/-! ## The configuration check (R374, R375) -/

theorem State.crcOn_of_disabled (hen : s.flag F.crcCtrlEn = false) :
    s.crcOn = ((s.setConfig { s.config with crcSecond := false }).setFld F.crcCtrlEn 1).setFld F.crcStatusState 1 :=
  if_neg (by simp [hen])

theorem State.crcTake_of_disabled (hen : s.flag F.crcCtrlEn = false) : s.crcTake = s := if_neg (by simp [hen])

/-- A pass that has ended is counted, with its value in CRC.LAST. -/
def State.passed (s : State) : State := (s.setPair .crcLastLo .crcLastHi (crc64 s.configImage)).countFld F.crcStatusPasses 1

section

variable (hen : s.flag F.crcCtrlEn = true)

include hen

theorem State.crcPass_of_no_reference (href : s.config.crcRef = none) : s.crcPass = s.passed := by
  rw [State.crcPass, if_neg (by simp [hen])]
  simp only [State.countFld_config, State.setPair_config, href]
  rfl

theorem State.crcPass_of_equal (href : s.config.crcRef = some (crc64 s.configImage)) :
    s.crcPass = (let t := s.passed.setConfig { s.config with crcSecond := false }
      if s.config.crcSecond = true ∨ t.fld F.crcStatusState = 3 then t else t.setFld F.crcStatusState 2) := by
  rw [State.crcPass, if_neg (by simp [hen])]
  simp only [State.countFld_config, State.setPair_config, href, if_true]
  rfl

theorem State.crcPass_of_unequal {r : Nat} (href : s.config.crcRef = some r) (hr : r ≠ crc64 s.configImage) :
    s.crcPass = (if s.config.crcSecond = true then
        let t := s.passed.setConfig { s.config with crcSecond := false }
        if t.fld F.crcStatusState = 3 then t else t.drift
      else s.passed.setConfig { s.config with crcSecond := true }) := by
  rw [State.crcPass, if_neg (by simp [hen])]
  simp only [State.countFld_config, State.setPair_config, href, if_neg hr.symm]
  rfl

end

end

/-- Settles O33: each row by what stands in the book's and the check's registers at the command. -/
theorem bookRowsComplete : Obligations.BookRowsComplete := by
  refine ⟨⟨fun s p hp hen => State.bookCause_of_enabled hp hen, fun s hup hbusy hcause => ?refused, fun s hup hbusy hcause => ?passes,
      fun s k hrun hpending => ?done⟩,
    ⟨fun s hup hen => ⟨?on, ?untaken⟩, fun s hup => congrArg Host.Outcome.next (State.byHost_of_up hup _), fun s hup hen => ?take,
      fun s hrun hen => ?pass⟩⟩
  case refused => exact congrArg Host.Outcome.next ((State.byHost_of_up hup _).trans (State.commitBook_of_refused hbusy hcause))
  case passes => exact congrArg Host.Outcome.next ((State.byHost_of_up hup _).trans (State.commitBook_of_passed hbusy hcause))
  case done => exact (next_clocked hrun _).trans (congrArg _ (State.bookDone_of_pending hpending))
  case on => exact congrArg Host.Outcome.next ((State.byHost_of_up hup _).trans (State.crcOn_of_disabled hen))
  case untaken => exact congrArg Host.Outcome.next ((State.byHost_of_up hup _).trans (State.crcTake_of_disabled hen))
  case take => exact congrArg Host.Outcome.next ((State.byHost_of_up hup _).trans (if_pos hen))
  case pass =>
    have hexec : exec .crcPassEnd s = .next s.crcPass := next_clocked hrun _
    refine ⟨fun href => ?_, fun href hsecond h3 => ?_, fun r href hr hsecond => ?_, fun r href hr hsecond h3 => ?_⟩
    · rw [hexec, State.crcPass_of_no_reference hen href, State.passed]
    · rw [hexec, State.crcPass_of_equal hen href]
      refine congrArg _ (if_neg ?_)
      rw [hsecond, State.setConfig_fld]
      exact not_or.mpr ⟨Bool.false_ne_true, h3⟩
    · rw [hexec, State.crcPass_of_unequal hen href hr, if_neg (by simp [hsecond]), State.passed, State.countFld_config, State.setPair_config]
    · rw [hexec, State.crcPass_of_unequal hen href hr, if_pos hsecond]
      refine congrArg _ (if_neg ?_)
      rwa [State.setConfig_fld]

end Sys2Proof.Machine
end

section
/-!
Proofs about what the host reaches and switches on, and about resets (R187, R188, R215, R316, R332, R333, R335, R347, R354): BAR4, the
enables of the event ring, the memories and the links, and the resets from pins.
-/

namespace Sys2Proof.Machine

/-! ## BAR4 (R332, R333) -/

section

variable {s : State} (hup : s.host.pcieUp = true)

include hup

theorem exec_bar4Write_served {fn : FnNo} {off : Nat} {data : Bytes} {a : Nat} (h : s.bar4At fn off data.length = some a) :
    exec (.bar4Write fn off data) s = .next ((s.writeTier tStacked 0 a data).touch 0 true ((List.range data.length).map (a + ·))) := by
  refine congrArg Host.Outcome.next ((State.byHost_of_up hup _).trans ?_)
  rw [h]

theorem exec_bar4Write_refused {fn : FnNo} {off : Nat} {data : Bytes} (h : s.bar4At fn off data.length = none) :
    exec (.bar4Write fn off data) s = .next (s.emit (.unsupported (.fn fn))) := by
  refine congrArg Host.Outcome.next ((State.byHost_of_up hup _).trans ?_)
  rw [h, State.refuseFn]

theorem exec_bar4Read_served {fn : FnNo} {off n a : Nat} (h : s.bar4At fn off n = some a) (hgood : s.rangeBad tStacked 0 a n = false) :
    exec (.bar4Read fn off n) s =
      .next ((s.touch 0 false ((List.range n).map (a + ·))).emit (.bar4Data fn (s.tierBytes tStacked 0 a n))) := by
  refine congrArg Host.Outcome.next ((State.byHost_of_up hup _).trans ?_)
  rw [h]
  exact if_neg (by simp [hgood])

theorem exec_bar4Read_refused {fn : FnNo} {off n : Nat} (h : s.bar4At fn off n = none) :
    exec (.bar4Read fn off n) s = .next (s.emit (.unsupported (.fn fn))) := by
  refine congrArg Host.Outcome.next ((State.byHost_of_up hup _).trans ?_)
  rw [h, State.refuseFn]

theorem exec_bar4Read_poisoned {fn : FnNo} {off n a : Nat} (h : s.bar4At fn off n = some a) (hbad : s.rangeBad tStacked 0 a n = true) :
    exec (.bar4Read fn off n) s = .next (s.emit (.unsupported (.fn fn))) := by
  refine congrArg Host.Outcome.next ((State.byHost_of_up hup _).trans ?_)
  rw [h]
  exact if_pos hbad

end

@[simp] theorem State.touch_tierByte (s : State) (hint : Nat) (w : Bool) (addrs : List Nat) (tier who a : Nat) :
    (s.touch hint w addrs).tierByte tier who a = s.tierByte tier who a := by rw [State.tierByte, State.touch_tierMem, State.tierByte]

@[simp] theorem State.touch_tierBytes (s : State) (hint : Nat) (w : Bool) (addrs : List Nat) (tier who a n : Nat) :
    (s.touch hint w addrs).tierBytes tier who a n = s.tierBytes tier who a n := by rw [State.tierBytes, State.touch_tierMem, State.tierBytes]

/-- Settles O35: a write by what a run of bytes written reads as, the accesses that fail by where they lead. -/
theorem barRowsComplete : Obligations.BarRowsComplete := by
  refine ⟨fun s fn off data a hup h => exec_bar4Write_served hup h, fun s fn off data a hs hup h => ?lands,
    fun s fn off n a hup h hgood => exec_bar4Read_served hup h hgood,
    fun s fn off n a data hup => ⟨fun h => exec_bar4Write_refused hup h, fun h => ?unread⟩⟩
  case lands =>
    have hmem : Memory.wf (s.tierMem tStacked) := State.tierMem_wf hs _
    refine ⟨_, exec_bar4Write_served hup h, ?_, fun b hb => ?_⟩
    · rw [State.touch_tierBytes, State.writeTier_bytes_same _ _ _ _ _ hmem]
    · rw [State.touch_tierByte, State.writeTier_read_other _ _ _ _ _ hmem _ hb]
  case unread =>
    rcases h with h | ⟨h, hbad⟩
    · exact exec_bar4Read_refused hup h
    · exact exec_bar4Read_poisoned hup h hbad

/-! ## Enables (R190, R215, R316, R335) -/

section

variable {s : State}

theorem State.evtOn_of_disabled (hen : s.flag F.pciEvtCtrlEn = false) :
    s.evtOn = ((s.setFld F.pciEvtCtrlEn 1).setHost { s.host with evtEver := true, evtHeld := [] }).over s.host.evtHeld
      fun s e => s.eventWrite e.1 e.2.1 e.2.2.1 e.2.2.2 := if_neg (by simp [hen])

theorem State.cacOn_of_disabled (hen : s.flag F.cacCtrlEn = false) :
    let t := s.undefineCells tCache fun _ => true
    s.cacOn = (t.setMem { t.mem with cachePoison := [], lines := [] }).setFld F.cacCtrlEn 1 := if_neg (by simp [hen])

theorem State.oxlOn_of_disabled (hen : s.flag F.oxlCtrlEn = false) :
    s.oxlOn = (s.over (List.range 16) fun s p =>
      let s := s.setFld (F.oxlPortErrRetrains p) 0
      if s.flag (F.oxlPortCfgEnable p) then s.setFld (F.oxlPortStatState p) 1 else s).setFld F.oxlCtrlEn 1 := if_neg (by simp [hen])

end

/-! ## The links disabled (R316) -/

/-- A port disabled: its STATE, and its packets given back. -/
def State.disablePort (s : State) (p : Nat) : State := (s.setFld (F.oxlPortStatState p) 0).reclaim p

theorem State.oxlOff_eq (s : State) : s.oxlOff = (s.over (List.range 16) State.disablePort).setFld F.oxlCtrlEn 0 := rfl

/-- The packets of port p as they stood in a, if the port is as it was there. -/
def State.portPackets (a : State) (p : Nat) (x : Queued) : Prop := x ∈ (a.port p).queue ∨ x ∈ (a.port p).replay.filterMap (·.ends)

/-- Port p is out of service, and what it held in a waits for a route. -/
structure PortGaveBack (a : State) (p : Nat) (t : State) : Prop where
  canonical : t.canonical
  state : t.fld (F.oxlPortStatState p) = 0
  replay : (t.port p).replay = []
  queue : (t.port p).queue = []
  waiting : ∀ x, a.portPackets p x → x ∈ t.link.waiting

theorem State.disablePort_canonical {s : State} (h : s.canonical) (p : Nat) : (s.disablePort p).canonical :=
  (State.reclaim_keeps _ (State.setFld_keeps _ _ (Keeps.refl s))).canonical h

theorem State.port_disablePort_other (s : State) {p q : Nat} (h : p ≠ q) : (s.disablePort q).port p = s.port p := tblGet_tblSet_ne _ _ _ _ h

theorem State.state_disablePort_other (s : State) {p q : Nat} (h : p ≠ q) :
    (s.disablePort q).fld (F.oxlPortStatState p) = s.fld (F.oxlPortStatState p) :=
  State.fld_setFld_ne (s := s) 0 (by simp only [F.oxlPortStatState, Reg.addr]; omega)

theorem State.waiting_disablePort (s : State) (p : Nat) :
    (s.disablePort p).link.waiting = s.link.waiting ++ (s.port p).replay.filterMap (·.ends) ++ (s.port p).queue := rfl

theorem State.disablePort_gaveBack {a t : State} {p : Nat} (h : t.canonical) (hport : t.port p = a.port p) :
    PortGaveBack a p (t.disablePort p) where
  canonical := State.disablePort_canonical h p
  state := State.portState_setFld h p 0
  replay := by rw [State.disablePort, State.port_reclaim (State.setFld_keeps _ _ (Keeps.refl t) |>.canonical h)]
  queue := by rw [State.disablePort, State.port_reclaim (State.setFld_keeps _ _ (Keeps.refl t) |>.canonical h)]
  waiting x hx := by
    rw [State.waiting_disablePort, hport]
    rcases hx with hx | hx
    · exact List.mem_append_right _ hx
    · exact List.mem_append_left _ (List.mem_append_right _ hx)

theorem PortGaveBack.disablePort {a t : State} {p q : Nat} (h : PortGaveBack a p t) (hq : p ≠ q) : PortGaveBack a p (t.disablePort q) where
  canonical := State.disablePort_canonical h.canonical q
  state := (State.state_disablePort_other t hq).trans h.state
  replay := by rw [State.port_disablePort_other t hq, h.replay]
  queue := by rw [State.port_disablePort_other t hq, h.queue]
  waiting x hx := by
    rw [State.waiting_disablePort]
    exact List.mem_append_left _ (List.mem_append_left _ (h.waiting x hx))

theorem State.over_disablePort_gaveBack {s : State} (h : s.canonical) {p : Nat} (hp : p < 16) :
    PortGaveBack s p (s.over (List.range 16) State.disablePort) :=
  State.over_of_mem (I := fun t => t.canonical ∧ t.port p = s.port p) List.nodup_range (List.mem_range.mpr hp)
    (fun t q _ hq ht => ⟨State.disablePort_canonical ht.1 q, (State.port_disablePort_other t hq.symm).trans ht.2⟩)
    (fun _ ht => State.disablePort_gaveBack ht.1 ht.2) (fun _ _ _ hq ht => ht.disablePort hq.symm) ⟨h, rfl⟩

/-- Clearing EN afterwards leaves the port so. -/
theorem PortGaveBack.links_off {a t : State} {p : Nat} (h : PortGaveBack a p t) (hp : p < 16) : let u := t.setFld F.oxlCtrlEn 0
    u.fld (F.oxlPortStatState p) = 0 ∧ (u.port p).replay = [] ∧ (u.port p).queue = [] ∧ ∀ x, a.portPackets p x → x ∈ u.link.waiting :=
  ⟨(State.fld_setFld_ne 0 (by simp only [F.oxlPortStatState, F.oxlCtrlEn, Reg.addr]; omega)).trans h.state, h.replay, h.queue, h.waiting⟩

/-! ## Resets (R347) -/

theorem regReset_hubBoot (part : Part) : regReset part Reg.hubBoot.addr = 0 := by
  have hreg : regAt Reg.hubBoot.addr = some .hubBoot := by decide
  have hword : Reg.hubBoot.resetWord = 0 := by decide
  rw [regReset, hreg, ← hword]

/-- HUB.BOOT of a state that lists no register reads its reset value. -/
theorem State.phase_of_no_file {s : State} (h : s.regs.file = []) : s.phase = 0 := by
  have hword : s.word .hubBoot = 0 := by rw [State.word, h, tblGet, regReset_hubBoot]
  have hfld : s.phase = bits (s.word .hubBoot).toNat 0 3 := rfl
  rw [hfld, hword]
  rfl

/-- The device at SHEPHERD again: no phase passed, nothing in flight, the link down, the stop over, saves not yet enabled. -/
structure State.Restarted (t : State) : Prop where
  phase : t.phase = 0
  insts : t.insts = []
  pcieUp : t.host.pcieUp = false
  stop : t.shep.stop = .running
  savesEnabled : t.shep.savesEnabled = false

theorem State.restart_restarted (s : State) (keep : Bool) : (s.restart keep).Restarted :=
  ⟨State.phase_of_no_file rfl, rfl, rfl, rfl, rfl⟩

theorem State.coldStart_restarted (s : State) (straps : BitVec 2) : ({ s.restart false with straps := straps } : State).Restarted :=
  ⟨State.phase_of_no_file rfl, rfl, rfl, rfl, rfl⟩

theorem State.fundamental_leaves (s : State) : let t := s.fundamental
    t.host.pcieUp = false ∧ t.host.d3hot = [] ∧ t.shep.pins.perst = true := ⟨rfl, rfl, rfl⟩

/-- POR_N low. -/
def State.porLow (s : State) : State := s.setShep { s.shep with pins := { s.shep.pins with por := true } }

theorem State.powerOnReset_of_saving {s : State} (hstop : (s.porLow.stopNow 0 0).shep.stop = .saving) :
    s.powerOnReset = s.porLow.stopNow 0 0 := by
  unfold State.powerOnReset
  dsimp only
  split
  · rfl
  · next h => exact absurd hstop h

theorem State.powerOnReset_of_stopped {s : State} (hstop : (s.porLow.stopNow 0 0).shep.stop ≠ .saving)
    (hdark : (s.porLow.stopNow 0 0).shep.dark = false) : s.powerOnReset = (s.porLow.stopNow 0 0).restart true := by
  unfold State.powerOnReset
  dsimp only
  split
  · next h => exact absurd h hstop
  · exact if_neg (by rw [← State.porLow, hdark]; exact Bool.false_ne_true)

/-- A power-on reset of a running device begins its save. -/
theorem State.powerOnReset_saves {s : State} (hrun : s.running = true) (hsaves : s.shep.savesEnabled = true) (hheld : s.ledg.held = false) :
    let t := s.powerOnReset
    t.shep.pins.por = true ∧ t.shep.stop = .saving ∧ t.host.pcieUp = false := by
  have hstopped := (State.stopNow_of_running (s := s.porLow) hrun 0 0).trans
    (State.curtain_of_enabled (s := s.porLow.stopMarked 0 0) hrun hsaves hheld 0 0)
  have hsaving : (s.porLow.stopNow 0 0).shep.stop = .saving := by
    rw [hstopped]
    rfl
  rw [State.powerOnReset_of_saving hsaving, hstopped]
  exact ⟨rfl, rfl, rfl⟩

/-- One that makes no save starts the device again at once. -/
theorem State.powerOnReset_restarted {s : State} (hrun : s.running = true) (hdark : s.shep.dark = false)
    (h : s.shep.savesEnabled = false ∨ s.ledg.held = true) : s.powerOnReset.Restarted := by
  have hstopped := (State.stopNow_of_running (s := s.porLow) hrun 0 0).trans
    (State.curtain_of_disabled (s := s.porLow.stopMarked 0 0) hrun h 0 0)
  have hshep : (s.porLow.stopNow 0 0).shep.stop = .halted ∧ (s.porLow.stopNow 0 0).shep.dark = false := by
    rw [hstopped]
    exact ⟨rfl, hdark⟩
  rw [State.powerOnReset_of_stopped (by rw [hshep.1]; decide) hshep.2]
  exact State.restart_restarted _ true

/-- Settles O34: the enables by what EN was, the disabled links port by port, the resets by what they leave of the state. -/
theorem enableAndResetRowsComplete : Obligations.EnableAndResetRowsComplete := by
  refine ⟨fun s hup hen => ?ring, fun s hup => ⟨?stackOn, ?stackOff⟩, fun s hup hen => ?cache, fun s hup hen => ?links,
    fun s hup => ?linksOff, fun s hs hup => ?gaveBack, fun s => ⟨_, rfl, s.fundamental_leaves⟩, fun s hrun hphase => ?rises,
    fun s hrun hsaves hheld => ⟨_, rfl, State.powerOnReset_saves hrun hsaves hheld⟩, fun s hrun hdark h => ?restarts,
    fun s straps => ?cold, fun s => rfl⟩
  case ring => exact congrArg Host.Outcome.next ((State.byHost_of_up hup _).trans (State.evtOn_of_disabled hen))
  case stackOn => exact congrArg Host.Outcome.next (State.byHost_of_up hup _)
  case stackOff => exact congrArg Host.Outcome.next (State.byHost_of_up hup _)
  case cache => exact congrArg Host.Outcome.next ((State.byHost_of_up hup _).trans (State.cacOn_of_disabled hen))
  case links => exact congrArg Host.Outcome.next ((State.byHost_of_up hup _).trans (State.oxlOn_of_disabled hen))
  case linksOff => exact congrArg Host.Outcome.next (State.byHost_of_up hup _)
  case gaveBack =>
    have hexec : exec .oxlDisable s = .next s.oxlOff := congrArg Host.Outcome.next (State.byHost_of_up hup _)
    have hfile := (State.over_disablePort_gaveBack hs (p := 0) (by omega)).canonical.regs.1.1
    rw [State.oxlOff_eq] at hexec
    exact ⟨_, hexec, State.flag_setFld_same hfile (by decide) 0, fun p hp => (State.over_disablePort_gaveBack hs hp).links_off hp⟩
  case rises => exact congrArg Host.Outcome.next (if_pos ⟨hrun, hphase⟩)
  case restarts =>
    obtain ⟨hphase, hinsts, hup, hstop, -⟩ := State.powerOnReset_restarted hrun hdark h
    exact ⟨_, rfl, hphase, hinsts, hup, hstop⟩
  case cold =>
    obtain ⟨hphase, hinsts, hup, hstop, hsaves⟩ := s.coldStart_restarted straps
    exact ⟨_, rfl, rfl, hphase, hinsts, hup, hstop, hsaves⟩

end Sys2Proof.Machine
end

section
/-!
Proofs about the mailboxes of the Prompter (R336, R338 to R340): the bytes of a page, what a response leaves, and what a GO and the
timeout of a command answer.
-/

namespace Sys2Proof.Machine

/-! ## Runs of bytes of a memory -/

theorem Memory.readN_length (m : List Host.Cell) (a n : Nat) : (Memory.readN m a n).length = n := by
  rw [Memory.readN_eq, List.length_map, List.length_range]

theorem Memory.writeN_append (m : List Host.Cell) (a : Nat) (xs ys : Bytes) :
    Memory.writeN m a (xs ++ ys) = Memory.writeN (Memory.writeN m a xs) (a + xs.length) ys := by
  induction xs generalizing m a with
  | nil => rfl
  | cons x xs ih =>
    rw [List.cons_append, Memory.writeN, Memory.writeN, ih, List.length_cons]
    congr 1
    omega

theorem Memory.read_writeN_apart {m : List Host.Cell} (h : Memory.wf m) {a k : Nat} {bs : Bytes} (hk : k < a ∨ a + bs.length ≤ k) :
    Memory.read (Memory.writeN m a bs) k = Memory.read m k := by
  induction bs generalizing m a with
  | nil => rfl
  | cons v vs ih =>
    rw [List.length_cons] at hk
    rw [Memory.writeN, ih (Memory.write_wf _ _ _ h) (by omega), Memory.read_write_other _ _ _ _ h (by omega)]

theorem Memory.readN_writeN_apart {m : List Host.Cell} (h : Memory.wf m) {a k n : Nat} {bs : Bytes} (hk : k + n ≤ a ∨ a + bs.length ≤ k) :
    Memory.readN (Memory.writeN m a bs) k n = Memory.readN m k n := by
  rw [Memory.readN_eq, Memory.readN_eq]
  refine List.map_congr_left fun i hi => Memory.read_writeN_apart h ?_
  have := List.mem_range.mp hi
  omega

theorem Memory.readN_writeN_same {m : List Host.Cell} (h : Memory.wf m) (a : Nat) (bs : Bytes) :
    Memory.readN (Memory.writeN m a bs) a bs.length = bs := by
  induction bs generalizing m a with
  | nil => rfl
  | cons v vs ih =>
    have hv := Memory.write_wf m a v h
    rw [List.length_cons, Memory.readN, Memory.writeN, ih hv, Memory.read_writeN_apart hv (.inl (Nat.lt_succ_self a)),
      Memory.read_write_same _ _ _ h]

/-! ## The page of a mailbox (R338) -/

/-- The memory that a mailbox's page stands in, and where. -/
def State.page (s : State) (b : Nat) : List Host.Cell × Nat :=
  if b = 17 then (s.prom.sideband, 0) else (s.mem.host, s.boxFn b * 2 ^ 64 + s.boxPage b)

section

variable {s t : State} {b : Nat}

theorem State.pageBytes_eq (s : State) (b off n : Nat) : s.pageBytes b off n = Memory.readN (s.page b).1 ((s.page b).2 + off) n := by
  unfold State.pageBytes State.page
  split
  · rw [Nat.zero_add]
  · rw [State.readHost, Nat.add_assoc]

theorem State.page_pageWrite (s : State) (b off : Nat) (bs : Bytes) :
    (s.pageWrite b off bs).page b = (Memory.writeN (s.page b).1 ((s.page b).2 + off) bs, (s.page b).2) := by
  unfold State.pageWrite State.page
  split
  · rw [Nat.zero_add]
    rfl
  · rw [Nat.add_assoc]
    rfl

theorem State.page_wf (h : s.canonical) (b : Nat) : Memory.wf (s.page b).1 := by
  unfold State.page
  split
  · exact h.prom.2.1
  · exact State.tierMem_wf h tHost

theorem State.pageBytes_of_page (h : t.page b = s.page b) (off n : Nat) : t.pageBytes b off n = s.pageBytes b off n := by
  rw [State.pageBytes_eq, State.pageBytes_eq, h]

theorem State.pageBytes_length (s : State) (b off n : Nat) : (s.pageBytes b off n).length = n := by
  rw [State.pageBytes_eq, Memory.readN_length]

theorem State.pageBytes_pageWrite_same (h : s.canonical) (off : Nat) {bs : Bytes} {n : Nat} (hn : bs.length = n) :
    (s.pageWrite b off bs).pageBytes b off n = bs := by
  rw [State.pageBytes_eq, State.page_pageWrite, ← hn, Memory.readN_writeN_same (State.page_wf h b)]

theorem State.pageBytes_pageWrite_apart (h : s.canonical) {off k n : Nat} {bs : Bytes} (hk : k + n ≤ off ∨ off + bs.length ≤ k) :
    (s.pageWrite b off bs).pageBytes b k n = s.pageBytes b k n := by
  rw [State.pageBytes_eq, State.pageBytes_eq, State.page_pageWrite]
  exact Memory.readN_writeN_apart (State.page_wf h b) (by omega)

theorem State.page_pageWrite_append (s : State) (b off : Nat) (xs ys : Bytes) :
    (s.pageWrite b off (xs ++ ys)).page b = ((s.pageWrite b off xs).pageWrite b (off + xs.length) ys).page b := by
  simp only [State.page_pageWrite, Memory.writeN_append, Nat.add_assoc]

/-- A number written to a page reads as the part of it that its bytes hold. -/
theorem State.pageNat_natLE {off n v : Nat} (h : s.pageBytes b off n = natLE n v) (hv : v < 256 ^ n) : s.pageNat b off n = v := by
  rw [State.pageNat, h, leNat_natLE, Nat.mod_eq_of_lt hv]

theorem State.pageWrite_cases (s : State) (b off : Nat) (bs : Bytes) :
    (∃ v, s.pageWrite b off bs = s.setProm { s.prom with sideband := v }) ∨ ∃ v, s.pageWrite b off bs = s.setMem { s.mem with host := v } := by
  unfold State.pageWrite
  split
  · exact .inl ⟨_, rfl⟩
  · exact .inr ⟨_, rfl⟩

end

/-! ## Responses (R338, R339) -/

/-- A mailbox with its command answered: DONE, and neither OUTSTANDING nor CLAIMED. -/
def State.boxDone (s : State) (b : Nat) : State :=
  let t := s.setFlds [(F.pmtMbxStatDone b, 1), (F.pmtMbxStatOutstanding b, 0), (F.pmtMbxStatClaimed b, 0)]
  t.setBox b { t.box b with command := 0 }

/-- The vector of a mailbox that has one. -/
def State.boxVector (s : State) (b : Nat) : State := s.when (b < 17) fun s => s.msix (s.boxFn b) (s.fld (F.pmtMbxCtrlVector b))

/-- TAG and STATUS on the page. -/
def State.boxStatus (s : State) (b status : Nat) : State := s.pageWrite b 0x40 (s.pageBytes b 2 2 ++ natLE 2 status)

theorem State.respond_eq (s : State) (b status : Nat) : s.respond b status = ((s.boxStatus b status).boxDone b).boxVector b := rfl

section

variable {s : State} {b : Nat}

theorem State.boxDone_flags (h : s.canonical) : let t := s.boxDone b
    t.flag (F.pmtMbxStatDone b) = true ∧ t.flag (F.pmtMbxStatOutstanding b) = false ∧ t.flag (F.pmtMbxStatClaimed b) = false := by
  have hapart : ([(F.pmtMbxStatDone b, 1), (F.pmtMbxStatOutstanding b, 0), (F.pmtMbxStatClaimed b, 0)].map (·.1)).Pairwise
      fun x z => z.Apart x := by
    simp [Fld.Apart, F.pmtMbxStatDone, F.pmtMbxStatOutstanding, F.pmtMbxStatClaimed]
  have hread : ∀ {y : Fld} {v : Nat}, y.lo + y.len ≤ 32 →
      (y, v) ∈ [(F.pmtMbxStatDone b, 1), (F.pmtMbxStatOutstanding b, 0), (F.pmtMbxStatClaimed b, 0)] → (s.boxDone b).fld y = v % 2 ^ y.len :=
    fun hy hv => State.fld_setFlds_of_mem h.regs.1.1 hy hapart hv
  refine ⟨?_, ?_, ?_⟩
  · rw [State.flag, hread (v := 1) (by simp [F.pmtMbxStatDone]) (by simp)]
    rfl
  · rw [State.flag, hread (v := 0) (by simp [F.pmtMbxStatOutstanding]) (by simp)]
    rfl
  · rw [State.flag, hread (v := 0) (by simp [F.pmtMbxStatClaimed]) (by simp)]
    rfl

theorem State.boxDone_command (h : s.canonical) : ((s.boxDone b).box b).command = 0 := by
  have hbox : ∀ v, ((s.setFlds [(F.pmtMbxStatDone b, 1), (F.pmtMbxStatOutstanding b, 0), (F.pmtMbxStatClaimed b, 0)]).setBox b v).box b = v :=
    fun v => tblGet_tblSet_same _ _ _ _ h.prom.1.1
  rw [State.boxDone, hbox]

/-- Only STAT changes of the registers. -/
theorem State.word_boxDone {r : Reg} (hr : r.addr ≠ (Reg.pmtMbxStat b).addr) : (s.boxDone b).word r = s.word r :=
  (State.word_setFld_ne _ hr).trans ((State.word_setFld_ne _ hr).trans (State.word_setFld_ne (s := s) _ hr))

theorem State.page_boxDone : (s.boxDone b).page b = s.page b := by
  have hlo : (s.boxDone b).word (.pmtMbxPageLo b) = s.word (.pmtMbxPageLo b) := State.word_boxDone (by simp [Reg.addr])
  have hhi : (s.boxDone b).word (.pmtMbxPageHi b) = s.word (.pmtMbxPageHi b) := State.word_boxDone (by simp [Reg.addr])
  have hpage : (s.boxDone b).boxPage b = s.boxPage b := by rw [State.boxPage, State.boxPage, State.pair, State.pair, hlo, hhi]
  have hfn : (s.boxDone b).boxFn b = s.boxFn b := rfl
  rw [State.page, State.page, hpage, hfn]
  rfl

theorem State.msix_eq (s : State) (fn entry : Nat) : s.msix fn entry = if fn ∈ s.host.msixOff then s else s.emit (.msix fn entry) := by
  rw [State.msix, State.when, ite_not]

theorem State.view_boxVector {α : Type} (view : State → α) (h : ∀ s o, view (State.emit s o) = view s) (s : State) (b : Nat) :
    view (s.boxVector b) = view s := by
  refine State.view_when view ?_ _
  rw [State.msix_eq]
  split
  · rfl
  · exact h _ _

theorem State.boxVector_out (s : State) {b : Nat} (hb : b < 17) : (s.boxVector b).out =
    s.out ++ if s.boxFn b ∈ s.host.msixOff then [] else [.msix (s.boxFn b) (s.fld (F.pmtMbxCtrlVector b))] := by
  have hvector : s.boxVector b = s.msix (s.boxFn b) (s.fld (F.pmtMbxCtrlVector b)) := if_pos hb
  rw [hvector, State.msix_eq]
  split
  · exact (List.append_nil _).symm
  · rfl

/-- What a change of a page leaves: everything that the vector is sent by. -/
theorem State.pageWrite_leaves (s : State) (b off : Nat) (bs : Bytes) : let t := s.pageWrite b off bs
    t.out = s.out ∧ t.host = s.host ∧ t.regs = s.regs ∧ t.part = s.part ∧ t.boxFn b = s.boxFn b := by
  obtain ⟨v, h⟩ | ⟨v, h⟩ := s.pageWrite_cases b off bs
  all_goals
    rw [h]
    exact ⟨rfl, rfl, rfl, rfl, rfl⟩

theorem State.fld_pageWrite (s : State) (b off : Nat) (bs : Bytes) (x : Fld) : (s.pageWrite b off bs).fld x = s.fld x := by
  obtain ⟨-, -, hregs, hpart, -⟩ := s.pageWrite_leaves b off bs
  rw [State.fld, State.word, hregs, hpart, ← State.word, ← State.fld]

theorem State.page_respond (s : State) (b status : Nat) : (s.respond b status).page b = (s.boxStatus b status).page b := by
  rw [State.respond_eq, State.view_boxVector (State.page · b) (fun _ _ => rfl), State.page_boxDone]

/-- A response leaves the bytes of the page around TAG and STATUS. -/
theorem State.pageBytes_respond_apart (h : s.canonical) (status : Nat) {k n : Nat} (hk : k + n ≤ 0x40 ∨ 0x44 ≤ k) :
    (s.respond b status).pageBytes b k n = s.pageBytes b k n := by
  rw [State.pageBytes_of_page (State.page_respond s b status)]
  refine State.pageBytes_pageWrite_apart h ?_
  rw [List.length_append, State.pageBytes_length, natLE_length]
  exact hk

theorem State.respond_out (s : State) {b : Nat} (hb : b < 17) (status : Nat) : (s.respond b status).out =
    s.out ++ if s.boxFn b ∈ s.host.msixOff then [] else [.msix (s.boxFn b) (s.fld (F.pmtMbxCtrlVector b))] := by
  obtain ⟨hout, hhost, -, -, hfn⟩ := s.pageWrite_leaves b 0x40 (s.pageBytes b 2 2 ++ natLE 2 status)
  have hfld : ((s.boxStatus b status).boxDone b).fld (F.pmtMbxCtrlVector b) = s.fld (F.pmtMbxCtrlVector b) :=
    (State.fld_of_word (State.word_boxDone (by simp [F.pmtMbxCtrlVector, Reg.addr]))).trans (State.fld_pageWrite _ _ _ _ _)
  have hleft : ((s.boxStatus b status).boxDone b).out = (s.boxStatus b status).out ∧
      ((s.boxStatus b status).boxDone b).host = (s.boxStatus b status).host ∧
      ((s.boxStatus b status).boxDone b).boxFn b = (s.boxStatus b status).boxFn b := ⟨rfl, rfl, rfl⟩
  rw [State.respond_eq, State.boxVector_out _ hb, hfld, hleft.1, hleft.2.1, hleft.2.2, State.boxStatus, hout, hhost, hfn]

theorem State.respond_answered (h : s.canonical) {status : Nat} (hst : status < 65536) : Answered s (s.respond b status) b status := by
  have htag := s.pageBytes_length b 2 2
  have hcanon : (s.boxStatus b status).canonical := (State.pageWrite_keeps _ _ _ (Keeps.refl s)).canonical h
  have hmid : (s.pageWrite b 0x40 (s.pageBytes b 2 2)).canonical := (State.pageWrite_keeps _ _ _ (Keeps.refl s)).canonical h
  obtain ⟨hdone, hout, hclaimed⟩ := State.boxDone_flags (b := b) hcanon
  have hpage := State.page_respond s b status
  rw [State.boxStatus, State.page_pageWrite_append, htag] at hpage
  refine ⟨?_, ?_, ?_, ?_, ?_, ?_, fun hb => ?_⟩
  · rw [State.respond_eq, State.view_boxVector (State.flag · _) (fun _ _ => rfl), hdone]
  · rw [State.respond_eq, State.view_boxVector (State.flag · _) (fun _ _ => rfl), hout]
  · rw [State.respond_eq, State.view_boxVector (State.flag · _) (fun _ _ => rfl), hclaimed]
  · rw [State.respond_eq, State.view_boxVector (fun t => (t.box b).command) (fun _ _ => rfl), State.boxDone_command hcanon]
  · refine State.pageNat_natLE ?_ hst
    rw [State.pageBytes_of_page hpage]
    exact State.pageBytes_pageWrite_same hmid 0x42 (natLE_length 2 status)
  · rw [State.pageBytes_of_page hpage, State.pageBytes_pageWrite_apart hmid (.inl (by omega))]
    exact State.pageBytes_pageWrite_same h 0x40 htag
  · exact State.respond_out s hb status

/-- Bytes written to the page before an answer, past its TAG, change nothing of what the answer leaves. -/
theorem Answered.of_pageWrite {t : State} {off : Nat} {bs : Bytes} {status : Nat} (h : s.canonical) (hoff : 4 ≤ off)
    (ha : Answered (s.pageWrite b off bs) t b status) : Answered s t b status := by
  obtain ⟨hdone, hout, hclaimed, hcommand, hstatus, htag, hsent⟩ := ha
  obtain ⟨houts, hhost, -, -, hfn⟩ := s.pageWrite_leaves b off bs
  rw [State.pageBytes_pageWrite_apart h (.inl (by omega))] at htag
  rw [houts, hhost, hfn, State.fld_pageWrite] at hsent
  exact ⟨hdone, hout, hclaimed, hcommand, hstatus, htag, hsent⟩

theorem State.pageWrite_canonical (h : s.canonical) (b off : Nat) (bs : Bytes) : (s.pageWrite b off bs).canonical :=
  (State.pageWrite_keeps _ _ _ (Keeps.refl s)).canonical h

theorem State.respondBusy_answered (h : s.canonical) {retry : Nat} (hr : retry < 2 ^ 32) :
    Answered s (s.respondBusy b retry) b 1 ∧ (s.respondBusy b retry).pageNat b 0x44 4 = retry := by
  have hwrite := State.pageWrite_canonical h b 0x44 (natLE 4 retry)
  refine ⟨(State.respond_answered hwrite (by decide)).of_pageWrite h (by decide), State.pageNat_natLE ?_ hr⟩
  rw [State.respondBusy, State.pageBytes_respond_apart hwrite _ (.inr (by decide))]
  exact State.pageBytes_pageWrite_same h 0x44 (natLE_length 4 retry)

/-- RESULT, the payload's length and the payload stand apart on the page. -/
theorem State.respondOk_answered (h : s.canonical) {result : Nat} {payload : Bytes} (hr : result < 2 ^ 64) (hlen : payload.length < 2 ^ 32) :
    let t := s.respondOk b result payload
    Answered s t b 0 ∧ t.pageNat b 0x48 8 = result ∧ t.pageNat b 4 4 = payload.length ∧ t.pageBytes b 0x80 payload.length = payload := by
  have h1 := State.pageWrite_canonical h b 0x48 (natLE 8 result)
  have h2 := State.pageWrite_canonical h1 b 4 (natLE 4 payload.length)
  have h3 := State.pageWrite_canonical h2 b 0x80 payload
  refine ⟨(((State.respond_answered h3 (by decide)).of_pageWrite h2 (by decide)).of_pageWrite h1 (by decide)).of_pageWrite h (by decide),
    State.pageNat_natLE ?_ hr, State.pageNat_natLE ?_ hlen, ?_⟩
  · rw [State.respondOk, State.pageBytes_respond_apart h3 _ (.inr (by decide)), State.pageBytes_pageWrite_apart h2 (.inl (by decide)),
      State.pageBytes_pageWrite_apart h1 (.inr (by simp))]
    exact State.pageBytes_pageWrite_same h 0x48 (natLE_length 8 result)
  · rw [State.respondOk, State.pageBytes_respond_apart h3 _ (.inl (by decide)), State.pageBytes_pageWrite_apart h2 (.inl (by decide))]
    exact State.pageBytes_pageWrite_same h1 4 (natLE_length 4 _)
  · rw [State.respondOk, State.pageBytes_respond_apart h3 _ (.inr (by omega))]
    exact State.pageBytes_pageWrite_same h2 0x80 rfl

end

/-- The three responses, each by what it writes to the page. -/
theorem responsesAct : ResponsesAct := fun _ _ h _ =>
  ⟨fun _ hst => State.respond_answered h hst, fun _ hr => State.respondBusy_answered h hr, fun _ _ hr hlen => State.respondOk_answered h hr hlen⟩

/-! ## Commands submitted, and withdrawn (R339) -/

section

variable {s : State} {b : Nat}

theorem State.submit_of_outstanding (h : s.flag (F.pmtMbxStatOutstanding b) = true) : s.submit b = s.setFld (F.pmtMbxStatOverrun b) 1 := if_pos h

variable (h : s.flag (F.pmtMbxStatOutstanding b) = false)

include h

theorem State.submit_of_running (hcores : s.prom.cores = .running) :
    s.submit b = (s.setFld (F.pmtMbxStatOutstanding b) 1).setBox b { s.box b with command := 0, goCue := s.time.cue } := by
  rw [State.submit, if_neg (by simp [h]), hcores]

theorem State.submit_of_held (hcores : s.prom.cores = .held) : s.submit b = s.respond b stHeld := by
  rw [State.submit, if_neg (by simp [h]), hcores]

theorem State.submit_of_restart (hcores : s.prom.cores ∈ [.booting, .reset, .restarting]) : s.submit b = s.respondBusy b 255 := by
  rw [State.submit, if_neg (by simp [h])]
  simp only [List.mem_cons, List.not_mem_nil, or_false] at hcores
  rcases hcores with hcores | hcores | hcores <;> rw [hcores]

end

theorem exec_mailboxGo {s : State} (hrun : s.running = true) {box : Mailbox}
    (hreach : box = .sideband ∨ (s.host.pcieUp = true ∧ s.boxFn (boxNo box) ∉ s.host.d3hot)) :
    exec (.mailboxGo box) s = .next (s.submit (boxNo box)) :=
  (next_clocked hrun _).trans (congrArg _ (if_pos hreach))

theorem State.boxTimeout_of_due {s : State} {b : Nat} (hout : s.flag (F.pmtMbxStatOutstanding b) = true)
    (hclaimed : s.flag (F.pmtMbxStatClaimed b) = false) (hdue : (s.box b).goCue + 10000 ≤ s.time.cue) :
    s.boxTimeout b = (s.setFree (s.free + 1)).respondBusy b (Config.promptLoad s.free % 2 ^ 32) := if_pos ⟨hout, hclaimed, hdue⟩

/-- Settles O51: a GO by the command outstanding and by what the Prompter's cores do. -/
theorem mailboxRowsComplete : Obligations.MailboxRowsComplete := by
  refine ⟨fun s box hrun hreach => ?go, fun s box hrun hout hclaimed hdue => ?timeout, responsesAct⟩
  case go =>
    rw [exec_mailboxGo hrun hreach]
    exact ⟨fun h => congrArg _ (State.submit_of_outstanding h), fun h hcores => congrArg _ (State.submit_of_running h hcores),
      fun h hcores => congrArg _ (State.submit_of_held h hcores), fun h hcores => congrArg _ (State.submit_of_restart h hcores)⟩
  case timeout =>
    exact ⟨_, Nat.mod_lt _ (by decide), (next_clocked hrun _).trans (congrArg _ (State.boxTimeout_of_due hout hclaimed hdue))⟩

end Sys2Proof.Machine
end

section
/-!
Proofs about the commands of the Prompter (R338 to R345): the claim of a command, the answer in pieces, and what each claimed command does.
-/

namespace Sys2Proof.Machine

/-! ## Claim and completion (R336, R339 to R341) -/

theorem exec_of_mem_serviceRows {box : Mailbox} {row : Instr} {op : Nat} {f : State → Nat → State} (h : (row, op, f) ∈ serviceRows box)
    {s : State} (hrun : s.running = true) : exec row s = .next (s.serve box op f) ∧ mailboxOp op = true := by
  simp only [serviceRows, List.mem_cons, List.not_mem_nil, or_false] at h
  obtain ⟨rfl, rfl, rfl⟩ | ⟨rfl, rfl, rfl⟩ | ⟨rfl, rfl, rfl⟩ | ⟨rfl, rfl, rfl⟩ | ⟨rfl, rfl, rfl⟩ | ⟨rfl, rfl, rfl⟩ | ⟨rfl, rfl, rfl⟩ |
    ⟨rfl, rfl, rfl⟩ := h
  all_goals exact ⟨next_clocked hrun _, rfl⟩

section

variable {s : State} {box : Mailbox} {op : Nat} {f : State → Nat → State} (hcores : s.prom.cores = .running)

include hcores

theorem State.serve_of_claimed (hclaimed : s.flag (F.pmtMbxStatClaimed (boxNo box)) = true) : s.serve box op f =
    let c := (s.box (boxNo box)).command
    if mailboxOp c = false then s.respond (boxNo box) stInvalid
    else if c ≠ op then s
    else if mailboxAllows op (boxNo box) = false then s.respond (boxNo box) stDenied
    else f s (boxNo box) := by
  rw [State.serve, if_neg (by simp [hcores]), if_pos hclaimed]

theorem State.serve_of_next (hclaimed : s.flag (F.pmtMbxStatClaimed (boxNo box)) = false) (hnext : s.nextBox = some (boxNo box))
    (hrepairs : s.prom.repairs = []) (hop : s.boxOp (boxNo box) = op) : s.serve box op f = s.claim (boxNo box) := by
  rw [State.serve, if_neg (by simp [hcores]), if_neg (by simp [hclaimed]), if_pos ⟨hnext, hrepairs, .inl hop⟩]

end

/-- A claim takes the command and the turn; that of IMAGE_WRITE makes the inactive copy invalid. -/
theorem State.claim_eq (s : State) (b : Nat) :
    let t := (s.setFld (F.pmtMbxStatClaimed b) 1).setBox b { s.box b with command := s.boxOp b }
    let t := t.setProm { t.prom with turn := (b + 1) % 18 }
    s.claim b = if s.boxOp b = 7 ∧ b = 16 then
      t.setImage (1 - s.prom.activeImage) { s.image (1 - s.prom.activeImage) with valid := false } else t := by
  intro _ t
  have hclaim : s.claim b = t.when (s.boxOp b = 7) (·.beginImage b) := rfl
  rw [hclaim, State.when, ite_and]
  rfl

/-! ## Answers (R342) -/

section

variable {s : State} {b : Nat} {full : Bytes}

theorem State.answer_whole (h : b ≠ 17 ∨ full.length ≤ 128) (result : Nat) : s.answer b result full = s.respondOk b result (full.take 3968) :=
  if_neg (by omega)

theorem State.answer_piece (hb : b = 17) (hlen : 128 < full.length) (result : Nat) : s.answer b result full =
    if s.arg1 b % 128 ≠ 0 ∨ full.length ≤ s.arg1 b then s.respond b stInvalid
    else s.respondOk b result (slice full (s.arg1 b) 128) := if_pos ⟨hb, hlen⟩

theorem State.answerBulk_sideband (hb : b = 17) (result : Nat) : s.answerBulk b result full = s.answer b result full := if_pos hb

theorem State.answerBulk_host (hb : b ≠ 17) (halign : s.bufAt b % 64 = 0) (result : Nat) : s.answerBulk b result full =
    (s.writeHost (s.boxFn b) (s.bufAt b) (full.take (s.bufLen b))).respondOk b result [] :=
  (if_neg hb).trans (if_neg (not_not.mpr halign))

end

/-! ## LEDGER_READ, TELEM_CFG and the reports (R341) -/

section

variable {s : State} {b : Nat}

theorem State.doLedgerRead_of_slot (hk : s.arg0 b < 32) (hlen : b = 17 ∨ 258128 ≤ s.bufLen b) :
    s.doLedgerRead b = s.answerBulk b (s.slot (s.arg0 b)).seq (s.slot (s.arg0 b)).bytes := by
  rw [State.doLedgerRead, if_neg (by omega)]

theorem State.doLedgerRead_of_no_slot (hk : 32 ≤ s.arg0 b) : s.doLedgerRead b = s.respond b stInvalid := by
  rw [State.doLedgerRead, if_pos (.inl hk)]

theorem State.doTelemCfg_of_legal (haddr : s.arg0 b % 4096 = 0) (hlow : 1 ≤ s.arg1 b) (hhigh : s.arg1 b ≤ 1000) : s.doTelemCfg b =
    ((s.setFree (s.free + 1)).setBox b { s.box b with telemAddr := s.arg0 b, telemPeriod := s.arg1 b }).respondOk b s.freeResult.1 [] :=
  if_pos ⟨haddr, hlow, hhigh⟩

theorem State.doTelemCfg_of_illegal (h : ¬(s.arg0 b % 4096 = 0 ∧ 1 ≤ s.arg1 b ∧ s.arg1 b ≤ 1000)) : s.doTelemCfg b = s.respond b stInvalid :=
  if_neg h

theorem State.doChannelReport_of_channel (h : s.arg0 b < 384) :
    s.doChannelReport b = (s.setFree (s.free + 1)).answer b s.freeResult.1 (Config.report 5 [s.arg0 b, s.free]) := if_neg (by omega)

theorem State.doChannelReport_of_none (h : 384 ≤ s.arg0 b) : s.doChannelReport b = s.respond b stInvalid := if_pos h

theorem State.doPortMargin_of_port (h : s.arg0 b < 16) :
    s.doPortMargin b = (s.setFree (s.free + 1)).answer b s.freeResult.1 (Config.report 6 [s.arg0 b, s.free]) := if_neg (by omega)

theorem State.doPortMargin_of_none (h : 16 ≤ s.arg0 b) : s.doPortMargin b = s.respond b stInvalid := if_pos h

theorem State.doImageWrite_of_body (hlen : s.bufLen b ≤ 16776960) (halign : s.bufAt b % 64 = 0) :
    let body := s.readHost (s.boxFn b) (s.bufAt b) (s.bufLen b)
    s.doImageWrite b = ((s.setFree (s.free + 1)).setImage (1 - s.prom.activeImage)
      { valid := Config.imageSigned body, seq := ((s.image s.prom.activeImage).seq + 1) % 2 ^ 32
        version := Config.imageVersion body, body := body }).respondOk b s.freeResult.1 [] := if_neg (by omega)

end

/-! ## SHARES_SET (R248, R341) -/

/-- What the end of a locked sequence writes: REJECTED, and the lock free. -/
def lockEndWrites (p rejected : Nat) : List (Fld × Nat) :=
  [(F.parLockRejected p, rejected), (F.parLockOwner p, 31), (F.parLockHeld p, 0), (F.parLockLeaseLeft p, 0)]

theorem lockEndWrites_apart (p rejected : Nat) : ((lockEndWrites p rejected).map (·.1)).Pairwise fun x z => z.Apart x := by
  simp [lockEndWrites, Fld.Apart, F.parLockRejected, F.parLockOwner, F.parLockHeld, F.parLockLeaseLeft]

/-- The end of a locked sequence. -/
def State.lockEnded (s : State) (p rejected : Nat) : State := (s.setFld (F.parLockRejected p) rejected).freeLock p

theorem State.word_lockEnded (s : State) (p rejected : Nat) {r : Reg} (hr : r.addr ≠ (Reg.parLock p).addr) :
    (s.lockEnded p rejected).word r = s.word r :=
  (State.word_setFld_ne _ hr).trans ((State.word_setFld_ne _ hr).trans ((State.word_setFld_ne _ hr).trans
    (State.word_setFld_ne (s := s) _ hr)))

theorem State.fld_lockEnded (s : State) (p rejected : Nat) (x : Fld) :
    (s.lockEnded p rejected).fld x = (s.setFlds (lockEndWrites p rejected)).fld x := rfl

theorem State.lockEnded_reads {s : State} (h : s.regs.file.Pairwise fun x y => x.1 < y.1) (p rejected : Nat) {x : Fld} {v : Nat}
    (hx : x.lo + x.len ≤ 32) (hv : (x, v) ∈ lockEndWrites p rejected) : (s.lockEnded p rejected).fld x = v % 2 ^ x.len := by
  rw [State.fld_lockEnded, State.fld_setFlds_of_mem h hx (lockEndWrites_apart p rejected) hv]

theorem State.lockEnded_frees {s : State} (h : s.regs.file.Pairwise fun x y => x.1 < y.1) (p rejected : Nat) :
    (s.lockEnded p rejected).flag (F.parLockHeld p) = false ∧ (s.lockEnded p rejected).fld (F.parLockOwner p) = 31 ∧
      (s.lockEnded p rejected).flag (F.parLockRejected p) = (rejected % 2 == 1) := by
  refine ⟨?_, ?_, ?_⟩
  · rw [State.flag, State.lockEnded_reads (v := 0) h p rejected (by simp [F.parLockHeld]) (by simp [lockEndWrites])]
    rfl
  · rw [State.lockEnded_reads (v := 31) h p rejected (by simp [F.parLockOwner]) (by simp [lockEndWrites])]
    rfl
  · rw [State.flag, State.lockEnded_reads (v := rejected) h p rejected (by simp [F.parLockRejected]) (by simp [lockEndWrites])]
    rfl

/-- The Prompter's lock of a partition, with values staged. -/
def State.sharesStaged (s : State) (p : Nat) (x y : Word32) : State :=
  let t := s.takeLock p .prompter
  t.setPartition p { t.partition p with staging := { shares := some x, prio := some y } }

section

variable {s : State} {p : Nat}

theorem State.word_takeLock {r : Reg} (hr : r.addr ≠ (Reg.parLock p).addr) (who : Requester) : (s.takeLock p who).word r = s.word r := by
  unfold State.takeLock
  split
  · rfl
  · split
    · rw [State.setPartition_word, State.word_setFld_ne _ hr, State.word_setFld_ne _ hr, State.word_setFld_ne _ hr]
    · rfl

theorem State.sharesStaged_canonical (h : s.canonical) (p : Nat) (x y : Word32) : (s.sharesStaged p x y).canonical :=
  State.setPartition_canonical ((State.takeLock_keeps p .prompter (Keeps.refl s)).canonical h) p rfl

theorem State.word_sharesStaged {r : Reg} (hr : r.addr ≠ (Reg.parLock p).addr) (x y : Word32) : (s.sharesStaged p x y).word r = s.word r := by
  rw [State.sharesStaged, State.setPartition_word, State.word_takeLock hr]

theorem State.staging_sharesStaged (h : s.canonical) (p : Nat) (x y : Word32) :
    ((s.sharesStaged p x y).partition p).staging = { shares := some x, prio := some y } := by
  rw [State.sharesStaged, State.partition_setPartition_same ((State.takeLock_keeps p .prompter (Keeps.refl s)).canonical h)]

theorem State.word_configChanged {r : Reg} (hr : r.addr ≠ Reg.crcStatus.addr) : s.configChanged.word r = s.word r := by
  unfold State.configChanged
  split
  · exact State.word_setFld_ne (s := s.setConfig _) _ hr
  · rfl

/-- A set of a share or a priority that is not legal is rejected. -/
theorem State.commitLock_of_illegal {x y : Word32} (hst : (s.partition p).staging = { shares := some x, prio := some y })
    (hbad : sharesOk x = false ∨ prioOk y = false) : s.commitLock p = s.lockEnded p 1 := by
  have hgood : (sharesOk x && prioOk y) = false := by rwa [Bool.and_eq_false_iff]
  simp only [State.commitLock, hst, Option.map_some, Option.getD_some, hgood, Bool.false_eq_true, if_false]
  rfl

/-- A set of both, legal, stands in the registers before the lock's end. -/
def State.sharesApplied (s : State) (p : Nat) (x y : Word32) : State := ((s.setWord (.parShares p) x).setWord (.parPrio p) y).configChanged

theorem State.commitLock_of_shares {x y : Word32} (hst : (s.partition p).staging = { shares := some x, prio := some y })
    (hx : sharesOk x = true) (hy : prioOk y = true) : s.commitLock p = (s.sharesApplied p x y).lockEnded p 0 := by
  rw [State.commitLock_of_legal hst (fun _ h => Option.some.inj h ▸ hx) (fun _ h => Option.some.inj h ▸ hy)]
  rfl

theorem State.sharesApplied_words (h : s.canonical) (hp : p < 16) (x y : Word32) :
    (s.sharesApplied p x y).canonical ∧ (s.sharesApplied p x y).word (.parShares p) = x ∧ (s.sharesApplied p x y).word (.parPrio p) = y := by
  have hone : (s.setWord (.parShares p) x).canonical := (Keeps.setWord _ _ (Keeps.refl s)).canonical h
  have hshares : (Reg.parShares p).addr ≠ Reg.crcStatus.addr := by simp only [Reg.addr]; omega
  have hprio : (Reg.parPrio p).addr ≠ Reg.crcStatus.addr := by simp only [Reg.addr]; omega
  have hapart : (Reg.parShares p).addr ≠ (Reg.parPrio p).addr := by simp only [Reg.addr]; omega
  refine ⟨(State.configChanged_keeps (Keeps.setWord _ _ (Keeps.refl _))).canonical hone, ?_, ?_⟩
  · rw [State.sharesApplied, State.word_configChanged hshares, State.word_setWord_other _ _ _ _ hone.regs.1.1 hapart,
      State.word_setWord_same _ _ _ h.regs.1.1]
  · rw [State.sharesApplied, State.word_configChanged hprio, State.word_setWord_same _ _ _ hone.regs.1.1]

end

section

variable {s : State} {b : Nat}

variable (hp : s.arg0 b < 16)

include hp

theorem State.doSharesSet_of_disabled (hen : s.flag (F.parCtrlEn (s.arg0 b)) = false) :
    let sh := (Reg.parShares (s.arg0 b)).held (s.arg1 b)
    let pr := (Reg.parPrio (s.arg0 b)).held (s.arg1 b / 2 ^ 32)
    s.doSharesSet b = if (sharesOk sh && prioOk pr) = true then
        ((s.drawNat.2.setWord (.parShares (s.arg0 b)) sh).setWord (.parPrio (s.arg0 b)) pr).configChanged.respondOk b
          (s.drawNat.1 % 2 ^ 64) []
      else s.respond b stInvalid := (if_neg (by omega)).trans (if_pos hen)

variable (hen : s.flag (F.parCtrlEn (s.arg0 b)) = true)

include hen

theorem State.doSharesSet_of_held (hheld : s.flag (F.parLockHeld (s.arg0 b)) = true) :
    s.doSharesSet b = s.respondBusy b (s.fld (F.parLockLeaseLeft (s.arg0 b))) :=
  (if_neg (by omega)).trans ((if_neg (by simp [hen])).trans (if_pos hheld))

theorem State.doSharesSet_of_free (hheld : s.flag (F.parLockHeld (s.arg0 b)) = false) : s.doSharesSet b =
    let sh := (Reg.parShares (s.arg0 b)).held (s.arg1 b)
    let pr := (Reg.parPrio (s.arg0 b)).held (s.arg1 b / 2 ^ 32)
    let u := (s.drawNat.2.sharesStaged (s.arg0 b) sh pr).commitLock (s.arg0 b)
    if u.flag (F.parLockRejected (s.arg0 b)) = true then u.respond b stInvalid else u.respondOk b s.freeResult.1 [] :=
  (if_neg (by omega)).trans ((if_neg (by simp [hen])).trans (if_neg (by simp [hheld])))

end

/-- What the sequence of SHARES_SET leaves of the partition's registers: the lock free, REJECTED as judged, and the values of a legal set. -/
theorem State.sharesCommitted {s : State} (h : s.canonical) {p : Nat} (hp : p < 16) (x y : Word32) :
    let u := (s.sharesStaged p x y).commitLock p
    u.flag (F.parLockHeld p) = false ∧ u.fld (F.parLockOwner p) = 31 ∧
      (sharesOk x = true → prioOk y = true → u.word (.parShares p) = x ∧ u.word (.parPrio p) = y ∧ u.flag (F.parLockRejected p) = false) ∧
      (sharesOk x = false ∨ prioOk y = false → u.word (.parShares p) = s.word (.parShares p) ∧ u.word (.parPrio p) = s.word (.parPrio p) ∧
        u.flag (F.parLockRejected p) = true) := by
  have hstaged := State.sharesStaged_canonical h p x y
  have hst := State.staging_sharesStaged h p x y
  have hshares : (Reg.parShares p).addr ≠ (Reg.parLock p).addr := by simp only [Reg.addr]; omega
  have hprio : (Reg.parPrio p).addr ≠ (Reg.parLock p).addr := by simp only [Reg.addr]; omega
  by_cases hlegal : sharesOk x = true ∧ prioOk y = true
  · obtain ⟨hx, hy⟩ := hlegal
    obtain ⟨happlied, hwx, hwy⟩ := State.sharesApplied_words hstaged hp x y
    obtain ⟨hheld, howner, hrejected⟩ := State.lockEnded_frees happlied.regs.1.1 p 0
    rw [State.commitLock_of_shares hst hx hy]
    refine ⟨hheld, howner, fun _ _ => ⟨?_, ?_, hrejected⟩, fun hbad => ?_⟩
    · rw [State.word_lockEnded _ _ _ hshares, hwx]
    · rw [State.word_lockEnded _ _ _ hprio, hwy]
    · simp [hx, hy] at hbad
  · have hbad : sharesOk x = false ∨ prioOk y = false := by
      rwa [not_and_or, Bool.not_eq_true, Bool.not_eq_true] at hlegal
    obtain ⟨hheld, howner, hrejected⟩ := State.lockEnded_frees hstaged.regs.1.1 p 1
    rw [State.commitLock_of_illegal hst hbad]
    refine ⟨hheld, howner, fun hx hy => absurd ⟨hx, hy⟩ hlegal, fun _ => ⟨?_, ?_, hrejected⟩⟩
    · rw [State.word_lockEnded _ _ _ hshares, State.word_sharesStaged hshares]
    · rw [State.word_lockEnded _ _ _ hprio, State.word_sharesStaged hprio]

/-! ## The statement -/

/-- Settles O52: the rows by what the mailbox's command is, the commands one by one. -/
theorem serviceRowsComplete : Obligations.ServiceRowsComplete := by
  refine ⟨fun s box row op f hrow hrun hcores => ?rows, responsesAct,
    fun s b result full => ⟨fun h => State.answer_whole h result, fun hb hlen => State.answer_piece hb hlen result⟩,
    fun s b => ⟨_, _, rfl⟩, fun s b hk => ⟨fun hb hlen halign => ?ledgerHost, fun hb => ?ledgerSideband⟩,
    fun s b h => ⟨_, _, _, State.doChannelReport_of_channel h⟩, fun s b h => ⟨_, _, _, State.doPortMargin_of_port h⟩,
    fun s b hlen halign => ⟨_, _, State.doImageWrite_of_body hlen halign⟩,
    fun s b => ⟨s.free + 1, s.freeResult.1, fun hb halign => ?logHost, ?logSideband⟩,
    fun s b h => State.doTelemCfg_of_illegal h, fun s b haddr hlow hhigh => ⟨_, _, State.doTelemCfg_of_legal haddr hlow hhigh⟩,
    fun s b hp hen => ⟨fun h => ?illegal, fun h => ?legal⟩, fun s b hp hen hheld => State.doSharesSet_of_held hp hen hheld,
    fun s b hs hp hen hheld => ?shares,
    fun s b => ⟨State.doChannelReport_of_none, State.doPortMargin_of_none, State.doLedgerRead_of_no_slot⟩⟩
  case rows =>
    obtain ⟨hexec, hop⟩ := exec_of_mem_serviceRows hrow hrun
    rw [hexec]
    refine ⟨fun hclaimed hc hallow => ?_, fun hclaimed hc hallow => ?_, fun hclaimed hc => ?_, fun hclaimed hnext hrepairs hc => ?_⟩
    · rw [State.serve_of_claimed hcores hclaimed, hc]
      simp [hop, hallow]
    · rw [State.serve_of_claimed hcores hclaimed, hc]
      simp [hop, hallow]
    · rw [State.serve_of_claimed hcores hclaimed]
      exact congrArg _ (if_pos hc)
    · rw [State.serve_of_next hcores hclaimed hnext hrepairs hc, State.claim_eq, hc]
  case ledgerHost => rw [State.doLedgerRead_of_slot hk (.inr hlen), State.answerBulk_host hb halign]
  case ledgerSideband => rw [State.doLedgerRead_of_slot hk (.inl hb), State.answerBulk_sideband hb]
  case logHost => exact State.answerBulk_host (s := s.setFree (s.free + 1)) hb halign _
  case logSideband => exact fun hb => State.answerBulk_sideband (s := s.setFree (s.free + 1)) hb _
  case illegal => exact (State.doSharesSet_of_disabled hp hen).trans (if_neg (Bool.eq_false_iff.mp h))
  case legal => exact (State.doSharesSet_of_disabled hp hen).trans (if_pos h)
  case shares =>
    obtain ⟨hfree, howner, hgood, hbad⟩ := State.sharesCommitted (s := s.drawNat.2) ((Keeps.setFree _ (Keeps.refl s)).canonical hs) hp
      ((Reg.parShares (s.arg0 b)).held (s.arg1 b)) ((Reg.parPrio (s.arg0 b)).held (s.arg1 b / 2 ^ 32))
    have hset := State.doSharesSet_of_free hp hen hheld
    refine ⟨_, s.freeResult.1, hfree, howner, fun hx hy => ?_, fun h => ?_⟩
    · obtain ⟨hshares, hprio, hrejected⟩ := hgood hx hy
      exact ⟨hshares, hprio, hrejected, hset.trans (if_neg (Bool.eq_false_iff.mp hrejected))⟩
    · obtain ⟨hshares, hprio, hrejected⟩ := hbad h
      exact ⟨hshares, hprio, hset.trans (if_pos hrejected)⟩

end Sys2Proof.Machine
end

section
/-!
Proofs about the Prompter itself (R291, R336, R337, R340, R343, R344): its telemetry pages, its watchdog, its boot and its repair queue.
-/

namespace Sys2Proof.Machine

/-! ## Telemetry (R343) -/

/-- A page of telemetry is fresh: STALE and AGE_MS of its register read 0, where it has one. -/
def State.telemFresh (s : State) (b : Nat) : State :=
  s.when (b < 17) (·.setFlds [(F.pmtTelemStatStale b, 0), (F.pmtTelemStatAgeMs b, 0)])

/-- A telemetry page of a period, written: its bytes in host memory, its sequence number, and its age 0. -/
theorem State.writeTelem_eq {s : State} {b : Nat} (hcores : s.prom.cores = .running) (hperiod : (s.box b).telemPeriod ≠ 0) (all : Bool) :
    ∃ n m, s.writeTelem b all = (((s.setFree n).setMem { s.mem with host := m }).setBox b
      { s.box b with telemSeq := (s.box b).telemSeq + 1, pageStale := !all }).telemFresh b := by
  rw [State.writeTelem, if_neg (by simp [hcores, hperiod])]
  exact ⟨_, _, rfl⟩

theorem State.prom_setFlds (s : State) (l : List (Fld × Nat)) : (s.setFlds l).prom = s.prom := by
  obtain ⟨v, h⟩ := s.setFlds_eq_setRegs l
  rw [h, State.setRegs_prom]

theorem State.box_telemFresh (s : State) (b c : Nat) : (s.telemFresh b).box c = s.box c := by
  rw [State.box, State.box, State.telemFresh, State.view_when State.prom (State.prom_setFlds s _)]

theorem State.telemFresh_reads {s : State} (h : s.regs.file.Pairwise fun x y => x.1 < y.1) {b : Nat} (hb : b < 17) :
    (s.telemFresh b).flag (F.pmtTelemStatStale b) = false ∧ (s.telemFresh b).fld (F.pmtTelemStatAgeMs b) = 0 := by
  have hapart : ([(F.pmtTelemStatStale b, 0), (F.pmtTelemStatAgeMs b, 0)].map (·.1)).Pairwise fun x z => z.Apart x := by
    simp [Fld.Apart, F.pmtTelemStatStale, F.pmtTelemStatAgeMs]
  rw [State.telemFresh, State.when, if_pos hb, State.flag,
    State.fld_setFlds_of_mem (v := 0) h (by simp [F.pmtTelemStatStale]) hapart (by simp),
    State.fld_setFlds_of_mem (v := 0) h (by simp [F.pmtTelemStatAgeMs]) hapart (by simp)]
  exact ⟨by simp, by simp⟩

theorem State.writeTelem_leaves {s : State} (hs : s.canonical) {b : Nat} (hcores : s.prom.cores = .running)
    (hperiod : (s.box b).telemPeriod ≠ 0) (all : Bool) : ((s.writeTelem b all).box b).telemSeq = (s.box b).telemSeq + 1 ∧
      ((s.writeTelem b all).box b).pageStale = !all ∧
      (b < 17 → (s.writeTelem b all).flag (F.pmtTelemStatStale b) = false ∧ (s.writeTelem b all).fld (F.pmtTelemStatAgeMs b) = 0) := by
  obtain ⟨n, m, h⟩ := State.writeTelem_eq hcores hperiod all
  obtain ⟨u, hu⟩ : ∃ u, u = ((s.setFree n).setMem { s.mem with host := m }).setBox b
    { s.box b with telemSeq := (s.box b).telemSeq + 1, pageStale := !all } := ⟨_, rfl⟩
  have hbox : u.box b = { s.box b with telemSeq := (s.box b).telemSeq + 1, pageStale := !all } :=
    hu ▸ tblGet_tblSet_same _ _ _ _ hs.prom.1.1
  have hregs : u.regs.file.Pairwise fun x y => x.1 < y.1 := hu ▸ hs.regs.1.1
  rw [h, ← hu, State.box_telemFresh, hbox]
  exact ⟨rfl, rfl, fun hb => State.telemFresh_reads hregs hb⟩

/-- TELEM_STALE. -/
theorem exec_telemStale {s : State} (hrun : s.running = true) : exec .telemStale s = .next (s.over (List.range 17) fun s b =>
    if (s.box b).telemPeriod ≠ 0 ∧ 2 * (s.box b).telemPeriod ≤ s.fld (F.pmtTelemStatAgeMs b) then s.setFld (F.pmtTelemStatStale b) 1
    else s) := next_clocked hrun State.markStale

/-! ## What the watchdog is judged by (R291, R344) -/

/-- The cores, the resets so far, and the cue. -/
def State.watch (s : State) : PromState × List Nat × Nat := (s.prom.cores, s.prom.resets, s.time.cue)

theorem State.recentResets_of_watch {s t : State} (h : t.watch = s.watch) : t.recentResets = s.recentResets := by
  obtain ⟨-, hresets, hcue⟩ : t.prom.cores = s.prom.cores ∧ t.prom.resets = s.prom.resets ∧ t.time.cue = s.time.cue := by
    simpa [State.watch] using h
  rw [State.recentResets, State.recentResets, hresets, hcue]

section

variable (s : State)

theorem State.watch_pageWrite (b off : Nat) (bs : Bytes) : (s.pageWrite b off bs).watch = s.watch := by
  obtain ⟨v, h⟩ | ⟨v, h⟩ := s.pageWrite_cases b off bs
  all_goals
    rw [h]
    rfl

theorem State.watch_setFlds (l : List (Fld × Nat)) : (s.setFlds l).watch = s.watch := by
  obtain ⟨v, h⟩ := s.setFlds_eq_setRegs l
  rw [h]
  rfl

theorem State.watch_setFld (x : Fld) (v : Nat) : (s.setFld x v).watch = s.watch := rfl

theorem State.watch_boxDone (b : Nat) : (s.boxDone b).watch = s.watch := State.watch_setFlds s _

theorem State.watch_respond (b status : Nat) : (s.respond b status).watch = s.watch := by
  rw [State.respond_eq, State.view_boxVector State.watch (fun _ _ => rfl), State.watch_boxDone, State.boxStatus, State.watch_pageWrite]

theorem State.watch_msix (fn entry : Nat) : (s.msix fn entry).watch = s.watch := by
  rw [State.msix_eq]
  split <;> rfl

theorem State.watch_raiseEvent (p code : Nat) : (s.raiseEvent p code).watch = s.watch := by
  unfold State.raiseEvent State.raiseVector
  dsimp only
  split
  · rfl
  · split
    · exact State.watch_msix _ _ _
    · rfl

theorem State.watch_dropStaging (p : Nat) : (s.dropStaging p).watch = s.watch := rfl

theorem State.watch_loseLock (p : Nat) : (s.loseLock p).watch = s.watch := by
  obtain ⟨-, h⟩ | h := s.loseLock_cases p
  · rw [h]
  · rw [h, State.watch_raiseEvent, State.watch_setFlds, State.watch_dropStaging]

theorem State.watch_eventWrite (code unit detail cue : Nat) : (s.eventWrite code unit detail cue).watch = s.watch := by
  unfold State.eventWrite
  dsimp only
  split
  · exact State.watch_setFld _ _ _
  · split <;> simp -implicitDefEqProofs [State.watch, State.writeHost]

theorem State.watch_raiseGlobal (code unit : Nat) : (s.raiseGlobal code unit).watch = s.watch := by
  have hsend : ∀ t : State, ((t.msix 0 0).emit .inband).watch = t.watch := fun t => State.watch_msix t 0 0
  unfold State.raiseGlobal
  dsimp only
  rw [hsend]
  split
  · exact State.watch_eventWrite _ _ _ _ _
  · split
    · rfl
    · split <;> rfl

theorem State.watch_shepEvent (code unit : Nat) : (s.shepEvent code unit).watch = s.watch := by
  unfold State.shepEvent
  dsimp only
  split
  · exact State.watch_raiseGlobal _ _ _
  · rfl

end

/-! ## Claimed commands aborted (R340) -/

/-- A LEDGER_READ that is aborted leaves its buffer undefined. -/
def State.bufferLost (s : State) (b : Nat) : State :=
  if (s.box b).command = 3 ∧ b ≠ 17 then
    (s.drawBytes (min 258128 (s.bufLen b))).2.writeHost (s.boxFn b) (s.bufAt b) (s.drawBytes (min 258128 (s.bufLen b))).1
  else s

section

variable {s : State} {b : Nat}

theorem State.abortBox_of_idle (h : s.flag (F.pmtMbxStatClaimed b) = false) : s.abortBox b = s := if_pos h

theorem State.abortBox_of_claimed (h : s.flag (F.pmtMbxStatClaimed b) = true) : s.abortBox b = (s.bufferLost b).respond b stAborted :=
  if_neg (by simp [h])

theorem State.bufferLost_eq (s : State) (b : Nat) : s.bufferLost b = s ∨
    ∃ n m, s.bufferLost b = (s.setFree n).setMem { s.mem with host := m } := by
  unfold State.bufferLost
  split
  · exact .inr ⟨_, _, rfl⟩
  · exact .inl rfl

theorem State.bufferLost_canonical (h : s.canonical) : (s.bufferLost b).canonical := by
  unfold State.bufferLost
  split
  · exact (State.writeHost_keeps _ _ _ (State.drawBytes_keeps _ (Keeps.refl s))).canonical h
  · exact h

theorem State.view_bufferLost {α : Type} (view : State → α) (h : ∀ n m, view ((s.setFree n).setMem m) = view s) :
    view (s.bufferLost b) = view s := by
  obtain he | ⟨n, m, he⟩ := s.bufferLost_eq b
  · rw [he]
  · rw [he, h]

theorem State.watch_abortBox (s : State) (b : Nat) : (s.abortBox b).watch = s.watch := by
  cases h : s.flag (F.pmtMbxStatClaimed b)
  · rw [State.abortBox_of_idle h]
  · rw [State.abortBox_of_claimed h, State.watch_respond, State.view_bufferLost State.watch fun _ _ => rfl]

theorem State.fld_respond {x : Fld} (hx : x.reg.addr ≠ (Reg.pmtMbxStat b).addr) (status : Nat) : (s.respond b status).fld x = s.fld x := by
  rw [State.respond_eq, State.view_boxVector (State.fld · x) (fun _ _ => rfl), State.fld_of_word (State.word_boxDone hx), State.boxStatus,
    State.fld_pageWrite]

theorem State.fld_abortBox {x : Fld} (hx : x.reg.addr ≠ (Reg.pmtMbxStat b).addr) : (s.abortBox b).fld x = s.fld x := by
  cases h : s.flag (F.pmtMbxStatClaimed b)
  · rw [State.abortBox_of_idle h]
  · rw [State.abortBox_of_claimed h, State.fld_respond hx, State.view_bufferLost (State.fld · x) fun _ _ => rfl]

/-- The mailboxes' registers stand at places of their own. -/
theorem pmtMbxStat_addr_ne {b c : Nat} (hb : b < 18) (hc : c < 18) (h : b ≠ c) : (Reg.pmtMbxStat b).addr ≠ (Reg.pmtMbxStat c).addr := by
  simp only [Reg.addr, pmtBase]
  split <;> split <;> (try split) <;> (try split) <;> omega

/-- Mailbox b has no claimed command, and is DONE if it had one in a. -/
structure Aborted (a : State) (b : Nat) (t : State) : Prop where
  canonical : t.canonical
  claimed : t.flag (F.pmtMbxStatClaimed b) = false
  done : a.flag (F.pmtMbxStatClaimed b) = true → t.flag (F.pmtMbxStatDone b) = true

theorem Aborted.of_flds {a t u : State} (h : Aborted a b t) (hu : u.canonical) (hfld : ∀ x : Fld, x.reg = .pmtMbxStat b → x.lo + x.len ≤ 32 →
    u.fld x = t.fld x) : Aborted a b u where
  canonical := hu
  claimed := by rw [State.flag, hfld _ rfl (by simp [F.pmtMbxStatClaimed]), ← State.flag, h.claimed]
  done ha := by rw [State.flag, hfld _ rfl (by simp [F.pmtMbxStatDone]), ← State.flag, h.done ha]

theorem State.abortBox_aborted {a : State} (h : s.canonical) (hflag : s.flag (F.pmtMbxStatClaimed b) = a.flag (F.pmtMbxStatClaimed b)) :
    Aborted a b (s.abortBox b) := by
  cases hclaimed : s.flag (F.pmtMbxStatClaimed b)
  · rw [State.abortBox_of_idle hclaimed]
    exact ⟨h, hclaimed, fun ha => absurd (hflag.trans ha) (Bool.eq_false_iff.mp hclaimed)⟩
  · have hlost := State.bufferLost_canonical (b := b) h
    obtain ⟨hdone, -, hfree, -⟩ := State.respond_answered (b := b) hlost (status := stAborted) (by decide)
    rw [State.abortBox_of_claimed hclaimed]
    exact ⟨(State.respond_keeps _ _ (Keeps.refl _)).canonical hlost, hfree, fun _ => hdone⟩

theorem State.over_abortBox_aborted (h : s.canonical) (hb : b < 18) : Aborted s b (s.over (List.range 18) State.abortBox) := by
  have hcanon : ∀ (t : State) (c : Nat), t.canonical → (t.abortBox c).canonical := fun t c ht =>
    (State.abortBox_keeps c (Keeps.refl t)).canonical ht
  have hother : ∀ (t : State), ∀ c ∈ List.range 18, c ≠ b → ∀ x : Fld, x.reg = .pmtMbxStat b → (t.abortBox c).fld x = t.fld x :=
    fun t c hc hne x hx => State.fld_abortBox (hx ▸ pmtMbxStat_addr_ne hb (List.mem_range.mp hc) hne.symm)
  refine State.over_of_mem (I := fun t => t.canonical ∧ t.flag (F.pmtMbxStatClaimed b) = s.flag (F.pmtMbxStatClaimed b)) List.nodup_range
    (List.mem_range.mpr hb) (fun t c hc hne ht => ⟨hcanon t c ht.1, ?_⟩) (fun t ht => State.abortBox_aborted ht.1 ht.2)
    (fun t c hc hne ht => ht.of_flds (hcanon t c ht.canonical) fun x hx _ => hother t c hc hne x hx) ⟨h, rfl⟩
  rw [State.flag, hother t c hc hne _ rfl, ← State.flag, ht.2]

end

/-! ## The watchdog runs out (R291, R340) -/

/-- The cores reset, or held with the fourth reset in an hour. -/
def State.coresReset (s : State) (stay : Bool) : State :=
  s.setProm { s.prom with cores := if stay then .held else .reset, resets := s.prom.resets ++ [s.time.cue] }

/-- SHP.WDOG after that. -/
def State.wdogShown (s : State) (stay : Bool) : State :=
  (s.setFld F.shpWdogResets (sat 255 s.recentResets)).when (stay = true) (·.setFld F.shpWdogHeld 1)

/-- The Prompter's locks lost, and the event. -/
def State.prompterLost (s : State) : State :=
  (s.over ((List.range 16).filter fun p => s.fld (F.parLockOwner p) == 17) State.loseLock).shepEvent 0x7006

section

variable {s : State}

theorem State.watchdog_of_due (hcores : s.prom.cores = .running) (hdue : s.prom.lastKick + 1000 * s.fld F.shpWdogTimeout ≤ s.time.cue) :
    s.watchdog = (((s.coresReset (decide (3 ≤ s.recentResets))).wdogShown (decide (3 ≤ s.recentResets))).over (List.range 18)
      State.abortBox).prompterLost := by
  rw [State.watchdog, if_pos ⟨hcores, hdue⟩]
  rfl

theorem State.fld_coresReset (stay : Bool) (x : Fld) : (s.coresReset stay).fld x = s.fld x := rfl

theorem State.coresReset_canonical (h : s.canonical) (stay : Bool) : (s.coresReset stay).canonical :=
  (Keeps.setProm (s.coresReset stay).prom (Keeps.refl s) fun c => c).canonical h

theorem State.watch_wdogShown (s : State) (stay : Bool) : (s.wdogShown stay).watch = s.watch := by
  rw [State.wdogShown, State.view_when State.watch (State.watch_setFld _ _ _), State.watch_setFld]

theorem State.watch_prompterLost (s : State) : s.prompterLost.watch = s.watch := by
  rw [State.prompterLost, State.watch_shepEvent, State.view_over State.watch State.watch_loseLock]

theorem State.watch_watchdog (hcores : s.prom.cores = .running) (hdue : s.prom.lastKick + 1000 * s.fld F.shpWdogTimeout ≤ s.time.cue) :
    s.watchdog.watch = (s.coresReset (decide (3 ≤ s.recentResets))).watch := by
  rw [State.watchdog_of_due hcores hdue, State.watch_prompterLost, State.view_over State.watch State.watch_abortBox, State.watch_wdogShown]

theorem State.wdogShown_canonical (h : s.canonical) (stay : Bool) : (s.wdogShown stay).canonical := by
  unfold State.wdogShown State.when
  split
  · exact (State.setFld_keeps _ _ (State.setFld_keeps _ _ (Keeps.refl s))).canonical h
  · exact (State.setFld_keeps _ _ (Keeps.refl s)).canonical h

/-- SHP.WDOG.RESETS counts, and HELD is set with the fourth reset. -/
theorem State.wdogShown_reads (h : s.canonical) (stay : Bool) : (s.wdogShown stay).fld F.shpWdogResets = min 255 s.recentResets ∧
    (stay = true → (s.wdogShown stay).flag F.shpWdogHeld = true) := by
  have hcount : (s.setFld F.shpWdogResets (sat 255 s.recentResets)).fld F.shpWdogResets = min 255 s.recentResets := by
    rw [State.fld_setFld_same _ _ _ h.regs.1.1 (by decide)]
    exact Nat.mod_eq_of_lt (Nat.lt_of_le_of_lt (Nat.min_le_left _ _) (by decide))
  have hset := ((State.setFld_keeps F.shpWdogResets (sat 255 s.recentResets) (Keeps.refl s)).canonical h).regs.1.1
  cases stay
  · exact ⟨hcount, nofun⟩
  · refine ⟨?_, fun _ => State.flag_setFld_same hset (by decide) 1⟩
    have hapart : F.shpWdogHeld.Apart F.shpWdogResets := .inr ⟨rfl, .inr (by decide)⟩
    rw [State.wdogShown, State.when, if_pos rfl, State.fld_setFld_of_apart hset (by decide) hapart, hcount]

theorem pmtMbxStat_addr_ne_shpWdog (b : Nat) : (Reg.pmtMbxStat b).addr ≠ Reg.shpWdog.addr := by
  simp only [Reg.addr, pmtBase]
  split <;> (try split) <;> omega

theorem State.fld_wdogShown {x : Fld} (hx : x.reg.addr ≠ Reg.shpWdog.addr) (stay : Bool) : (s.wdogShown stay).fld x = s.fld x := by
  rw [State.wdogShown, State.view_when (State.fld · x) (State.fld_setFld_ne _ hx), State.fld_setFld_ne _ hx]

/-- A register that the loss of the Prompter's locks and its event leave. -/
def Reg.keptWhenLost (r : Reg) : Prop := r = .shpWdog ∨ ∃ b < 18, r = .pmtMbxStat b

theorem Reg.keptWhenLost.addr_ne {r : Reg} (h : r.keptWhenLost) {p : Nat} (hp : p < 16) : (Reg.parLock p).addr ≠ r.addr ∧
    (Reg.parStatus p).addr ≠ r.addr ∧ r.Unlogged := by
  obtain rfl | ⟨b, hb, rfl⟩ := h
  · simp only [Reg.Unlogged, Reg.addr]
    omega
  · simp only [Reg.Unlogged, Reg.addr, pmtBase]
    split <;> (try split) <;> omega

theorem State.over_loseLock_leaves {l : List Nat} (hl : ∀ p ∈ l, p < 16) (h : s.canonical) : (s.over l State.loseLock).canonical ∧
    ∀ x : Fld, x.lo + x.len ≤ 32 → x.reg.keptWhenLost → (s.over l State.loseLock).fld x = s.fld x := by
  refine State.over_induct (P := fun t => t.canonical ∧ ∀ x : Fld, x.lo + x.len ≤ 32 → x.reg.keptWhenLost → t.fld x = s.fld x)
    (fun t p hp ht => ?_) ⟨h, fun _ _ _ => rfl⟩
  refine ⟨(State.loseLock_keeps p (Keeps.refl t)).canonical ht.1, fun x hx hkept => ?_⟩
  obtain ⟨hlock, hstatus, -⟩ := hkept.addr_ne (hl p hp)
  rw [State.fld_loseLock ht.1 hx hlock (.inl hstatus), ht.2 x hx hkept]

/-- Locks lost and the event leave SHP.WDOG and the mailboxes' STAT. -/
theorem State.prompterLost_leaves (h : s.canonical) : s.prompterLost.canonical ∧ ∀ x : Fld, x.lo + x.len ≤ 32 → x.reg.keptWhenLost →
    s.prompterLost.fld x = s.fld x := by
  obtain ⟨hcanonical, hfld⟩ := State.over_loseLock_leaves (l := (List.range 16).filter fun p => s.fld (F.parLockOwner p) == 17)
    (fun p hp => List.mem_range.mp (List.mem_of_mem_filter hp)) h
  have hevent := State.shepEvent_logsOnly (s.over ((List.range 16).filter fun p => s.fld (F.parLockOwner p) == 17) State.loseLock) 0x7006 0
  exact ⟨hevent.keeps.canonical hcanonical, fun x hx hkept =>
    (hevent.fld_of_unlogged (hkept.addr_ne (p := 0) (by decide)).2.2).trans (hfld x hx hkept)⟩

theorem State.fld_over_abortBox {x : Fld} (hx : x.reg = .shpWdog) (l : List Nat) : (s.over l State.abortBox).fld x = s.fld x :=
  State.view_over (State.fld · x) (fun _ b => State.fld_abortBox (hx ▸ (pmtMbxStat_addr_ne_shpWdog b).symm)) s l

/-- SHP.WDOG and the mailboxes' STAT after the watchdog ran out. -/
theorem State.watchdog_reads (h : s.canonical) (hcores : s.prom.cores = .running)
    (hdue : s.prom.lastKick + 1000 * s.fld F.shpWdogTimeout ≤ s.time.cue) : s.watchdog.fld F.shpWdogResets = min 255 s.watchdog.recentResets ∧
    (3 ≤ s.recentResets → s.watchdog.flag F.shpWdogHeld = true) ∧ ∀ b < 18, s.watchdog.flag (F.pmtMbxStatClaimed b) = false ∧
      (s.flag (F.pmtMbxStatClaimed b) = true → s.watchdog.flag (F.pmtMbxStatDone b) = true) := by
  have hrecent := State.recentResets_of_watch (State.watch_watchdog hcores hdue)
  obtain ⟨r, hr⟩ : ∃ r, r = s.coresReset (decide (3 ≤ s.recentResets)) := ⟨_, rfl⟩
  obtain ⟨u, hu⟩ : ∃ u, u = r.wdogShown (decide (3 ≤ s.recentResets)) := ⟨_, rfl⟩
  obtain ⟨v, hv⟩ : ∃ v, v = u.over (List.range 18) State.abortBox := ⟨_, rfl⟩
  have hrc : r.canonical := hr ▸ State.coresReset_canonical h _
  have huc : u.canonical := hu ▸ State.wdogShown_canonical hrc _
  obtain ⟨hcount, hheld⟩ := hu ▸ State.wdogShown_reads hrc (decide (3 ≤ s.recentResets))
  have hbox : ∀ b < 18, Aborted u b v := fun b hb => hv ▸ State.over_abortBox_aborted huc hb
  obtain ⟨hcanonical, hlost⟩ := State.prompterLost_leaves (hbox 0 (by decide)).canonical
  have hwdog : ∀ x : Fld, x.lo + x.len ≤ 32 → x.reg = .shpWdog → v.prompterLost.fld x = u.fld x := fun x hx hreg => by
    rw [hlost x hx (.inl hreg), hv, State.fld_over_abortBox hreg]
  rw [hrecent, State.watchdog_of_due hcores hdue, ← hr, ← hu, ← hv]
  refine ⟨by rw [hwdog _ (by decide) rfl, hcount], fun h3 => ?_, fun b hb => ?_⟩
  · rw [State.flag, hwdog _ (by decide) rfl]
    exact hheld (decide_eq_true h3)
  · obtain ⟨-, hclaimed, hdone⟩ := (hbox b hb).of_flds hcanonical fun x hreg hx => hlost x hx (.inr ⟨b, hb, hreg⟩)
    have hflag : u.flag (F.pmtMbxStatClaimed b) = s.flag (F.pmtMbxStatClaimed b) := by
      rw [hu, State.flag, State.fld_wdogShown (pmtMbxStat_addr_ne_shpWdog b), hr, State.fld_coresReset, ← State.flag]
    exact ⟨hclaimed, hflag ▸ hdone⟩

end

/-! ## The cores' boot and the repair queue (R336, R337, R344) -/

section

variable {s : State} (hrun : s.running = true)

include hrun

theorem exec_pmtKick_of_key {who : Requester} {v : Word32} (hwho : who = .prompter) (hkey : v.toNat % 256 = 0x5A)
    (hcores : s.prom.cores = .running) : exec (.pmtKick who v) s = .next (s.setProm { s.prom with lastKick := s.time.cue }) :=
  (next_clocked hrun (·.kick who v.toNat)).trans (congrArg _ (if_pos ⟨hwho, hkey, hcores⟩))

theorem exec_pmtKick_of_noKey {who : Requester} {v : Word32} (h : who ≠ .prompter ∨ v.toNat % 256 ≠ 0x5A) : exec (.pmtKick who v) s = .next s :=
  (next_clocked hrun (·.kick who v.toNat)).trans (congrArg _ (if_neg fun ⟨hwho, hkey, _⟩ => h.elim (· hwho) (· hkey)))

theorem exec_prompterResetRelease_of_reset (hcores : s.prom.cores = .reset) (hdue : s.prom.resets.getLastD 0 + 5000 ≤ s.time.cue) :
    exec .prompterResetRelease s = .next (s.setProm { s.prom with cores := .restarting }) :=
  (next_clocked hrun State.releaseCores).trans (congrArg _ (if_pos ⟨hcores, hdue⟩))

theorem exec_prompterBootDone : exec .prompterBootDone s = .next s.booted := next_clocked hrun State.booted

theorem exec_prompterBootDone_of_image (hcores : s.prom.cores = .booting) {k : Nat} (hbest : s.bestImage = some k) :
    exec .prompterBootDone s =
      .next (s.setProm { s.prom with activeImage := k, resident := true, cores := .running, lastKick := s.time.cue }) := by
  rw [exec_prompterBootDone hrun, State.booted, hcores, hbest]
  rfl

theorem exec_prompterBootDone_of_noImage (hcores : s.prom.cores = .booting) (hbest : s.bestImage = none) :
    exec .prompterBootDone s = .next ((s.setProm { s.prom with cores := .held }).setFld F.shpWdogHeld 1) := by
  rw [exec_prompterBootDone hrun, State.booted, hcores, hbest]

theorem exec_prompterBootDone_of_resident (hcores : s.prom.cores = .restarting) (hresident : s.prom.resident = true) :
    exec .prompterBootDone s = .next (s.setProm { s.prom with cores := .running, lastKick := s.time.cue }) := by
  rw [exec_prompterBootDone hrun, State.booted, hcores]
  exact congrArg _ (if_pos hresident)

theorem exec_repairWork_of_cons (hcores : s.prom.cores = .running) {u : RepairUnit} {l : List RepairUnit} (hrepairs : s.prom.repairs = u :: l) :
    ∃ t e, exec .repairWork s = .next t ∧ t.prom = { s.prom with repairs := l, log := s.prom.log ++ [e] } ∧ e.cue = s.time.cue ∧
      e.unit = u.number := by
  have hone : ∃ n e, s.repairOne = (s.setFree n).setProm { s.prom with repairs := l, log := s.prom.log ++ [e] } ∧ e.cue = s.time.cue ∧
      e.unit = u.number := by
    rw [State.repairOne, hrepairs]
    dsimp only
    rw [if_neg (by simp [hcores])]
    exact ⟨_, _, rfl, rfl, rfl⟩
  obtain ⟨n, e, hone, hcue, hunit⟩ := hone
  exact ⟨_, e, next_clocked hrun State.repairOne, by rw [hone]; rfl, hcue, hunit⟩

end

/-- Settles O53: each row is what its event makes of the state, and the watchdog's reset is followed through SHP.WDOG, the mailboxes, the
Prompter's locks and the event. -/
theorem prompterRowsComplete : Obligations.PrompterRowsComplete := by
  refine ⟨fun s box all hs hrun hcores hperiod => ?telemetry, fun s hrun => exec_telemStale hrun,
    fun s who v hrun => ⟨exec_pmtKick_of_key hrun, exec_pmtKick_of_noKey hrun⟩, fun s hrun hcores hdue => ?watchdog,
    fun s hrun => exec_prompterResetRelease_of_reset hrun, fun s hrun hcores => ⟨fun k => exec_prompterBootDone_of_image hrun hcores,
      exec_prompterBootDone_of_noImage hrun hcores⟩, fun s hrun => exec_prompterBootDone_of_resident hrun,
    fun s u l hrun hcores => exec_repairWork_of_cons hrun hcores⟩
  case telemetry =>
    exact ⟨_, next_clocked hrun (·.writeTelem (boxNo box) all), State.writeTelem_leaves hs hcores hperiod all⟩
  case watchdog =>
    have hwatch := State.watch_watchdog hcores hdue
    exact ⟨_, next_clocked hrun State.watchdog, (congrArg (·.1) hwatch).trans (by simp [State.watch, State.coresReset]),
      congrArg (·.2.1) hwatch, fun hs => State.watchdog_reads hs hcores hdue⟩

end Sys2Proof.Machine
end
